-- ==== Sys2Proof/Word.lean ====
section
/-! DEFINITION. The word types of the TK8 (spec 00 R2: byte, half, word, dword) and the plain
arithmetic on natural-number words that the encodings use. -/

namespace Sys2Proof

abbrev Byte := BitVec 8
abbrev W16 := BitVec 16
abbrev W32 := BitVec 32
abbrev W64 := BitVec 64
abbrev W128 := BitVec 128
abbrev W512 := BitVec 512

/-- Bits [lo + len - 1 : lo] of a word given as a natural number (spec 00 R1). -/
def fld (w lo len : Nat) : Nat := w / 2 ^ lo % 2 ^ len

end Sys2Proof
end

