-- ==== Sys2Proof/Syntax.lean ====
section
/-! DEFINITION. The syntax of the TK8's steps: one constructor of Instr per row of the table of
operations and events (spec/opcode_table.json). The first 161 are the instruction words of spec 04
(R69-R82); the others are the device's steps that have no word, with the data that says which of
them happens (which core, which request, what the outside world brings). -/

namespace Sys2Proof

/-- A predicate register p0-p7 (04 R72). -/
abbrev PReg := Fin 8
/-- A vector register v0-v31 (04 R72). -/
abbrev VReg := Fin 32
/-- An accumulator a0-a3 (04 R72). -/
abbrev Acc := Fin 4

/-- A register specifier (04 R71); the reserved codes 13-15 name no register. -/
inductive Reg where
  | g (n : Fin 8) | h0 | h1 | zr | fid | cid | s (n : Fin 16)
  deriving DecidableEq, Repr

/-- Access sizes .b .h .w .d (04 R72). -/
inductive Size where
  | b | h | w | d
  deriving DecidableEq, Repr

/-- Element sizes .w and .d of the forms whose other codes are reserved (04 R74). -/
inductive Esz where
  | w | d
  deriving DecidableEq, Repr

/-- Scopes (04 R72, 09 R218). -/
inductive Scope where
  | core | vly | dev | sys | dom
  deriving DecidableEq, Repr

/-- Number formats (04 R72). -/
inductive Fmt where
  | fp32 | fp16 | bf16 | t8 | e2m1 | int8 | int32 | int64
  deriving DecidableEq, Repr

/-- Variants of add and sub (05 R100): whole, .w, .ss, .us. -/
inductive SumVar where
  | n | w | ss | us
  deriving DecidableEq, Repr

/-- Variants of div and rem (05 R100): signed, .u, .w, .uw. -/
inductive DivVar where
  | n | u | w | uw
  deriving DecidableEq, Repr

/-- Variants of fsgn (05 R113): copy, .n, .x. -/
inductive SgnVar where
  | c | n | x
  deriving DecidableEq, Repr

/-- Conditions of pset (05 R108). -/
inductive ICond where
  | eq | ne | lt | ge | le | gt | ltu | geu | leu | gtu | tst | ntst
  deriving DecidableEq, Repr

/-- Conditions of fcmp (05 R114). -/
inductive FCond where
  | eq | ne | lt | le | gt | ge | un | ord
  deriving DecidableEq, Repr

/-- Operations of amo (04 R74). -/
inductive AmoOp where
  | add | and | or | xor | min | max | swap
  deriving DecidableEq, Repr

/-- Operations of red and ACCUM (04 R74). -/
inductive RedOp where
  | add | and | or | xor | min | max | fadd
  deriving DecidableEq, Repr

/-- Barrier kinds (14 R354). -/
inductive BarKind where
  | row | col | vly | task
  deriving DecidableEq, Repr

/-- System registers (07 R153). -/
inductive SysReg where
  | status | rmode | feat | tfeat | core | task | timeout | time | ebud | eres
  | tvec | epc | ecause | eaddr | einfo
  deriving DecidableEq, Repr

/-- Fusion group sizes 2, 4 and 8 (06 R147). -/
inductive FuseSize where
  | two | four | eight
  deriving DecidableEq, Repr

/-- What the runtime and the dispatcher choose when a task is dispatched (12 R308, R309; 13 R322): the start
of the task's scratchpad region in each relative cluster that it uses, the BASE of each of segments 2 to 7,
and the page-table dwords that are stored. -/
structure Plan where
  tid : Nat
  regions : List Nat
  bases : List Nat
  stores : List (Nat × W64)
  deriving DecidableEq, Repr

/-- What a control action names (16 R394): one core by its index, or a task by its TID. -/
inductive CtlTarget where
  | core (index : Nat) | task (tid : Nat)
  deriving DecidableEq, Repr

/-- One 1 MB checkpoint chunk as it comes back from the safe tier (16 R407): its address, the
dwords of it that are not zero with their offsets, and the digest sent with it. -/
structure Chunk where
  base : Nat
  dwords : List (Nat × W64)
  digest : BitVec 512
  deriving DecidableEq, Repr

/-- Kinds of row packet (16 R398). -/
inductive RowKind where
  | read | write | accum (op : RedOp) (wide : Bool)
  deriving DecidableEq, Repr

/-- A Mulos row packet, received or sent (16 R398); stag is the TAG of the segment, and port the Mulos port that
it travels through (16 R397). -/
structure RowPkt where
  table : Nat
  row : W64
  soff : Nat
  len : Nat
  dev : Nat
  src : Nat
  tag : BitVec 16
  kind : RowKind
  g : Bool
  stag : Nat
  merge : Bool
  data : List Byte
  port : BitVec 4
  deriving DecidableEq, Repr

/-- Kinds of packet for a page of another device (16 R402). -/
inductive PeerKind where
  | load | store | nibble (hi : Bool) | amo (op : AmoOp) | cas | red (op : RedOp)
  deriving DecidableEq, Repr

/-- A load, store, st4 or atomic packet that reaches this device as the owner of an RMT page (16 R402);
a second operand serves cas, rbit and stale are the R bit (10 R262) and the staleness class of the requester's leaf,
and port is the Mulos port that it came in through (16 R397). -/
structure PeerPkt where
  src : Nat
  kind : PeerKind
  pa : Nat
  size : Nat
  data : BitVec 256
  data2 : W64
  rbit : Bool
  stale : BitVec 2
  tag : BitVec 16
  port : BitVec 4
  deriving DecidableEq, Repr

/-- What another member of a collective sends (16 R403, R404): its rank, its command's operation
and member list, its buffer and, with the digest flag, its device digest. -/
structure CollShare where
  rank : Nat
  cop : Nat
  members : List Nat
  dwords : List W64
  digest : Option (List W64)
  deriving DecidableEq, Repr

/-- The steps of the device, one constructor per row of spec/opcode_table.json. -/
inductive Instr where
  -- instruction words (04 R78-R80)
  | add (p : PReg) (d : Reg) (a : Reg) (b : Reg) (v : SumVar)
  | sub (p : PReg) (d : Reg) (a : Reg) (b : Reg) (v : SumVar)
  | mul (p : PReg) (d : Reg) (a : Reg) (b : Reg) (v : Bool)
  | mulh (p : PReg) (d : Reg) (a : Reg) (b : Reg) (v : Bool)
  | div (p : PReg) (d : Reg) (a : Reg) (b : Reg) (v : DivVar)
  | rem (p : PReg) (d : Reg) (a : Reg) (b : Reg) (v : DivVar)
  | and (p : PReg) (d : Reg) (a : Reg) (b : Reg)
  | or (p : PReg) (d : Reg) (a : Reg) (b : Reg)
  | xor (p : PReg) (d : Reg) (a : Reg) (b : Reg)
  | andn (p : PReg) (d : Reg) (a : Reg) (b : Reg)
  | shl (p : PReg) (d : Reg) (a : Reg) (b : Reg) (v : Bool)
  | shr (p : PReg) (d : Reg) (a : Reg) (b : Reg) (v : Bool)
  | sra (p : PReg) (d : Reg) (a : Reg) (b : Reg) (v : Bool)
  | rotl (p : PReg) (d : Reg) (a : Reg) (b : Reg) (v : Bool)
  | min (p : PReg) (d : Reg) (a : Reg) (b : Reg) (v : Bool)
  | max (p : PReg) (d : Reg) (a : Reg) (b : Reg) (v : Bool)
  | clz (p : PReg) (d : Reg) (a : Reg) (v : Bool)
  | ctz (p : PReg) (d : Reg) (a : Reg) (v : Bool)
  | popc (p : PReg) (d : Reg) (a : Reg) (v : Bool)
  | bext (p : PReg) (d : Reg) (a : Reg) (b : Reg) (v : Bool)
  | bins (p : PReg) (d : Reg) (a : Reg) (b : Reg)
  | sel (p : PReg) (d : Reg) (a : Reg) (b : Reg) (q : PReg)
  | cmp (p : PReg) (d : Reg) (a : Reg) (b : Reg) (v : Bool)
  | hash64 (p : PReg) (d : Reg) (a : Reg) (b : Reg)
  | movi (p : PReg) (d : Reg) (imm : BitVec 15)
  | movh (p : PReg) (d : Reg) (imm : BitVec 15)
  | pset (p : PReg) (pd : PReg) (a : Reg) (b : Reg) (c : ICond)
  | pand (p : PReg) (pd : PReg) (pa : PReg) (pb : PReg) (na : Bool) (nb : Bool)
  | por (p : PReg) (pd : PReg) (pa : PReg) (pb : PReg) (na : Bool) (nb : Bool)
  | pnot (p : PReg) (pd : PReg) (pa : PReg) (na : Bool)
  | addImm (p : PReg) (d : Reg) (a : Reg) (imm : BitVec 10)
  | subImm (p : PReg) (d : Reg) (a : Reg) (imm : BitVec 10)
  | mulImm (p : PReg) (d : Reg) (a : Reg) (imm : BitVec 10)
  | mulhImm (p : PReg) (d : Reg) (a : Reg) (imm : BitVec 10)
  | divImm (p : PReg) (d : Reg) (a : Reg) (imm : BitVec 10)
  | remImm (p : PReg) (d : Reg) (a : Reg) (imm : BitVec 10)
  | andImm (p : PReg) (d : Reg) (a : Reg) (imm : BitVec 10)
  | orImm (p : PReg) (d : Reg) (a : Reg) (imm : BitVec 10)
  | xorImm (p : PReg) (d : Reg) (a : Reg) (imm : BitVec 10)
  | andnImm (p : PReg) (d : Reg) (a : Reg) (imm : BitVec 10)
  | shlImm (p : PReg) (d : Reg) (a : Reg) (imm : BitVec 6)
  | shrImm (p : PReg) (d : Reg) (a : Reg) (imm : BitVec 6)
  | sraImm (p : PReg) (d : Reg) (a : Reg) (imm : BitVec 6)
  | rotlImm (p : PReg) (d : Reg) (a : Reg) (imm : BitVec 6)
  | minImm (p : PReg) (d : Reg) (a : Reg) (imm : BitVec 10)
  | maxImm (p : PReg) (d : Reg) (a : Reg) (imm : BitVec 10)
  | cmpImm (p : PReg) (d : Reg) (a : Reg) (imm : BitVec 10)
  | fadd (p : PReg) (d : Reg) (a : Reg) (b : Reg)
  | fsub (p : PReg) (d : Reg) (a : Reg) (b : Reg)
  | fmul (p : PReg) (d : Reg) (a : Reg) (b : Reg)
  | fma (p : PReg) (d : Reg) (a : Reg) (b : Reg) (c : Reg)
  | fdiv (p : PReg) (d : Reg) (a : Reg) (b : Reg)
  | frcp (p : PReg) (d : Reg) (a : Reg)
  | frsq (p : PReg) (d : Reg) (a : Reg)
  | fmin (p : PReg) (d : Reg) (a : Reg) (b : Reg) (v : Bool)
  | fmax (p : PReg) (d : Reg) (a : Reg) (b : Reg) (v : Bool)
  | fcmp (p : PReg) (pd : PReg) (a : Reg) (b : Reg) (c : FCond)
  | fclass (p : PReg) (d : Reg) (a : Reg) (f : Fmt)
  | fcvt (p : PReg) (d : Reg) (a : Reg) (src : Fmt) (dst : Fmt)
  | fsgn (p : PReg) (d : Reg) (a : Reg) (b : Reg) (v : SgnVar)
  | vadd (p : PReg) (vd : VReg) (va : VReg) (vb : VReg) (o : Bool) (f : Fmt)
  | vsub (p : PReg) (vd : VReg) (va : VReg) (vb : VReg) (o : Bool) (f : Fmt)
  | vmul (p : PReg) (vd : VReg) (va : VReg) (vb : VReg) (o : Bool) (f : Fmt)
  | vmin (p : PReg) (vd : VReg) (va : VReg) (vb : VReg) (o : Bool) (f : Fmt)
  | vmax (p : PReg) (vd : VReg) (va : VReg) (vb : VReg) (o : Bool) (f : Fmt)
  | vsgn (p : PReg) (vd : VReg) (va : VReg) (vb : VReg) (o : Bool) (f : Fmt)
  | vcmp (p : PReg) (vd : VReg) (va : VReg) (vb : VReg) (o : Bool) (f : Fmt)
  | vfma (p : PReg) (vd : VReg) (va : VReg) (vb : VReg) (vc : VReg)
  | vsel (p : PReg) (vd : VReg) (va : VReg) (vb : VReg) (vc : VReg)
  | vcvt (p : PReg) (vd : VReg) (va : VReg) (src : Fmt) (dst : Fmt)
  | vscl (p : PReg) (vd : VReg) (va : VReg) (vb : VReg)
  | vred (p : PReg) (d : Reg) (va : VReg) (o : Bool) (f : Fmt)
  | vbc (p : PReg) (vd : VReg) (a : Reg) (f : Fmt)
  | vperm (p : PReg) (vd : VReg) (va : VReg) (vb : VReg) (f : Fmt)
  | vmov (p : PReg) (vd : VReg) (va : VReg)
  | vmovSr (p : PReg) (vd : VReg) (va : VReg) (f : Fmt)
  | nop
  | ret
  | doneF
  | yieldF
  | hret
  | trigger
  | eret
  | unfuse
  | rejoin
  | br (p : PReg) (n : Bool) (imm : BitVec 19)
  | jmp (imm : BitVec 23)
  | call (imm : BitVec 23)
  | jmpr (d : Reg) (a : Reg)
  | loop (a : Reg) (imm : BitVec 18)
  | brk (code : BitVec 16)
  | trap (code : BitVec 16)
  | pfx (imm : BitVec 23)
  | lea (r : Reg) (sg : Fin 8) (base : Reg) (sz : Size) (imm : BitVec 7)
  | madv (d : Reg) (a : Reg) (b : Reg) (peq : PReg) (plt : PReg) (esz : Esz)
  | fwalk (d : Reg) (a : Reg) (b : Reg)
  | brank (d : Reg) (a : Reg) (b : Reg) (pd : PReg)
  | ld (r : Reg) (sg : Fin 8) (base : Reg) (sz : Size) (x : Bool) (imm : BitVec 7)
  | ldAcq (r : Reg) (sg : Fin 8) (base : Reg) (sz : Size) (x : Bool) (sc : Scope) (imm : BitVec 4)
  | st (r : Reg) (sg : Fin 8) (base : Reg) (sz : Size) (imm : BitVec 7)
  | stRel (r : Reg) (sg : Fin 8) (base : Reg) (sz : Size) (sc : Scope) (imm : BitVec 4)
  | ldp (r : Reg) (sg : Fin 8) (base : Reg) (imm : BitVec 7)
  | stp (r : Reg) (sg : Fin 8) (base : Reg) (imm : BitVec 7)
  | pf (sg : Fin 8) (base : Reg) (sz : Size) (imm : BitVec 7)
  | fence (sc : Scope)
  | amo (d : Reg) (sg : Fin 8) (base : Reg) (b : Reg) (op : AmoOp) (esz : Esz)
  | cas (d : Reg) (sg : Fin 8) (base : Reg) (b : Reg) (c : Reg)
  | red (sg : Fin 8) (base : Reg) (b : Reg) (op : RedOp) (esz : Esz)
  | ldf (r : Reg) (sg : Fin 8) (base : Reg) (sc : Scope) (imm : BitVec 7)
  | ldfe (r : Reg) (sg : Fin 8) (base : Reg) (sc : Scope) (imm : BitVec 7)
  | stf (r : Reg) (sg : Fin 8) (base : Reg) (sc : Scope) (imm : BitVec 7)
  | stfw (r : Reg) (sg : Fin 8) (base : Reg) (sc : Scope) (imm : BitVec 7)
  | fest (full : Bool) (sg : Fin 8) (base : Reg) (sc : Scope) (imm : BitVec 7)
  | st4 (r : Reg) (sg : Fin 8) (base : Reg) (hi : Bool) (imm : BitVec 7)
  | aqPush (sg : Fin 8) (base : Reg) (sz : Size) (x : Bool) (imm : BitVec 7)
  | aqList (r : Reg) (sg : Fin 8) (base : Reg) (sz : Size) (x : Bool) (imm : BitVec 7)
  | dqPop (d : Reg) (two : Bool)
  | dqCnt (d : Reg)
  | spawn (d : Reg) (a : Reg) (imm : BitVec 13)
  | migr (d : Reg) (a : Reg)
  | send (d : Reg) (a : Reg) (b : Reg) (n : BitVec 2)
  | sendQ (d : Reg) (a : Reg) (b : Reg) (n : BitVec 2)
  | sendR (d : Reg) (b : Reg)
  | rqPush (n : BitVec 3)
  | rqTry (d : Reg) (n : BitVec 2)
  | rqStat (d : Reg) (a : Reg) (k : BitVec 3)
  | tlaunch (d : Reg) (a : Reg) (sg : Fin 8)
  | twait (d : Reg) (a : Reg)
  | segld (a : Reg) (k : Fin 8)
  | segrd (d : Reg) (t : Bool) (k : Fin 8)
  | dtld (sg : Fin 8) (base : Reg) (imm : BitVec 7)
  | tbld (r : Reg) (sg : Fin 8) (base : Reg) (imm : BitVec 7)
  | xpld (sg : Fin 8) (base : Reg) (imm : BitVec 7)
  | gkbind (a : Reg) (b : Reg) (tag : BitVec 6) (ctx : BitVec 3)
  | ptinvPage (a : Reg) (b : Reg) (sc : Scope)
  | ptinvAsid (b : Reg) (sc : Scope)
  | ptinvAll (sc : Scope)
  | dwait (k : Fin 8) (imm : BitVec 20)
  | await (k : Fin 8) (imm : BitVec 20)
  | dset (k : Fin 8) (a : Reg)
  | dadd (k : Fin 8) (a : Reg)
  | acbind (k : Fin 8) (a : Reg)
  | bar (kind : BarKind) (d : Reg) (pd : PReg)
  | tread (d : Reg)
  | erd (d : Reg) (k : BitVec 2)
  | pcrd (d : Reg) (a : Reg)
  | sysrd (r : Reg) (x : SysReg)
  | syswr (r : Reg) (x : SysReg)
  | rndset (d : Reg) (a : Reg) (s : Bool) (m : Bool) (fz : Bool) (rm : BitVec 3)
  | wake (d : Reg) (a : Reg) (skip : Bool)
  | vld (v : VReg) (sg : Fin 8) (base : Reg) (imm : BitVec 10)
  | vst (v : VReg) (sg : Fin 8) (base : Reg) (imm : BitVec 10)
  | vldg (v : VReg) (sg : Fin 8) (base : Reg) (vi : VReg) (esz : Esz)
  | vsts (v : VReg) (sg : Fin 8) (base : Reg) (vi : VReg) (esz : Esz)
  | mzero (acc : Acc)
  | mldb (f : Fmt) (sg : Fin 8) (base : Reg) (imm : BitVec 10)
  | mma (acc : Acc) (va : VReg) (fa : Fmt) (fb : Fmt) (cnt : BitVec 8)
  | mrot (cnt : BitVec 8)
  | mdrain (acc : Acc) (v : VReg) (f : Fmt) (row : BitVec 6)
  | mxch (acc : Acc) (entry : BitVec 8)
  | fuse (size : FuseSize)
  -- steps without a word (spec 95)
  | gather (core : Nat) (entry : Nat)
  | scatter (core : Nat) (entry : Nat)
  | accum (core : Nat) (entry : Nat)
  | dedup (core : Nat) (entry : Nat)
  | reduce (core : Nat) (entry : Nat)
  | copy (core : Nat) (entry : Nat)
  | walk (core : Nat) (entry : Nat)
  | fill (core : Nat) (entry : Nat)
  | coll (core : Nat) (entry : Nat)
  | res (core : Nat) (entry : Nat)
  | abt (core : Nat) (entry : Nat)
  | commandStart (core : Nat)
  | commandRetire (core : Nat) (entry : Nat)
  | commandStop (core : Nat) (entry : Nat)
  | sequencerCycle (core : Nat)
  | quantumEnd (core : Nat) (strand : Nat)
  | waitTimeout (core : Nat) (slot : Nat)
  | accessReply (id : Nat)
  | replyForward (id : Nat)
  | icacheFill (id : Nat)
  | tlbLookup (id : Nat)
  | walkEnd (id : Nat)
  | handlerStart (core : Nat)
  | inboxReservation (id : Nat)
  | messageWrite (id : Nat)
  | migrationReserve (id : Nat)
  | migrationArrival (id : Nat)
  | wakeDelivery (id : Nat)
  | remoteTileAccess (id : Nat)
  | feWithdrawal (id : Nat)
  | storeBufferSend (core : Nat) (id : Nat)
  | storeAck (id : Nat)
  | controllerIssue (id : Nat)
  | accumulateAccept (id : Nat)
  | combiningDrain (ctrl : Nat) (atom : Nat)
  | geckoToken (id : Nat)
  | rowCacheExpiry (core : Nat) (atom : Nat)
  | promotionEpoch (chan : Nat)
  | scrub (atom : Nat)
  | refresh (chan : Nat) (bank : Nat) (row : Nat)
  | stackTemperatureReport (stack : Nat) (temp : Int)
  | hostSnoop (line : Nat) (own : Bool)
  | snoopApply
  | hostResponse (id : Nat) (grantE : Bool) (line : Option W512)
  | cxlLinkDown
  | cxlLinkRetrain
  | hostRegisterAccess (off : Nat) (size : Nat) (wr : Option W64)
  | mmaStep (core : Nat) (strand : Nat)
  | mrotComplete (id : Nat)
  | mxchComplete (id : Nat)
  | rejoinLineHigh (core : Nat) (strand : Nat)
  | barrierComplete (core : Nat) (kind : BarKind)
  | timeTick
  | governorWindow (u : Nat)
  | vfEvaluate (dom : Nat) (spend : Nat)
  | energyExhausted (dom : Nat)
  | equalisation (lanes : List Nat)
  | dispatch (plan : Plan)
  | preempt (tid : Nat)
  | taskComplete (tid : Nat) (energy : Nat)
  | fqgetWrite (die : Nat) (value : Nat)
  | registerWrite (id : Nat)
  | broadcastWrite (off : Nat) (value : W64)
  | inspectionAccess (core : Nat) (off : Nat) (wr : Option W64)
  | switchRowPacket (id : Nat)
  | fabricTimeout (id : Nat)
  | chaezWrite (pa : Nat) (data : List W64)
  | chaezRead (pa : Nat) (dwords : Nat)
  | release (target : CtlTarget)
  | releaseSkip (target : CtlTarget)
  | endTask (target : CtlTarget)
  | digestReset (desc : Nat)
  | unfence (port : Nat)
  | timeref (dom : Nat)
  | checkpoint (name : Nat) (tier : Nat)
  | checkpointRestore (chunks : List Chunk)
  | reset
  | recovery (piece : List Byte)
  | statusReport (io : Int) (modl : Int)
  | powerOn
  | thermalTrip (temp : Int)
  | attestNonceWrite (nonce : BitVec 256)
  | attestTidWrite (value : W64)
  | attestReportRead
  | rowPacket (pkt : RowPkt)
  | peerAccessPacket (pkt : PeerPkt)
  | collOutcome (core : Nat) (entry : Nat) (others : List CollShare)
  | timeBeacon (ref : Nat) (ahead : Int)
  | domainJoin (dom : Nat) (time : W64)
  | referenceLoss (dom : Nat)
  | computeDieTemperature (die : Nat) (temp : Int)
  deriving DecidableEq, Repr

end Sys2Proof
end

