-- ==== Sys2Proof/WellFormed.lean ====
section
/-! DEFINITION. Which instructions are well formed: the checks that the spec answers with
ILLEGAL_ENCODING and that do not depend on the core (04 R71, R72, R74, R76 and each entry). The
check of the s registers, which depends on the core kind, stands in Machine/Ops.lean. -/

namespace Sys2Proof

/-- A specifier that an instruction may write: g, s or zr (04 R71). -/
def Reg.destOk : Reg → Bool
  | .g _ | .s _ | .zr => true
  | .h0 | .h1 | .fid | .cid => false

/-- A g or s register (05 R118). -/
def Reg.isGS : Reg → Bool
  | .g _ | .s _ => true
  | .zr | .h0 | .h1 | .fid | .cid => false

/-- The first register of a register pair: an even g or s register (04 R71). -/
def Reg.pairOk : Reg → Bool
  | .g n => n.val % 2 == 0
  | .s n => n.val % 2 == 0
  | .zr | .h0 | .h1 | .fid | .cid => false

/-- The formats of the vector arithmetic (06 R129). -/
def Fmt.isLane : Fmt → Bool
  | .fp32 | .int32 | .int64 => true
  | .fp16 | .bf16 | .t8 | .e2m1 | .int8 => false

/-- The binary floating-point formats a register may hold (03 R45). -/
def Fmt.isFloat : Fmt → Bool
  | .fp32 | .fp16 | .bf16 => true
  | .t8 | .e2m1 | .int8 | .int32 | .int64 => false

/-- The operand formats of the matrix engine (06 R137). -/
def Fmt.isMat : Fmt → Bool
  | .fp16 | .bf16 | .t8 | .e2m1 => true
  | .fp32 | .int8 | .int32 | .int64 => false

/-- Kt, the number of k values of a matrix step (06 R137). -/
def Fmt.kt : Fmt → Nat
  | .fp16 | .bf16 => 64
  | .fp32 | .t8 | .e2m1 | .int8 | .int32 | .int64 => 128

/-- Registers written by mdrain (06 R142). -/
def Fmt.drainRegs : Fmt → Nat
  | .fp32 => 4
  | .fp16 | .bf16 | .t8 | .e2m1 | .int8 | .int32 | .int64 => 2

/-- The message of send names b to b + n, all g registers (11 R280). -/
def Reg.sendOk (r : Reg) (n : BitVec 2) : Bool :=
  match r with
  | .g k => k.val + n.toNat ≤ 7
  | .s _ | .zr | .h0 | .h1 | .fid | .cid => false

/-- Scopes that ptinv takes (13 R343). -/
def Scope.ptinvOk : Scope → Bool
  | .core | .vly | .dev => true
  | .sys | .dom => false

/-- The core-independent legality of an instruction. Steps without a word have no encoding and are
well formed as they stand. -/
def Instr.wf : Instr → Bool
  | .add _ d _ _ _ | .sub _ d _ _ _ | .mul _ d _ _ _ | .mulh _ d _ _ _ | .div _ d _ _ _
  | .rem _ d _ _ _ | .and _ d _ _ | .or _ d _ _ | .xor _ d _ _ | .andn _ d _ _
  | .shl _ d _ _ _ | .shr _ d _ _ _ | .sra _ d _ _ _ | .rotl _ d _ _ _ | .min _ d _ _ _
  | .max _ d _ _ _ | .clz _ d _ _ | .ctz _ d _ _ | .popc _ d _ _ | .bext _ d _ _ _
  | .bins _ d _ _ | .sel _ d _ _ _ | .cmp _ d _ _ _ | .hash64 _ d _ _ | .movi _ d _
  | .movh _ d _ | .addImm _ d _ _ | .subImm _ d _ _ | .mulImm _ d _ _ | .mulhImm _ d _ _
  | .divImm _ d _ _ | .remImm _ d _ _ | .andImm _ d _ _ | .orImm _ d _ _ | .xorImm _ d _ _
  | .andnImm _ d _ _ | .shlImm _ d _ _ | .shrImm _ d _ _ | .sraImm _ d _ _
  | .rotlImm _ d _ _ | .minImm _ d _ _ | .maxImm _ d _ _ | .cmpImm _ d _ _
  | .fadd _ d _ _ | .fsub _ d _ _ | .fmul _ d _ _ | .fma _ d _ _ _ | .fdiv _ d _ _
  | .frcp _ d _ | .frsq _ d _ | .fmin _ d _ _ _ | .fmax _ d _ _ _ | .fcvt _ d _ _ _
  | .fsgn _ d _ _ _ => d.destOk
  | .fclass _ d _ f => d.destOk && f.isFloat
  | .vadd _ _ _ _ o f | .vsub _ _ _ _ o f | .vmul _ _ _ _ o f =>
      f.isLane && !(o && f == .fp32)
  | .vmin _ _ _ _ _ f | .vmax _ _ _ _ _ f | .vcmp _ _ _ _ _ f => f.isLane
  | .vsgn _ _ _ _ _ f => f.isFloat
  | .vcvt _ _ _ src dst => src != dst && src != .int64 && dst != .int64
  | .vred _ d _ _ f => d.destOk && f.isLane
  | .vperm _ _ _ _ f => f != .e2m1
  | .vmovSr _ _ _ f =>
      f == .fp16 || f == .bf16 || f == .t8 || f == .e2m1 || f == .int8
  | .jmpr d _ => d.destOk
  | .loop a _ => a.destOk
  | .lea r _ _ _ _ => r.destOk
  | .madv d a b peq plt _ =>
      d.isGS && a.isGS && b.isGS && d != a && d != b && a != b && (peq != plt || peq == 0)
  | .fwalk d _ _ => d.pairOk
  | .brank d _ _ _ => d.destOk
  | .ld r _ _ sz x _ => r.destOk && !(x && sz == .d)
  | .ldAcq r _ _ sz x _ _ => r.destOk && !(x && sz == .d)
  | .ldp r _ _ _ | .stp r _ _ _ => r.pairOk
  | .amo d _ _ _ _ _ | .cas d _ _ _ _ => d.destOk
  | .red _ _ _ op esz => !(op == .fadd && esz == .d)
  | .ldf r _ _ _ _ | .ldfe r _ _ _ _ => r.destOk
  | .aqPush _ _ sz x _ | .aqList _ _ _ sz x _ => !(x && sz == .d)
  | .dqPop d two => if two then d.pairOk else d.destOk
  | .dqCnt d | .spawn d _ _ | .migr d _ | .sendR d _ => d.destOk
  | .send d _ b n | .sendQ d _ b n => d.destOk && b.sendOk n
  | .rqPush n => n.toNat ≤ 2
  | .rqTry d n => d.destOk && n.toNat ≤ 2
  | .rqStat d _ k => d.destOk && k.toNat ≤ 6
  | .tlaunch d _ _ | .twait d _ => d.destOk
  | .segld a k => a.pairOk && 2 ≤ k.val
  | .segrd d t k => d.pairOk && (!t || 2 ≤ k.val)
  | .gkbind a _ _ _ => a.destOk
  | .ptinvPage _ _ sc | .ptinvAsid _ sc | .ptinvAll sc => sc.ptinvOk
  | .bar _ d _ | .tread d | .erd d _ | .pcrd d _ | .sysrd d _ | .wake d _ _ => d.destOk
  | .rndset d a s m fz rm =>
      d.destOk && (s || m) && (s || a == .g 0) && (m || (!fz && rm == 0#3))
  | .mldb f _ _ _ => f.isMat
  | .mma _ va fa fb cnt =>
      cnt != 0#8 && va.val + 2 * cnt.toNat ≤ 32 && fa.isMat && fb.isMat && fa.kt == fb.kt
  | .mdrain _ v f _ => f.isFloat && v.val + f.drainRegs ≤ 32
  | _ => true

end Sys2Proof
end

