-- ==== Sys2Proof/Decode.lean ====
section
/-! DEFINITION. The encodings of spec 04: field codes (R71, R72), the opcode maps (R78-R80), the
decoder, total on any word, and the encoder written from the same tables. A word is a natural number
below 2^32 with bit 0 least significant (00 R1); its bit 31 (L) says how it stands (R69) and is no
part of the instruction. -/

namespace Sys2Proof

/-- The 5-bit code of a register specifier (04 R71). -/
def Reg.code : Reg → Nat
  | .g n => n.val
  | .h0 => 8 | .h1 => 9 | .zr => 10 | .fid => 11 | .cid => 12
  | .s n => 16 + n.val

/-- The register a 5-bit code selects; codes 13-15 are reserved (04 R71). -/
def regOf (n : Nat) : Option Reg :=
  if h : n < 8 then some (.g ⟨n, h⟩)
  else if n = 8 then some .h0
  else if n = 9 then some .h1
  else if n = 10 then some .zr
  else if n = 11 then some .fid
  else if n = 12 then some .cid
  else if h : 16 ≤ n ∧ n < 32 then some (.s ⟨n - 16, by omega⟩)
  else none

/-- A one-bit variant in a wider field: only codes 0 and 1 are assigned. -/
def flagOf : Nat → Option Bool
  | 0 => some false
  | 1 => some true
  | _ => none

/-- Codes of SumVar (05 R100). -/
def SumVar.code : SumVar → Nat
  | .n => 0
  | .w => 1
  | .ss => 2
  | .us => 3

/-- The SumVar of a code; the other codes are reserved (05 R100). -/
def sumVarOf : Nat → Option SumVar
  | 0 => some .n
  | 1 => some .w
  | 2 => some .ss
  | 3 => some .us
  | _ => none

/-- Codes of DivVar (05 R100). -/
def DivVar.code : DivVar → Nat
  | .n => 0
  | .u => 1
  | .w => 2
  | .uw => 3

/-- The DivVar of a code; the other codes are reserved (05 R100). -/
def divVarOf : Nat → Option DivVar
  | 0 => some .n
  | 1 => some .u
  | 2 => some .w
  | 3 => some .uw
  | _ => none

/-- Codes of SgnVar (05 R113). -/
def SgnVar.code : SgnVar → Nat
  | .c => 0
  | .n => 1
  | .x => 2

/-- The SgnVar of a code; the other codes are reserved (05 R113). -/
def sgnVarOf : Nat → Option SgnVar
  | 0 => some .c
  | 1 => some .n
  | 2 => some .x
  | _ => none

/-- Codes of ICond (05 R108). -/
def ICond.code : ICond → Nat
  | .eq => 0
  | .ne => 1
  | .lt => 2
  | .ge => 3
  | .le => 4
  | .gt => 5
  | .ltu => 6
  | .geu => 7
  | .leu => 8
  | .gtu => 9
  | .tst => 10
  | .ntst => 11

/-- The ICond of a code; the other codes are reserved (05 R108). -/
def iCondOf : Nat → Option ICond
  | 0 => some .eq
  | 1 => some .ne
  | 2 => some .lt
  | 3 => some .ge
  | 4 => some .le
  | 5 => some .gt
  | 6 => some .ltu
  | 7 => some .geu
  | 8 => some .leu
  | 9 => some .gtu
  | 10 => some .tst
  | 11 => some .ntst
  | _ => none

/-- Codes of FCond (05 R114). -/
def FCond.code : FCond → Nat
  | .eq => 0
  | .ne => 1
  | .lt => 2
  | .le => 3
  | .gt => 4
  | .ge => 5
  | .un => 6
  | .ord => 7

/-- The FCond of a code; the other codes are reserved (05 R114). -/
def fCondOf : Nat → Option FCond
  | 0 => some .eq
  | 1 => some .ne
  | 2 => some .lt
  | 3 => some .le
  | 4 => some .gt
  | 5 => some .ge
  | 6 => some .un
  | 7 => some .ord
  | _ => none

/-- Codes of AmoOp (04 R74). -/
def AmoOp.code : AmoOp → Nat
  | .add => 0
  | .and => 1
  | .or => 2
  | .xor => 3
  | .min => 4
  | .max => 5
  | .swap => 6

/-- The AmoOp of a code; the other codes are reserved (04 R74). -/
def amoOpOf : Nat → Option AmoOp
  | 0 => some .add
  | 1 => some .and
  | 2 => some .or
  | 3 => some .xor
  | 4 => some .min
  | 5 => some .max
  | 6 => some .swap
  | _ => none

/-- Codes of RedOp (04 R74). -/
def RedOp.code : RedOp → Nat
  | .add => 0
  | .and => 1
  | .or => 2
  | .xor => 3
  | .min => 4
  | .max => 5
  | .fadd => 6

/-- The RedOp of a code; the other codes are reserved (04 R74). -/
def redOpOf : Nat → Option RedOp
  | 0 => some .add
  | 1 => some .and
  | 2 => some .or
  | 3 => some .xor
  | 4 => some .min
  | 5 => some .max
  | 6 => some .fadd
  | _ => none

/-- Codes of BarKind (04 R74). -/
def BarKind.code : BarKind → Nat
  | .row => 0
  | .col => 1
  | .vly => 2
  | .task => 3

/-- The BarKind of a code; the other codes are reserved (04 R74). -/
def barKindOf : Nat → Option BarKind
  | 0 => some .row
  | 1 => some .col
  | 2 => some .vly
  | 3 => some .task
  | _ => none

/-- Codes of Fmt (04 R72). -/
def Fmt.code : Fmt → Nat
  | .fp32 => 0
  | .fp16 => 1
  | .bf16 => 2
  | .t8 => 3
  | .e2m1 => 4
  | .int8 => 5
  | .int32 => 6
  | .int64 => 7

/-- The Fmt of a code; the other codes are reserved (04 R72). -/
def fmtOf : Nat → Option Fmt
  | 0 => some .fp32
  | 1 => some .fp16
  | 2 => some .bf16
  | 3 => some .t8
  | 4 => some .e2m1
  | 5 => some .int8
  | 6 => some .int32
  | 7 => some .int64
  | _ => none

/-- Codes of Size (04 R72). -/
def Size.code : Size → Nat
  | .b => 0
  | .h => 1
  | .w => 2
  | .d => 3

/-- The Size of a code; the other codes are reserved (04 R72). -/
def sizeOf : Nat → Option Size
  | 0 => some .b
  | 1 => some .h
  | 2 => some .w
  | 3 => some .d
  | _ => none

/-- Codes of Esz (04 R74). -/
def Esz.code : Esz → Nat
  | .w => 2
  | .d => 3

/-- The Esz of a code; the other codes are reserved (04 R74). -/
def eszOf : Nat → Option Esz
  | 2 => some .w
  | 3 => some .d
  | _ => none

/-- Codes of Scope (04 R72). -/
def Scope.code : Scope → Nat
  | .core => 1
  | .vly => 2
  | .dev => 3
  | .sys => 4
  | .dom => 5

/-- The Scope of a code; the other codes are reserved (04 R72). -/
def scopeOf : Nat → Option Scope
  | 1 => some .core
  | 2 => some .vly
  | 3 => some .dev
  | 4 => some .sys
  | 5 => some .dom
  | _ => none

/-- Codes of FuseSize (06 R147). -/
def FuseSize.code : FuseSize → Nat
  | .two => 1
  | .four => 2
  | .eight => 3

/-- The FuseSize of a code; the other codes are reserved (06 R147). -/
def fuseSizeOf : Nat → Option FuseSize
  | 1 => some .two
  | 2 => some .four
  | 3 => some .eight
  | _ => none

/-- Codes of SysReg (07 R153). -/
def SysReg.code : SysReg → Nat
  | .status => 0
  | .rmode => 1
  | .feat => 8
  | .tfeat => 9
  | .core => 16
  | .task => 17
  | .timeout => 24
  | .time => 25
  | .ebud => 32
  | .eres => 33
  | .tvec => 64
  | .epc => 65
  | .ecause => 66
  | .eaddr => 67
  | .einfo => 68

/-- The SysReg of a code; the other codes are reserved (07 R153). -/
def sysRegOf : Nat → Option SysReg
  | 0 => some .status
  | 1 => some .rmode
  | 8 => some .feat
  | 9 => some .tfeat
  | 16 => some .core
  | 17 => some .task
  | 24 => some .timeout
  | 25 => some .time
  | 32 => some .ebud
  | 33 => some .eres
  | 64 => some .tvec
  | 65 => some .epc
  | 66 => some .ecause
  | 67 => some .eaddr
  | 68 => some .einfo
  | _ => none

/-- A 3-bit predicate, segment, counter or accumulator number, and the like. -/
def finF (w lo len : Nat) : Fin (2 ^ len) := ⟨fld w lo len, Nat.mod_lt _ (Nat.two_pow_pos len)⟩

/-- A raw bit field. -/
def bitsF (w lo len : Nat) : BitVec len := BitVec.ofNat len (fld w lo len)

/-- A single bit. -/
def bitF (w lo : Nat) : Bool := fld w lo 1 == 1

/-- The A-slot opcode map (04 R78, R79): the operands of opcode op read from w. -/
def decA (op w : Nat) : Option Instr :=
  match op with
  | 0x0 => do let d ← regOf (fld w 15 5); let a ← regOf (fld w 10 5); let b ← regOf (fld w 5 5); let v ← sumVarOf (fld w 0 5); some (.add (finF w 20 3) d a b v)
  | 0x1 => do let d ← regOf (fld w 15 5); let a ← regOf (fld w 10 5); let b ← regOf (fld w 5 5); let v ← sumVarOf (fld w 0 5); some (.sub (finF w 20 3) d a b v)
  | 0x2 => do let d ← regOf (fld w 15 5); let a ← regOf (fld w 10 5); let b ← regOf (fld w 5 5); let v ← flagOf (fld w 0 5); some (.mul (finF w 20 3) d a b v)
  | 0x3 => do let d ← regOf (fld w 15 5); let a ← regOf (fld w 10 5); let b ← regOf (fld w 5 5); let v ← flagOf (fld w 0 5); some (.mulh (finF w 20 3) d a b v)
  | 0x4 => do let d ← regOf (fld w 15 5); let a ← regOf (fld w 10 5); let b ← regOf (fld w 5 5); let v ← divVarOf (fld w 0 5); some (.div (finF w 20 3) d a b v)
  | 0x5 => do let d ← regOf (fld w 15 5); let a ← regOf (fld w 10 5); let b ← regOf (fld w 5 5); let v ← divVarOf (fld w 0 5); some (.rem (finF w 20 3) d a b v)
  | 0x6 => if fld w 0 5 = 0 then (do let d ← regOf (fld w 15 5); let a ← regOf (fld w 10 5); let b ← regOf (fld w 5 5); some (.and (finF w 20 3) d a b)) else none
  | 0x7 => if fld w 0 5 = 0 then (do let d ← regOf (fld w 15 5); let a ← regOf (fld w 10 5); let b ← regOf (fld w 5 5); some (.or (finF w 20 3) d a b)) else none
  | 0x8 => if fld w 0 5 = 0 then (do let d ← regOf (fld w 15 5); let a ← regOf (fld w 10 5); let b ← regOf (fld w 5 5); some (.xor (finF w 20 3) d a b)) else none
  | 0x9 => if fld w 0 5 = 0 then (do let d ← regOf (fld w 15 5); let a ← regOf (fld w 10 5); let b ← regOf (fld w 5 5); some (.andn (finF w 20 3) d a b)) else none
  | 0xa => do let d ← regOf (fld w 15 5); let a ← regOf (fld w 10 5); let b ← regOf (fld w 5 5); let v ← flagOf (fld w 0 5); some (.shl (finF w 20 3) d a b v)
  | 0xb => do let d ← regOf (fld w 15 5); let a ← regOf (fld w 10 5); let b ← regOf (fld w 5 5); let v ← flagOf (fld w 0 5); some (.shr (finF w 20 3) d a b v)
  | 0xc => do let d ← regOf (fld w 15 5); let a ← regOf (fld w 10 5); let b ← regOf (fld w 5 5); let v ← flagOf (fld w 0 5); some (.sra (finF w 20 3) d a b v)
  | 0xd => do let d ← regOf (fld w 15 5); let a ← regOf (fld w 10 5); let b ← regOf (fld w 5 5); let v ← flagOf (fld w 0 5); some (.rotl (finF w 20 3) d a b v)
  | 0xe => do let d ← regOf (fld w 15 5); let a ← regOf (fld w 10 5); let b ← regOf (fld w 5 5); let v ← flagOf (fld w 0 5); some (.min (finF w 20 3) d a b v)
  | 0xf => do let d ← regOf (fld w 15 5); let a ← regOf (fld w 10 5); let b ← regOf (fld w 5 5); let v ← flagOf (fld w 0 5); some (.max (finF w 20 3) d a b v)
  | 0x10 => if fld w 5 5 = 0 then (do let d ← regOf (fld w 15 5); let a ← regOf (fld w 10 5); let v ← flagOf (fld w 0 5); some (.clz (finF w 20 3) d a v)) else none
  | 0x11 => if fld w 5 5 = 0 then (do let d ← regOf (fld w 15 5); let a ← regOf (fld w 10 5); let v ← flagOf (fld w 0 5); some (.ctz (finF w 20 3) d a v)) else none
  | 0x12 => if fld w 5 5 = 0 then (do let d ← regOf (fld w 15 5); let a ← regOf (fld w 10 5); let v ← flagOf (fld w 0 5); some (.popc (finF w 20 3) d a v)) else none
  | 0x13 => do let d ← regOf (fld w 15 5); let a ← regOf (fld w 10 5); let b ← regOf (fld w 5 5); let v ← flagOf (fld w 0 5); some (.bext (finF w 20 3) d a b v)
  | 0x14 => if fld w 0 5 = 0 then (do let d ← regOf (fld w 15 5); let a ← regOf (fld w 10 5); let b ← regOf (fld w 5 5); some (.bins (finF w 20 3) d a b)) else none
  | 0x15 => if fld w 3 2 = 0 then (do let d ← regOf (fld w 15 5); let a ← regOf (fld w 10 5); let b ← regOf (fld w 5 5); some (.sel (finF w 20 3) d a b (finF w 0 3))) else none
  | 0x16 => do let d ← regOf (fld w 15 5); let a ← regOf (fld w 10 5); let b ← regOf (fld w 5 5); let v ← flagOf (fld w 0 5); some (.cmp (finF w 20 3) d a b v)
  | 0x17 => if fld w 0 5 = 0 then (do let d ← regOf (fld w 15 5); let a ← regOf (fld w 10 5); let b ← regOf (fld w 5 5); some (.hash64 (finF w 20 3) d a b)) else none
  | 0x18 => do let d ← regOf (fld w 15 5); some (.movi (finF w 20 3) d (bitsF w 0 15))
  | 0x19 => do let d ← regOf (fld w 15 5); some (.movh (finF w 20 3) d (bitsF w 0 15))
  | 0x1a => if fld w 15 2 = 0 then (do let a ← regOf (fld w 10 5); let b ← regOf (fld w 5 5); let c ← iCondOf (fld w 0 5); some (.pset (finF w 20 3) (finF w 17 3) a b c)) else none
  | 0x1b => if fld w 0 9 = 0 then (some (.pand (finF w 20 3) (finF w 17 3) (finF w 14 3) (finF w 11 3) (bitF w 10) (bitF w 9))) else none
  | 0x1c => if fld w 0 9 = 0 then (some (.por (finF w 20 3) (finF w 17 3) (finF w 14 3) (finF w 11 3) (bitF w 10) (bitF w 9))) else none
  | 0x1d => if fld w 11 3 = 0 ∧ fld w 9 1 = 0 ∧ fld w 0 9 = 0 then (some (.pnot (finF w 20 3) (finF w 17 3) (finF w 14 3) (bitF w 10))) else none
  | 0x20 => if fld w 0 5 = 0 then (do let d ← regOf (fld w 15 5); let a ← regOf (fld w 10 5); let b ← regOf (fld w 5 5); some (.fadd (finF w 20 3) d a b)) else none
  | 0x21 => if fld w 0 5 = 0 then (do let d ← regOf (fld w 15 5); let a ← regOf (fld w 10 5); let b ← regOf (fld w 5 5); some (.fsub (finF w 20 3) d a b)) else none
  | 0x22 => if fld w 0 5 = 0 then (do let d ← regOf (fld w 15 5); let a ← regOf (fld w 10 5); let b ← regOf (fld w 5 5); some (.fmul (finF w 20 3) d a b)) else none
  | 0x23 => do let d ← regOf (fld w 15 5); let a ← regOf (fld w 10 5); let b ← regOf (fld w 5 5); let c ← regOf (fld w 0 5); some (.fma (finF w 20 3) d a b c)
  | 0x24 => if fld w 0 5 = 0 then (do let d ← regOf (fld w 15 5); let a ← regOf (fld w 10 5); let b ← regOf (fld w 5 5); some (.fdiv (finF w 20 3) d a b)) else none
  | 0x25 => if fld w 5 5 = 0 ∧ fld w 0 5 = 0 then (do let d ← regOf (fld w 15 5); let a ← regOf (fld w 10 5); some (.frcp (finF w 20 3) d a)) else none
  | 0x26 => if fld w 5 5 = 0 ∧ fld w 0 5 = 0 then (do let d ← regOf (fld w 15 5); let a ← regOf (fld w 10 5); some (.frsq (finF w 20 3) d a)) else none
  | 0x27 => do let d ← regOf (fld w 15 5); let a ← regOf (fld w 10 5); let b ← regOf (fld w 5 5); let v ← flagOf (fld w 0 5); some (.fmin (finF w 20 3) d a b v)
  | 0x28 => do let d ← regOf (fld w 15 5); let a ← regOf (fld w 10 5); let b ← regOf (fld w 5 5); let v ← flagOf (fld w 0 5); some (.fmax (finF w 20 3) d a b v)
  | 0x29 => if fld w 15 2 = 0 then (do let a ← regOf (fld w 10 5); let b ← regOf (fld w 5 5); let c ← fCondOf (fld w 0 5); some (.fcmp (finF w 20 3) (finF w 17 3) a b c)) else none
  | 0x2a => if fld w 5 5 = 0 ∧ fld w 4 1 = 0 then (do let d ← regOf (fld w 15 5); let a ← regOf (fld w 10 5); let f ← fmtOf (fld w 0 4); some (.fclass (finF w 20 3) d a f)) else none
  | 0x2b => if fld w 9 1 = 0 ∧ fld w 4 1 = 0 then (do let d ← regOf (fld w 15 5); let a ← regOf (fld w 10 5); let src ← fmtOf (fld w 5 4); let dst ← fmtOf (fld w 0 4); some (.fcvt (finF w 20 3) d a src dst)) else none
  | 0x2c => do let d ← regOf (fld w 15 5); let a ← regOf (fld w 10 5); let b ← regOf (fld w 5 5); let v ← sgnVarOf (fld w 0 5); some (.fsgn (finF w 20 3) d a b v)
  | 0x30 => do let f ← fmtOf (fld w 0 4); some (.vadd (finF w 20 3) (finF w 15 5) (finF w 10 5) (finF w 5 5) (bitF w 4) f)
  | 0x31 => do let f ← fmtOf (fld w 0 4); some (.vsub (finF w 20 3) (finF w 15 5) (finF w 10 5) (finF w 5 5) (bitF w 4) f)
  | 0x32 => do let f ← fmtOf (fld w 0 4); some (.vmul (finF w 20 3) (finF w 15 5) (finF w 10 5) (finF w 5 5) (bitF w 4) f)
  | 0x33 => some (.vfma (finF w 20 3) (finF w 15 5) (finF w 10 5) (finF w 5 5) (finF w 0 5))
  | 0x34 => do let f ← fmtOf (fld w 0 4); some (.vmin (finF w 20 3) (finF w 15 5) (finF w 10 5) (finF w 5 5) (bitF w 4) f)
  | 0x35 => do let f ← fmtOf (fld w 0 4); some (.vmax (finF w 20 3) (finF w 15 5) (finF w 10 5) (finF w 5 5) (bitF w 4) f)
  | 0x36 => do let f ← fmtOf (fld w 0 4); some (.vsgn (finF w 20 3) (finF w 15 5) (finF w 10 5) (finF w 5 5) (bitF w 4) f)
  | 0x37 => if fld w 9 1 = 0 ∧ fld w 4 1 = 0 then (do let src ← fmtOf (fld w 5 4); let dst ← fmtOf (fld w 0 4); some (.vcvt (finF w 20 3) (finF w 15 5) (finF w 10 5) src dst)) else none
  | 0x38 => if fld w 0 5 = 0 then (some (.vscl (finF w 20 3) (finF w 15 5) (finF w 10 5) (finF w 5 5))) else none
  | 0x39 => if fld w 5 5 = 0 then (do let d ← regOf (fld w 15 5); let f ← fmtOf (fld w 0 4); some (.vred (finF w 20 3) d (finF w 10 5) (bitF w 4) f)) else none
  | 0x3a => do let f ← fmtOf (fld w 0 4); some (.vcmp (finF w 20 3) (finF w 15 5) (finF w 10 5) (finF w 5 5) (bitF w 4) f)
  | 0x3b => some (.vsel (finF w 20 3) (finF w 15 5) (finF w 10 5) (finF w 5 5) (finF w 0 5))
  | 0x3c => if fld w 5 5 = 0 ∧ fld w 4 1 = 0 then (do let a ← regOf (fld w 10 5); let f ← fmtOf (fld w 0 4); some (.vbc (finF w 20 3) (finF w 15 5) a f)) else none
  | 0x3d => if fld w 4 1 = 0 then (do let f ← fmtOf (fld w 0 4); some (.vperm (finF w 20 3) (finF w 15 5) (finF w 10 5) (finF w 5 5) f)) else none
  | 0x3e => (if fld w 5 5 = 0 ∧ fld w 0 5 = 0 then (some (.vmov (finF w 20 3) (finF w 15 5) (finF w 10 5))) else none) <|>
      (if fld w 5 5 = 0 ∧ fld w 4 1 = 1 then (do let f ← fmtOf (fld w 0 4); some (.vmovSr (finF w 20 3) (finF w 15 5) (finF w 10 5) f)) else none)
  | 0x40 => do let d ← regOf (fld w 15 5); let a ← regOf (fld w 10 5); some (.addImm (finF w 20 3) d a (bitsF w 0 10))
  | 0x41 => do let d ← regOf (fld w 15 5); let a ← regOf (fld w 10 5); some (.subImm (finF w 20 3) d a (bitsF w 0 10))
  | 0x42 => do let d ← regOf (fld w 15 5); let a ← regOf (fld w 10 5); some (.mulImm (finF w 20 3) d a (bitsF w 0 10))
  | 0x43 => do let d ← regOf (fld w 15 5); let a ← regOf (fld w 10 5); some (.mulhImm (finF w 20 3) d a (bitsF w 0 10))
  | 0x44 => do let d ← regOf (fld w 15 5); let a ← regOf (fld w 10 5); some (.divImm (finF w 20 3) d a (bitsF w 0 10))
  | 0x45 => do let d ← regOf (fld w 15 5); let a ← regOf (fld w 10 5); some (.remImm (finF w 20 3) d a (bitsF w 0 10))
  | 0x46 => do let d ← regOf (fld w 15 5); let a ← regOf (fld w 10 5); some (.andImm (finF w 20 3) d a (bitsF w 0 10))
  | 0x47 => do let d ← regOf (fld w 15 5); let a ← regOf (fld w 10 5); some (.orImm (finF w 20 3) d a (bitsF w 0 10))
  | 0x48 => do let d ← regOf (fld w 15 5); let a ← regOf (fld w 10 5); some (.xorImm (finF w 20 3) d a (bitsF w 0 10))
  | 0x49 => do let d ← regOf (fld w 15 5); let a ← regOf (fld w 10 5); some (.andnImm (finF w 20 3) d a (bitsF w 0 10))
  | 0x4a => if fld w 6 4 = 0 then (do let d ← regOf (fld w 15 5); let a ← regOf (fld w 10 5); some (.shlImm (finF w 20 3) d a (bitsF w 0 6))) else none
  | 0x4b => if fld w 6 4 = 0 then (do let d ← regOf (fld w 15 5); let a ← regOf (fld w 10 5); some (.shrImm (finF w 20 3) d a (bitsF w 0 6))) else none
  | 0x4c => if fld w 6 4 = 0 then (do let d ← regOf (fld w 15 5); let a ← regOf (fld w 10 5); some (.sraImm (finF w 20 3) d a (bitsF w 0 6))) else none
  | 0x4d => if fld w 6 4 = 0 then (do let d ← regOf (fld w 15 5); let a ← regOf (fld w 10 5); some (.rotlImm (finF w 20 3) d a (bitsF w 0 6))) else none
  | 0x4e => do let d ← regOf (fld w 15 5); let a ← regOf (fld w 10 5); some (.minImm (finF w 20 3) d a (bitsF w 0 10))
  | 0x4f => do let d ← regOf (fld w 15 5); let a ← regOf (fld w 10 5); some (.maxImm (finF w 20 3) d a (bitsF w 0 10))
  | 0x56 => do let d ← regOf (fld w 15 5); let a ← regOf (fld w 10 5); some (.cmpImm (finF w 20 3) d a (bitsF w 0 10))
  | _ => none

/-- The C-slot opcode map (04 R80): the operands of opcode op read from w. madv, fwalk and brank stand at 0x0D to
0x0F, as 05 R118-R120 and the worked word of 13 give them, and not where the map of R80 has them (DEDUCED, log 43). -/
def decC (op w : Nat) : Option Instr :=
  match op with
  | 0x0 => if fld w 0 23 = 0 then (some .nop) else none
  | 0x1 => some (.br (finF w 20 3) (bitF w 19) (bitsF w 0 19))
  | 0x2 => some (.jmp (bitsF w 0 23))
  | 0x3 => if fld w 8 5 = 0 ∧ fld w 0 8 = 0 then (do let d ← regOf (fld w 18 5); let a ← regOf (fld w 13 5); some (.jmpr d a)) else none
  | 0x4 => some (.call (bitsF w 0 23))
  | 0x5 => if fld w 0 23 = 0 then (some .ret) else none
  | 0x6 => do let a ← regOf (fld w 18 5); some (.loop a (bitsF w 0 18))
  | 0x7 => if fld w 0 23 = 0 then (some .doneF) else none
  | 0x8 => if fld w 0 23 = 0 then (some .yieldF) else none
  | 0x9 => if fld w 16 7 = 0 then (some (.brk (bitsF w 0 16))) else none
  | 0xa => if fld w 7 1 = 0 then (do let r ← regOf (fld w 18 5); let base ← regOf (fld w 10 5); let sz ← sizeOf (fld w 8 2); some (.lea r (finF w 15 3) base sz (bitsF w 0 7))) else none
  | 0xd => do let d ← regOf (fld w 18 5); let a ← regOf (fld w 13 5); let b ← regOf (fld w 8 5); let esz ← eszOf (fld w 0 2); some (.madv d a b (finF w 5 3) (finF w 2 3) esz)
  | 0xe => if fld w 0 8 = 0 then (do let d ← regOf (fld w 18 5); let a ← regOf (fld w 13 5); let b ← regOf (fld w 8 5); some (.fwalk d a b)) else none
  | 0xf => if fld w 3 5 = 0 then (do let d ← regOf (fld w 18 5); let a ← regOf (fld w 13 5); let b ← regOf (fld w 8 5); some (.brank d a b (finF w 0 3))) else none
  | 0x10 => do let r ← regOf (fld w 18 5); let base ← regOf (fld w 10 5); let sz ← sizeOf (fld w 8 2); some (.ld r (finF w 15 3) base sz (bitF w 7) (bitsF w 0 7))
  | 0x11 => do let r ← regOf (fld w 18 5); let base ← regOf (fld w 10 5); let sz ← sizeOf (fld w 8 2); let sc ← scopeOf (fld w 4 3); some (.ldAcq r (finF w 15 3) base sz (bitF w 7) sc (bitsF w 0 4))
  | 0x12 => if fld w 7 1 = 0 then (do let r ← regOf (fld w 18 5); let base ← regOf (fld w 10 5); let sz ← sizeOf (fld w 8 2); some (.st r (finF w 15 3) base sz (bitsF w 0 7))) else none
  | 0x13 => if fld w 7 1 = 0 then (do let r ← regOf (fld w 18 5); let base ← regOf (fld w 10 5); let sz ← sizeOf (fld w 8 2); let sc ← scopeOf (fld w 4 3); some (.stRel r (finF w 15 3) base sz sc (bitsF w 0 4))) else none
  | 0x14 => if fld w 8 2 = 3 ∧ fld w 7 1 = 0 then (do let r ← regOf (fld w 18 5); let base ← regOf (fld w 10 5); some (.ldp r (finF w 15 3) base (bitsF w 0 7))) else none
  | 0x15 => if fld w 8 2 = 3 ∧ fld w 7 1 = 0 then (do let r ← regOf (fld w 18 5); let base ← regOf (fld w 10 5); some (.stp r (finF w 15 3) base (bitsF w 0 7))) else none
  | 0x16 => if fld w 18 5 = 0 ∧ fld w 7 1 = 0 then (do let base ← regOf (fld w 10 5); let sz ← sizeOf (fld w 8 2); some (.pf (finF w 15 3) base sz (bitsF w 0 7))) else none
  | 0x17 => if fld w 0 20 = 0 then (do let sc ← scopeOf (fld w 20 3); some (.fence sc)) else none
  | 0x18 => do let d ← regOf (fld w 18 5); let base ← regOf (fld w 10 5); let b ← regOf (fld w 5 5); let op ← amoOpOf (fld w 2 3); let esz ← eszOf (fld w 0 2); some (.amo d (finF w 15 3) base b op esz)
  | 0x19 => do let d ← regOf (fld w 18 5); let base ← regOf (fld w 10 5); let b ← regOf (fld w 5 5); let c ← regOf (fld w 0 5); some (.cas d (finF w 15 3) base b c)
  | 0x1a => if fld w 18 5 = 0 then (do let base ← regOf (fld w 10 5); let b ← regOf (fld w 5 5); let op ← redOpOf (fld w 2 3); let esz ← eszOf (fld w 0 2); some (.red (finF w 15 3) base b op esz)) else none
  | 0x20 => do let r ← regOf (fld w 18 5); let base ← regOf (fld w 10 5); let sc ← scopeOf (fld w 7 3); some (.ldf r (finF w 15 3) base sc (bitsF w 0 7))
  | 0x21 => do let r ← regOf (fld w 18 5); let base ← regOf (fld w 10 5); let sc ← scopeOf (fld w 7 3); some (.ldfe r (finF w 15 3) base sc (bitsF w 0 7))
  | 0x22 => do let r ← regOf (fld w 18 5); let base ← regOf (fld w 10 5); let sc ← scopeOf (fld w 7 3); some (.stf r (finF w 15 3) base sc (bitsF w 0 7))
  | 0x23 => do let r ← regOf (fld w 18 5); let base ← regOf (fld w 10 5); let sc ← scopeOf (fld w 7 3); some (.stfw r (finF w 15 3) base sc (bitsF w 0 7))
  | 0x24 => if fld w 19 4 = 0 then (do let base ← regOf (fld w 10 5); let sc ← scopeOf (fld w 7 3); some (.fest (bitF w 18) (finF w 15 3) base sc (bitsF w 0 7))) else none
  | 0x25 => if fld w 8 2 = 0 then (do let r ← regOf (fld w 18 5); let base ← regOf (fld w 10 5); some (.st4 r (finF w 15 3) base (bitF w 7) (bitsF w 0 7))) else none
  | 0x28 => if fld w 18 5 = 0 then (do let base ← regOf (fld w 10 5); let sz ← sizeOf (fld w 8 2); some (.aqPush (finF w 15 3) base sz (bitF w 7) (bitsF w 0 7))) else none
  | 0x29 => do let r ← regOf (fld w 18 5); let base ← regOf (fld w 10 5); let sz ← sizeOf (fld w 8 2); some (.aqList r (finF w 15 3) base sz (bitF w 7) (bitsF w 0 7))
  | 0x2a => if fld w 13 5 = 0 ∧ fld w 8 5 = 0 ∧ fld w 1 7 = 0 then (do let d ← regOf (fld w 18 5); some (.dqPop d (bitF w 0))) else none
  | 0x2b => if fld w 0 18 = 0 then (do let d ← regOf (fld w 18 5); some (.dqCnt d)) else none
  | 0x2c => do let d ← regOf (fld w 18 5); let a ← regOf (fld w 13 5); some (.spawn d a (bitsF w 0 13))
  | 0x2d => if fld w 0 13 = 0 then (do let d ← regOf (fld w 18 5); let a ← regOf (fld w 13 5); some (.migr d a)) else none
  | 0x2e => (if fld w 2 6 = 0 then (do let d ← regOf (fld w 18 5); let a ← regOf (fld w 13 5); let b ← regOf (fld w 8 5); some (.send d a b (bitsF w 0 2))) else none) <|>
      (if fld w 3 5 = 0 ∧ fld w 2 1 = 1 then (do let d ← regOf (fld w 18 5); let a ← regOf (fld w 13 5); let b ← regOf (fld w 8 5); some (.sendQ d a b (bitsF w 0 2))) else none) <|>
      (if fld w 13 5 = 0 ∧ fld w 0 8 = 8 then (do let d ← regOf (fld w 18 5); let b ← regOf (fld w 8 5); some (.sendR d b)) else none)
  | 0x2f => if fld w 0 23 = 0 then (some .hret) else none
  | 0x30 => if fld w 0 20 = 0 then (some (.rqPush (bitsF w 20 3))) else none
  | 0x31 => if fld w 2 16 = 0 then (do let d ← regOf (fld w 18 5); some (.rqTry d (bitsF w 0 2))) else none
  | 0x32 => if fld w 3 10 = 0 then (do let d ← regOf (fld w 18 5); let a ← regOf (fld w 13 5); some (.rqStat d a (bitsF w 0 3))) else none
  | 0x33 => if fld w 3 10 = 0 then (do let d ← regOf (fld w 18 5); let a ← regOf (fld w 13 5); some (.tlaunch d a (finF w 0 3))) else none
  | 0x34 => if fld w 0 23 = 0 then (some .trigger) else none
  | 0x35 => if fld w 0 13 = 0 then (do let d ← regOf (fld w 18 5); let a ← regOf (fld w 13 5); some (.twait d a)) else none
  | 0x38 => if fld w 18 5 = 0 ∧ fld w 3 10 = 0 then (do let a ← regOf (fld w 13 5); some (.segld a (finF w 0 3))) else none
  | 0x39 => if fld w 4 14 = 0 then (do let d ← regOf (fld w 18 5); some (.segrd d (bitF w 3) (finF w 0 3))) else none
  | 0x3a => if fld w 18 5 = 0 ∧ fld w 8 2 = 3 ∧ fld w 7 1 = 0 then (do let base ← regOf (fld w 10 5); some (.dtld (finF w 15 3) base (bitsF w 0 7))) else none
  | 0x3b => if fld w 8 2 = 3 ∧ fld w 7 1 = 0 then (do let r ← regOf (fld w 18 5); let base ← regOf (fld w 10 5); some (.tbld r (finF w 15 3) base (bitsF w 0 7))) else none
  | 0x3c => if fld w 18 5 = 0 ∧ fld w 8 2 = 3 ∧ fld w 7 1 = 0 then (do let base ← regOf (fld w 10 5); some (.xpld (finF w 15 3) base (bitsF w 0 7))) else none
  | 0x3d => if fld w 0 4 = 0 then (do let a ← regOf (fld w 18 5); let b ← regOf (fld w 13 5); some (.gkbind a b (bitsF w 7 6) (bitsF w 4 3))) else none
  | 0x3e => (if fld w 18 5 = 0 ∧ fld w 5 3 = 0 ∧ fld w 3 2 = 0 then (do let a ← regOf (fld w 13 5); let b ← regOf (fld w 8 5); let sc ← scopeOf (fld w 0 3); some (.ptinvPage a b sc)) else none) <|>
      (if fld w 18 5 = 0 ∧ fld w 13 5 = 0 ∧ fld w 5 3 = 0 ∧ fld w 3 2 = 1 then (do let b ← regOf (fld w 8 5); let sc ← scopeOf (fld w 0 3); some (.ptinvAsid b sc)) else none) <|>
      (if fld w 18 5 = 0 ∧ fld w 13 5 = 0 ∧ fld w 8 5 = 0 ∧ fld w 5 3 = 0 ∧ fld w 3 2 = 2 then (do let sc ← scopeOf (fld w 0 3); some (.ptinvAll sc)) else none)
  | 0x40 => some (.dwait (finF w 20 3) (bitsF w 0 20))
  | 0x41 => if fld w 0 15 = 0 then (do let a ← regOf (fld w 15 5); some (.dset (finF w 20 3) a)) else none
  | 0x42 => if fld w 0 15 = 0 then (do let a ← regOf (fld w 15 5); some (.dadd (finF w 20 3) a)) else none
  | 0x43 => if fld w 0 15 = 0 then (do let a ← regOf (fld w 15 5); some (.acbind (finF w 20 3) a)) else none
  | 0x44 => some (.await (finF w 20 3) (bitsF w 0 20))
  | 0x45 => if fld w 0 13 = 0 then (do let kind ← barKindOf (fld w 21 2); let d ← regOf (fld w 16 5); some (.bar kind d (finF w 13 3))) else none
  | 0x46 => if fld w 0 18 = 0 then (do let d ← regOf (fld w 18 5); some (.tread d)) else none
  | 0x47 => if fld w 2 16 = 0 then (do let d ← regOf (fld w 18 5); some (.erd d (bitsF w 0 2))) else none
  | 0x48 => if fld w 0 13 = 0 then (do let d ← regOf (fld w 18 5); let a ← regOf (fld w 13 5); some (.pcrd d a)) else none
  | 0x50 => if fld w 0 8 = 0 then (do let r ← regOf (fld w 18 5); let x ← sysRegOf (fld w 8 10); some (.sysrd r x)) else none
  | 0x51 => if fld w 0 8 = 0 then (do let r ← regOf (fld w 18 5); let x ← sysRegOf (fld w 8 10); some (.syswr r x)) else none
  | 0x52 => some (.pfx (bitsF w 0 23))
  | 0x53 => if fld w 8 5 = 0 ∧ fld w 4 2 = 0 then (do let d ← regOf (fld w 18 5); let a ← regOf (fld w 13 5); some (.rndset d a (bitF w 7) (bitF w 6) (bitF w 3) (bitsF w 0 3))) else none
  | 0x54 => if fld w 16 7 = 0 then (some (.trap (bitsF w 0 16))) else none
  | 0x55 => if fld w 0 23 = 0 then (some .eret) else none
  | 0x56 => if fld w 1 12 = 0 then (do let d ← regOf (fld w 18 5); let a ← regOf (fld w 13 5); some (.wake d a (bitF w 0))) else none
  | 0x58 => do let base ← regOf (fld w 10 5); some (.vld (finF w 18 5) (finF w 15 3) base (bitsF w 0 10))
  | 0x59 => do let base ← regOf (fld w 10 5); some (.vst (finF w 18 5) (finF w 15 3) base (bitsF w 0 10))
  | 0x5a => if fld w 0 3 = 0 then (do let base ← regOf (fld w 10 5); let esz ← eszOf (fld w 3 2); some (.vldg (finF w 18 5) (finF w 15 3) base (finF w 5 5) esz)) else none
  | 0x5b => if fld w 0 3 = 0 then (do let base ← regOf (fld w 10 5); let esz ← eszOf (fld w 3 2); some (.vsts (finF w 18 5) (finF w 15 3) base (finF w 5 5) esz)) else none
  | 0x60 => if fld w 0 21 = 0 then (some (.mzero (finF w 21 2))) else none
  | 0x61 => if fld w 18 1 = 0 then (do let f ← fmtOf (fld w 19 4); let base ← regOf (fld w 10 5); some (.mldb f (finF w 15 3) base (bitsF w 0 10))) else none
  | 0x62 => do let fa ← fmtOf (fld w 12 4); let fb ← fmtOf (fld w 8 4); some (.mma (finF w 21 2) (finF w 16 5) fa fb (bitsF w 0 8))
  | 0x63 => if fld w 8 15 = 0 then (some (.mrot (bitsF w 0 8))) else none
  | 0x64 => if fld w 0 6 = 0 then (do let f ← fmtOf (fld w 12 4); some (.mdrain (finF w 21 2) (finF w 16 5) f (bitsF w 6 6))) else none
  | 0x65 => if fld w 0 13 = 0 then (some (.mxch (finF w 21 2) (bitsF w 13 8))) else none
  | 0x68 => if fld w 0 20 = 0 then (do let size ← fuseSizeOf (fld w 20 3); some (.fuse size)) else none
  | 0x69 => if fld w 0 23 = 0 then (some .unfuse) else none
  | 0x6a => if fld w 0 23 = 0 then (some .rejoin) else none
  | _ => none

/-- The instruction a word stands for, its L bit apart; none is ILLEGAL_ENCODING (04 R71-R82). -/
def decodeWord (w : Nat) : Option Instr :=
  ((if fld w 30 1 = 1 then decA (fld w 23 7) w else decC (fld w 23 7) w)).filter Instr.wf

/-- K and OP of an instruction (04 R69, R78-R80; madv, fwalk and brank by 05 R118-R120, log 43); none for a step
without a word. -/
def Instr.opcode : Instr → Option (Nat × Nat)
  | .add _ _ _ _ _ => some (1, 0x0)
  | .sub _ _ _ _ _ => some (1, 0x1)
  | .mul _ _ _ _ _ => some (1, 0x2)
  | .mulh _ _ _ _ _ => some (1, 0x3)
  | .div _ _ _ _ _ => some (1, 0x4)
  | .rem _ _ _ _ _ => some (1, 0x5)
  | .and _ _ _ _ => some (1, 0x6)
  | .or _ _ _ _ => some (1, 0x7)
  | .xor _ _ _ _ => some (1, 0x8)
  | .andn _ _ _ _ => some (1, 0x9)
  | .shl _ _ _ _ _ => some (1, 0xa)
  | .shr _ _ _ _ _ => some (1, 0xb)
  | .sra _ _ _ _ _ => some (1, 0xc)
  | .rotl _ _ _ _ _ => some (1, 0xd)
  | .min _ _ _ _ _ => some (1, 0xe)
  | .max _ _ _ _ _ => some (1, 0xf)
  | .clz _ _ _ _ => some (1, 0x10)
  | .ctz _ _ _ _ => some (1, 0x11)
  | .popc _ _ _ _ => some (1, 0x12)
  | .bext _ _ _ _ _ => some (1, 0x13)
  | .bins _ _ _ _ => some (1, 0x14)
  | .sel _ _ _ _ _ => some (1, 0x15)
  | .cmp _ _ _ _ _ => some (1, 0x16)
  | .hash64 _ _ _ _ => some (1, 0x17)
  | .movi _ _ _ => some (1, 0x18)
  | .movh _ _ _ => some (1, 0x19)
  | .pset _ _ _ _ _ => some (1, 0x1a)
  | .pand _ _ _ _ _ _ => some (1, 0x1b)
  | .por _ _ _ _ _ _ => some (1, 0x1c)
  | .pnot _ _ _ _ => some (1, 0x1d)
  | .addImm _ _ _ _ => some (1, 0x40)
  | .subImm _ _ _ _ => some (1, 0x41)
  | .mulImm _ _ _ _ => some (1, 0x42)
  | .mulhImm _ _ _ _ => some (1, 0x43)
  | .divImm _ _ _ _ => some (1, 0x44)
  | .remImm _ _ _ _ => some (1, 0x45)
  | .andImm _ _ _ _ => some (1, 0x46)
  | .orImm _ _ _ _ => some (1, 0x47)
  | .xorImm _ _ _ _ => some (1, 0x48)
  | .andnImm _ _ _ _ => some (1, 0x49)
  | .shlImm _ _ _ _ => some (1, 0x4a)
  | .shrImm _ _ _ _ => some (1, 0x4b)
  | .sraImm _ _ _ _ => some (1, 0x4c)
  | .rotlImm _ _ _ _ => some (1, 0x4d)
  | .minImm _ _ _ _ => some (1, 0x4e)
  | .maxImm _ _ _ _ => some (1, 0x4f)
  | .cmpImm _ _ _ _ => some (1, 0x56)
  | .fadd _ _ _ _ => some (1, 0x20)
  | .fsub _ _ _ _ => some (1, 0x21)
  | .fmul _ _ _ _ => some (1, 0x22)
  | .fma _ _ _ _ _ => some (1, 0x23)
  | .fdiv _ _ _ _ => some (1, 0x24)
  | .frcp _ _ _ => some (1, 0x25)
  | .frsq _ _ _ => some (1, 0x26)
  | .fmin _ _ _ _ _ => some (1, 0x27)
  | .fmax _ _ _ _ _ => some (1, 0x28)
  | .fcmp _ _ _ _ _ => some (1, 0x29)
  | .fclass _ _ _ _ => some (1, 0x2a)
  | .fcvt _ _ _ _ _ => some (1, 0x2b)
  | .fsgn _ _ _ _ _ => some (1, 0x2c)
  | .vadd _ _ _ _ _ _ => some (1, 0x30)
  | .vsub _ _ _ _ _ _ => some (1, 0x31)
  | .vmul _ _ _ _ _ _ => some (1, 0x32)
  | .vmin _ _ _ _ _ _ => some (1, 0x34)
  | .vmax _ _ _ _ _ _ => some (1, 0x35)
  | .vsgn _ _ _ _ _ _ => some (1, 0x36)
  | .vcmp _ _ _ _ _ _ => some (1, 0x3a)
  | .vfma _ _ _ _ _ => some (1, 0x33)
  | .vsel _ _ _ _ _ => some (1, 0x3b)
  | .vcvt _ _ _ _ _ => some (1, 0x37)
  | .vscl _ _ _ _ => some (1, 0x38)
  | .vred _ _ _ _ _ => some (1, 0x39)
  | .vbc _ _ _ _ => some (1, 0x3c)
  | .vperm _ _ _ _ _ => some (1, 0x3d)
  | .vmov _ _ _ => some (1, 0x3e)
  | .vmovSr _ _ _ _ => some (1, 0x3e)
  | .nop => some (0, 0x0)
  | .ret => some (0, 0x5)
  | .doneF => some (0, 0x7)
  | .yieldF => some (0, 0x8)
  | .hret => some (0, 0x2f)
  | .trigger => some (0, 0x34)
  | .eret => some (0, 0x55)
  | .unfuse => some (0, 0x69)
  | .rejoin => some (0, 0x6a)
  | .br _ _ _ => some (0, 0x1)
  | .jmp _ => some (0, 0x2)
  | .call _ => some (0, 0x4)
  | .jmpr _ _ => some (0, 0x3)
  | .loop _ _ => some (0, 0x6)
  | .brk _ => some (0, 0x9)
  | .trap _ => some (0, 0x54)
  | .pfx _ => some (0, 0x52)
  | .lea _ _ _ _ _ => some (0, 0xa)
  | .madv _ _ _ _ _ _ => some (0, 0xd)
  | .fwalk _ _ _ => some (0, 0xe)
  | .brank _ _ _ _ => some (0, 0xf)
  | .ld _ _ _ _ _ _ => some (0, 0x10)
  | .ldAcq _ _ _ _ _ _ _ => some (0, 0x11)
  | .st _ _ _ _ _ => some (0, 0x12)
  | .stRel _ _ _ _ _ _ => some (0, 0x13)
  | .ldp _ _ _ _ => some (0, 0x14)
  | .stp _ _ _ _ => some (0, 0x15)
  | .pf _ _ _ _ => some (0, 0x16)
  | .fence _ => some (0, 0x17)
  | .amo _ _ _ _ _ _ => some (0, 0x18)
  | .cas _ _ _ _ _ => some (0, 0x19)
  | .red _ _ _ _ _ => some (0, 0x1a)
  | .ldf _ _ _ _ _ => some (0, 0x20)
  | .ldfe _ _ _ _ _ => some (0, 0x21)
  | .stf _ _ _ _ _ => some (0, 0x22)
  | .stfw _ _ _ _ _ => some (0, 0x23)
  | .fest _ _ _ _ _ => some (0, 0x24)
  | .st4 _ _ _ _ _ => some (0, 0x25)
  | .aqPush _ _ _ _ _ => some (0, 0x28)
  | .aqList _ _ _ _ _ _ => some (0, 0x29)
  | .dqPop _ _ => some (0, 0x2a)
  | .dqCnt _ => some (0, 0x2b)
  | .spawn _ _ _ => some (0, 0x2c)
  | .migr _ _ => some (0, 0x2d)
  | .send _ _ _ _ => some (0, 0x2e)
  | .sendQ _ _ _ _ => some (0, 0x2e)
  | .sendR _ _ => some (0, 0x2e)
  | .rqPush _ => some (0, 0x30)
  | .rqTry _ _ => some (0, 0x31)
  | .rqStat _ _ _ => some (0, 0x32)
  | .tlaunch _ _ _ => some (0, 0x33)
  | .twait _ _ => some (0, 0x35)
  | .segld _ _ => some (0, 0x38)
  | .segrd _ _ _ => some (0, 0x39)
  | .dtld _ _ _ => some (0, 0x3a)
  | .tbld _ _ _ _ => some (0, 0x3b)
  | .xpld _ _ _ => some (0, 0x3c)
  | .gkbind _ _ _ _ => some (0, 0x3d)
  | .ptinvPage _ _ _ => some (0, 0x3e)
  | .ptinvAsid _ _ => some (0, 0x3e)
  | .ptinvAll _ => some (0, 0x3e)
  | .dwait _ _ => some (0, 0x40)
  | .await _ _ => some (0, 0x44)
  | .dset _ _ => some (0, 0x41)
  | .dadd _ _ => some (0, 0x42)
  | .acbind _ _ => some (0, 0x43)
  | .bar _ _ _ => some (0, 0x45)
  | .tread _ => some (0, 0x46)
  | .erd _ _ => some (0, 0x47)
  | .pcrd _ _ => some (0, 0x48)
  | .sysrd _ _ => some (0, 0x50)
  | .syswr _ _ => some (0, 0x51)
  | .rndset _ _ _ _ _ _ => some (0, 0x53)
  | .wake _ _ _ => some (0, 0x56)
  | .vld _ _ _ _ => some (0, 0x58)
  | .vst _ _ _ _ => some (0, 0x59)
  | .vldg _ _ _ _ _ => some (0, 0x5a)
  | .vsts _ _ _ _ _ => some (0, 0x5b)
  | .mzero _ => some (0, 0x60)
  | .mldb _ _ _ _ => some (0, 0x61)
  | .mma _ _ _ _ _ => some (0, 0x62)
  | .mrot _ => some (0, 0x63)
  | .mdrain _ _ _ _ => some (0, 0x64)
  | .mxch _ _ => some (0, 0x65)
  | .fuse _ => some (0, 0x68)
  | _ => none

/-- The operand bits [22:0] of an instruction (04 R73, R74, and its entry). -/
def Instr.operands : Instr → Nat
  | .add p d a b v => p.val * 1048576 + d.code * 32768 + a.code * 1024 + b.code * 32 + v.code
  | .sub p d a b v => p.val * 1048576 + d.code * 32768 + a.code * 1024 + b.code * 32 + v.code
  | .mul p d a b v => p.val * 1048576 + d.code * 32768 + a.code * 1024 + b.code * 32 + v.toNat
  | .mulh p d a b v => p.val * 1048576 + d.code * 32768 + a.code * 1024 + b.code * 32 + v.toNat
  | .div p d a b v => p.val * 1048576 + d.code * 32768 + a.code * 1024 + b.code * 32 + v.code
  | .rem p d a b v => p.val * 1048576 + d.code * 32768 + a.code * 1024 + b.code * 32 + v.code
  | .and p d a b => p.val * 1048576 + d.code * 32768 + a.code * 1024 + b.code * 32
  | .or p d a b => p.val * 1048576 + d.code * 32768 + a.code * 1024 + b.code * 32
  | .xor p d a b => p.val * 1048576 + d.code * 32768 + a.code * 1024 + b.code * 32
  | .andn p d a b => p.val * 1048576 + d.code * 32768 + a.code * 1024 + b.code * 32
  | .shl p d a b v => p.val * 1048576 + d.code * 32768 + a.code * 1024 + b.code * 32 + v.toNat
  | .shr p d a b v => p.val * 1048576 + d.code * 32768 + a.code * 1024 + b.code * 32 + v.toNat
  | .sra p d a b v => p.val * 1048576 + d.code * 32768 + a.code * 1024 + b.code * 32 + v.toNat
  | .rotl p d a b v => p.val * 1048576 + d.code * 32768 + a.code * 1024 + b.code * 32 + v.toNat
  | .min p d a b v => p.val * 1048576 + d.code * 32768 + a.code * 1024 + b.code * 32 + v.toNat
  | .max p d a b v => p.val * 1048576 + d.code * 32768 + a.code * 1024 + b.code * 32 + v.toNat
  | .clz p d a v => p.val * 1048576 + d.code * 32768 + a.code * 1024 + v.toNat
  | .ctz p d a v => p.val * 1048576 + d.code * 32768 + a.code * 1024 + v.toNat
  | .popc p d a v => p.val * 1048576 + d.code * 32768 + a.code * 1024 + v.toNat
  | .bext p d a b v => p.val * 1048576 + d.code * 32768 + a.code * 1024 + b.code * 32 + v.toNat
  | .bins p d a b => p.val * 1048576 + d.code * 32768 + a.code * 1024 + b.code * 32
  | .sel p d a b q => p.val * 1048576 + d.code * 32768 + a.code * 1024 + b.code * 32 + q.val
  | .cmp p d a b v => p.val * 1048576 + d.code * 32768 + a.code * 1024 + b.code * 32 + v.toNat
  | .hash64 p d a b => p.val * 1048576 + d.code * 32768 + a.code * 1024 + b.code * 32
  | .movi p d imm => p.val * 1048576 + d.code * 32768 + imm.toNat
  | .movh p d imm => p.val * 1048576 + d.code * 32768 + imm.toNat
  | .pset p pd a b c => p.val * 1048576 + pd.val * 131072 + a.code * 1024 + b.code * 32 + c.code
  | .pand p pd pa pb na nb => p.val * 1048576 + pd.val * 131072 + pa.val * 16384 + pb.val * 2048 + na.toNat * 1024 + nb.toNat * 512
  | .por p pd pa pb na nb => p.val * 1048576 + pd.val * 131072 + pa.val * 16384 + pb.val * 2048 + na.toNat * 1024 + nb.toNat * 512
  | .pnot p pd pa na => p.val * 1048576 + pd.val * 131072 + pa.val * 16384 + na.toNat * 1024
  | .addImm p d a imm => p.val * 1048576 + d.code * 32768 + a.code * 1024 + imm.toNat
  | .subImm p d a imm => p.val * 1048576 + d.code * 32768 + a.code * 1024 + imm.toNat
  | .mulImm p d a imm => p.val * 1048576 + d.code * 32768 + a.code * 1024 + imm.toNat
  | .mulhImm p d a imm => p.val * 1048576 + d.code * 32768 + a.code * 1024 + imm.toNat
  | .divImm p d a imm => p.val * 1048576 + d.code * 32768 + a.code * 1024 + imm.toNat
  | .remImm p d a imm => p.val * 1048576 + d.code * 32768 + a.code * 1024 + imm.toNat
  | .andImm p d a imm => p.val * 1048576 + d.code * 32768 + a.code * 1024 + imm.toNat
  | .orImm p d a imm => p.val * 1048576 + d.code * 32768 + a.code * 1024 + imm.toNat
  | .xorImm p d a imm => p.val * 1048576 + d.code * 32768 + a.code * 1024 + imm.toNat
  | .andnImm p d a imm => p.val * 1048576 + d.code * 32768 + a.code * 1024 + imm.toNat
  | .shlImm p d a imm => p.val * 1048576 + d.code * 32768 + a.code * 1024 + imm.toNat
  | .shrImm p d a imm => p.val * 1048576 + d.code * 32768 + a.code * 1024 + imm.toNat
  | .sraImm p d a imm => p.val * 1048576 + d.code * 32768 + a.code * 1024 + imm.toNat
  | .rotlImm p d a imm => p.val * 1048576 + d.code * 32768 + a.code * 1024 + imm.toNat
  | .minImm p d a imm => p.val * 1048576 + d.code * 32768 + a.code * 1024 + imm.toNat
  | .maxImm p d a imm => p.val * 1048576 + d.code * 32768 + a.code * 1024 + imm.toNat
  | .cmpImm p d a imm => p.val * 1048576 + d.code * 32768 + a.code * 1024 + imm.toNat
  | .fadd p d a b => p.val * 1048576 + d.code * 32768 + a.code * 1024 + b.code * 32
  | .fsub p d a b => p.val * 1048576 + d.code * 32768 + a.code * 1024 + b.code * 32
  | .fmul p d a b => p.val * 1048576 + d.code * 32768 + a.code * 1024 + b.code * 32
  | .fma p d a b c => p.val * 1048576 + d.code * 32768 + a.code * 1024 + b.code * 32 + c.code
  | .fdiv p d a b => p.val * 1048576 + d.code * 32768 + a.code * 1024 + b.code * 32
  | .frcp p d a => p.val * 1048576 + d.code * 32768 + a.code * 1024
  | .frsq p d a => p.val * 1048576 + d.code * 32768 + a.code * 1024
  | .fmin p d a b v => p.val * 1048576 + d.code * 32768 + a.code * 1024 + b.code * 32 + v.toNat
  | .fmax p d a b v => p.val * 1048576 + d.code * 32768 + a.code * 1024 + b.code * 32 + v.toNat
  | .fcmp p pd a b c => p.val * 1048576 + pd.val * 131072 + a.code * 1024 + b.code * 32 + c.code
  | .fclass p d a f => p.val * 1048576 + d.code * 32768 + a.code * 1024 + f.code
  | .fcvt p d a src dst => p.val * 1048576 + d.code * 32768 + a.code * 1024 + src.code * 32 + dst.code
  | .fsgn p d a b v => p.val * 1048576 + d.code * 32768 + a.code * 1024 + b.code * 32 + v.code
  | .vadd p vd va vb o f => p.val * 1048576 + vd.val * 32768 + va.val * 1024 + vb.val * 32 + o.toNat * 16 + f.code
  | .vsub p vd va vb o f => p.val * 1048576 + vd.val * 32768 + va.val * 1024 + vb.val * 32 + o.toNat * 16 + f.code
  | .vmul p vd va vb o f => p.val * 1048576 + vd.val * 32768 + va.val * 1024 + vb.val * 32 + o.toNat * 16 + f.code
  | .vmin p vd va vb o f => p.val * 1048576 + vd.val * 32768 + va.val * 1024 + vb.val * 32 + o.toNat * 16 + f.code
  | .vmax p vd va vb o f => p.val * 1048576 + vd.val * 32768 + va.val * 1024 + vb.val * 32 + o.toNat * 16 + f.code
  | .vsgn p vd va vb o f => p.val * 1048576 + vd.val * 32768 + va.val * 1024 + vb.val * 32 + o.toNat * 16 + f.code
  | .vcmp p vd va vb o f => p.val * 1048576 + vd.val * 32768 + va.val * 1024 + vb.val * 32 + o.toNat * 16 + f.code
  | .vfma p vd va vb vc => p.val * 1048576 + vd.val * 32768 + va.val * 1024 + vb.val * 32 + vc.val
  | .vsel p vd va vb vc => p.val * 1048576 + vd.val * 32768 + va.val * 1024 + vb.val * 32 + vc.val
  | .vcvt p vd va src dst => p.val * 1048576 + vd.val * 32768 + va.val * 1024 + src.code * 32 + dst.code
  | .vscl p vd va vb => p.val * 1048576 + vd.val * 32768 + va.val * 1024 + vb.val * 32
  | .vred p d va o f => p.val * 1048576 + d.code * 32768 + va.val * 1024 + o.toNat * 16 + f.code
  | .vbc p vd a f => p.val * 1048576 + vd.val * 32768 + a.code * 1024 + f.code
  | .vperm p vd va vb f => p.val * 1048576 + vd.val * 32768 + va.val * 1024 + vb.val * 32 + f.code
  | .vmov p vd va => p.val * 1048576 + vd.val * 32768 + va.val * 1024
  | .vmovSr p vd va f => p.val * 1048576 + vd.val * 32768 + va.val * 1024 + 16 + f.code
  | .nop => 0
  | .ret => 0
  | .doneF => 0
  | .yieldF => 0
  | .hret => 0
  | .trigger => 0
  | .eret => 0
  | .unfuse => 0
  | .rejoin => 0
  | .br p n imm => p.val * 1048576 + n.toNat * 524288 + imm.toNat
  | .jmp imm => imm.toNat
  | .call imm => imm.toNat
  | .jmpr d a => d.code * 262144 + a.code * 8192
  | .loop a imm => a.code * 262144 + imm.toNat
  | .brk code => code.toNat
  | .trap code => code.toNat
  | .pfx imm => imm.toNat
  | .lea r sg base sz imm => r.code * 262144 + sg.val * 32768 + base.code * 1024 + sz.code * 256 + imm.toNat
  | .madv d a b peq plt esz => d.code * 262144 + a.code * 8192 + b.code * 256 + peq.val * 32 + plt.val * 4 + esz.code
  | .fwalk d a b => d.code * 262144 + a.code * 8192 + b.code * 256
  | .brank d a b pd => d.code * 262144 + a.code * 8192 + b.code * 256 + pd.val
  | .ld r sg base sz x imm => r.code * 262144 + sg.val * 32768 + base.code * 1024 + sz.code * 256 + x.toNat * 128 + imm.toNat
  | .ldAcq r sg base sz x sc imm => r.code * 262144 + sg.val * 32768 + base.code * 1024 + sz.code * 256 + x.toNat * 128 + sc.code * 16 + imm.toNat
  | .st r sg base sz imm => r.code * 262144 + sg.val * 32768 + base.code * 1024 + sz.code * 256 + imm.toNat
  | .stRel r sg base sz sc imm => r.code * 262144 + sg.val * 32768 + base.code * 1024 + sz.code * 256 + sc.code * 16 + imm.toNat
  | .ldp r sg base imm => r.code * 262144 + sg.val * 32768 + base.code * 1024 + 768 + imm.toNat
  | .stp r sg base imm => r.code * 262144 + sg.val * 32768 + base.code * 1024 + 768 + imm.toNat
  | .pf sg base sz imm => sg.val * 32768 + base.code * 1024 + sz.code * 256 + imm.toNat
  | .fence sc => sc.code * 1048576
  | .amo d sg base b op esz => d.code * 262144 + sg.val * 32768 + base.code * 1024 + b.code * 32 + op.code * 4 + esz.code
  | .cas d sg base b c => d.code * 262144 + sg.val * 32768 + base.code * 1024 + b.code * 32 + c.code
  | .red sg base b op esz => sg.val * 32768 + base.code * 1024 + b.code * 32 + op.code * 4 + esz.code
  | .ldf r sg base sc imm => r.code * 262144 + sg.val * 32768 + base.code * 1024 + sc.code * 128 + imm.toNat
  | .ldfe r sg base sc imm => r.code * 262144 + sg.val * 32768 + base.code * 1024 + sc.code * 128 + imm.toNat
  | .stf r sg base sc imm => r.code * 262144 + sg.val * 32768 + base.code * 1024 + sc.code * 128 + imm.toNat
  | .stfw r sg base sc imm => r.code * 262144 + sg.val * 32768 + base.code * 1024 + sc.code * 128 + imm.toNat
  | .fest full sg base sc imm => full.toNat * 262144 + sg.val * 32768 + base.code * 1024 + sc.code * 128 + imm.toNat
  | .st4 r sg base hi imm => r.code * 262144 + sg.val * 32768 + base.code * 1024 + hi.toNat * 128 + imm.toNat
  | .aqPush sg base sz x imm => sg.val * 32768 + base.code * 1024 + sz.code * 256 + x.toNat * 128 + imm.toNat
  | .aqList r sg base sz x imm => r.code * 262144 + sg.val * 32768 + base.code * 1024 + sz.code * 256 + x.toNat * 128 + imm.toNat
  | .dqPop d two => d.code * 262144 + two.toNat
  | .dqCnt d => d.code * 262144
  | .spawn d a imm => d.code * 262144 + a.code * 8192 + imm.toNat
  | .migr d a => d.code * 262144 + a.code * 8192
  | .send d a b n => d.code * 262144 + a.code * 8192 + b.code * 256 + n.toNat
  | .sendQ d a b n => d.code * 262144 + a.code * 8192 + b.code * 256 + 4 + n.toNat
  | .sendR d b => d.code * 262144 + b.code * 256 + 8
  | .rqPush n => n.toNat * 1048576
  | .rqTry d n => d.code * 262144 + n.toNat
  | .rqStat d a k => d.code * 262144 + a.code * 8192 + k.toNat
  | .tlaunch d a sg => d.code * 262144 + a.code * 8192 + sg.val
  | .twait d a => d.code * 262144 + a.code * 8192
  | .segld a k => a.code * 8192 + k.val
  | .segrd d t k => d.code * 262144 + t.toNat * 8 + k.val
  | .dtld sg base imm => sg.val * 32768 + base.code * 1024 + 768 + imm.toNat
  | .tbld r sg base imm => r.code * 262144 + sg.val * 32768 + base.code * 1024 + 768 + imm.toNat
  | .xpld sg base imm => sg.val * 32768 + base.code * 1024 + 768 + imm.toNat
  | .gkbind a b tag ctx => a.code * 262144 + b.code * 8192 + tag.toNat * 128 + ctx.toNat * 16
  | .ptinvPage a b sc => a.code * 8192 + b.code * 256 + sc.code
  | .ptinvAsid b sc => b.code * 256 + 8 + sc.code
  | .ptinvAll sc => 16 + sc.code
  | .dwait k imm => k.val * 1048576 + imm.toNat
  | .await k imm => k.val * 1048576 + imm.toNat
  | .dset k a => k.val * 1048576 + a.code * 32768
  | .dadd k a => k.val * 1048576 + a.code * 32768
  | .acbind k a => k.val * 1048576 + a.code * 32768
  | .bar kind d pd => kind.code * 2097152 + d.code * 65536 + pd.val * 8192
  | .tread d => d.code * 262144
  | .erd d k => d.code * 262144 + k.toNat
  | .pcrd d a => d.code * 262144 + a.code * 8192
  | .sysrd r x => r.code * 262144 + x.code * 256
  | .syswr r x => r.code * 262144 + x.code * 256
  | .rndset d a s m fz rm => d.code * 262144 + a.code * 8192 + s.toNat * 128 + m.toNat * 64 + fz.toNat * 8 + rm.toNat
  | .wake d a skip => d.code * 262144 + a.code * 8192 + skip.toNat
  | .vld v sg base imm => v.val * 262144 + sg.val * 32768 + base.code * 1024 + imm.toNat
  | .vst v sg base imm => v.val * 262144 + sg.val * 32768 + base.code * 1024 + imm.toNat
  | .vldg v sg base vi esz => v.val * 262144 + sg.val * 32768 + base.code * 1024 + vi.val * 32 + esz.code * 8
  | .vsts v sg base vi esz => v.val * 262144 + sg.val * 32768 + base.code * 1024 + vi.val * 32 + esz.code * 8
  | .mzero acc => acc.val * 2097152
  | .mldb f sg base imm => f.code * 524288 + sg.val * 32768 + base.code * 1024 + imm.toNat
  | .mma acc va fa fb cnt => acc.val * 2097152 + va.val * 65536 + fa.code * 4096 + fb.code * 256 + cnt.toNat
  | .mrot cnt => cnt.toNat
  | .mdrain acc v f row => acc.val * 2097152 + v.val * 65536 + f.code * 4096 + row.toNat * 64
  | .mxch acc entry => acc.val * 2097152 + entry.toNat * 8192
  | .fuse size => size.code * 1048576
  | _ => 0

/-- The word of an instruction, lone (L = 1) or as a half of a pair (L = 0) (04 R69). -/
def encode (lone : Bool) (i : Instr) : Option Nat :=
  i.opcode.map fun ko => lone.toNat * 2147483648 + ko.1 * 1073741824 + ko.2 * 8388608 + i.operands

/-- The bytes of a word, lowest address first (00 R1). -/
def wordBytes (w : Nat) : List Byte :=
  [BitVec.ofNat 8 w, BitVec.ofNat 8 (w / 256), BitVec.ofNat 8 (w / 65536), BitVec.ofNat 8 (w / 16777216)]

/-- The word whose four bytes stand lowest address first; none for fewer bytes. -/
def bytesWord : List Byte → Option Nat
  | b0 :: b1 :: b2 :: b3 :: _ =>
      some (b0.toNat + b1.toNat * 256 + b2.toNat * 65536 + b3.toNat * 16777216)
  | _ => none

/-- Decoding from memory bytes: the instruction and the bytes that follow it. -/
def decodeBytes (bs : List Byte) : Option (Instr × List Byte) := do
  let w ← bytesWord bs
  let i ← decodeWord w
  some (i, bs.drop 4)

/-- What the decoder reads from an instruction of the table given by its bits (the host's question);
every instruction is one 32-bit word, so an operand bit the table leaves out is 0. -/
def decodeTableWord (_nbits w : Nat) : Option Instr :=
  (decodeBytes (wordBytes w)).map Prod.fst

end Sys2Proof
end

