-- ==== Sys2Proof/Config.lean ====
section
/-! DEFINITION. What an implementation, the firmware or the outside world fixes and the spec leaves
open: uninterpreted constants, so that nothing can be proved of their values (log 7). -/

namespace Sys2Proof.Config

/-- Which of several enabled steps of the device comes next when the agenda is empty (00 R5; log 1). -/
opaque choose : Nat → Nat

/-- What the outside world does next: the host, the control node, other devices, the runtime's choices for a
dispatch, and measured energies and temperatures (log 1). -/
opaque input : Nat → Option Instr

/-- Disturbances of DRAM cells: an atom, and whether it becomes uncorrectable (01 R12; log 7). -/
opaque upset : Nat → Option (Nat × Bool)

/-- The device's serial number, fused at manufacture (16 R391). -/
opaque serial : BitVec 56

/-- Where the boot firmware places a die's fault queue, in units of 32 MB (15 R375). -/
opaque fqSlot : Nat → BitVec 14

/-- The image that the package flash holds as delivered (16 R408, R409). -/
opaque flashImage : List Byte

/-- Where the runtime places the root table of an ASID, in units of 64 KB (13 R323, R326). -/
opaque rootSlot : Nat → BitVec 23

/-- SHAKE256 with 64 bytes of output; the spec names the function and does not define it (16 R407). -/
opaque shake256 : List Byte → W512

/-- SHAKE256 of memory given as the bytes that differ from 0, for a checkpoint chunk (16 R407). -/
opaque shakeCells : Nat → List Host.Cell → W512

/-- Whether an Ed448 signature over a digest verifies under the boot ROM's key (16 R409). -/
opaque ed448Verify : W512 → List Byte → Bool

/-- The Ed448 signature of a digest under the device's identity key, 114 bytes (16 R410). -/
opaque ed448Sign : W512 → BitVec 912

/-- The refresh filter that the boot test leaves in a bank: channel, bank, filter (08 R191). -/
opaque filterBoot : Nat → Nat → Nat → BitVec 1024

/-- The Mulos port through which packets from and to a domain id travel (16 R397, R399). -/
opaque portOf : Nat → BitVec 4

/-- The domain ids of the other members of the domain that the device joins (16 R406). -/
opaque members : List (BitVec 8)

/-- The partition maps that the switches have been given: of a TABLE its ND, NCH, DEV0, PK and PSEED (16 R399). -/
opaque partMaps : List (Nat × Nat × Nat × Nat × Nat × Nat)

/-- The source id that a Mulos port was configured with (16 R397). -/
opaque portId : BitVec 4 → BitVec 8

/-- What the firmware leaves in device memory: the runtime's programs, stream queues, page tables and domain
table are its own (16 R409). -/
opaque bootMemory : List Host.Cell

/-- The stream fibres that the firmware starts on a command core: the PC and PRIV of each, from slot 0 up
(12 R304, 16 R409). -/
opaque bootFibres : Nat → List (W64 × Bool)

/-- The segment registers sg2-sg7 that the firmware gives a command core (07 R164, 16 R409). -/
opaque bootSegs : Nat → Nat → W128

/-- The value of a result that the spec leaves open, fresh for each number (log 5). -/
opaque freeValue : Nat → W64

end Sys2Proof.Config
end

