-- ==== Sys2Proof/Machine/State.lean ====
section
/-! DEFINITION. The state of the device as plain data: every piece of state that the spec names
(INVENTORY.md lists them with their rules), the reasons a step can stop, and the state after reset.
A map from numbers is a list of pairs with rising keys; what an absent key stands for is said at each
field. -/

namespace Sys2Proof.Machine

/-- Why a step can stop with a fault. -/
inductive Fault where
  /-- Raised by exec of an instruction word when no fibre is issuing (the issue latch names no
  fibre): no step of the device does so. Safe: nothing is claimed of such a state. -/
  | noIssuer
  deriving DecidableEq, Repr

/-- Why a step can be refused. -/
inductive Refusal where
  /-- Raised by exec for a step that has no meaning yet. Safe. -/
  | notModelled (mnemonic : String)
  deriving DecidableEq, Repr

/-- A map from numbers, keys strictly rising. -/
abbrev NMap (α : Type) := List (Nat × α)

/-- Bytes by address, addresses strictly rising, no byte 0 listed: an unlisted byte reads 0 (08 R175). -/
abbrev Mem := List Host.Cell

/-- Fault codes (15 R373). -/
inductive FCode where
  | illegalEncoding | feature | privilege | prefixMisuse | handlerDiscipline | align | segRights
  | segLimit | segKind | classMisuse | queueUnderflow | msgTarget | engineFormat | tableFormat
  | fabricProtection | divergence | divergenceUnresolved | pageAbsent | pageRights | busError
  | memEcc | graphConfig | graphTimeout | engineIndex | formatRecord | breakpoint | fabricTimeout
  | scrubError
  deriving DecidableEq, Repr

/-- The kind of the address in a fault record (15 R374). -/
inductive AKind where
  | virtual | physical | tile | none
  deriving DecidableEq, Repr

/-- A fault record (15 R374) before it gets its place and SEQ. fid is the whole dword at +0x04. -/
structure FaultRec where
  code : FCode
  cls : Nat
  src : Nat
  restored : Bool
  akind : AKind
  entry : Nat
  count : Nat
  fid : Nat
  pc : W64
  addr : Nat
  info : Nat
  tid : Nat
  deriving DecidableEq, Repr

/-- Core kinds (07 R158). -/
inductive Kind where
  | lookup | dense | command
  deriving DecidableEq, Repr

/-- Park reasons (02 R22). -/
inductive Park where
  | reply | resource | counter | sync | xlate | fault | matrix
  deriving DecidableEq, Repr

/-- States of a fibre that holds a slot (02 R22); a slot without a fibre is FREE. -/
inductive RunState where
  | ready
  | running (strand : Nat)
  | parked (why : Park)
  deriving DecidableEq, Repr

/-- What a fibre parked with reason 2 waits for (02 R22, 11 R268). -/
inductive Resource where
  | dqEntries (n : Nat) | dqHead (n : Nat) | storeBuffer (n : Nat) | sendSlot | feSlot | fifo | trap
  | acc (n : Nat) | tileRange (off n : Nat) | dqOwn (n : Nat)
  deriving DecidableEq, Repr

/-- A segment access after Seg (07 R165): the place in the space that the segment names. -/
inductive Loc where
  | tile (core : Nat) (off : Nat)
  | va (addr : Nat) (tag : Option Nat)
  | scratch (addr : Nat)
  deriving DecidableEq, Repr

/-- A physical place (08 R176): device DRAM, a tile, a scratchpad, a host line, a device register,
another device's memory (RMT), or a row of a table that another device owns (16 R398: the device, the
table, the row, the segment offset, and MERGE). -/
inductive Place where
  | dram (addr : Nat)
  | tile (core off : Nat)
  | scratch (addr : Nat)
  | host (addr : Nat) (cached : Bool)
  | regs (addr : Nat)
  | peer (dev addr : Nat)
  | row (dev table row soff : Nat) (merge : Bool)
  deriving DecidableEq, Repr

/-- What an access does. -/
inductive AccOp where
  | load
  | store
  | nibble (hi : Bool)
  | amo (op : AmoOp)
  | cas
  | red (op : RedOp)
  | ldf | ldfe | stf | stfw
  | fest (full : Bool)
  deriving DecidableEq, Repr

/-- One access of at most 64 bytes: size in bytes, the data written (low size bytes), the compared
value of a cas. -/
structure Acc1 where
  op : AccOp
  size : Nat
  data : W512
  cmp : W64
  deriving DecidableEq, Repr

/-- What becomes of the bytes that a transaction gathers (05 R119, 06 R134-R138, 08 R199-R211,
12 R292-R297, 13 R341, R342; 16 R394, R400, R402). -/
inductive Dst where
  | reg (r : Reg) (size : Nat) (sx : Bool)
  | pair (r : Reg)
  | fe (r : Option Reg)
  | vec (v : VReg)
  | latch (f : Fmt)
  | fwalk (d : Reg) (kind : Nat) (p0 p1 : Nat)
  | fwalkRec (d : Reg) (roff : Nat) (b : W64)
  | madv (d a b : Reg) (peq plt : PReg) (n : Nat)
  | brank (d : Reg) (pd : PReg) (j : Nat)
  | dtab | tabSlot (slot : Nat) | xtab
  | gk (a : Reg) (tag ctx lo hi : Nat)
  | gkUnbind (a : Reg) (tag : Nat)
  | launch (d : Reg) (sg : Fin 8) (off stage : Nat)
  | node (write : Bool)
  | packet (dev : Nat) (tag : BitVec 16)
  | discard
  deriving DecidableEq, Repr

/-- Who issued an access: a fibre's word (its pc, its word, whether it is a pair's C word, whether a prefix was pending before it), or an
engine command's element. -/
structure Issuer where
  core : Nat
  slot : Nat
  pc : W64
  word : Nat
  pair : Bool
  pp : Bool
  tid : Nat
  deriving DecidableEq, Repr

/-- What a request's answer completes. The bytes that an engine element reads go to a tile offset, or, for
WALK and COLL, to a place in the command's buffer. -/
inductive Origin where
  | txn (id off : Nat)
  | pool (core entry : Nat)
  | store (core id : Nat)
  | engine (core entry elem : Nat) (dst : Option Nat)
  | icache (core slot va : Nat)
  | prefetch (core va : Nat)
  deriving DecidableEq, Repr

/-- What an answer brings: the bytes read (and the validity stamp of a DRAM read), or a fault. -/
inductive Answer where
  | ok (data : W512) (stamp : Nat) (done : Bool)
  | err (code : FCode)
  deriving DecidableEq, Repr

/-- A request in flight toward its place, or performed and answered (04 R75, 08 R182, R185), with the TIME at
which it was sent (16 R397), the size in bits of its page (0 for one that is not translated), and the core that it was
sent from, whose place among the requesters of a tile port it keeps when its fibre migrates (11 R278). -/
structure Req where
  who : Issuer
  origin : Origin
  place : Place
  acc : Acc1
  va : Nat
  tag : Option Nat
  rbit : Bool
  stale : Nat
  deferred : Bool
  answer : Option Answer
  sentAt : Nat := 0
  bits : Nat := 0
  via : Nat := 0
  deriving DecidableEq, Repr

/-- Where a piece of an access goes once it is resolved (08 R195, R199): its bytes are at hand, it is
sent to a place (with the R bit, the staleness class and the page size in bits of its leaf), or it ends with an
error that comes with the reply. -/
inductive Tgt where
  | val (v : W512)
  | goes (p : Place) (rbit : Bool) (stale bits : Nat)
  | late (code : FCode)
  deriving DecidableEq, Repr

/-- A piece of an access that lies in one atom or granule: its offset in the access. -/
structure Piece where
  off : Nat
  loc : Loc
  acc : Acc1
  tgt : Option Tgt
  deriving DecidableEq, Repr

/-- An access that a parked fibre waits for (06 R134, R135, R138; 08 R199): its pieces are resolved in
ascending order, then sent together; got gathers the bytes, left counts the replies to come, full is
p7 of a full/empty operation, acq marks an acquire at .sys or wider, which waits after its last reply for the snoops
that were queued then and are counted in snoops (09 R225), err is the error of the lowest piece that met one. -/
structure Txn where
  who : Issuer
  dst : Dst
  size : Nat
  plan : List Piece
  got : Mem
  left : Nat
  full : Bool
  acq : Bool
  snoops : Nat
  err : Option (Nat × FCode × AKind × Nat)
  deriving DecidableEq, Repr

/-- What a translation serves: the pieces of a transaction, a store, a queue read, a fetch, a
speculative read, an element, or a later element that the engine looks ahead to (12 R290). -/
inductive WalkFor where
  | txn (id off : Nat)
  | store (id : Nat)
  | reissue
  | resend (k : Nat)
  | fetch
  | prefetch
  | engine (entry : Nat)
  | ahead (entry : Nat)
  deriving DecidableEq, Repr

/-- A translation held in a TLB or a core translation cache (13 R324, R326): the ASID, the page
number, the page size in bits, the leaf, and the physical address of the leaf. -/
structure Xlate where
  asid : Nat
  page : Nat
  bits : Nat
  leaf : W64
  home : Nat
  deriving DecidableEq, Repr

/-- A translation under way (13 R326, R327): the access it serves, the further addresses that a queue
instruction needs (11 R272), whether the TLB has been looked up and has missed, whether a walker of the die
serves it, and the entry that the TLB held. -/
structure WalkReq where
  who : Issuer
  va : Nat
  write : Bool
  asid : Nat
  wants : WalkFor
  more : List Nat
  acc : Acc1
  tag : Option Nat
  missed : Bool
  walking : Bool
  hit : Option Xlate
  dropped : Bool
  deriving DecidableEq, Repr

/-- What a fibre that waits for its writes does once they are acknowledged (08 R201, R214, R215;
11 R282; 12 R316; 13 R343; 14 R356). -/
inductive Then where
  | nothing
  | store (loc : Loc) (acc : Acc1)
  | tile (off : Nat) (acc : Acc1)
  | remote (loc : Loc) (acc : Acc1)
  | fe (off : Nat) (acc : Acc1)
  | bar (kind : BarKind) (d : Reg) (pd : PReg)
  | migr (d : Reg) (dest : Nat)
  | trigger (tid : Nat)
  | ptinv (sc : Scope) (kind va asid : Nat)
  deriving DecidableEq, Repr

/-- What a parked fibre waits for. A drain keeps how many failures were held for the fibre when it began to wait
(08 R215). -/
inductive Wait where
  | none
  | txn (id : Nat)
  | walk
  | icache
  | resource (r : Resource)
  | done (k : Nat) (thr : BitVec 32)
  | arrival (k : Nat) (thr : BitVec 32)
  | fullEmpty (word : Nat)
  | bar (kind : BarKind) (d : Reg) (pd : PReg) (who : Issuer)
  | rejoin (words : Nat)
  | task (tid : Nat) (d : Reg)
  | drain (sc : Scope) (next : Then) (who : Issuer) (held : Nat)
  | msg (id : Nat)
  | walks (ids : List Nat)
  | stores (ids : List Nat)
  | fault
  | dqFault (k : Nat)
  | mma (acc : Nat) (va : Nat) (fa fb : Fmt) (n cnt : Nat) (half : Bool) (flags : BitVec 5)
  | ring (id : Nat)
  deriving DecidableEq, Repr

/-- The control part of a fibre's context (02 R21): flags are NF OV UF NX IV from bit 4 down. -/
structure Ctl where
  priv : Bool
  rm : BitVec 3
  fz : Bool
  seed : W16
  flags : BitVec 5
  pp : Bool
  pfxv : BitVec 23
  adone : Bool
  deriving DecidableEq, Repr

/-- Which write has failed (08 R189, R215; 09 R239; 10 R264): a store or atomic, a red, a write to another device, or a
red whose failure the controller has sent after its acceptance. -/
inductive FailKind where
  | write | red | peer | late
  deriving DecidableEq, Repr

/-- How a fibre stands with its core's sequencer (02 R22, R29, R30; 07 R160; 11 R266, R268). since (twice
a cycle, plus 1 for a spawned fibre)
orders the fibres that became READY or parked; t0 and limit are of a wait that has parked, late says that
its limit has passed, so that it ends by TIMEOUT at its next evaluation (15 R378), and pass is how far the PC goes
on when it does (0 where the A half of a pair is still to be performed: log 46); failed
holds the failures of its writes, with their physical address and kind (08 R215),
frec the record of the fault that parked it (15 R388), and seen the store-buffer entries of other fibres, by
core and number, that it has read by forwarding (09 R223). -/
structure Sched where
  run : RunState
  since : Nat
  issued : Nat
  wait : Wait
  t0 : Option (Nat × Nat)
  late : Bool
  pass : Nat
  resv : Option Resource
  unack : Nat
  dq : List Nat
  failed : List (FCode × Nat × FailKind)
  frec : Option FaultRec
  seen : List (Nat × Nat)
  deriving DecidableEq, Repr

/-- A fibre: its context (02 R20) and its place in the core's queues. -/
structure Fibre where
  pc : W64
  g : Vector W64 8
  s : Vector W64 16
  v : Vector W512 32
  preds : BitVec 7
  ctl : Ctl
  sch : Sched
  deriving DecidableEq, Repr

/-- A strand (02 R28, 05 R95, 06 R126): the fibre on it, the cycle of its last issue, h0, h1, the
fusion request as a group size (0 none), the lock-step bit, the raised wired-AND line, and whether the
strand owes its group a word at which it parked (06 R146). -/
structure Strand where
  occ : Option Nat
  last : Option Nat
  h0 : W64
  h1 : W64
  fuse : Nat
  lock : Bool
  line : Bool
  alone : Bool
  deriving DecidableEq, Repr

/-- The sequencer of a core: its cycle count, the strand that issued last and its strands 0-15
(02 R28, R29). -/
structure Seqr where
  cycle : Nat
  last : Nat
  strands : Vector Strand 16
  deriving DecidableEq, Repr

/-- The handler on strand 15 (02 R31, 11 R281): its sender (fid and core kind), the pool entry that
its reply credit names, whether it has replied, and its issue count. Its registers are those of the
fibre in slot 256. -/
structure Handler where
  sender : Nat
  credit : Option Nat
  replied : Bool
  count : Nat
  deriving DecidableEq, Repr

/-- A message of the inbox (11 R266): its words, its sender's fid and kind, the reply entry, and the
FIFO entry of an engine interrupt, and the cycle of the core in which it arrived (11 R284). -/
structure InMsg where
  words : List W64
  sender : Nat
  credit : Option Nat
  engine : Option Nat
  cycle : Nat := 0
  deriving DecidableEq, Repr

/-- States of a data-queue pool entry (11 R266); an absent entry is FREE, and so is one that is held for the reply
of a send whose inbox slot has not been granted (11 R280). -/
inductive PoolState where
  | held
  | pending
  | ready (v : W64)
  | error (code : FCode) (ak : AKind) (addr : Nat)
  | forwarded (core entry : Nat)
  deriving DecidableEq, Repr

/-- A data-queue pool entry (11 R271). -/
structure PoolEntry where
  st : PoolState
  ext : Bool
  size : Nat
  loc : Option Loc
  owned : Bool
  deriving DecidableEq, Repr

/-- A store-buffer entry (08 R200): who wrote it, where it goes, its access, whether it has been
translated (place, R bit, class), sent, and accepted (a red, before its acknowledgement: 09 R241), and the
first entry of the instruction that wrote it. -/
structure SbEntry where
  who : Issuer
  loc : Loc
  acc : Acc1
  place : Option (Place × Bool × Nat)
  sent : Bool
  accepted : Bool
  grp : Nat
  deriving DecidableEq, Repr

/-- A row-cache entry (08 R181): virtual atom, data, stamp, staleness class, the size in bits of its page (13 R343) and
its atom of DRAM. The fibres in past have read or are reading the atom past the entry, which is no hit for them any
more (09 R221; log 53). The list is oldest fill first. -/
structure RowEnt where
  atom : Nat
  data : BitVec 256
  stamp : Nat
  cls : Nat
  bits : Nat
  phys : Nat
  past : List Nat := []
  deriving DecidableEq, Repr

/-- An instruction-cache line (08 R453): its virtual line number, 64 bytes, and the size in bits of its page
(13 R343). Oldest fill first. -/
structure ILine where
  line : Nat
  data : W512
  bits : Nat
  deriving DecidableEq, Repr

/-- Sets of words of a tile whose waiters the owner serves (08 R208): a fibre of the core, or a
request of another core. -/
inductive Waiter where
  | fibre (slot : Nat) (op : AccOp)
  | remote (req : Nat)
  deriving DecidableEq, Repr

/-- Tile memory (08 R175): bytes, the words that are empty, the waiters of words in arrival order,
and the words reserved for a fibre. -/
structure Tile where
  mem : Mem
  empty : List Nat
  waiters : List (Nat × Waiter)
  resv : NMap Nat
  deriving DecidableEq, Repr

/-- The caches of a core: row cache, prefetches outstanding, instruction cache, translation cache
(most recently used last), the leaves held for a reissue (08 R181, R205, R453; 11 R271), and the lines that a fill has
brought for the next issue of one fibre alone, each with its slot (13 R344). -/
structure Caches where
  row : List RowEnt
  prefetch : List Nat
  icache : List ILine
  xlate : List Xlate
  held : List (Nat × Xlate)
  missed : List Nat
  once : List (Nat × ILine) := []
  deriving DecidableEq, Repr

/-- The crew that a core holds (07 R159, R164; 13 R329): its task's TID, crew number, relative
place, tile bytes T, row-cache bytes C, TFEAT, engine handler address, ASID, RM, FZ, PRIV of the task
descriptor and SEED of fibre 0; rel is the relative valley or cluster. -/
structure Crew where
  tid : Nat
  asid : Nat
  crew : Nat
  rel : Nat
  place : Nat
  tile : Nat
  cache : Nat
  tfeat : W64
  taskReg : W64
  ehandler : W64
  rm : BitVec 3
  fz : Bool
  priv : Bool
  seed0 : W16
  deriving DecidableEq, Repr

/-- Trap state and TIMEOUT (07 R160, R162). -/
structure Trap where
  tvec : W64
  epc : W64
  ecause : W64
  eaddr : W64
  einfo : W64
  timeout : W64
  deriving DecidableEq, Repr

/-- States of a command-FIFO entry (12 R299). -/
inductive CmdState where
  | queued | running | stopped | done | aborted
  deriving DecidableEq, Repr

/-- A command-FIFO entry (12 R286, R299): its words, its range of tile bytes from the push on, its pusher (the issuing
word and fid), its place in the order of pushes and resumptions, its state, whether it holds one of the four started places, its
flags, FCODE and AUX; prog is the lowest element not performed, performed lists those performed above
it, next is the next element to send, flight counts the pieces outstanding of each element sent, fault
is the lowest element that met a fault (its index, the fault with its address, and the offset that R301 reports), failed lists
the elements that met one. buf holds the dwords that a COLL or the elements of a WALK have read, or the rows
of a REDUCE; sent says that a COLL has left the device, or that a DEDUP or REDUCE has done its work, and
back that a COLL's result has come. -/
structure Cmd where
  w : Vector W64 4
  range : Option (Nat × Nat)
  who : Issuer
  fid : Nat
  seqNo : Nat
  st : CmdState
  started : Bool
  flags : BitVec 5
  fcode : Nat
  aux : Nat
  prog : Nat
  performed : List Nat
  next : Nat
  flight : NMap Nat
  fault : Option (Nat × (FCode × AKind × Nat) × Nat)
  failed : List Nat
  buf : Mem
  sent : Bool
  back : Bool
  deriving DecidableEq, Repr

/-- Queues and messages of a core (11 R266): pool, store buffer, the fibre that holds each outbound
slot, inbox, slots reserved for messages not yet written, pending senders, the last sender granted,
the forwarding table (old entries with their new places), run-queue slots reserved, and the command-FIFO entry that
sent an element last (12 R290). -/
structure Queues where
  pool : NMap PoolEntry
  sb : NMap SbEntry
  sendSlot : Option Nat
  feSlot : Option Nat
  inbox : List InMsg
  inResv : Nat
  pending : List Nat
  lastGrant : Nat
  fwd : List (List Nat)
  slotResv : List Nat
  lastElem : Nat
  deriving DecidableEq, Repr

/-- Counters of a core (14 R346, R365): done and arrival counters, bindings (none is unbound), the
barrier arrival counts by kind .row .col .vly .task, event counters by selector (absent 0). -/
structure Counters where
  d : Vector W32 8
  ac : Vector W32 8
  bind : Vector (Option Nat) 8
  bar : Vector Nat 4
  ev : NMap W64
  deriving DecidableEq, Repr

/-- Tables of a core (13 R320, R337): decode entries that differ from the reset table, descriptor
slots loaded, and from where each table was last loaded (ASID and virtual address). -/
structure Tables where
  dtab : NMap W16
  slots : NMap (BitVec 256)
  dtabFrom : Option (Nat × Loc)
  slotFrom : NMap (Nat × Loc)
  deriving DecidableEq, Repr

/-- The matrix state of a dense core (06 R126): accumulator elements by 4096·acc + 64·row + column
(absent +0), row cursors, latch bytes, latch scales (absent 127), latch ROTATING, accumulators that
an mxch holds, and mldb writes that wait for the latch. -/
structure Matrix where
  acc : NMap W32
  cursor : Vector (BitVec 6) 4
  latch : Mem
  scales : NMap Byte
  rotating : Bool
  busy : List Nat
  latchWaits : List Nat
  deriving DecidableEq, Repr

/-- What froze a core (15 R378-R381): the fibre or FIFO entry that violated, and whether the access
was already behind the fibre. -/
inductive Frozen where
  | fibre (slot : Nat) (behind : Bool)
  | entry (e : Nat)
  | task
  deriving DecidableEq, Repr

/-- A core. Its kind and number follow from its index (16 R390); stopped while the dispatcher has stopped it for
a pre-emption or an END (02 R36, 15 R382). spare holds what an inspection has written to slots and entries that are not
in use, by the dword of the core's block (16 R393). -/
structure Core where
  crew : Option Crew
  fibres : NMap Fibre
  seq : Seqr
  handler : Option Handler
  frozen : Option Frozen
  stopped : Bool
  segs : Vector W128 8
  resSegs : Vector W128 8
  trap : Trap
  tile : Tile
  caches : Caches
  q : Queues
  fifo : NMap Cmd
  ctr : Counters
  tabs : Tables
  mx : Matrix
  spare : NMap W64 := []
  deriving DecidableEq, Repr

/-- A translation unit (13 R326): its TLB, least recently used first, and its event counters. -/
structure XUnit where
  tlb : List Xlate
  hits : W64
  misses : W64
  walks : W64
  deriving DecidableEq, Repr

/-- A die's fault queue (15 R375, 16 R391): base, PUT, GET, next SEQ, the sources of the outstanding
records from GET to PUT, and held records by source. -/
structure Die where
  fqbase : W64
  put : Nat
  get : Nat
  seq : Nat
  srcs : List Nat
  held : List (Nat × FaultRec)
  deriving DecidableEq, Repr

/-- A valley or cluster as a power domain (07 R158, R161; 14 R360-R362): VFP, GATED, caps, EBUD,
ERES, spend of this and of the previous window, floor energy drawn after RES reached 0, whether
it was stepped down or gated in this window, and the µs of the window in which its loop last evaluated. -/
structure Domain where
  vfp : Nat
  gated : Bool
  capStack : Nat
  capDie : Nat
  bud : Nat
  res : Nat
  spend : Nat
  prev : Nat
  floorUse : Nat
  stepped : Bool
  evalAt : Nat
  deriving DecidableEq, Repr

/-- A combining-buffer entry (10 R242, R259): the value, the oldest undrained acceptance, class, and
the issuers of reds that still await their data. -/
structure CbEntry where
  val : BitVec 256
  oldest : Option Nat
  cls : Nat
  deriving DecidableEq, Repr

/-- A graph context of a gecko (10 R242, R243): image, lanes, status, window. -/
structure GkCtx where
  image : BitVec 4096
  lanes : BitVec 256
  status : W64
  lo : Nat
  hi : Nat
  deriving DecidableEq, Repr

/-- A gecko (10 R242). tags holds the context of a valid tag; cb is keyed by atom address / 32. -/
structure Gecko where
  ctx : NMap GkCtx
  tags : NMap Nat
  dtab : NMap W16
  cb : NMap CbEntry
  dsum : Vector W64 4
  dkey : W128
  deriving DecidableEq, Repr

/-- A fast-layer block (08 R186): set and way, tag, valid and dirty sectors. -/
structure FlBlock where
  set : Nat
  way : Nat
  tag : Nat
  valid : List Nat
  dirty : List Nat
  deriving DecidableEq, Repr

/-- A pseudo-channel's base-die state (08 R187, R191): access count, sample counts per block,
threshold, promotions of this epoch, fast-layer blocks, and the filter bits set since the boot test,
by (bank, filter) as 2·bank + filter. -/
structure Channel where
  accesses : Nat
  counts : NMap Nat
  threshold : Nat
  promos : Nat
  blocks : List FlBlock
  filters : NMap (BitVec 1024)
  deriving DecidableEq, Repr

/-- States of a host line that the device holds (08 R193); an absent line is Invalid. -/
inductive Mesi where
  | s | e | m
  deriving DecidableEq, Repr

/-- A line of the host-line cache: state and data. Lines are least recently used first. -/
structure HLine where
  line : Nat
  st : Mesi
  data : W512
  deriving DecidableEq, Repr

/-- The CXL port (08 R193, 16 R395, R396): lines, snoop queue (line, for ownership), link state, and
what the device has sent: requests and data, oldest first; and the lines that a snoop has taken while a request for
their ownership was in flight, with whether for ownership (08 R216; 21 R443). -/
structure HostPort where
  lines : List HLine
  snoops : List (Nat × Bool)
  up : Bool
  sent : List (Nat × Nat × W512)
  taken : List (Nat × Bool)
  deriving DecidableEq, Repr

/-- Messages between cores in flight (11 R278), and a controller's report of a red that was not applied
(10 R264). -/
inductive Msg where
  | send (who : Issuer) (dest : Nat) (words : List W64) (credit : Option Nat) (granted asked : Bool) (d : Reg)
  | reserve (who : Issuer) (dest : Nat) (d : Reg)
  | migrate (who : Issuer) (dest slot : Nat) (f : Fibre)
  | reply (src dest entry : Nat) (v : Option W64)
  | wake (who : Issuer) (target : Nat) (skip : Bool) (d : Reg)
  | redFail (who : Issuer) (addr : Nat)
  | withdraw (req : Nat)
  deriving DecidableEq, Repr

/-- A ring operation in flight (06 R144, R145): the cores of the group, the strand, and either the
rotation's hop count or the exchange's accumulator and entry; started once every latch or accumulator
that it needs is free. -/
structure RingOp where
  cores : List Nat
  strand : Nat
  hops : Nat
  exch : Option (Nat × BitVec 32)
  started : Bool
  deriving DecidableEq, Repr

/-- Everything in flight: requests, transactions, translations, messages, ring operations, the
next identifier, and the requests that a tile port or a controller has answered, in the order of the answers (11 R278;
09 R221). -/
structure Net where
  next : Nat
  reqs : NMap Req
  txns : NMap Txn
  walks : NMap WalkReq
  msgs : NMap Msg
  rings : NMap RingOp
  answered : List Nat
  deriving DecidableEq, Repr

/-- States of a task (12 R307); recording: it has ended, and its record is on its way to its place (12 R306). -/
inductive TaskState where
  | queued | eligible | resident | recording | complete
  deriving DecidableEq, Repr

/-- The device task table's entry (12 R305-R308): its TID and state; the core that launched it, the segment
that tlaunch named, the offset of the image in it and the bytes that tlaunch read, by offset in the segment; the argument, the
place of its completion record and the R bit of its leaf, the save area; predecessors, PRI, CEIL and MODE; the TIMEs of
tlaunch, of becoming ELIGIBLE and of the first dispatch; EPRI at dispatch and the order of dispatches;
flags and STATUS; the cores it holds in placement-map order, its physical clusters and the start of its
scratchpad region in each; its saved cores and regions, and by relative cluster the source of a saved
exchange table; the energy estimate of its image. -/
structure Task where
  tid : Nat
  st : TaskState
  home : Nat
  seg : W128
  base : Nat
  head : Mem
  arg : W64
  compl : Place × Bool
  save : Nat
  savesz : Nat
  pred : List Nat
  pri : Nat
  ceil : Nat
  mode : Byte
  launched : Nat
  since : Nat
  first : Option Nat
  epri : Nat
  order : Nat
  flags : BitVec 3
  status : Nat
  cores : List Nat
  valleys : List Nat
  clusters : List Nat
  regions : List Nat
  saved : List Core
  scratch : List Mem
  xtabs : NMap (Nat × Loc)
  estimate : Nat
  deriving DecidableEq, Repr

/-- A fibre saved parked with reason 6 (15 R388): its old FID, its task, its place in the placement map and
its slot there, and the record of its fault. -/
structure OldFid where
  fid : Nat
  tid : Nat
  place : Nat
  slot : Nat
  rec_ : FaultRec
  deriving DecidableEq, Repr

/-- Dispatcher and runtime (12 R307, 13 R320, R326; 15 R388): task table by ASID, the last TID,
translation roots, completion order, the table of saved parked fibres, and whether dispatch is
stopped. -/
structure TaskSys where
  table : NMap Task
  lastTid : Nat
  roots : NMap Nat
  completed : List Nat
  oldFids : List OldFid
  stopped : Bool
  dispatched : Nat
  deriving DecidableEq, Repr

/-- The governor (14 R360): state 0 STEADY, 1 BURST, 2 COOL, the window, windows in this state, MDRAW, the TIME at
which the window began, and the energy that the lower bound of the pool grants in it beyond L − U. -/
structure Gov where
  st : Nat
  win : Nat
  inState : Nat
  mdraw : Nat
  start : Nat
  extra : Nat
  deriving DecidableEq, Repr

/-- The global register block's own state (16 R391, R406): domain id, PEERACC, domain table dwords
(by index), temperatures, attestation nonce and TID, the time reference and the rate adjustment. -/
structure DevRegs where
  domid : Byte
  peeracc : NMap (BitVec 4)
  domtab : NMap W64
  temps : NMap Int
  nonce : BitVec 256
  attTid : W64
  timeRef : Nat
  rate : Int
  deriving DecidableEq, Repr

/-- Mulos (16 R397-R404): fenced ports, the answers that the device has sent to packets (the device and
tag, the fault code or 0, the data), the row packets that it has sent and that are not answered, by request, the
MERGE reads that
the switch has forwarded (when, and the reads merged with each), collectives sent (core, entry, when), the
switch's partition map (ND, NCH, DEV0, PK and PSEED of a table), and the time beacons that the device has sent as the
reference of its domain (16 R406), newest first. -/
structure Fabric where
  fenced : List Nat
  answers : List (Nat × Nat × List Byte)
  sentRows : NMap RowPkt
  merge : NMap (Nat × List Nat)
  colls : List (Nat × Nat × Nat)
  maps : NMap (Nat × Nat × Nat × Nat × Nat)
  beacons : List W64
  deriving DecidableEq, Repr

/-- Frames from the device to the control node (16 R394); a NOTICE carries the die, the 32 bytes of the record and
the count of dropped notices; the chunks of a checkpoint go to the safe tier that it names (16 R407). -/
inductive Frame where
  | reply (status : Nat) (data : List W64)
  | notice (die : Nat) (rec_ : BitVec 256) (dropped : Nat)
  | status (temps : List Int) (mdraw gov : Nat)
  | chunk (tier name base : Nat) (data : Mem) (digest : W512)
  | final (tier name count : Nat) (digest : W512) (sig : BitVec 912)
  deriving DecidableEq, Repr

/-- The Chaez port (16 R394): frames sent, newest first; frames of the control node that wait for an earlier one,
oldest first; actions that have begun and not completed, oldest first; the notices that are not sent yet, oldest
first (die and record); the count of those dropped since the last NOTICE; and the digests of the chunks that a
checkpoint has streamed, oldest first (16 R407). -/
structure Chaez where
  out : List Frame
  held : List Instr
  acts : List Instr
  notices : List (Nat × BitVec 256)
  dropped : Nat
  stream : Option (List W512)
  deriving DecidableEq, Repr

/-- Boot stages (16 R409, R411): the boot ROM, RECOVERY, the firmware that waits for its domain, running, tripped. -/
inductive Stage where
  | rom | recovery | joining | running | tripped
  deriving DecidableEq, Repr

/-- Boot and recovery (16 R408, R409): the stage, the flash image when RECOVERY has written one, and
the pieces received. -/
structure Boot where
  stage : Stage
  flash : Option (List Byte)
  pieces : List Byte
  deriving DecidableEq, Repr

/-- The memories outside the cores and the marks on atoms that read uncorrectable or correctable
(08 R175, R189): device DRAM, and the two scratchpads as addresses [24:0] (07 R164). -/
structure MemSys where
  dram : Mem
  scratch : Mem
  bad : List Nat
  weak : List Nat
  deriving DecidableEq, Repr

/-- Device event counters and the rest of the shared state: exchange tables by 256·cluster + entry
(absent: reset table), the cluster's xpld source, barrier phases by instance, and the barriers that are bound
to complete (14 R355), by instance. -/
structure Shared where
  xtab : NMap W32
  xtabFrom : NMap (Nat × Loc)
  phases : NMap Bool
  bound : List Nat
  ev : NMap W64
  deriving DecidableEq, Repr

/-- The issue latch (04 R75; log 2): the fibre that issues (core, slot, strand), the pc, the words of
the issue, the registers and the decode table as they stood before a pair while its A half runs (13 R344), whether the C half wrote
SEED, whether the issue has ended, the other cores of a lock-step group, whether this is such a
follower and the leader's next PC then, and the instructions that await their turn. -/
structure Issue where
  core : Nat
  slot : Nat
  strand : Nat
  pc : W64
  words : Nat
  live : Bool
  snap : Option Fibre
  hsnap : W64 × W64
  dsnap : NMap W16
  seedW : Bool
  ended : Bool
  group : List Nat
  follower : Bool
  leadPc : Option W64
  todo : List Instr
  deriving DecidableEq, Repr

/-- How the effect of a word ends (04 R75): it goes on to the next word, branches, or ends the issue
(a fault, or a park with the PC at the word). -/
inductive Flow where
  | next | jump (pc : W64) | stop
  deriving DecidableEq, Repr

/-- The round of the arbiters (02 R42; log 1): the requesters that must still have their turn, and how many free
choices stand before they have it. -/
structure Rota where
  due : List Instr
  slack : Nat
  deriving DecidableEq, Repr

/-- The device. -/
structure State where
  cores : NMap Core
  units : NMap XUnit
  dies : Vector Die 2
  doms : NMap Domain
  geckos : NMap Gecko
  chans : NMap Channel
  mem : MemSys
  host : HostPort
  net : Net
  tasks : TaskSys
  gov : Gov
  regs : DevRegs
  fab : Fabric
  chaez : Chaez
  boot : Boot
  shared : Shared
  time : W64
  fresh : Nat
  issue : Issue
  agenda : List Instr
  rota : Rota
  deriving DecidableEq, Repr

/-- A park-free control part: what a new fibre's FLAGS, PP, PFXV and ADONE are (02 R24, R26). -/
def Ctl.blank : Ctl := ⟨false, 0, false, 0, 0, false, 0, false⟩

/-- A READY fibre with empty queues (02 R22). -/
def Sched.blank : Sched := ⟨.ready, 0, 0, .none, none, false, 0, none, 0, [], [], none, []⟩

/-- A fibre with every register 0 and p1-p7 false (02 R24, R26; 05 R93; 06 R126). -/
def Fibre.blank : Fibre :=
  ⟨0, Vector.replicate 8 0, Vector.replicate 16 0, Vector.replicate 32 0, 0, Ctl.blank, Sched.blank⟩

/-- A strand that holds no fibre (02 R28, 05 R93, 06 R126). -/
def Strand.blank : Strand := ⟨none, none, 0, 0, 0, false, false, false⟩

/-- The kind of a core index (16 R390). -/
def kindOf (idx : Nat) : Kind :=
  if idx < 4096 then .lookup else if idx < 4112 then .dense else .command

/-- The core id of a core index, as cid reads (07 R158). -/
def cidOf (idx : Nat) : Nat :=
  if idx < 4096 then idx else if idx < 4112 then idx - 4096 else idx - 4112

/-- FEAT of a core kind (07 R157). -/
def featOf : Kind → W64
  | .lookup => 0x1DE3
  | .dense => 0x1DBF
  | .command => 0x1FE3

/-- A segment register from its fields (07 R163): rights are R W X A G from bit 0. -/
def segWord (base tag limit rights kind : Nat) : W128 :=
  BitVec.ofNat 128 (base + tag * 2 ^ 56 + limit * 2 ^ 64 + rights * 2 ^ 119 + kind * 2 ^ 124)

/-- Segment registers of a core that holds no crew: all zero, and R164's sg0 and sg1 on a command core. -/
def segsBlank : Kind → Vector W128 8
  | .command =>
      ((Vector.replicate 8 0).set 0 (segWord 0 0 65536 11 0)).set 1 (segWord 0 0 (2 ^ 28) 11 1)
  | .lookup | .dense => Vector.replicate 8 0

/-- A core that holds no crew, with nothing in its queues, caches and tables (11 R266, 12 R286,
13 R320, 14 R346). -/
def Core.blank (idx : Nat) : Core :=
  { crew := none, fibres := [],
    seq := ⟨0, 15, Vector.replicate 16 Strand.blank⟩,
    handler := none, frozen := none, stopped := false,
    segs := segsBlank (kindOf idx), resSegs := Vector.replicate 8 0,
    trap := ⟨0, 0, 0, 0, 0, 1000000000⟩,
    tile := ⟨[], [], [], []⟩, caches := ⟨[], [], [], [], [], [], []⟩,
    q := ⟨[], [], none, none, [], 0, [], 0, [], [], 7⟩, fifo := [],
    ctr := ⟨Vector.replicate 8 0, Vector.replicate 8 0, Vector.replicate 8 none,
      Vector.replicate 4 0, []⟩,
    tabs := ⟨[], [], none, []⟩,
    mx := ⟨[], Vector.replicate 4 0, [], [], false, [], []⟩ }

/-- A domain at power-on: VFP 12, not gated, nothing allowed or spent (07 R158, R161). -/
def Domain.blank : Domain := ⟨12, false, 12, 12, 0, 0, 0, 0, 0, false, 0⟩

/-- A translation unit with an empty TLB (13 R320). -/
def XUnit.blank : XUnit := ⟨[], 0, 0, 0⟩

/-- A gecko with nothing bound (10 R242). -/
def Gecko.blank : Gecko := ⟨[], [], [], [], Vector.replicate 4 0, 0⟩

/-- A context that gkbind has never loaded (10 R242). -/
def GkCtx.blank : GkCtx := ⟨0, 0, 0, 0, 0⟩

/-- A pseudo-channel with no promoted block (08 R175, R187). -/
def Channel.blank : Channel := ⟨0, [], 8, 0, [], []⟩

/-- No fibre is issuing. -/
def Issue.blank : Issue := ⟨0, 0, 0, 0, 1, false, none, (0, 0), [], false, false, [], false, none, []⟩

/-- The device right after reset: the boot ROM is about to run step 1 (16 R409), no core holds a
fibre, every memory reads 0, every cache and queue is empty, and every register holds the value the
spec gives it (INVENTORY.md); values the spec does not give are those of log 3. -/
def State.reset : State :=
  { cores := [], units := [], dies := Vector.replicate 2 ⟨0, 0, 0, 0, [], []⟩, doms := [],
    geckos := [], chans := [], mem := ⟨[], [], [], []⟩, host := ⟨[], [], true, [], []⟩,
    net := ⟨0, [], [], [], [], [], []⟩, tasks := ⟨[], 0, [], [], [], false, 0⟩, gov := ⟨0, 0, 0, 0, 0, 0⟩,
    regs := ⟨0, [], [], [], 0, 0, 0, 0⟩, fab := ⟨[], [], [], [], [], [], []⟩, chaez := ⟨[], [], [], [], 0, none⟩,
    boot := ⟨.rom, none, []⟩, shared := ⟨[], [], [], [], []⟩, time := 0, fresh := 0,
    issue := Issue.blank, agenda := [], rota := ⟨[], 0⟩ }

end Sys2Proof.Machine
end

