-- ==== Sys2Proof/Machine/Bits.lean ====
section
/-! DEFINITION. Maps, byte memories and bit helpers that the operations use. Everything recurses on
lists or on a counter, so that the kernel evaluates it. -/

namespace Sys2Proof.Machine

/-! ## Maps from numbers -/

/-- The value at a key. -/
def nget {α : Type} : NMap α → Nat → Option α
  | [], _ => none
  | (k, v) :: m, a => if a = k then some v else nget m a

/-- The value at a key, or what an absent key stands for. -/
def ngetD {α : Type} (m : NMap α) (a : Nat) (dflt : α) : α := (nget m a).getD dflt

/-- Setting a key keeps the keys strictly rising. -/
def nput {α : Type} : NMap α → Nat → α → NMap α
  | [], a, v => [(a, v)]
  | (k, w) :: m, a, v =>
      if a < k then (a, v) :: (k, w) :: m
      else if a = k then (a, v) :: m
      else (k, w) :: nput m a v

/-- Removing a key. -/
def ndel {α : Type} : NMap α → Nat → NMap α
  | [], _ => []
  | (k, w) :: m, a => if a = k then m else (k, w) :: ndel m a

/-- Changing the value at a key, if there is one. -/
def nmod {α : Type} (m : NMap α) (a : Nat) (f : α → α) : NMap α :=
  match nget m a with
  | some v => nput m a (f v)
  | none => m

/-- Changing the value at a key; an absent key stands for dflt. -/
def nmodD {α : Type} (m : NMap α) (a : Nat) (dflt : α) (f : α → α) : NMap α :=
  nput m a (f (ngetD m a dflt))

/-! ## Byte memories -/

/-- One byte; an unlisted byte reads 0 (08 R175). -/
def Mem.rd : Mem → Nat → Byte
  | [], _ => 0
  | (k, v) :: m, a => if a = k then v else Mem.rd m a

/-- Listing a byte at its place. -/
def Mem.put : Mem → Nat → Byte → Mem
  | [], a, v => [(a, v)]
  | (k, w) :: m, a, v =>
      if a < k then (a, v) :: (k, w) :: m
      else if a = k then (a, v) :: m
      else (k, w) :: Mem.put m a v

/-- Storing one byte; storing 0 removes the entry, so that equal memories are equal lists. -/
def Mem.wr (m : Mem) (a : Nat) (v : Byte) : Mem := if v = 0 then m.filter (·.1 != a) else m.put a v

/-- Addresses strictly rising from lo on, and no byte 0. -/
def Mem.wfFrom : Nat → Mem → Bool
  | _, [] => true
  | lo, (k, v) :: m => decide (lo ≤ k) && (v != 0) && Mem.wfFrom (k + 1) m

/-- The canonical form of a memory. -/
def Mem.wf (m : Mem) : Bool := Mem.wfFrom 0 m

/-- n bytes from an address, little-endian (00 R1). -/
def Mem.rdN (m : Mem) (a : Nat) : Nat → Nat
  | 0 => 0
  | n + 1 => (Mem.rd m a).toNat + 256 * Mem.rdN m (a + 1) n

/-- Storing the low n bytes of a value, little-endian (00 R1). -/
def Mem.wrN (m : Mem) (a : Nat) (v : Nat) : Nat → Mem
  | 0 => m
  | n + 1 => Mem.wrN (Mem.wr m a (BitVec.ofNat 8 v)) (a + 1) (v / 256) n

/-- A dword at an address. -/
def Mem.rd64 (m : Mem) (a : Nat) : W64 := BitVec.ofNat 64 (Mem.rdN m a 8)

/-- Storing a dword. -/
def Mem.wr64 (m : Mem) (a : Nat) (v : W64) : Mem := Mem.wrN m a v.toNat 8

/-- The bytes of a memory from lo, n of them, moved to offset 0. -/
def Mem.cut (m : Mem) (lo n : Nat) : Mem :=
  (m.filter fun c => lo ≤ c.1 && c.1 < lo + n).map fun c => (c.1 - lo, c.2)

/-- Storing bytes one after the other. -/
def Mem.wrBytes (m : Mem) (a : Nat) : List Byte → Mem
  | [] => m
  | b :: bs => Mem.wrBytes (Mem.wr m a b) (a + 1) bs

/-- Clearing n bytes from lo. -/
def Mem.clear (m : Mem) (lo n : Nat) : Mem := m.filter fun c => !(lo ≤ c.1 && c.1 < lo + n)

/-- Placing the listed bytes of one memory in another, from an address up. -/
def Mem.paste (m : Mem) (a : Nat) (x : Mem) : Mem := x.foldl (fun m b => Mem.wr m (a + b.1) b.2) m

/-! ## Bits -/

/-- Number of set bits among the low n bits. -/
def popN : Nat → Nat → Nat
  | 0, _ => 0
  | n + 1, v => v % 2 + popN n (v / 2)

/-- Number of trailing zero bits among the low n bits (n for zero). -/
def ctzN : Nat → Nat → Nat
  | 0, _ => 0
  | n + 1, v => if v % 2 = 1 then 0 else 1 + ctzN n (v / 2)

/-- Number of leading zero bits of an n-bit value (n for zero). -/
def clzN (n v : Nat) : Nat := if v = 0 then n else n - 1 - Nat.log2 v

/-- A field as a number (00 R1). -/
def bf {n : Nat} (x : BitVec n) (lo len : Nat) : Nat := fld x.toNat lo len

/-- A bit. -/
def bitAt {n : Nat} (x : BitVec n) (k : Nat) : Bool := x.getLsbD k

/-- x with the field [lo + len - 1 : lo] replaced by the low len bits of v. -/
def setBf {n : Nat} (x : BitVec n) (lo len v : Nat) : BitVec n :=
  BitVec.ofNat n (x.toNat - fld x.toNat lo len * 2 ^ lo + v % 2 ^ len * 2 ^ lo)

/-- The low n bits of v as two's complement, in 64 bits (04 R86 SignExt). -/
def sext (n v : Nat) : W64 :=
  let u := v % 2 ^ n
  if 0 < n && 2 ^ (n - 1) ≤ u then BitVec.ofNat 64 (u + 2 ^ 64 - 2 ^ n) else BitVec.ofNat 64 u

/-- The low n bits of v, zero-extended (04 R86 ZeroExt). -/
def zext (n v : Nat) : W64 := BitVec.ofNat 64 (v % 2 ^ n)

/-- A loaded value of n bytes, sign- or zero-extended (08 R199). -/
def extend (sx : Bool) (n v : Nat) : W64 := if sx then sext (8 * n) v else zext (8 * n) v

/-- Bytes of an access size. -/
def szBytes : Size → Nat
  | .b => 1 | .h => 2 | .w => 4 | .d => 8

/-- Bytes of an element size. -/
def eszBytes : Esz → Nat
  | .w => 4 | .d => 8

/-- hash64 (05 R106). -/
def hash64 (a b : W64) : W64 :=
  let x0 := a ^^^ (b * 0x8C3E51A7D2F90B65#64)
  let x1 := (x0 ^^^ (x0 >>> 31)) * 0xE5B36C294A1DF873#64
  let x2 := (x1 ^^^ (x1 >>> 29)) * 0x3D94B7E160C52A9B#64
  x2 ^^^ (x2 >>> 32)

/-- Whether [a, a + n) and [b, b + m) share an address. -/
def overlap (a n b m : Nat) : Bool := a < b + m && b < a + n

/-- Inserting in a list sorted by a number, keeping equals. -/
def insertBy {α : Type} (key : α → Nat) (x : α) : List α → List α
  | [] => [x]
  | y :: ys => if key x ≤ key y then x :: y :: ys else y :: insertBy key x ys

/-- Adding a number to a sorted list without repeats. -/
def addTo (xs : List Nat) (x : Nat) : List Nat := if xs.contains x then xs else insertBy id x xs

/-- Sorting by a number. -/
def sortBy {α : Type} (key : α → Nat) : List α → List α
  | [] => []
  | x :: xs => insertBy key x (sortBy key xs)

/-- The element with the least key, the first of equals. -/
def leastBy {α : Type} (key : α → Nat) : List α → Option α
  | [] => none
  | x :: xs =>
      match leastBy key xs with
      | none => some x
      | some y => if key x ≤ key y then some x else some y

/-- n, n-1, ..., 0 reversed: the numbers below n in order. -/
def upto : Nat → List Nat
  | 0 => []
  | n + 1 => upto n ++ [n]

/-- Applying a step for every number below n, in ascending order. -/
def iter {α : Type} (n : Nat) (f : Nat → α → α) (x : α) : α := (upto n).foldl (fun y k => f k y) x

end Sys2Proof.Machine
end

