-- ==== Sys2Proof/Machine/Checks.lean ====
section
/-! DEFINITION. The decode checks that stand between an instruction and its meaning: which registers
an instruction names, what it writes (04 R76), its feature group (04 R82), which instructions a
handler may not run (02 R32), and who consumes a prefix (04 R84). -/

namespace Sys2Proof.Machine

/-- The register specifiers of an instruction (04 R71). -/
def regsOf : Instr → List Reg
  | .add _ d a b _ => [d, a, b]
  | .sub _ d a b _ => [d, a, b]
  | .mul _ d a b _ => [d, a, b]
  | .mulh _ d a b _ => [d, a, b]
  | .div _ d a b _ => [d, a, b]
  | .rem _ d a b _ => [d, a, b]
  | .and _ d a b => [d, a, b]
  | .or _ d a b => [d, a, b]
  | .xor _ d a b => [d, a, b]
  | .andn _ d a b => [d, a, b]
  | .shl _ d a b _ => [d, a, b]
  | .shr _ d a b _ => [d, a, b]
  | .sra _ d a b _ => [d, a, b]
  | .rotl _ d a b _ => [d, a, b]
  | .min _ d a b _ => [d, a, b]
  | .max _ d a b _ => [d, a, b]
  | .clz _ d a _ => [d, a]
  | .ctz _ d a _ => [d, a]
  | .popc _ d a _ => [d, a]
  | .bext _ d a b _ => [d, a, b]
  | .bins _ d a b => [d, a, b]
  | .sel _ d a b _ => [d, a, b]
  | .cmp _ d a b _ => [d, a, b]
  | .hash64 _ d a b => [d, a, b]
  | .movi _ d _ => [d]
  | .movh _ d _ => [d]
  | .pset _ _ a b _ => [a, b]
  | .addImm _ d a _ => [d, a]
  | .subImm _ d a _ => [d, a]
  | .mulImm _ d a _ => [d, a]
  | .mulhImm _ d a _ => [d, a]
  | .divImm _ d a _ => [d, a]
  | .remImm _ d a _ => [d, a]
  | .andImm _ d a _ => [d, a]
  | .orImm _ d a _ => [d, a]
  | .xorImm _ d a _ => [d, a]
  | .andnImm _ d a _ => [d, a]
  | .shlImm _ d a _ => [d, a]
  | .shrImm _ d a _ => [d, a]
  | .sraImm _ d a _ => [d, a]
  | .rotlImm _ d a _ => [d, a]
  | .minImm _ d a _ => [d, a]
  | .maxImm _ d a _ => [d, a]
  | .cmpImm _ d a _ => [d, a]
  | .fadd _ d a b => [d, a, b]
  | .fsub _ d a b => [d, a, b]
  | .fmul _ d a b => [d, a, b]
  | .fma _ d a b c => [d, a, b, c]
  | .fdiv _ d a b => [d, a, b]
  | .frcp _ d a => [d, a]
  | .frsq _ d a => [d, a]
  | .fmin _ d a b _ => [d, a, b]
  | .fmax _ d a b _ => [d, a, b]
  | .fcmp _ _ a b _ => [a, b]
  | .fclass _ d a _ => [d, a]
  | .fcvt _ d a _ _ => [d, a]
  | .fsgn _ d a b _ => [d, a, b]
  | .vred _ d _ _ _ => [d]
  | .vbc _ _ a _ => [a]
  | .jmpr d a => [d, a]
  | .loop a _ => [a]
  | .lea r _ base _ _ => [r, base]
  | .madv d a b _ _ _ => [d, a, b]
  | .fwalk d a b => [d, a, b]
  | .brank d a b _ => [d, a, b]
  | .ld r _ base _ _ _ => [r, base]
  | .ldAcq r _ base _ _ _ _ => [r, base]
  | .st r _ base _ _ => [r, base]
  | .stRel r _ base _ _ _ => [r, base]
  | .ldp r _ base _ => [r, base]
  | .stp r _ base _ => [r, base]
  | .pf _ base _ _ => [base]
  | .amo d _ base b _ _ => [d, base, b]
  | .cas d _ base b c => [d, base, b, c]
  | .red _ base b _ _ => [base, b]
  | .ldf r _ base _ _ => [r, base]
  | .ldfe r _ base _ _ => [r, base]
  | .stf r _ base _ _ => [r, base]
  | .stfw r _ base _ _ => [r, base]
  | .fest _ _ base _ _ => [base]
  | .st4 r _ base _ _ => [r, base]
  | .aqPush _ base _ _ _ => [base]
  | .aqList r _ base _ _ _ => [r, base]
  | .dqPop d _ => [d]
  | .dqCnt d => [d]
  | .spawn d a _ => [d, a]
  | .migr d a => [d, a]
  | .send d a b _ => [d, a, b]
  | .sendQ d a b _ => [d, a, b]
  | .sendR d b => [d, b]
  | .rqTry d _ => [d]
  | .rqStat d a _ => [d, a]
  | .tlaunch d a _ => [d, a]
  | .twait d a => [d, a]
  | .segld a _ => [a]
  | .segrd d _ _ => [d]
  | .dtld _ base _ => [base]
  | .tbld r _ base _ => [r, base]
  | .xpld _ base _ => [base]
  | .gkbind a b _ _ => [a, b]
  | .ptinvPage a b _ => [a, b]
  | .ptinvAsid b _ => [b]
  | .dset _ a => [a]
  | .dadd _ a => [a]
  | .acbind _ a => [a]
  | .bar _ d _ => [d]
  | .tread d => [d]
  | .erd d _ => [d]
  | .pcrd d a => [d, a]
  | .sysrd r _ => [r]
  | .syswr r _ => [r]
  | .rndset d a _ _ _ _ => [d, a]
  | .wake d a _ => [d, a]
  | .vld _ _ base _ => [base]
  | .vst _ _ base _ => [base]
  | .vldg _ _ base _ _ => [base]
  | .vsts _ _ base _ _ => [base]
  | .mldb _ _ base _ => [base]
  | _ => []

/-- The register after r in a pair (04 R71). -/
def succReg : Reg → Reg
  | .g n => .g (n + 1)
  | .s n => .s (n + 1)
  | r => r

/-- A register written, as a number: g 0-7, s 16-31, p 32-39, v 64-95; zr and p0 are never members
(04 R76). -/
def destReg : Reg → List Nat
  | .g n => [n.val]
  | .s n => [16 + n.val]
  | _ => []

/-- A predicate written, as a number. -/
def destP (p : PReg) : List Nat := if p.val = 0 then [] else [32 + p.val]

/-- A vector register written, as a number. -/
def destV (v : VReg) : Nat := 64 + v.val

/-- Dests of an instruction (04 R76). -/
def destsOf : Instr → List Nat
  | .add _ d _ _ _ => destReg d
  | .sub _ d _ _ _ => destReg d
  | .mul _ d _ _ _ => destReg d
  | .mulh _ d _ _ _ => destReg d
  | .div _ d _ _ _ => destReg d
  | .rem _ d _ _ _ => destReg d
  | .and _ d _ _ => destReg d
  | .or _ d _ _ => destReg d
  | .xor _ d _ _ => destReg d
  | .andn _ d _ _ => destReg d
  | .shl _ d _ _ _ => destReg d
  | .shr _ d _ _ _ => destReg d
  | .sra _ d _ _ _ => destReg d
  | .rotl _ d _ _ _ => destReg d
  | .min _ d _ _ _ => destReg d
  | .max _ d _ _ _ => destReg d
  | .clz _ d _ _ => destReg d
  | .ctz _ d _ _ => destReg d
  | .popc _ d _ _ => destReg d
  | .bext _ d _ _ _ => destReg d
  | .bins _ d _ _ => destReg d
  | .sel _ d _ _ _ => destReg d
  | .cmp _ d _ _ _ => destReg d
  | .hash64 _ d _ _ => destReg d
  | .movi _ d _ => destReg d
  | .movh _ d _ => destReg d
  | .pset _ pd _ _ _ => destP pd
  | .pand _ pd _ _ _ _ => destP pd
  | .por _ pd _ _ _ _ => destP pd
  | .pnot _ pd _ _ => destP pd
  | .addImm _ d _ _ => destReg d
  | .subImm _ d _ _ => destReg d
  | .mulImm _ d _ _ => destReg d
  | .mulhImm _ d _ _ => destReg d
  | .divImm _ d _ _ => destReg d
  | .remImm _ d _ _ => destReg d
  | .andImm _ d _ _ => destReg d
  | .orImm _ d _ _ => destReg d
  | .xorImm _ d _ _ => destReg d
  | .andnImm _ d _ _ => destReg d
  | .shlImm _ d _ _ => destReg d
  | .shrImm _ d _ _ => destReg d
  | .sraImm _ d _ _ => destReg d
  | .rotlImm _ d _ _ => destReg d
  | .minImm _ d _ _ => destReg d
  | .maxImm _ d _ _ => destReg d
  | .cmpImm _ d _ _ => destReg d
  | .fadd _ d _ _ => destReg d
  | .fsub _ d _ _ => destReg d
  | .fmul _ d _ _ => destReg d
  | .fma _ d _ _ _ => destReg d
  | .fdiv _ d _ _ => destReg d
  | .frcp _ d _ => destReg d
  | .frsq _ d _ => destReg d
  | .fmin _ d _ _ _ => destReg d
  | .fmax _ d _ _ _ => destReg d
  | .fcmp _ pd _ _ _ => destP pd
  | .fclass _ d _ _ => destReg d
  | .fcvt _ d _ _ _ => destReg d
  | .fsgn _ d _ _ _ => destReg d
  | .vadd _ vd _ _ _ _ => [destV vd]
  | .vsub _ vd _ _ _ _ => [destV vd]
  | .vmul _ vd _ _ _ _ => [destV vd]
  | .vmin _ vd _ _ _ _ => [destV vd]
  | .vmax _ vd _ _ _ _ => [destV vd]
  | .vsgn _ vd _ _ _ _ => [destV vd]
  | .vcmp _ vd _ _ _ _ => [destV vd]
  | .vfma _ vd _ _ _ => [destV vd]
  | .vsel _ vd _ _ _ => [destV vd]
  | .vcvt _ vd _ _ _ => [destV vd]
  | .vscl _ vd _ _ => [destV vd]
  | .vred _ d _ _ _ => destReg d
  | .vbc _ vd _ _ => [destV vd]
  | .vperm _ vd _ _ _ => [destV vd]
  | .vmov _ vd _ => [destV vd]
  | .vmovSr _ vd _ _ => [destV vd]
  | .rejoin => [39]
  | .call _ => [7]
  | .jmpr d _ => destReg d
  | .loop a _ => destReg a
  | .lea r _ _ _ _ => destReg r
  | .madv d a b peq plt _ => destReg d ++ destReg a ++ destReg b ++ destP peq ++ destP plt
  | .fwalk d _ _ => destReg d ++ destReg (succReg d)
  | .brank d _ _ pd => destReg d ++ destP pd
  | .ld r _ _ _ _ _ => destReg r
  | .ldAcq r _ _ _ _ _ _ => destReg r
  | .ldp r _ _ _ => destReg r ++ destReg (succReg r)
  | .amo d _ _ _ _ _ => destReg d
  | .cas d _ _ _ _ => destReg d
  | .ldf r _ _ _ _ => destReg r ++ [39]
  | .ldfe r _ _ _ _ => destReg r ++ [39]
  | .stfw _ _ _ _ _ => [39]
  | .dqPop d two => destReg d ++ (if two then destReg (succReg d) else [])
  | .dqCnt d => destReg d
  | .spawn d _ _ => destReg d
  | .migr d _ => destReg d
  | .send d _ _ _ => destReg d
  | .sendQ d _ _ _ => destReg d
  | .sendR d _ => destReg d
  | .rqTry d _ => destReg d
  | .rqStat d _ _ => destReg d
  | .tlaunch d _ _ => destReg d
  | .twait d _ => destReg d
  | .segrd d _ _ => destReg d ++ destReg (succReg d)
  | .tbld _ _ _ _ => [39]
  | .gkbind a _ _ _ => destReg a
  | .dwait _ _ => [39]
  | .await _ _ => [39]
  | .bar _ d pd => destReg d ++ destP pd
  | .tread d => destReg d
  | .erd d _ => destReg d
  | .pcrd d _ => destReg d
  | .sysrd r _ => destReg r
  | .rndset d _ _ _ _ _ => destReg d
  | .wake d _ _ => destReg d
  | .vld v _ _ _ => [destV v]
  | .vldg v _ _ _ _ => [destV v]
  | .mdrain _ v f _ => (upto f.drainRegs).map fun q => 64 + v.val + q
  | _ => []

/-- The feature group of K and OP (04 R82). -/
def groupOf (k op : Nat) : Nat :=
  if k = 1 then
    if op < 0x20 ∨ 0x40 ≤ op then 0 else if op < 0x30 then 1 else 2
  else if op < 0x18 then 0
  else if op < 0x20 then 5
  else if op < 0x28 then 6
  else if op < 0x30 then 7
  else if op < 0x33 then 8
  else if op < 0x38 then 9
  else if op < 0x3D then 10
  else if op < 0x40 then 12
  else if op < 0x50 then 11
  else if op < 0x55 then 0
  else if op < 0x58 then 12
  else if op < 0x60 then 2
  else if op < 0x68 then 3
  else 4

/-- The feature group of an instruction. -/
def group (i : Instr) : Nat :=
  match i.opcode with
  | some (k, op) => groupOf k op
  | none => 0

/-- Whether an instruction fills an A slot. -/
def isA (i : Instr) : Bool :=
  match i.opcode with
  | some (k, _) => k == 1
  | none => false

/-- The core kinds that perform an instruction besides its group: tbld, await and acbind on lookup
cores, xpld on dense cores, bar.row and bar.col on lookup cores, no bar on a command core (13 R341,
14 R351, R353, R356). -/
def kindOk (k : Kind) : Instr → Bool
  | .tbld _ _ _ _ | .await _ _ | .acbind _ _ => k == .lookup
  | .xpld _ _ _ => k == .dense
  | .bar kd _ _ =>
      match k with
      | .lookup => true
      | .dense => kd == .vly || kd == .task
      | .command => false
  | _ => true

/-- Instructions that a handler may not run whatever they meet (02 R32). -/
def barred : Instr → Bool
  | .rqPush _ | .rqTry _ _ | .aqPush _ _ _ _ _ | .aqList _ _ _ _ _ _ | .dqPop _ _ | .spawn _ _ _
  | .migr _ _ | .doneF | .yieldF | .bar _ _ _ | .dwait _ _ | .await _ _ | .tlaunch _ _ _ | .trigger
  | .twait _ _ | .gkbind _ _ _ _ | .ptinvPage _ _ _ | .ptinvAsid _ _ | .ptinvAll _ | .wake _ _ _
  | .brk _ | .trap _ | .eret | .send _ _ _ _ | .sendQ _ _ _ _ => true
  | _ => false

/-- Whether a word has the opcode of a barred instruction, whatever its other fields hold: HANDLER_DISCIPLINE
comes before ILLEGAL_ENCODING (14 R371, 15 R385). A send is barred unless it is send.r. -/
def barredWord (w : Nat) : Bool :=
  fld w 30 1 == 0 &&
    ([0x07, 0x08, 0x09, 0x28, 0x29, 0x2A, 0x2C, 0x2D, 0x30, 0x31, 0x33, 0x34, 0x35, 0x3D, 0x3E, 0x40, 0x44, 0x45,
      0x54, 0x55, 0x56].contains (fld w 23 7) || (fld w 23 7 == 0x2E && fld w 3 1 == 0))

/-- T8 and E2M1. -/
def isCode (f : Fmt) : Bool := f == .t8 || f == .e2m1

/-- The format pairs of fcvt and vcvt that take a T8 row scale: T8 on one side, and neither T8 nor E2M1 on
the other (04 R84, 05 R116). -/
def t8Scaled (a b : Fmt) : Bool := (a == .t8 && !isCode b) || (b == .t8 && !isCode a)

/-- The format pairs that take an E2M1 block scale: E2M1 on one side, or T8 on both (05 R116). -/
def e2Scaled (a b : Fmt) : Bool := a == .e2m1 || b == .e2m1 || (a == .t8 && b == .t8)

/-- Whether an instruction consumes a pending prefix with these operand bits (04 R84). -/
def consumes (pv : BitVec 23) : Instr → Bool
  | .addImm _ _ _ _ | .subImm _ _ _ _ | .mulImm _ _ _ _ | .mulhImm _ _ _ _ | .divImm _ _ _ _
  | .remImm _ _ _ _ | .andImm _ _ _ _ | .orImm _ _ _ _ | .xorImm _ _ _ _ | .andnImm _ _ _ _
  | .minImm _ _ _ _ | .maxImm _ _ _ _ | .cmpImm _ _ _ _ | .movi _ _ _ | .movh _ _ _ => true
  | .shlImm _ _ _ _ | .shrImm _ _ _ _ | .sraImm _ _ _ _ | .rotlImm _ _ _ _ => pv == 0
  | .lea _ _ _ _ _ | .ld _ _ _ _ _ _ | .ldAcq _ _ _ _ _ _ _ | .st _ _ _ _ _ | .stRel _ _ _ _ _ _
  | .ldp _ _ _ _ | .stp _ _ _ _ | .pf _ _ _ _ | .st4 _ _ _ _ _ | .aqPush _ _ _ _ _
  | .aqList _ _ _ _ _ _ | .dtld _ _ _ | .tbld _ _ _ _ | .xpld _ _ _ | .ldf _ _ _ _ _
  | .ldfe _ _ _ _ _ | .stf _ _ _ _ _ | .stfw _ _ _ _ _ | .fest _ _ _ _ _ | .vld _ _ _ _
  | .vst _ _ _ _ | .mldb _ _ _ _ => true
  | .dwait _ _ | .await _ _ => bf pv 12 11 == 0
  | .fcvt _ _ _ a b | .vcvt _ _ _ a b =>
      (t8Scaled a b && bf pv 16 7 == 0) || (e2Scaled a b && bf pv 8 15 == 0)
  | _ => false

end Sys2Proof.Machine
end

