-- ==== Sys2Proof/Machine/Channel.lean ====
section
/-! DEFINITION. The channels of device DRAM (08 R177, R186, R187; 10 R259, R260): the fast layer with its sampling, the
atoms as written, and the draining of the combining buffer. Records of faults are written through it too. -/

namespace Sys2Proof.Machine

/-- Adding 1 to a device event counter (14 R365). -/
def bumpDev (s : State) (sel : Nat) : State :=
  { s with shared := { s.shared with ev := nmodD s.shared.ev sel 0 (· + 1) } }

/-! ## Controllers and channels -/

/-- The controller of a DRAM address (08 R177; channels 2c and 2c + 1 share controller c). -/
def ctrlOf (a : Nat) : Nat := a / 2 ^ 28

/-- The pseudo-channel of a DRAM address. -/
def chanOf (a : Nat) : Nat := a / 2 ^ 27

/-- A gecko. -/
def getGk (s : State) (g : Nat) : Gecko := ngetD s.geckos g Gecko.blank

/-- Changing a gecko. -/
def modGk (s : State) (g : Nat) (f : Gecko → Gecko) : State :=
  { s with geckos := nmodD s.geckos g Gecko.blank f }

/-- A pseudo-channel. -/
def getChan (s : State) (c : Nat) : Channel := ngetD s.chans c Channel.blank

/-- Changing a pseudo-channel. -/
def modChan (s : State) (c : Nat) (f : Channel → Channel) : State :=
  { s with chans := nmodD s.chans c Channel.blank f }

/-- T_k in nanoseconds (09 R232). -/
def staleNs (k : Nat) : Nat := if k = 1 then 2000 else if k = 2 then 32000 else if k = 3 then 512000 else 0

/-! ## Fast layer (08 R186, R187) -/

/-- The fast-layer set and tag of a channel offset (08 R177). -/
def flSet (off : Nat) : Nat := fld off 12 7
def flTag (off : Nat) : Nat := fld off 19 8

/-- The way that a promotion takes: the lowest count, ties to the lower way; an empty way counts 0. -/
def victimWay (k : Channel) (set : Nat) : Nat :=
  let cnt (w : Nat) : Nat :=
    match k.blocks.find? fun b => b.set == set && b.way == w with
    | some b => ngetD k.counts (b.tag * 128 + set) 0
    | none => 0
  ((leastBy cnt (upto 8)).getD 0)

/-- Promoting the block of a channel offset (08 R187). -/
def promote (k : Channel) (off : Nat) : Channel :=
  let set := flSet off
  let way := victimWay k set
  { k with
    promos := k.promos + 1,
    blocks := insertBy (fun b => b.set * 8 + b.way) ⟨set, way, flTag off, [], []⟩
      (k.blocks.filter fun b => !(b.set == set && b.way == way)) }

/-- What an access does to its channel's sampling and fast layer (08 R186, R187). Which one of 64 accesses is sampled
the spec leaves open: the model counts the accesses of a channel from 0 at reset and samples every 64th (DESIGN CHOICE,
log 60). -/
def touchChan (off : Nat) (write : Bool) (k : Channel) : Channel :=
  let sector := fld off 5 7
  let held (b : FlBlock) : Bool := b.set == flSet off && b.tag == flTag off
  let k := { k with
    accesses := k.accesses + 1,
    blocks := k.blocks.map fun b =>
      if held b then
        { b with valid := addTo b.valid sector, dirty := if write then addTo b.dirty sector else b.dirty }
      else b }
  if k.accesses % 64 = 0 then
    let k := { k with counts := nmodD k.counts (off / 4096) 0 (· + 1) }
    if !k.blocks.any held && k.threshold ≤ ngetD k.counts (off / 4096) 0 then promote k off else k
  else k

/-- Whether the fast layer serves an access: a write to a promoted block, a read of a valid sector. -/
def flHit (k : Channel) (off : Nat) (write : Bool) : Bool :=
  k.blocks.any fun b => b.set == flSet off && b.tag == flTag off && (write || b.valid.contains (fld off 5 7))

/-- An access reaches the DRAM of its channel; hits and promotions are counted (14 R365). -/
def touch (s : State) (a : Nat) (write : Bool) : State :=
  let k := getChan s (chanOf a)
  let k' := touchChan (a % 2 ^ 27) write k
  let s := modChan s (chanOf a) fun _ => k'
  let s := if flHit k (a % 2 ^ 27) write then bumpDev s 0x301 else s
  if k'.promos != k.promos then bumpDev s 0x302 else s

/-! ## Atoms -/

/-- The 32 bytes of an atom in DRAM. -/
def dramAtom (s : State) (atom : Nat) : Nat := Mem.rdN s.mem.dram (32 * atom) 32

/-- Writing an atom with its code: its errors are gone. -/
def putAtom (s : State) (atom v : Nat) : State :=
  { s with mem := { s.mem with dram := Mem.wrN s.mem.dram (32 * atom) v 32,
                               bad := s.mem.bad.erase atom, weak := s.mem.weak.erase atom } }

/-! ## The combining buffer (10 R259, R260) -/

/-- The entry of an atom. -/
def cbEntry (s : State) (atom : Nat) : Option CbEntry := nget (getGk s (ctrlOf (32 * atom))).cb atom

/-- An atom as a class-0 read finds it (10 R245, R260). -/
def stored (s : State) (atom : Nat) : Nat :=
  match cbEntry s atom with
  | some e => e.val.toNat
  | none => dramAtom s atom

/-- A drain writes the value of an entry to DRAM (10 R260). -/
def drainTo (s : State) (atom : Nat) (e : CbEntry) : State := putAtom (touch s (32 * atom) true) atom e.val.toNat

/-- Draining an entry that holds an undrained acceptance: it holds none any more (10 R260). -/
def drainEntry (s : State) (atom : Nat) : State :=
  match cbEntry s atom with
  | some e =>
      if e.oldest.isNone then s
      else
        modGk (drainTo s atom e) (ctrlOf (32 * atom)) fun g => { g with cb := nput g.cb atom { e with oldest := none } }
  | none => s

/-- Freeing an entry. -/
def freeEntry (s : State) (atom : Nat) : State :=
  modGk s (ctrlOf (32 * atom)) fun g => { g with cb := ndel g.cb atom }

/-- The entry of an atom drains and is freed before the atom is written (10 R260): what reads the atom next finds the
entry's value, whatever has become of the atom in DRAM. -/
def drainFree (s : State) (atom : Nat) : State :=
  match cbEntry s atom with
  | some e => freeEntry (drainTo s atom e) atom
  | none => s

/-- A write of a whole atom that reads nothing. -/
def writeAtom (s : State) (atom v : Nat) : State := putAtom (touch (drainFree s atom) (32 * atom) true) atom v

end Sys2Proof.Machine
end

