-- ==== Sys2Proof/Machine/Ops.lean ====
section
/-! DEFINITION. The named operations over cores, fibres, registers and strands; parking; fault records,
fault-and-park and freezing (15 R372-R381), which are this hardware's exceptions; the trap entry and
its return (07 R171, R172), its only transfer into system code; and the frame around the meaning of
an instruction word (04 R75). -/

namespace Sys2Proof.Machine

/-! ## Cores, fibres, strands -/

/-- The core at an index (16 R390). -/
def getCore (s : State) (c : Nat) : Core := ngetD s.cores c (Core.blank c)

/-- Replacing a core. -/
def setCore (s : State) (c : Nat) (k : Core) : State := { s with cores := nput s.cores c k }

/-- Changing a core. -/
def modCore (s : State) (c : Nat) (f : Core → Core) : State := setCore s c (f (getCore s c))

/-- The fibre in a slot; slot 256 holds the handler of strand 15. -/
def getFib (s : State) (c slot : Nat) : Option Fibre := nget (getCore s c).fibres slot

/-- Changing the fibre of a slot, if it holds one. -/
def modFib (s : State) (c slot : Nat) (f : Fibre → Fibre) : State :=
  modCore s c fun k => { k with fibres := nmod k.fibres slot f }

/-- Putting a fibre into a slot. -/
def putFib (s : State) (c slot : Nat) (f : Fibre) : State :=
  modCore s c fun k => { k with fibres := nput k.fibres slot f }

/-- Freeing a slot. -/
def delFib (s : State) (c slot : Nat) : State :=
  modCore s c fun k => { k with fibres := ndel k.fibres slot }

/-- The slot number that stands for the handler strand's context. -/
def handlerSlot : Nat := 256

/-- A strand of a core. -/
def strandAt (k : Core) (st : Nat) : Strand := k.seq.strands[Fin.ofNat 16 st]

/-- Changing a strand. -/
def modStrand (k : Core) (st : Nat) (f : Strand → Strand) : Core :=
  { k with seq := { k.seq with strands := k.seq.strands.set (Fin.ofNat 16 st) (f (strandAt k st)) } }

/-- Strands in rotation: 15 general ones, or 8 (02 R28). -/
def nStrands : Kind → Nat
  | .lookup => 15
  | .dense => 8
  | .command => 8

/-- Run-queue slots; pinned strands on a dense core (11 R266, 02 R38). -/
def nSlots : Kind → Nat
  | .lookup => 256
  | .dense => 8
  | .command => 64

/-- Data-queue pool entries (11 R266). -/
def nPool : Kind → Nat
  | .lookup => 1024
  | .dense => 128
  | .command => 256

/-- The die of a core index (01 R8, 16 R390). -/
def dieOf (c : Nat) : Nat :=
  match kindOf c with
  | .lookup => c / 2048
  | .dense => (c - 4096) / 8
  | .command => (c - 4112) / 4

/-- The translation unit of a core: its valley, cluster or command group (13 R326). -/
def unitOf (c : Nat) : Nat :=
  match kindOf c with
  | .lookup => c / 256
  | .dense => 16 + (c - 4096) / 8
  | .command => 18 + (c - 4112) / 4

/-- The code of a core kind (07 R158). -/
def kindCode : Kind → Nat
  | .lookup => 0
  | .dense => 1
  | .command => 2

/-- The core index that a KIND code and a core id name (07 R158, 16 R390). -/
def coreIndex (kind id : Nat) : Option Nat :=
  if kind = 0 then some id
  else if kind = 1 then (if id < 16 then some (4096 + id) else none)
  else if kind = 2 then (if id < 8 then some (4112 + id) else none)
  else none

/-- What fid reads (02 R25). -/
def fidOf (c slot : Nat) : Nat :=
  if slot = handlerSlot then 2 ^ 32 + cidOf c * 256 else cidOf c * 256 + slot

/-- The FID dword of a record and of a message's sender: fid and core KIND (15 R374, 11 R266). -/
def fidWord (c slot : Nat) : Nat :=
  kindCode (kindOf c) * 2 ^ 20 + cidOf c * 256 + (if slot = handlerSlot then 0 else slot)

/-- The TID of the task whose crew holds a core; 0 without one (15 R374). -/
def tidOf (k : Core) : Nat :=
  match k.crew with
  | some w => w.tid
  | none => 0

/-- The ASID of a core (13 R326). -/
def asidOf (k : Core) : Nat :=
  match k.crew with
  | some w => w.asid
  | none => 1024

/-- Tile bytes that the segments of a core reach (07 R164). -/
def tileBytes (c : Nat) (k : Core) : Nat :=
  match kindOf c with
  | .lookup => (match k.crew with
      | some w => w.tile
      | none => 0)
  | .dense => 0
  | .command => 65536

/-- Adding 1 to an event counter of a core (14 R365). -/
def bumpEv (s : State) (c sel : Nat) : State :=
  modCore s c fun k => { k with ctr := { k.ctr with ev := nmodD k.ctr.ev sel 0 (· + 1) } }

/-- A fresh number: of a request, a store-buffer entry, a message. -/
def freshId (s : State) : Nat × State :=
  (s.net.next, { s with net := { s.net with next := s.net.next + 1 } })

/-- A free value of the spec's open points: unconstrained (log 5). -/
def freeVal (s : State) : W64 × State := (Config.freeValue s.fresh, { s with fresh := s.fresh + 1 })

/-! ## The issuing fibre -/

/-- The fibre that issues, as it stands. -/
def me (s : State) : Fibre := (getFib s s.issue.core s.issue.slot).getD Fibre.blank

/-- The registers that the issuing word reads: those from before the pair for an A half (04 R75). -/
def src (s : State) : Fibre := s.issue.snap.getD (me s)

/-- Changing the issuing fibre. -/
def modMe (s : State) (f : Fibre → Fibre) : State := modFib s s.issue.core s.issue.slot f

/-- The core that issues. -/
def myCore (s : State) : Core := getCore s s.issue.core

/-- Whether the handler strand issues. -/
def inHandler (s : State) : Bool := s.issue.slot == handlerSlot

/-- h0 and h1 as the issuing word reads them (05 R95). -/
def lastResults (s : State) : W64 × W64 :=
  match s.issue.snap with
  | some _ => s.issue.hsnap
  | none => ((strandAt (myCore s) s.issue.strand).h0, (strandAt (myCore s) s.issue.strand).h1)

/-- The decode table as the issuing word reads it (13 R344). -/
def dtabNow (s : State) : NMap W16 :=
  match s.issue.snap with
  | some _ => s.issue.dsnap
  | none => (myCore s).tabs.dtab

/-- A register as a source (04 R71). -/
def rd (s : State) : Reg → W64
  | .g n => (src s).g[n]
  | .s n => (src s).s[n]
  | .h0 => (lastResults s).1
  | .h1 => (lastResults s).2
  | .zr => 0
  | .fid => BitVec.ofNat 64 (fidOf s.issue.core s.issue.slot)
  | .cid => BitVec.ofNat 64 (cidOf s.issue.core)

/-- Writing a register of a fibre; zr discards, and no other specifier is a destination (04 R71). -/
def putReg (f : Fibre) (r : Reg) (v : W64) : Fibre :=
  match r with
  | .g n => { f with g := f.g.set n v }
  | .s n => { f with s := f.s.set n v }
  | .h0 | .h1 | .zr | .fid | .cid => f

/-- Writing a register of the issuing fibre. -/
def wr (s : State) (r : Reg) (v : W64) : State := modMe s fun f => putReg f r v

/-- A predicate of a fibre; p0 reads as true (05 R97). -/
def getP (f : Fibre) (p : PReg) : Bool := p.val == 0 || bitAt f.preds (p.val - 1)

/-- Writing a predicate of a fibre; p0 is discarded. -/
def putP (f : Fibre) (p : PReg) (b : Bool) : Fibre :=
  if p.val = 0 then f else { f with preds := setBf f.preds (p.val - 1) 1 b.toNat }

/-- A predicate as a source. -/
def rdP (s : State) (p : PReg) : Bool := getP (src s) p

/-- Writing a predicate of the issuing fibre. -/
def wrP (s : State) (p : PReg) (b : Bool) : State := modMe s fun f => putP f p b

/-- ORing sticky flags into a fibre's STATUS (03 R59). -/
def orFlags (f : Fibre) (fl : BitVec 5) : Fibre := { f with ctl := { f.ctl with flags := f.ctl.flags ||| fl } }

/-- The operand bits of a pending prefix for the issuing word (04 R84). -/
def ext (s : State) : Option (BitVec 23) := if (me s).ctl.pp then some (me s).ctl.pfxv else none

/-- An immediate field of n bits after the prefix rule, sign-extended (04 R84, R86 Imm). -/
def immS (s : State) (n v : Nat) : W64 :=
  match ext s with
  | some x => sext (23 + n) (x.toNat * 2 ^ n + v)
  | none => sext n v

/-! ## Strands and parking -/

/-- Taking a fibre off its strand: h0 and h1 read as zero (05 R96); a dense strand keeps its pinned
fibre (02 R38). -/
def leaveStrand (s : State) (c slot : Nat) : State :=
  match getFib s c slot with
  | some f =>
      match f.sch.run with
      | .running st =>
          modCore s c fun k => modStrand k st fun t =>
            { t with h0 := 0, h1 := 0, occ := if kindOf c == .dense then t.occ else none }
      | .ready | .parked _ => s
  | none => s

/-- The number of a park reason (02 R22). -/
def parkCode : Park → Nat
  | .reply => 1 | .resource => 2 | .counter => 3 | .sync => 4 | .xlate => 5 | .fault => 6 | .matrix => 7

/-- Parking a fibre (02 R22); it counts in PARK1-PARK7 (14 R365). -/
def parkFib (s : State) (c slot : Nat) (why : Park) (w : Wait) : State :=
  let s := leaveStrand s c slot
  let s := bumpEv s c (0x102 + parkCode why)
  let cyc := (getCore s c).seq.cycle
  modFib s c slot fun f =>
    { f with sch := { f.sch with run := .parked why, wait := w, since := 2 * cyc, issued := 0 } }

/-- A parked fibre parks for another reason; the park counts (14 R365). -/
def parkAgain (s : State) (c slot : Nat) (why : Park) (w : Wait) : State :=
  modFib (bumpEv s c (0x102 + parkCode why)) c slot fun f =>
    { f with sch := { f.sch with run := .parked why, wait := w, since := 2 * (getCore s c).seq.cycle } }

/-- Changing what a parked fibre waits for. -/
def setWait (s : State) (c slot : Nat) (why : Park) (w : Wait) : State :=
  modFib s c slot fun f => { f with sch := { f.sch with run := .parked why, wait := w } }

/-- A fibre becomes READY, from the cycle after this one (11 R268). -/
def makeReady (s : State) (c slot : Nat) : State :=
  let cyc := (getCore s c).seq.cycle
  modFib s c slot fun f =>
    { f with sch := { f.sch with
        run := .ready, wait := .none, since := 2 * (cyc + 1), issued := 0, frec := none } }

/-- A fibre goes back to the run queue in the cycle in which it leaves its strand (11 R267). -/
def requeue (s : State) (c slot : Nat) : State :=
  let cyc := (getCore s c).seq.cycle
  modFib (makeReady s c slot) c slot fun f => { f with sch := { f.sch with since := 2 * cyc } }

/-! ## Requests in flight -/

/-- A request in flight. -/
def getReq (s : State) (id : Nat) : Option Req := nget s.net.reqs id

/-- Changing the requests in flight. -/
def modReqs (s : State) (f : NMap Req → NMap Req) : State :=
  { s with net := { s.net with reqs := f s.net.reqs } }

/-- What a request takes from its store-buffer entry: the entry, if it is a fibre's red that its place has accepted
(09 R241). -/
def acceptedRed (r : Req) (a : Answer) : Option (Nat × Nat) :=
  match r.origin, r.acc.op, a with
  | .store c e, .red _, .ok _ _ _ => some (c, e)
  | _, _, _ => none

/-- The core whose tile port answers a request (11 R278). -/
def portCore (r : Req) : Option Nat :=
  match r.place with
  | .tile c _ => some c
  | _ => none

/-- Whether the order in which a request is performed among others is kept: at a tile port (11 R278), and at a
controller (09 R221). -/
def keepsOrder (r : Req) : Bool :=
  match r.place with
  | .tile _ _ | .dram _ => true
  | .host _ _ | .scratch _ | .regs _ | .peer _ _ | .row _ _ _ _ _ => false

/-- What an answer leaves besides itself: the store-buffer entry of an accepted red knows it (09 R241), and the answers
keep their order. -/
def answerMarks (s : State) (id : Nat) (r : Req) (a : Answer) : State :=
  let s := match acceptedRed r a with
    | some (c, e) => modCore s c fun k => { k with q := { k.q with
        sb := nmod k.q.sb e fun x => { x with accepted := true } } }
    | none => s
  if keepsOrder r then { s with net := { s.net with answered := s.net.answered ++ [id] } } else s

/-- A request is performed and answered. -/
def answerReq (s : State) (id : Nat) (a : Answer) : State :=
  let s := match getReq s id with
    | some r => answerMarks s id r a
    | none => s
  modReqs s fun m => nmod m id fun r => { r with answer := some a, deferred := false }

/-- A request has reached its place and waits there. -/
def deferReq (s : State) (id : Nat) : State :=
  modReqs s fun m => nmod m id fun r => { r with deferred := true }

/-- The slot number that stands for no fibre: that of an engine's accesses. -/
def goneSlot : Nat := 511

/-- The number that stands for the slot of a fibre that has left it while its writes are outstanding. -/
def goneOf (slot : Nat) : Nat := if slot < goneSlot then 512 + slot else slot

/-- The slot that a fibre has, or had before it left. -/
def slotOf (slot : Nat) : Nat := if 512 ≤ slot then slot - 512 else slot

/-- The outstanding writes of a fibre that leaves its slot, and the reports of its failed reds, belong to no
fibre any more (08 R189, 10 R264), and what it has read past the row cache concerns the next one there no more. -/
def disown (s : State) (c slot : Nat) : State :=
  let s := { s with net := { s.net with msgs := s.net.msgs.map fun x =>
    match x.2 with
    | .redFail who a =>
        if who.core = c ∧ who.slot = slot then (x.1, .redFail { who with slot := goneOf slot } a) else x
    | _ => x } }
  modCore s c fun k => { k with
    q := { k.q with sb := k.q.sb.map fun x =>
      if x.2.who.slot = slot then (x.1, { x.2 with who := { x.2.who with slot := goneOf slot } }) else x },
    caches := { k.caches with row := k.caches.row.map fun e => { e with past := e.past.erase slot } } }

/-- Freeing a pool entry; one whose reply is still to come keeps its place until it arrives (02 R23). -/
def poolFree (p : NMap PoolEntry) (e : Nat) : NMap PoolEntry :=
  match nget p e with
  | some en =>
      match en.st with
      | .ready _ | .error _ _ _ => ndel p e
      | .held | .pending | .forwarded _ _ => nput p e { en with owned := false }
  | none => p

/-! ## Fault records -/

/-- The number of a fault code (15 R373). -/
def codeNum : FCode → Nat
  | .illegalEncoding => 1 | .feature => 2 | .privilege => 3 | .prefixMisuse => 4
  | .handlerDiscipline => 5 | .align => 6 | .segRights => 7 | .segLimit => 8 | .segKind => 9
  | .classMisuse => 10 | .queueUnderflow => 11 | .msgTarget => 12 | .engineFormat => 13
  | .tableFormat => 14 | .fabricProtection => 15 | .divergence => 16 | .divergenceUnresolved => 17
  | .pageAbsent => 32 | .pageRights => 33 | .busError => 34 | .memEcc => 35 | .graphConfig => 36
  | .graphTimeout => 37 | .engineIndex => 38 | .formatRecord => 39 | .breakpoint => 40
  | .fabricTimeout => 41 | .scrubError => 48

/-- The class of a fault code: 0 park, 1 violation, 2 task, 3 notice (15 R372, R373). -/
def codeCls (c : FCode) : Nat :=
  let n := codeNum c
  if n < 16 then 1 else if n < 18 then 2 else if n < 48 then 0 else 3

/-- The number of an address kind (15 R374). -/
def akindNum : AKind → Nat
  | .virtual => 0 | .physical => 1 | .tile => 2 | .none => 3

/-- The 32 bytes of a record as one number (15 R374). -/
def recBits (r : FaultRec) (seq : Nat) : Nat :=
  codeNum r.code + (r.cls + r.src * 8 + r.restored.toNat * 64) * 2 ^ 8
    + (akindNum r.akind + r.entry * 4) * 2 ^ 16 + r.count * 2 ^ 24 + r.fid % 2 ^ 32 * 2 ^ 32
    + r.pc.toNat * 2 ^ 64 + r.addr % 2 ^ 64 * 2 ^ 128 + r.info % 2 ^ 32 * 2 ^ 192
    + r.tid * 2 ^ 224 + seq * 2 ^ 240

/-- The die's state. -/
def getDie (s : State) (d : Nat) : Die := s.dies[Fin.ofNat 2 d]

/-- Changing a die's state. -/
def modDie (s : State) (d : Nat) (f : Die → Die) : State :=
  { s with dies := s.dies.set (Fin.ofNat 2 d) (f (getDie s d)) }

/-- Sending a frame to the control node (16 R394). -/
def sendFrame (s : State) (f : Frame) : State :=
  { s with chaez := { s.chaez with out := f :: s.chaez.out } }

/-- A notice is to be sent: the port holds up to 4,096, and drops what comes beyond them (16 R394). -/
def postNotice (s : State) (die : Nat) (r : BitVec 256) : State :=
  { s with chaez := if s.chaez.notices.length < 4096 then { s.chaez with notices := s.chaez.notices ++ [(die, r)] }
                    else { s.chaez with dropped := s.chaez.dropped + 1 } }

/-- The oldest notice goes out, with the count of those dropped (16 R394). -/
def sendNotice (s : State) : State :=
  match s.chaez.notices with
  | [] => s
  | (die, r) :: rest =>
      sendFrame { s with chaez := { s.chaez with notices := rest, dropped := 0 } }
        (.notice die r (min s.chaez.dropped 255))

/-- Adding 1 to d7 of the command cores of a die (15 R375). -/
def bumpService (s : State) (d : Nat) : State :=
  iter 4 (fun n s => modCore s (4112 + d * 4 + n) fun k =>
    { k with ctr := { k.ctr with d := k.ctr.d.set 7 (k.ctr.d[7] + 1) } }) s

/-- Appending a record: written at PUT, then PUT advances, then d7 of the command cores counts it; a
record of class violation, task or notice is to be sent as a NOTICE (15 R375, 16 R394). -/
def appendNow (s : State) (d key : Nat) (r : FaultRec) : State :=
  let q := getDie s d
  let s := writeAtom s (q.fqbase.toNat / 32 + q.put) (recBits r q.seq)
  let s := modDie s d fun q =>
    { q with put := (q.put + 1) % 2 ^ 20, seq := (q.seq + 1) % 2 ^ 16, srcs := q.srcs ++ [key] }
  let s := bumpService s d
  if r.cls = 0 then s else postNotice s d (BitVec.ofNat 256 (recBits r q.seq))

/-- Appending a record, or holding it while an earlier one of the same source is outstanding
(15 R375). -/
def appendRec (s : State) (d key : Nat) (r : FaultRec) : State :=
  if (getDie s d).srcs.contains key then modDie s d fun q => { q with held := q.held ++ [(key, r)] }
  else appendNow s d key r

/-- The sources of records (15 R375): fibre slots and handler strands, engine entries, controllers
and tasks. -/
def srcFibre (c slot : Nat) : Nat := c * 512 + slot
def srcEntry (c e : Nat) : Nat := 4194304 + c * 8 + e
def srcCtrl (g : Nat) : Nat := 8388608 + g
def srcTask (t : Nat) : Nat := 16777216 + t

/-- A write that the device makes for a task and that has to read its atom first is not performed when the atom is
uncorrectable: its controller reports it (01 R12, 08 R189; log 22). -/
def writeLost (s : State) (code : FCode) (a : Nat) : State :=
  let g := ctrlOf a
  appendRec s (g / 1024) (srcCtrl g)
    { code := code, cls := 3, src := 3, restored := false, akind := .physical, entry := 0, count := 0, fid := g,
      pc := 0, addr := a, info := 0, tid := 0 }

/-- A record of a fibre or of a handler (15 R374). -/
def fibreRec (s : State) (c slot : Nat) (code : FCode) (pc : W64) (ak : AKind) (addr info : Nat) :
    FaultRec :=
  { code := code, cls := codeCls code, src := if slot = handlerSlot then 1 else 0, restored := false,
    akind := ak, entry := 0, count := 0, fid := fidWord c slot, pc := pc, addr := addr, info := info,
    tid := tidOf (getCore s c) }

/-! ## Fault-and-park, violations -/

/-- The members of the aligned group of a dense core (02 R38, 06 R146). -/
def groupCores (c size : Nat) : List Nat :=
  if size = 0 then [c] else (upto size).map fun m => c - (c - 4096) % size + m

/-- The other members of a frozen core's lock-step groups leave lock-step (06 R146). -/
def unlockOthers (s : State) (c : Nat) : State :=
  if kindOf c == .dense then
    iter 8 (fun st s =>
      let t := strandAt (getCore s c) st
      if t.lock then
        (groupCores c t.fuse).foldl (fun s m =>
          if m = c then s else modCore s m fun k => modStrand k st fun t => { t with lock := false }) s
      else s) s
  else s

/-- Putting a message on the mesh. -/
def postMsg (s : State) (m : Msg) : State :=
  let (i, s) := freshId s
  { s with net := { s.net with msgs := nput s.net.msgs i m } }

/-- The core index of a FID dword. -/
def fidCore (fid : Nat) : Option Nat := coreIndex (fld fid 20 2) (fld fid 8 12)

/-- A freeze answers a reply credit that the handler has not used with BUS_ERROR (11 R284, 15 R379). -/
def answerCredit (s : State) (c : Nat) : State :=
  match (getCore s c).handler with
  | some h =>
      match h.credit, h.replied, fidCore h.sender with
      | some e, false, some t =>
          postMsg (modCore s c fun k => { k with handler := some { h with replied := true } })
            (.reply c t e none)
      | _, _, _ => s
  | none => s

/-- One core freezes. -/
def freezeOne (s : State) (c : Nat) (fr : Frozen) : State :=
  match (getCore s c).frozen with
  | some _ => s
  | none =>
      unlockOthers (answerCredit (modCore s c fun k => { k with frozen := some fr }) c) c

/-- The cores of the task of a core. -/
def taskCores (s : State) (c : Nat) : List Nat :=
  match s.tasks.table.find? fun x => x.2.tid == tidOf (getCore s c) with
  | some x => x.2.cores
  | none => []

/-- Freezing a core (15 R378). A freeze that finds the core stopped for a pre-emption ends the pre-emption, and its
task freezes as a whole (15 R387; log 49). -/
def freezeCore (s : State) (c : Nat) (fr : Frozen) : State :=
  let t := freezeOne s c fr
  if (getCore s c).frozen.isNone && (getCore s c).stopped then
    (taskCores s c).foldl (fun s m => modCore (freezeOne s m .task) m fun k => { k with stopped := false }) t
  else t

/-- A violation of a fibre or handler: the core freezes and a record of class violation is appended
(15 R378, R380). -/
def violate (s : State) (c slot : Nat) (code : FCode) (pc : W64) (ak : AKind) (addr info : Nat)
    (behind : Bool) : State :=
  let r := fibreRec s c slot code pc ak addr info
  appendRec (freezeCore s c (.fibre slot behind)) (dieOf c) (srcFibre c slot) r

/-- Fault-and-park: the fibre parks with reason 6, and a record is appended (15 R376). -/
def parkFault (s : State) (c slot : Nat) (code : FCode) (pc : W64) (ak : AKind) (addr info : Nat) :
    State :=
  let r := fibreRec s c slot code pc ak addr info
  let s := modFib (parkFib s c slot .fault .fault) c slot fun f => { f with sch := { f.sch with frec := some r } }
  appendRec s (dieOf c) (srcFibre c slot) r

/-- Taking a fault at its instruction: fault-and-park, or a violation; on strand 15 a fault of class
park is a handler-discipline violation (15 R372, R377). -/
def takeFault (s : State) (c slot : Nat) (code : FCode) (pc : W64) (ak : AKind) (addr info : Nat) :
    State :=
  if codeCls code = 0 then
    if slot = handlerSlot then violate s c slot .handlerDiscipline pc ak addr info false
    else parkFault s c slot code pc ak addr info
  else violate s c slot code pc ak addr info false

/-- The code of a fetch fault: on strand 15 it is a handler-discipline violation (08 R453, 11 R280). -/
def fetchCode (slot : Nat) (code : FCode) : FCode := if slot = handlerSlot then .handlerDiscipline else code

/-- A member of a lock-step group whose PC has gone back to a word issues that word alone (06 R146). -/
def oweGroup (s : State) (c slot : Nat) : State :=
  if kindOf c == .dense then modCore s c fun k => modStrand k slot fun t => { t with alone := t.lock } else s

/-- A member whose PC goes on past the word that it owed its group stands with the group again (06 R146). -/
def settleGroup (s : State) (c slot : Nat) : State :=
  if kindOf c == .dense then modCore s c fun k => modStrand k slot fun t => { t with alone := false } else s

/-- A fault that arrives after its issue: the PC returns to the word, a consumed prefix is pending
again, and ADONE is set for a pair (04 R75, R85, 15 R378). -/
def faultBack (s : State) (w : Issuer) (code : FCode) (ak : AKind) (addr : Nat) : State :=
  let s := modFib (oweGroup s w.core w.slot) w.core w.slot fun f =>
    { f with pc := w.pc, ctl := { f.ctl with pp := w.pp, adone := w.pair } }
  if codeCls code = 0 then parkFault s w.core w.slot code w.pc ak addr w.word
  else violate (makeReady s w.core w.slot) w.core w.slot code w.pc ak addr w.word false

/-! ## The issue of one word -/

/-- The word of an instruction as the record's INFO holds it: L is set for a lone word. -/
def wordOf (s : State) (i : Instr) : Nat := (encode (s.issue.words == 1) i).getD 0

/-- The issuer of the accesses of the issuing word. -/
def issuer (s : State) (i : Instr) : Issuer :=
  { core := s.issue.core, slot := s.issue.slot, pc := s.issue.pc, word := wordOf s i,
    pair := s.issue.words == 2, pp := (me s).ctl.pp, tid := tidOf (myCore s) }

/-- A fault at the issuing word ends the issue (04 R75). -/
def faultHere (s : State) (i : Instr) (code : FCode) (ak : AKind) (addr : Nat) : State × Flow :=
  (takeFault s s.issue.core s.issue.slot code s.issue.pc ak addr (wordOf s i), .stop)

/-- A park with the PC at the issuing word ends the issue; on strand 15 it is a violation (02 R22,
R32). -/
def parkHere (s : State) (i : Instr) (why : Park) (w : Wait) : State × Flow :=
  if inHandler s then faultHere s i .handlerDiscipline .none 0
  else (parkFib s s.issue.core s.issue.slot why w, .stop)

/-- A park with the PC after the issuing word (02 R22). -/
def parkOn (s : State) (i : Instr) (why : Park) (w : Wait) : State × Flow :=
  if inHandler s then faultHere s i .handlerDiscipline .none 0
  else (parkFib s s.issue.core s.issue.slot why w, .next)

/-- EMASK (07 R156). -/
def emask (k : Core) (c : Nat) (priv : Bool) : W64 :=
  match k.crew with
  | none => featOf (kindOf c)
  | some w => if priv then featOf (kindOf c) else w.tfeat &&& featOf (kindOf c)

/-- The first decode check of R75 that an instruction fails on the core and fibre that issue it
(15 R385, rows 3 and 4); the privilege is the one from before the issue, for an A half too. -/
def checkWord (i : Instr) (s : State) : Option FCode :=
  if inHandler s && barred i then some .handlerDiscipline
  else if !i.wf || (kindOf s.issue.core == .lookup
      && (regsOf i).any fun r => match r with | .s _ => true | _ => false) then some .illegalEncoding
  else if !(bitAt (emask (myCore s) s.issue.core (src s).ctl.priv) (group i)
      && kindOk (kindOf s.issue.core) i) then some .feature
  else if group i == 12 && !(src s).ctl.priv then some .privilege
  else if (me s).ctl.pp && !consumes (me s).ctl.pfxv i then some .prefixMisuse
  else none

/-- The timer of a wait ends with the instruction, unless the fibre has parked in it (07 R160). -/
def timerAfter (c : Sched) : Option (Nat × Nat) :=
  match c.run with
  | .parked _ => c.t0
  | .ready | .running _ => none

/-- The commit of a performed word (04 R75): the prefix state, and for the C part or a lone word the
PC, ADONE and the wait it has ended. -/
def retire (s : State) (i : Instr) (target : Option W64) : State :=
  let pfxv := match i with
    | .pfx imm => some imm
    | _ => none
  modMe s fun f =>
    let f := { f with ctl := { f.ctl with pp := pfxv.isSome, pfxv := pfxv.getD f.ctl.pfxv } }
    if s.issue.snap.isSome then f
    else { f with pc := target.getD (s.issue.pc + BitVec.ofNat 64 (4 * s.issue.words)),
                  ctl := { f.ctl with adone := false },
                  sch := { f.sch with t0 := timerAfter f.sch, late := false } }

/-- A reissue gives up the unit that was reserved for the fibre, if it has not taken it (11 R268). -/
def dropResv (s : State) : State := modMe s fun f => { f with sch := { f.sch with resv := none } }

/-- The frame of every instruction word: the decode checks, its effect, its commit (04 R75). An
effect that stops ends the issue. -/
def run (i : Instr) (s : State) (eff : State → State × Flow) : Host.Outcome State Fault Refusal :=
  if s.issue.live then
    match checkWord i s with
    | some code =>
        let t := (faultHere s i code .none 0).1
        .next { t with issue := { t.issue with ended := true } }
    | none =>
        match eff s with
        | (t, .next) => .next (dropResv (retire t i none))
        | (t, .jump a) => .next (dropResv (retire t i (some a)))
        | (t, .stop) => .next { dropResv t with issue := { t.issue with ended := true } }
  else .fault .noIssuer

/-- h1 := h0, h0 := the result, unless the fibre has left its strand in this issue (05 R95, R96). -/
def capture (s : State) (v : W64) : State :=
  match (me s).sch.run with
  | .running st =>
      modCore s s.issue.core fun k => modStrand k st fun t => { t with h0 := v, h1 := t.h0 }
  | .ready | .parked _ => s

/-- An A-slot instruction with a register destination (05 R99): nothing under a false predicate. -/
def aluOp (i : Instr) (p : PReg) (d : Reg) (s : State) (res : State → W64) :
    Host.Outcome State Fault Refusal :=
  run i s fun s => (if rdP s p then capture (wr s d (res s)) (res s) else s, .next)

/-- An A-slot instruction that writes a predicate. -/
def predOp (i : Instr) (p pd : PReg) (s : State) (res : State → Bool) :
    Host.Outcome State Fault Refusal :=
  run i s fun s => (if rdP s p then wrP s pd (res s) else s, .next)

/-- A C-slot instruction that only writes a register. -/
def regOp (i : Instr) (d : Reg) (s : State) (res : State → W64) : Host.Outcome State Fault Refusal :=
  run i s fun s => (wr s d (res s), .next)

/-! ## The trap entry and its return -/

/-- Taking a trap (07 R171): EPC, ECAUSE, EADDR and EINFO are written, the fibre runs at system
privilege, and the PC becomes the trap handler's address. -/
def trapEntry (s : State) (i : Instr) (code : BitVec 16) : State × Flow :=
  let t := (myCore s).trap
  if (me s).ctl.priv || !bitAt t.tvec 0 then faultHere s i .privilege .none 0
  else if bitAt t.ecause 17 then parkHere s i .resource (.resource .trap)
  else
    let t' := { t with
      epc := s.issue.pc + BitVec.ofNat 64 (4 * s.issue.words),
      ecause := BitVec.ofNat 64 (code.toNat + 2 ^ 17
        + fidOf s.issue.core s.issue.slot % 256 * 2 ^ 18),
      eaddr := (src s).g[0],
      einfo := BitVec.ofNat 64 (wordOf s i) }
    let s := modCore s s.issue.core fun k => { k with trap := t' }
    let s := modMe s fun f => { f with ctl := { f.ctl with priv := true } }
    (s, .jump (BitVec.ofNat 64 (bf t.tvec 2 62 * 4)))

/-- Returning from a trap (07 R172). -/
def trapReturn (s : State) (i : Instr) : State × Flow :=
  let t := (myCore s).trap
  if !bitAt t.ecause 17 || bf t.ecause 18 8 != fidOf s.issue.core s.issue.slot % 256 then
    faultHere s i .privilege .none 0
  else
    let s := modCore s s.issue.core fun k => { k with trap := { t with ecause := setBf t.ecause 17 1 0 } }
    let s := modMe s fun f => { f with ctl := { f.ctl with priv := bitAt t.ecause 16 } }
    (s, .jump (BitVec.ofNat 64 (bf t.epc 2 62 * 4)))

/-- A fibre that ends while it holds the trap state ends the trap (07 R171). -/
def endTrapOf (s : State) (c slot : Nat) : State :=
  modCore s c fun k =>
    if bitAt k.trap.ecause 17 && bf k.trap.ecause 18 8 == fidOf c slot % 256 then
      { k with trap := { k.trap with ecause := setBf k.trap.ecause 17 1 0 } }
    else k

end Sys2Proof.Machine
end

