-- ==== Sys2Proof/Machine/Control.lean ====
section
/-! DEFINITION. Control flow, the prefix, traps and the status and mode registers: the C-slot words
that neither reach memory nor a queue (05 R121-R125, 07 R168-R172, 04 R83). -/

namespace Sys2Proof.Machine

/-- The target of a branch: the address of its word plus 4 times the signed field (05 R121). -/
def target (s : State) (n v : Nat) : W64 := s.issue.pc + sext n v * 4

/-- The return address: after the lone word or the pair (05 R121). -/
def retAddr (s : State) : W64 := s.issue.pc + BitVec.ofNat 64 (4 * s.issue.words)

/-- A code address with bits 1 and 0 cleared (05 R122). -/
def align4 (a : W64) : W64 := BitVec.ofNat 64 (a.toNat / 4 * 4)

def execNop (s : State) : Host.Outcome State Fault Refusal := run .nop s fun s => (s, .next)

def execBr (p : PReg) (n : Bool) (imm : BitVec 19) (s : State) : Host.Outcome State Fault Refusal :=
  run (.br p n imm) s fun s =>
    (s, if rdP s p ^^ n then .jump (target s 19 imm.toNat) else .next)

def execJmp (imm : BitVec 23) (s : State) : Host.Outcome State Fault Refusal :=
  run (.jmp imm) s fun s => (s, .jump (target s 23 imm.toNat))

def execCall (imm : BitVec 23) (s : State) : Host.Outcome State Fault Refusal :=
  run (.call imm) s fun s => (wr s (.g 7) (retAddr s), .jump (target s 23 imm.toNat))

def execRet (s : State) : Host.Outcome State Fault Refusal :=
  run .ret s fun s => (s, .jump (align4 (rd s (.g 7))))

def execJmpr (d a : Reg) (s : State) : Host.Outcome State Fault Refusal :=
  run (.jmpr d a) s fun s => (wr s d (retAddr s), .jump (align4 (rd s a)))

def execLoop (a : Reg) (imm : BitVec 18) (s : State) : Host.Outcome State Fault Refusal :=
  run (.loop a imm) s fun s =>
    let v := rd s a - 1
    (wr s a v, if v != 0 then .jump (target s 18 imm.toNat) else .next)

/-- BREAKPOINT: fault-and-park with the PC at the brk (05 R124). -/
def execBrk (code : BitVec 16) (s : State) : Host.Outcome State Fault Refusal :=
  run (.brk code) s fun s => faultHere s (.brk code) .breakpoint .none 0

def execTrap (code : BitVec 16) (s : State) : Host.Outcome State Fault Refusal :=
  run (.trap code) s fun s => trapEntry s (.trap code) code

def execEret (s : State) : Host.Outcome State Fault Refusal :=
  run .eret s fun s => trapReturn s .eret

/-- pfx: its commit sets PP and PFXV (04 R83, R75). -/
def execPfx (imm : BitVec 23) (s : State) : Host.Outcome State Fault Refusal :=
  run (.pfx imm) s fun s => (s, .next)

/-! ## Parties and contributions (14 R354) -/

/-- Whether a core is a party of a barrier that a core issues. -/
def isParty (kind : BarKind) (c : Nat) (tid d : Nat) (k : Core) : Bool :=
  let look := d < 4096
  let near := match kind with
    | .row => look && d / 16 == c / 16
    | .col => look && d / 256 == c / 256 && d % 16 == c % 16
    | .vly => kindOf c == kindOf d && unitOf c == unitOf d
    | .task => d < 4112
  near && (match k.crew with
    | some w => w.tid == tid
    | none => false)

/-- The parties of a barrier. -/
def parties (s : State) (c : Nat) (kind : BarKind) : NMap Core :=
  s.cores.filter fun x => isParty kind c (tidOf (getCore s c)) x.1 x.2

/-- The live count of a core. -/
def liveCount (k : Core) : Nat := (k.fibres.filter fun x => x.1 != handlerSlot).length

/-- The place of a barrier kind's arrival count. -/
def barIdx : BarKind → Fin 4
  | .row => 0 | .col => 1 | .vly => 2 | .task => 3

/-- Whether a core contributes to a kind; a frozen one does not. -/
def contributes (kind : BarKind) (k : Core) : Bool :=
  k.frozen.isNone && liveCount k != 0 && k.ctr.bar[barIdx kind] == liveCount k

/-- Whether a fibre of a core whose limit has passed still stands in a kind of barrier: its wait ends by TIMEOUT
(15 R378, R389). -/
def lateInBar (kind : BarKind) (k : Core) : Bool :=
  k.fibres.any fun x => x.2.sch.late && match x.2.sch.wait with
    | .bar q _ _ _ => q == kind
    | _ => false

/-- Whether every party contributes, and no fibre's arrival is about to be withdrawn by TIMEOUT. -/
def barrierDue (s : State) (c : Nat) (kind : BarKind) : Bool :=
  (getCore s c).crew.isSome && (parties s c kind).all fun x => contributes kind x.2 && !lateInBar kind x.2

/-- The instance of a barrier: its task, its kind, and its row, column, valley or cluster. -/
def barInstance (s : State) (c : Nat) (kind : BarKind) : Nat :=
  let place := match kind with
    | .row => c / 16
    | .col => c / 256 * 16 + c % 16
    | .vly => unitOf c
    | .task => 0
  (tidOf (getCore s c) * 4 + (barIdx kind).val) * 4096 + place

/-- The fibres of a core that are parked in a kind of barrier. -/
def inBarrier (k : Core) (kind : BarKind) : List (Nat × Reg × PReg) :=
  k.fibres.filterMap fun x =>
    match x.2.sch.wait with
    | .bar q d pd _ => if q == kind then some (x.1, d, pd) else none
    | _ => none

/-- Whether the last party of a barrier has contributed: it is bound to complete (14 R355). -/
def barDone (s : State) (c : Nat) (kind : BarKind) : Bool :=
  s.shared.bound.contains (barInstance s c kind) || barrierDue s c kind

/-- A barrier of a core whose last party contributes now is bound to complete. -/
def bindBarriers (s : State) (c : Nat) : State :=
  [BarKind.row, .col, .vly, .task].foldl (fun s kind =>
    if barrierDue s c kind && (getCore s c).ctr.bar[barIdx kind] != 0 then
      { s with shared := { s.shared with bound := addTo s.shared.bound (barInstance s c kind) } }
    else s) s

/-! ## Fibres end and yield -/

/-- The failures of writes that are still held against a fibre are appended as notices when it
retires, migrates or is ended (08 R189). -/
def flushFailed (s : State) (c slot : Nat) : State :=
  match getFib s c slot with
  | some f =>
      f.sch.failed.foldl (fun s x =>
        appendRec s (dieOf c) (srcFibre c slot)
          { fibreRec s c slot x.1 0 .physical x.2.1 0 with cls := 3 }) s
  | none => s

/-- Returning a fibre's data-queue entries to the pool; those whose reply is still to come keep their
place until it arrives (02 R23). -/
def dropQueue (s : State) (c slot : Nat) : State :=
  match getFib s c slot with
  | some f =>
      modCore s c fun k => { k with q := { k.q with pool := f.sch.dq.foldl poolFree k.q.pool } }
  | none => s

/-- The end of a fibre: it retires and its slot becomes FREE (02 R23); the others of its core may then be the last
contribution to a barrier (14 R354). -/
def retireFibre (s : State) (c slot : Nat) : State :=
  let s := flushFailed (leaveStrand s c slot) c slot
  bindBarriers (delFib (endTrapOf (disown (dropQueue s c slot) c slot) c slot) c slot) c

/-- A retired dense fibre leaves its strand empty for the life of the crew (05 R123). -/
def emptyStrand (s : State) (c st : Nat) : State :=
  modCore s c fun k => modStrand k st fun t => { t with occ := none }

def execDoneF (s : State) : Host.Outcome State Fault Refusal :=
  run .doneF s fun s =>
    (emptyStrand (retireFibre s s.issue.core s.issue.slot) s.issue.core s.issue.strand, .next)

/-- Whether another fibre of the core is READY. -/
def otherReady (k : Core) (slot : Nat) : Bool :=
  k.fibres.any fun x => x.1 != slot && x.2.sch.run == .ready

def execYieldF (s : State) : Host.Outcome State Fault Refusal :=
  run .yieldF s fun s =>
    if kindOf s.issue.core != .dense && otherReady (myCore s) s.issue.slot then
      (requeue (leaveStrand s s.issue.core s.issue.slot) s.issue.core s.issue.slot, .next)
    else (modMe s fun f => { f with sch := { f.sch with issued := 0 } }, .next)

/-! ## System registers (07 R153-R162, R168) -/

/-- Whether a system register has an SY field (07 R162). -/
def sysPriv : SysReg → Bool
  | .tvec | .epc | .ecause | .eaddr | .einfo => true
  | .status | .rmode | .feat | .tfeat | .core | .task | .timeout | .time | .ebud | .eres => false

/-- RMODE of a fibre as a dword (07 R155). -/
def rmodeWord (f : Fibre) : W64 :=
  BitVec.ofNat 64 (f.ctl.rm.toNat + f.ctl.fz.toNat * 8 + f.ctl.seed.toNat * 2 ^ 16)

/-- STATUS of a fibre as a dword; the flags stand IV, NX, UF, OV, NF from bit 0 (07 R154). -/
def statusWord (f : Fibre) : W64 :=
  BitVec.ofNat 64 (f.ctl.flags.toNat + f.ctl.priv.toNat * 2 ^ 8 + f.ctl.pp.toNat * 2 ^ 9)

/-- CORE as a dword (07 R158); VFP and GATED are 0 on a command core. -/
def coreWord (s : State) (c : Nat) : W64 :=
  let dom := if kindOf c == .command then { Domain.blank with vfp := 0 }
    else ngetD s.doms (unitOf c) Domain.blank
  BitVec.ofNat 64 (cidOf c + kindCode (kindOf c) * 2 ^ 12 + dom.vfp * 2 ^ 14
    + dom.gated.toNat * 2 ^ 18)

/-- TASK as a dword (07 R159). -/
def taskWord (k : Core) : W64 :=
  match k.crew with
  | some w => w.taskReg
  | none => 0

/-- TFEAT of a core (07 R152, R156). -/
def tfeatWord (k : Core) (c : Nat) : W64 :=
  match k.crew with
  | some w => w.tfeat
  | none => featOf (kindOf c)

/-- A sum over the 18 domains (14 R364). -/
def sumDoms (s : State) (f : Domain → Nat) : Nat :=
  (upto 18).foldl (fun n d => n + f (ngetD s.doms d Domain.blank)) 0

/-- EBUD and ERES (07 R161): those of the core's domain; a command core, which stands in no domain,
reads the sums over all of them, as erd does there (14 R364). -/
def energyWord (s : State) (c : Nat) (res : Bool) : W64 :=
  let f := fun d : Domain => if res then d.res else d.bud
  let v := if kindOf c == .command then sumDoms s f % 2 ^ 32
    else f (ngetD s.doms (unitOf c) Domain.blank)
  BitVec.ofNat 64 (v + s.gov.win % 2 ^ 32 * 2 ^ 32)

/-- The value that sysrd returns (07 R168). -/
def sysValue (s : State) (x : SysReg) : W64 :=
  let k := myCore s
  match x with
  | .status => statusWord (src s)
  | .rmode => rmodeWord (src s)
  | .feat => featOf (kindOf s.issue.core)
  | .tfeat => tfeatWord k s.issue.core
  | .core => coreWord s s.issue.core
  | .task => taskWord k
  | .timeout => k.trap.timeout
  | .time => s.time
  | .ebud => energyWord s s.issue.core false
  | .eres => energyWord s s.issue.core true
  | .tvec => k.trap.tvec
  | .epc => k.trap.epc
  | .ecause => k.trap.ecause
  | .eaddr => k.trap.eaddr
  | .einfo => k.trap.einfo

/-- The effect of syswr: RW and SY fields take the value, the others keep theirs (07 R168). -/
def sysWrite (s : State) (x : SysReg) (v : W64) : State :=
  let wrTrap (f : Trap → Trap) := modCore s s.issue.core fun k => { k with trap := f k.trap }
  match x with
  | .status => modMe s fun f => { f with ctl := { f.ctl with flags := v.setWidth 5 } }
  | .rmode =>
      let s := modMe s fun f => { f with ctl := { f.ctl with
        rm := v.setWidth 3, fz := bitAt v 3, seed := BitVec.ofNat 16 (bf v 16 16) } }
      { s with issue := { s.issue with seedW := true } }
  | .timeout => wrTrap fun t => { t with timeout := BitVec.ofNat 64 (bf v 0 40) }
  | .tvec => wrTrap fun t => { t with tvec := v &&& 0xFFFFFFFFFFFFFFFD }
  | .epc => wrTrap fun t => { t with epc := v }
  | .ecause => wrTrap fun t => { t with ecause := BitVec.ofNat 64 (bf v 0 26) }
  | .eaddr => wrTrap fun t => { t with eaddr := v }
  | .einfo => wrTrap fun t => { t with einfo := BitVec.ofNat 64 (bf v 0 32) }
  | .feat | .tfeat | .core | .task | .time | .ebud | .eres => s

def execSysrd (r : Reg) (x : SysReg) (s : State) : Host.Outcome State Fault Refusal :=
  run (.sysrd r x) s fun s =>
    if sysPriv x && !(me s).ctl.priv then faultHere s (.sysrd r x) .privilege .none 0
    else (wr s r (sysValue s x), .next)

def execSyswr (r : Reg) (x : SysReg) (s : State) : Host.Outcome State Fault Refusal :=
  run (.syswr r x) s fun s =>
    if sysPriv x && !(me s).ctl.priv then faultHere s (.syswr r x) .privilege .none 0
    else (sysWrite s x (rd s r), .next)

/-- rndset (07 R170). -/
def execRndset (d a : Reg) (sd m fz : Bool) (rm : BitVec 3) (s : State) :
    Host.Outcome State Fault Refusal :=
  run (.rndset d a sd m fz rm) s fun s =>
    let old := rmodeWord (src s)
    let seed : W16 := BitVec.ofNat 16 (bf (rd s a) 0 16)
    let s := modMe s fun f => { f with ctl := { f.ctl with
      rm := if m then rm else f.ctl.rm, fz := if m then fz else f.ctl.fz,
      seed := if sd then seed else f.ctl.seed } }
    let s := { s with issue := { s.issue with seedW := s.issue.seedW || sd } }
    (wr s d old, .next)

end Sys2Proof.Machine
end

