-- ==== Sys2Proof/Machine/Flags.lean ====
section
/-! DEFINITION. Number formats, rounding and sticky flags (spec 03): decoding into exact values,
rounding once under a mode with its flags, and the conversions. A value is formed exactly from
natural numbers, so the kernel evaluates every operation. -/

namespace Sys2Proof.Machine

/-- An exact value: a NaN (signalling or not), an infinity, or a signed m · 2^e; st says that the
magnitude lies strictly between m and m + 1 units of 2^e. -/
inductive Num where
  | nan (sig : Bool)
  | inf (neg : Bool)
  | fin (neg : Bool) (m : Nat) (e : Int) (st : Bool)
  deriving DecidableEq, Repr

/-- A binary format: mantissa bits, minimum and maximum exponent (03 R45). -/
structure BinFmt where
  mb : Nat
  emin : Int
  emax : Int
  deriving DecidableEq, Repr

/-- Rounding mode, flushing and seed of a party (03 R55). -/
structure RMode where
  rm : Nat
  fz : Bool
  seed : W16
  deriving DecidableEq, Repr

/-- The result of a rounding: the bits and the flags it raises. -/
structure FRes where
  bits : Nat
  fl : BitVec 5
  deriving DecidableEq, Repr

def fp32 : BinFmt := ⟨23, -126, 127⟩
def fp16 : BinFmt := ⟨10, -14, 15⟩
def bf16 : BinFmt := ⟨7, -126, 127⟩

/-- The sticky flags (03 R59), NF at bit 4 down to IV at bit 0. -/
def flNF : BitVec 5 := 16
def flOV : BitVec 5 := 8
def flUF : BitVec 5 := 4
def flNX : BitVec 5 := 2
def flIV : BitVec 5 := 1
def flIf (b : Bool) (f : BitVec 5) : BitVec 5 := if b then f else 0

/-- RNE without flushing (03 R63). -/
def rne : RMode := ⟨0, false, 0⟩

/-- The rounding control of a fibre (03 R55). -/
def modeOf (f : Fibre) : RMode := ⟨f.ctl.rm.toNat, f.ctl.fz, f.ctl.seed⟩

/-- One step of the seed's shift register (03 R57). -/
def seedStep (s : W16) : W16 :=
  let t := (s >>> 1) ^^^ (if bitAt s 0 then 0xB400 else 0)
  if t = 0 then 0xACE1 else t

/-- n steps of the seed. -/
def seedAfter : Nat → W16 → W16
  | 0, s => s
  | n + 1, s => seedAfter n (seedStep s)

/-- The mode with its seed after n advances, under SR (03 R57). -/
def RMode.after (r : RMode) (n : Nat) : RMode :=
  if r.rm = 5 then { r with seed := seedAfter n r.seed } else r

/-! ## Layouts (03 R45-R47) -/

/-- Bits of a format. -/
def BinFmt.expBits (f : BinFmt) : Nat := if f.emax = 15 then 5 else 8

/-- The exponent field of all ones. -/
def BinFmt.expMax (f : BinFmt) : Nat := 2 ^ f.expBits - 1

/-- The sign bit's place. -/
def BinFmt.signAt (f : BinFmt) : Nat := f.mb + f.expBits

/-- The canonical NaN (03 R47). -/
def BinFmt.nan (f : BinFmt) : Nat := f.expMax * 2 ^ f.mb + 2 ^ (f.mb - 1)

/-- An infinity. -/
def BinFmt.infBits (f : BinFmt) (neg : Bool) : Nat := neg.toNat * 2 ^ f.signAt + f.expMax * 2 ^ f.mb

/-- The maximum finite value with a sign. -/
def BinFmt.maxBits (f : BinFmt) (neg : Bool) : Nat :=
  neg.toNat * 2 ^ f.signAt + f.expMax * 2 ^ f.mb - 1

/-- The exact value of a pattern (03 R45). -/
def BinFmt.dec (f : BinFmt) (w : Nat) : Num :=
  let neg := fld w f.signAt 1 == 1
  let x := fld w f.mb f.expBits
  let m := fld w 0 f.mb
  if x = f.expMax then (if m = 0 then .inf neg else .nan (m < 2 ^ (f.mb - 1)))
  else if x = 0 then .fin neg m (f.emin - f.mb) false
  else .fin neg (m + 2 ^ f.mb) (f.emin - f.mb + (x - 1 : Nat)) false

/-- A subnormal operand reads as a zero of its sign under FZ (03 R58). -/
def BinFmt.decFZ (f : BinFmt) (fz : Bool) (w : Nat) : Num :=
  if fz && fld w f.mb f.expBits == 0 then .fin (fld w f.signAt 1 == 1) 0 0 false else f.dec w

/-! ## Rounding (03 R55-R58) -/

/-- The units of 2^q in m · 2^e, rounded under a mode; and whether the value was inexact. -/
def roundAt (r : RMode) (neg : Bool) (m : Nat) (e : Int) (st : Bool) (q : Int) : Nat × Bool :=
  if q ≤ e then (m * 2 ^ (e - q).toNat, st)
  else
    let sh := (q - e).toNat
    let n := m / 2 ^ sh
    let rem := m % 2 ^ sh
    let half := 2 ^ (sh - 1)
    let inx := rem != 0 || st
    let up :=
      if r.rm = 1 then false
      else if r.rm = 2 then inx && !neg
      else if r.rm = 3 then inx && neg
      else if r.rm = 4 then half ≤ rem
      else if r.rm = 5 then 1 ≤ r.seed.toNat && r.seed.toNat ≤ rem * 2 ^ 16 / 2 ^ sh
      else half < rem || (rem == half && (st || n % 2 == 1))
    (if up then n + 1 else n, inx)

/-- A value too small to reach half of the smallest step is replaced by one that every rounding
treats the same way, so that no shift is longer than the format needs. -/
def clampSmall (lo : Int) (m : Nat) (e : Int) (st : Bool) : Nat × Int × Bool :=
  if m = 0 then (m, e, st)
  else if e + Nat.log2 m < lo - 40 then (1, lo - 40, true) else (m, e, st)

/-- The pattern of n · 2^q, where n is at most 2^(mb + 1) and q is the step of its binade. -/
def BinFmt.pack (f : BinFmt) (neg : Bool) (n : Nat) (q : Int) : Nat :=
  let (n, q) := if 2 ^ (f.mb + 1) ≤ n then (n / 2, q + 1) else (n, q)
  let x := (q - (f.emin - f.mb)).toNat
  neg.toNat * 2 ^ f.signAt + (if n < 2 ^ f.mb then n else (x + 1) * 2 ^ f.mb + (n - 2 ^ f.mb))

/-- Whether n · 2^q exceeds the maximum finite value. -/
def BinFmt.over (f : BinFmt) (n : Nat) (q : Int) : Bool :=
  if q + Nat.log2 n > f.emax then true else false

/-- Rounding an exact value to a format once, with its flags: overflow under R56, underflow and
flushing under R55 and R58 (03). A zero keeps its sign (DEDUCED, log 56). -/
def BinFmt.round (f : BinFmt) (r : RMode) : Num → FRes
  | .nan _ => ⟨f.nan, flNF⟩
  | .inf neg => ⟨f.infBits neg, flNF⟩
  | .fin neg m e st =>
      if m = 0 && !st then ⟨neg.toNat * 2 ^ f.signAt, 0⟩
      else
        let lo := f.emin - f.mb
        let (m, e, st) := clampSmall lo m e st
        let top := e + Nat.log2 m
        let qU := top - f.mb
        let (nU, _) := roundAt r neg m e st qU
        let (nE, _) := roundAt rne neg m e st qU
        if f.over nU qU || f.over nE qU then
          let toInf :=
            if r.rm = 1 then false
            else if r.rm = 2 then !neg
            else if r.rm = 3 then neg
            else if r.rm = 5 then f.over nU qU
            else true
          ⟨if toInf then f.infBits neg else f.maxBits neg, flOV ||| flNX ||| flIf toInf flNF⟩
        else
          let q := if qU < lo then lo else qU
          let (n, inx) := roundAt r neg m e st q
          let tiny := decide (qU + Nat.log2 nU < f.emin)
          if r.fz && n != 0 && n < 2 ^ f.mb && q == lo then
            ⟨neg.toNat * 2 ^ f.signAt, flUF ||| flNX⟩
          else ⟨f.pack neg n q, flIf inx flNX ||| flIf (tiny && inx) flUF⟩

/-! ## Exact arithmetic -/

/-- A signed magnitude as an integer of units of 2^e. -/
def sgnInt (neg : Bool) (m : Nat) : Int := if neg then -(m : Int) else m

/-- The value of an integer number of units of 2^e; an exact zero takes the sign z. -/
def numOfInt (v e : Int) (z : Bool) : Num :=
  if v = 0 then .fin z 0 0 false else .fin (v < 0) v.natAbs e false

/-- The value as a result: an exact zero is +0 (03 R55). -/
def plusZero : Num → Num
  | .fin neg m e st => .fin (neg && !(m = 0 && !st)) m e st
  | .inf neg => .inf neg
  | .nan a => .nan a

/-- The product (03 R59: 0 × ∞ gives a NaN with IV), a zero with the sign of its factors: so it enters the sum of an fma
(10, the worked token). -/
def mulNum : Num → Num → Num × BitVec 5
  | .nan a, .nan b => (.nan false, flIf (a || b) flIV)
  | .nan a, _ => (.nan false, flIf a flIV)
  | _, .nan b => (.nan false, flIf b flIV)
  | .inf a, .inf b => (.inf (a != b), 0)
  | .inf a, .fin b m _ _ => if m = 0 then (.nan false, flIV) else (.inf (a != b), 0)
  | .fin a m _ _, .inf b => if m = 0 then (.nan false, flIV) else (.inf (a != b), 0)
  | .fin a m e _, .fin b n g _ => (.fin (a != b) (m * n) (e + g) false, 0)

/-- The sum; an exact zero is +0, −0 under RDN for operands of opposite sign, and two zeros of one
sign keep it (03 R55); ∞ − ∞ gives a NaN with IV. -/
def addNum (rm : Nat) : Num → Num → Num × BitVec 5
  | .nan a, .nan b => (.nan false, flIf (a || b) flIV)
  | .nan a, _ => (.nan false, flIf a flIV)
  | _, .nan b => (.nan false, flIf b flIV)
  | .inf a, .inf b => if a == b then (.inf a, 0) else (.nan false, flIV)
  | .inf a, .fin _ _ _ _ => (.inf a, 0)
  | .fin _ _ _ _, .inf b => (.inf b, 0)
  | .fin a m e _, .fin b n g _ =>
      let lo := if m = 0 then g else if n = 0 then e else min e g
      let v := sgnInt a (m * 2 ^ (e - lo).toNat) + sgnInt b (n * 2 ^ (g - lo).toNat)
      (numOfInt v lo (if a == b then a else rm == 3), 0)

/-- The negated value. -/
def negNum : Num → Num
  | .nan a => .nan a
  | .inf a => .inf (!a)
  | .fin a m e st => .fin (!a) m e st

/-- The quotient (05 R111): a finite nonzero value by 0 is an infinity, and that by an infinity a zero with the sign of
its operands, as the row of frcp has it. -/
def divNum : Num → Num → Num × BitVec 5
  | .nan a, .nan b => (.nan false, flIf (a || b) flIV)
  | .nan a, _ => (.nan false, flIf a flIV)
  | _, .nan b => (.nan false, flIf b flIV)
  | .inf _, .inf _ => (.nan false, flIV)
  | .inf a, .fin b _ _ _ => (.inf (a != b), 0)
  | .fin a _ _ _, .inf b => (.fin (a != b) 0 0 false, 0)
  | .fin a m e _, .fin b n g _ =>
      if n = 0 then (if m = 0 then (.nan false, flIV) else (.inf (a != b), 0))
      else if m = 0 then (.fin (a != b) 0 0 false, 0)
      else (.fin (a != b) (m * 2 ^ 96 / n) (e - g - 96) (m * 2 ^ 96 % n != 0), 0)

/-- The integer square root by bits, from bit n down. -/
def isqrtFrom : Nat → Nat → Nat → Nat
  | 0, _, acc => acc
  | n + 1, x, acc =>
      let t := acc + 2 ^ n
      isqrtFrom n x (if t * t ≤ x then t else acc)

/-- 1 ÷ √x (05 R111). -/
def rsqNum : Num → Num × BitVec 5
  | .nan a => (.nan false, flIf a flIV)
  | .inf neg => if neg then (.nan false, flIV) else (.fin false 0 0 false, 0)
  | .fin neg m e _ =>
      if m = 0 then (.inf neg, 0)
      else if neg then (.nan false, flIV)
      else
        let (m, e) := if e % 2 = 0 then (m, e) else (m * 2, e - 1)
        let root := isqrtFrom 100 (2 ^ 192 / m) 0
        (.fin false root (-(e / 2) - 96) (root * root * m != 2 ^ 192), 0)

/-- Whether x < y and whether x = y; none of both for a NaN; +0 equals −0. -/
def cmpNum : Num → Num → Option Ordering
  | .nan _, _ | _, .nan _ => none
  | .inf a, .inf b => some (compare (!a).toNat (!b).toNat)
  | .inf a, .fin _ _ _ _ => some (if a then .lt else .gt)
  | .fin _ _ _ _, .inf b => some (if b then .gt else .lt)
  | .fin a m e _, .fin b n g _ =>
      let lo := if m = 0 then g else if n = 0 then e else min e g
      some (compare (sgnInt a (m * 2 ^ (e - lo).toNat)) (sgnInt b (n * 2 ^ (g - lo).toNat)))

/-- Whether a value is a NaN. -/
def isNan : Num → Bool
  | .nan _ => true
  | .inf _ | .fin _ _ _ _ => false

/-- Whether a value is a signalling NaN. -/
def isSig : Num → Bool
  | .nan s => s
  | .inf _ | .fin _ _ _ _ => false

/-- Whether a value is an infinity. -/
def isInf : Num → Bool
  | .inf _ => true
  | .nan _ | .fin _ _ _ _ => false

/-- Whether a value is finite. -/
def isFin : Num → Bool
  | .fin _ _ _ _ => true
  | .nan _ | .inf _ => false

/-! ## Scalar arithmetic on FP32 patterns (05 R110-R114) -/

/-- An exact result with its flags, rounded to FP32. -/
def finish32 (r : RMode) (x : Num × BitVec 5) : FRes :=
  let y := fp32.round r x.1
  ⟨y.bits, y.fl ||| x.2⟩

def faddBits (r : RMode) (a b : Nat) : FRes :=
  finish32 r (addNum r.rm (fp32.decFZ r.fz a) (fp32.decFZ r.fz b))

def fsubBits (r : RMode) (a b : Nat) : FRes :=
  finish32 r (addNum r.rm (fp32.decFZ r.fz a) (negNum (fp32.decFZ r.fz b)))

/-- The product as a result. -/
def fmulBits (r : RMode) (a b : Nat) : FRes :=
  let y := mulNum (fp32.decFZ r.fz a) (fp32.decFZ r.fz b)
  finish32 r (plusZero y.1, y.2)

/-- x × y + z rounded once; 0 × ∞ sets IV whatever z is (05 R111). -/
def fmaBits (r : RMode) (a b c : Nat) : FRes :=
  let p := mulNum (fp32.decFZ r.fz a) (fp32.decFZ r.fz b)
  let q := addNum r.rm p.1 (fp32.decFZ r.fz c)
  finish32 r (q.1, p.2 ||| q.2)

/-- The quotient as a result. -/
def fdivBits (r : RMode) (a b : Nat) : FRes :=
  let y := divNum (fp32.decFZ r.fz a) (fp32.decFZ r.fz b)
  finish32 r (plusZero y.1, y.2)

/-- The reciprocal: that of ±∞ is ±0 (05 R111). -/
def frcpBits (r : RMode) (a : Nat) : FRes :=
  finish32 r (divNum (.fin false 1 0 false) (fp32.decFZ r.fz a))

def frsqBits (r : RMode) (a : Nat) : FRes := finish32 r (rsqNum (fp32.decFZ r.fz a))

/-- A pattern after FZ (03 R58). -/
def flushBits (fz : Bool) (w : Nat) : Nat :=
  if fz && fld w 23 8 == 0 then fld w 31 1 * 2 ^ 31 else w % 2 ^ 32

/-- fmin and fmax (05 R112): the chosen operand with its bits unchanged; −0 orders below +0. -/
def fminmax (mx nanV fz : Bool) (a b : Nat) : FRes :=
  let a := flushBits fz a
  let b := flushBits fz b
  let x := fp32.dec a
  let y := fp32.dec b
  let iv := flIf (isSig x || isSig y) flIV
  let pick (w : Nat) : FRes := ⟨w, iv ||| flIf (isInf (fp32.dec w)) flNF⟩
  if isNan x && isNan y || nanV && (isNan x || isNan y) then ⟨fp32.nan, iv ||| flNF⟩
  else if isNan x then pick b
  else if isNan y then pick a
  else
    let aLow := match cmpNum x y with
      | some .lt => true
      | some .gt => false
      | _ => fld a 31 1 == 1
    pick (if aLow != mx then a else b)

/-- fsgn on one sign bit (05 R113). -/
def fsgnBits (v : SgnVar) (a b : Nat) : Nat :=
  let sa := fld a 31 1
  let sb := fld b 31 1
  let sg := match v with
    | .c => sb
    | .n => 1 - sb
    | .x => (sa + sb) % 2
  fld a 0 31 + sg * 2 ^ 31

/-- The class mask of a pattern (05 R113). -/
def fclassBits (f : BinFmt) (w : Nat) : Nat :=
  let neg := fld w f.signAt 1 == 1
  let x := fld w f.mb f.expBits
  match f.dec w with
  | .nan sig => if sig then 2 ^ 8 else 2 ^ 9
  | .inf _ => if neg then 1 else 2 ^ 7
  | .fin _ m _ _ =>
      if m = 0 then (if neg then 2 ^ 3 else 2 ^ 4)
      else if x = 0 then (if neg then 2 ^ 2 else 2 ^ 5)
      else if neg then 2 else 2 ^ 6

/-- The relation and IV of fcmp (05 R114). -/
def fcmpBits (c : FCond) (fz : Bool) (a b : Nat) : Bool × BitVec 5 :=
  let x := fp32.decFZ fz a
  let y := fp32.decFZ fz b
  let o := cmpNum x y
  let sig := flIf (isSig x || isSig y) flIV
  let any := flIf (isNan x || isNan y) flIV
  match c with
  | .eq => (o == some .eq, sig)
  | .ne => (o != some .eq, sig)
  | .lt => (o == some .lt, any)
  | .le => (o == some .lt || o == some .eq, any)
  | .gt => (o == some .gt, any)
  | .ge => (o == some .gt || o == some .eq, any)
  | .un => (o == none, sig)
  | .ord => (o != none, sig)

/-! ## Integers and conversions (03 R60-R62) -/

/-- Signed value of the low n bits. -/
def sInt (n v : Nat) : Int :=
  let u := v % 2 ^ n
  if 2 ^ (n - 1) ≤ u then (u : Int) - 2 ^ n else u

/-- An integer as an exact value. -/
def numInt (v : Int) : Num := .fin (v < 0) v.natAbs 0 false

/-- Floating point to an n-bit integer (03 R61): rounded in the mode in force; out of range and
infinities saturate with IV, a NaN gives 0 with IV. The bits are those of n-bit two's complement. -/
def toInt (r : RMode) (n : Nat) : Num → FRes
  | .nan _ => ⟨0, flIV⟩
  | .inf neg => ⟨if neg then 2 ^ (n - 1) else 2 ^ (n - 1) - 1, flIV⟩
  | .fin neg m e st =>
      let (m, e, st) := clampSmall (-2) m e st
      if 80 < e + Nat.log2 m && m != 0 then ⟨if neg then 2 ^ (n - 1) else 2 ^ (n - 1) - 1, flIV⟩
      else
        let (k, inx) := roundAt r neg m e st 0
        let v := sgnInt neg k
        if v < -2 ^ (n - 1) then ⟨2 ^ (n - 1), flIV⟩
        else if 2 ^ (n - 1) ≤ v then ⟨2 ^ (n - 1) - 1, flIV⟩
        else ⟨(v % 2 ^ n).toNat, flIf inx flNX⟩

/-- Integer narrowing to n bits, saturating with OV and no other flag (03 R62; DEDUCED, log 56). -/
def narrow (n : Nat) (v : Int) : FRes :=
  if v < -2 ^ (n - 1) then ⟨2 ^ (n - 1), flOV⟩
  else if 2 ^ (n - 1) ≤ v then ⟨2 ^ (n - 1) - 1, flOV⟩
  else ⟨(v % 2 ^ n).toNat, 0⟩

/-! ## E2M1 (03 R49-R51) -/

/-- The unscaled value of an E2M1 code. -/
def decE2 (c : Nat) : Num :=
  let neg := fld c 3 1 == 1
  let x := fld c 1 2
  let m := fld c 0 1
  if x = 0 then .fin neg m (-1) false else .fin neg (m + 2) ((x : Int) - 2) false

/-- The value of an E2M1 code under block scale sc; 0xFF makes it a NaN (03 R50). -/
def decE2s (sc c : Nat) : Num :=
  if sc % 256 = 255 then .nan false
  else match decE2 c with
    | .fin neg m e st => .fin neg m (e + (sc % 256 : Nat) - 127) st
    | x => x

/-- Encoding one element under a given scale (03 R51, last row; 05 R116). -/
def encE2 (r : RMode) (sc : Nat) (x : Num) : FRes :=
  if sc % 256 = 255 then ⟨0, flNF ||| flIf (isNan x) flIV⟩
  else match x with
    | .nan _ => ⟨0, flIV⟩
    | .inf neg => ⟨neg.toNat * 8 + 7, flOV ||| flNX⟩
    | .fin neg m e st =>
        let e := e + 127 - (sc % 256 : Nat)
        if m = 0 && !st then ⟨neg.toNat * 8, 0⟩
        else
          let (m, e, st) := clampSmall (-1) m e st
          let top := e + Nat.log2 m
          let big := decide (3 ≤ top) ||
            (top == 2 && (match cmpNum (.fin false m e false) (.fin false 6 0 false) with
              | some .gt => true
              | some .eq => st
              | _ => false))
          if big then ⟨neg.toNat * 8 + 7, flOV ||| flNX⟩
          else
            let qU := top - 1
            let (nU, _) := roundAt r neg m e st qU
            let q := if qU < -1 then -1 else qU
            let (n, inx) := roundAt r neg m e st q
            let (n, q) := if 4 ≤ n then (n / 2, q + 1) else (n, q)
            let code := if n < 2 then n else ((q + 2).toNat) * 2 + (n - 2)
            let tiny := decide (qU + Nat.log2 nU < 0)
            if r.fz && code == 1 then ⟨neg.toNat * 8, flUF ||| flNX⟩
            else ⟨neg.toNat * 8 + code, flIf inx flNX ||| flIf (tiny && inx) flUF⟩

/-! ## T8 (03 R52, R53) -/

/-- Entry c of a decode table whose listed entries differ from the reset table (13 R335). -/
def dtabAt (t : NMap W16) (c : Nat) : Nat := (ngetD t (c % 256) (BitVec.ofNat 16 (c % 256 * 128))).toNat

/-- A T8 datum under a row scale: the exact product with IV by the multiply rules (03 R52). -/
def decT8 (t : NMap W16) (sc c : Nat) : Num × BitVec 5 :=
  mulNum (bf16.dec (dtabAt t c)) (bf16.dec sc)

/-- A comparison E ≤ x that is false for a NaN. -/
def leNum (a b : Num) : Bool :=
  match cmpNum a b with
  | some .lt | some .eq => true
  | _ => false

def ltNum (a b : Num) : Bool := cmpNum a b == some .lt

/-- The difference of two finite values as an integer of units of 2^lo. -/
def unitsAt (lo : Int) : Num → Int
  | .fin a m e _ => if m = 0 then 0 else sgnInt a (m * 2 ^ (e - lo).toNat)
  | .nan _ | .inf _ => 0

/-- The exponent of a finite value. -/
def expOf : Num → Int
  | .fin _ m e _ => if m = 0 then 0 else e
  | .nan _ | .inf _ => 0

/-- The magnitude of a finite value. -/
def absNum : Num → Num
  | .fin _ m e st => .fin false m e st
  | .inf _ => .inf false
  | .nan s => .nan s

/-- Whether a value is a zero with a positive sign bit. -/
def isPosZero : Num → Bool
  | .fin neg m _ _ => m == 0 && !neg
  | .nan _ | .inf _ => false

/-- The choice between the bracketing codes c and c + 1 (03 R53). -/
def pickT8 (r : RMode) (c : Nat) (lo hi x : Num) : Nat :=
  let nearMode := r.rm != 1 && r.rm != 2 && r.rm != 3
  let rtz := if ltNum (.fin false 0 0 false) x || isPosZero x then c else c + 1
  if nearMode && isInf lo && isInf hi then rtz
  else if nearMode && isInf lo then c + 1
  else if nearMode && isInf hi then c
  else
    let q := min (min (expOf lo) (expOf hi)) (expOf x)
    let dl := unitsAt q x - unitsAt q lo
    let dh := unitsAt q hi - unitsAt q x
    if r.rm = 1 then rtz
    else if r.rm = 2 then c + 1
    else if r.rm = 3 then c
    else if r.rm = 5 then
      let f := dl * 2 ^ 16 / (dl + dh)
      if 1 ≤ r.seed.toNat && (r.seed.toNat : Int) ≤ f then c + 1 else c
    else if dl < dh then c
    else if dh < dl then c + 1
    else if r.rm = 4 then
      match cmpNum (absNum lo) (absNum hi) with
      | some .gt => c
      | some .lt => c + 1
      | _ => if isPosZero x then c + 1 else c
    else if c % 2 = 0 then c else c + 1

/-- T8 encoding of an FP32 value under a scale (03 R53). -/
def encT8 (t : NMap W16) (r : RMode) (sc : Nat) (x : Num) : FRes :=
  let ent (c : Nat) : Num := (decT8 t sc c).1
  let out (c : Nat) (fl : BitVec 5) : FRes :=
    ⟨c, fl ||| flIf (isInf (ent c) || isNan (ent c)) flNF⟩
  if isNan x then
    match (upto 256).find? fun c => isNan (ent c) with
    | some c => out c (flIf (isSig x) flIV)
    | none => out 0 flIV
  else
    let c := [7, 6, 5, 4, 3, 2, 1, 0].foldl
      (fun c b => if leNum (ent (c + 2 ^ b)) x then c + 2 ^ b else c) 0
    if cmpNum (ent c) x == some .eq then out c 0
    else if c = 255 || !(ltNum (ent c) x && ltNum x (ent (c + 1))) then out c flNX
    else out (pickT8 r c (ent c) (ent (c + 1)) x) flNX

/-! ## Conversion of one element (03 R60) -/

/-- The width of an element (06 R127). -/
def fmtBits : Fmt → Nat
  | .fp32 | .int32 => 32
  | .int64 => 64
  | .fp16 | .bf16 => 16
  | .t8 | .int8 => 8
  | .e2m1 => 4

/-- The binary format of a code. -/
def binOf : Fmt → Option BinFmt
  | .fp32 => some fp32
  | .fp16 => some fp16
  | .bf16 => some bf16
  | .t8 | .e2m1 | .int8 | .int32 | .int64 => none

/-- Whether a format is an integer one. -/
def isIntFmt : Fmt → Bool
  | .int8 | .int32 | .int64 => true
  | .fp32 | .fp16 | .bf16 | .t8 | .e2m1 => false

/-- The value of a source element, with the IV of its decoding; FZ acts on floating-point sources. A T8 source
is subnormal when its table entry is, and then reads as a zero under FZ before the scale is applied
(DEDUCED: 03 R58 does not say which value of a T8 source counts; log 42). The scale is none, and keeps its value. -/
def srcNum (t : NMap W16) (fz : Bool) (sc : Nat) (f : Fmt) (w : Nat) : Num × BitVec 5 :=
  match f with
  | .fp32 => let x := fp32.decFZ fz w; (x, flIf (isSig x) flIV)
  | .fp16 => let x := fp16.decFZ fz w; (x, flIf (isSig x) flIV)
  | .bf16 => let x := bf16.decFZ fz w; (x, flIf (isSig x) flIV)
  | .t8 => mulNum (bf16.decFZ fz (dtabAt t w)) (bf16.dec sc)
  | .e2m1 => (decE2s sc (if fz && fld w 0 3 == 1 then w - 1 else w), 0)
  | .int8 => (numInt (sInt 8 w), 0)
  | .int32 => (numInt (sInt 32 w), 0)
  | .int64 => (numInt (sInt 64 w), 0)

/-- One rounding step into a destination format from an exact value: rules N, T, Q, I, F. -/
def dstNum (t : NMap W16) (r : RMode) (sc : Nat) (f : Fmt) (x : Num) : FRes :=
  match f with
  | .fp32 => fp32.round r x
  | .fp16 => fp16.round r x
  | .bf16 => bf16.round r x
  | .t8 => encT8 t r sc x
  | .e2m1 => encE2 r sc x
  | .int8 => toInt r 8 x
  | .int32 => toInt r 32 x
  | .int64 => toInt r 64 x

/-- The rules of R60: kept, exact (no rounding, no advance of SEED), one rounding, integer to
integer, or two steps by way of FP32. -/
inductive CvRule where
  | keep | exact | one | ints | two
  deriving DecidableEq, Repr

/-- The rule of a pair of formats (03 R60). -/
def cvRule (a b : Fmt) : CvRule :=
  if a == b then .keep
  else if isIntFmt a && isIntFmt b then .ints
  else match a, b with
    | .fp16, .fp32 | .bf16, .fp32 | .t8, .fp32 | .t8, .bf16 => .exact
    | .int8, .fp32 | .int8, .fp16 | .int8, .bf16 => .exact
    | .fp32, _ | .fp16, _ | .bf16, _ => .one
    | .e2m1, .fp32 | .e2m1, .fp16 | .e2m1, .bf16 => .one
    | .int32, .fp32 | .int32, .fp16 | .int32, .bf16 => .one
    | .int64, .fp32 | .int64, .fp16 | .int64, .bf16 => .one
    | _, _ => .two

/-- How often a conversion advances SEED under SR: twice by rule X, whatever its first step is (03 R57,
05 R115). -/
def cvSteps (a b : Fmt) : Nat :=
  match cvRule a b with
  | .keep | .exact | .ints => 0
  | .one => 1
  | .two => 2

/-- Converting an element (03 R60, 05 R115, R116): t is the decode table, ta and tb the scales of the
source and of the destination. An exact conversion whose scaled product does not fit the destination is
rounded to nearest even with the flags of that rounding; the first step of rule X rounds it in the mode in force (DESIGN
CHOICE, log 42). -/
def convert (t : NMap W16) (r : RMode) (ta tb : Nat) (a b : Fmt) (w : Nat) : FRes :=
  let x := srcNum t r.fz ta a w
  match cvRule a b with
  | .keep =>
      match binOf a with
      | some f =>
          let y := f.round { r with rm := 0 } x.1
          ⟨y.bits, y.fl ||| x.2⟩
      | none => ⟨w % 2 ^ fmtBits a, flIf (a == .t8 && !isFin (bf16.dec (dtabAt t w))) flNF⟩
  | .exact =>
      let y := dstNum t { r with rm := 0 } tb b x.1
      ⟨y.bits, y.fl ||| x.2⟩
  | .one =>
      let y := dstNum t r tb b x.1
      ⟨y.bits, y.fl ||| x.2⟩
  | .ints => narrow (fmtBits b) (sInt (fmtBits a) w)
  | .two =>
      let y := fp32.round r x.1
      let z := dstNum t (r.after 1) tb b (fp32.decFZ r.fz y.bits)
      ⟨z.bits, y.fl ||| z.fl ||| x.2⟩

/-- A value times 2^n, exactly (03 R50; 06 R129, vscl). -/
def scaleNum (n : Int) : Num → Num
  | .fin neg m e st => .fin neg m (e + n) st
  | .inf neg => .inf neg
  | .nan sig => .nan sig

end Sys2Proof.Machine
end

