-- ==== Sys2Proof/Machine/Dram.lean ====
section
/-! DEFINITION. Accesses to device DRAM at its controllers (08 R185, R188-R191; 10 R256, R259-R262): the value
that each leaves, the code of each atom, the refresh filters, the replica digest. -/

namespace Sys2Proof.Machine

/-! ## One access on bytes -/

/-- The access as a number of its low bytes. -/
def trunc (n v : Nat) : Nat := v % 2 ^ (8 * n)

/-- An n-byte number as a signed integer. -/
def sgn (n v : Nat) : Int :=
  if 2 ^ (8 * n - 1) ≤ trunc n v then (trunc n v : Int) - 2 ^ (8 * n) else trunc n v

/-- The lesser or the greater of two n-byte signed numbers. -/
def minmaxN (mx : Bool) (n a b : Nat) : Nat :=
  if (sgn n a < sgn n b) != mx then trunc n a else trunc n b

/-- What amo leaves in memory (08 R210). -/
def amoNew (op : AmoOp) (n old b : Nat) : Nat :=
  match op with
  | .add => trunc n (old + b)
  | .and => old &&& trunc n b
  | .or => old ||| trunc n b
  | .xor => Nat.xor old (trunc n b)
  | .min => minmaxN false n old b
  | .max => minmaxN true n old b
  | .swap => trunc n b

/-- What red leaves in memory (08 R212). -/
def redNew (op : RedOp) (n old b : Nat) : Nat :=
  match op with
  | .add => trunc n (old + b)
  | .and => old &&& trunc n b
  | .or => old ||| trunc n b
  | .xor => Nat.xor old (trunc n b)
  | .min => minmaxN false n old b
  | .max => minmaxN true n old b
  | .fadd => (faddBits rne old (trunc 4 b)).bits

/-- What a red or an ACCUM element leaves in n bytes, as accumulates of w bytes each (08 R212; 12 R292). -/
def redAll (op : RedOp) (w : Nat) : Nat → Nat → Nat → Nat
  | 0, _, _ => 0
  | n + 1, old, b =>
      redNew op w (trunc w old) (trunc w b) + redAll op w n (old / 2 ^ (8 * w)) (b / 2 ^ (8 * w)) * 2 ^ (8 * w)

/-- The width of the accumulates of an access: its size, or the width that an ACCUM element carries in
place of a compared value. -/
def redWidth (acc : Acc1) : Nat := if acc.cmp = 0 then acc.size else acc.cmp.toNat

/-- The bytes that an access leaves, if it writes (08 R199, R204, R210-R212). Full/empty operations on
the data word are included; their state is the tile port's. -/
def newBytes (acc : Acc1) (old : Nat) : Option Nat :=
  match acc.op with
  | .load | .ldf | .ldfe | .fest _ => none
  | .store | .stf | .stfw => some (trunc acc.size acc.data.toNat)
  | .nibble hi =>
      some (if hi then old % 16 + acc.data.toNat % 16 * 16 else old / 16 * 16 + acc.data.toNat % 16)
  | .amo op => some (amoNew op acc.size old acc.data.toNat)
  | .cas => if old = acc.cmp.toNat then some (trunc acc.size acc.data.toNat) else none
  | .red op => some (redAll op (redWidth acc) (acc.size / redWidth acc) old acc.data.toNat)

/-- Whether an access is of a kind that needs permission to write (08 R197, R211). -/
def needsWrite : AccOp → Bool
  | .load | .ldf | .ldfe => false
  | .store | .nibble _ | .amo _ | .cas | .red _ | .stf | .stfw | .fest _ => true

/-- Replacing n bytes at an offset of a number of 32 bytes. -/
def spliceN (old off n v : Nat) : Nat :=
  old - fld old (8 * off) (8 * n) * 2 ^ (8 * off) + trunc n v * 2 ^ (8 * off)

/-! ## Refresh filters (08 R191, 13 R338) -/

/-- The bits of the three hashes of a row (13 R338). -/
def filterMask (chan bank f row : Nat) : BitVec 1024 :=
  let h (j : Nat) : Nat :=
    bf (hash64 (BitVec.ofNat 64 row) (BitVec.ofNat 64 (chan * 2 ^ 8 + bank * 2 ^ 4 + f * 2 ^ 2 + j))) 0 10
  BitVec.ofNat 1024 (2 ^ h 0 ||| 2 ^ h 1 ||| 2 ^ h 2)

/-- A filter: what the boot test left and what demotion has set (13 R338). -/
def filterOf (s : State) (chan bank f : Nat) : BitVec 1024 :=
  Config.filterBoot chan bank f ||| ngetD (getChan s chan).filters (2 * bank + f) 0

/-- Whether a row is a member of a filter. -/
def inFilter (s : State) (chan bank f row : Nat) : Bool :=
  filterOf s chan bank f &&& filterMask chan bank f row == filterMask chan bank f row

/-- The refresh class of a row: 0, 1, 2 for 32, 64 and 128 ms (08 R191). -/
def rowClass (s : State) (chan bank row : Nat) : Nat :=
  if inFilter s chan bank 0 row then 0 else if inFilter s chan bank 1 row then 1 else 2

/-- Demotion: the row enters the filter one class shorter (08 R191). -/
def demote (s : State) (a : Nat) : State :=
  let chan := chanOf a
  let bank := fld a 10 4
  let row := fld a 14 13
  let cls := rowClass s chan bank row
  if cls = 0 then s
  else modChan s chan fun k =>
    { k with filters := nmodD k.filters (2 * bank + (cls - 1)) 0 (· ||| filterMask chan bank (cls - 1) row) }

/-! ## Atoms and their code (08 R189) -/

/-- Reading an atom's code: none when uncorrectable; a correctable one is corrected, written back and
its row demoted. -/
def eccRead (s : State) (atom : Nat) : Option State :=
  if s.mem.bad.contains atom then none
  else if s.mem.weak.contains atom then
    some (bumpDev (demote { s with mem := { s.mem with weak := s.mem.weak.erase atom } } (32 * atom)) 0x300)
  else some s

/-! ## The replica digest (10 R256, R262) -/

/-- M_j of an atom (10 R256). -/
def mixAt (key : W128) (a d j : Nat) : W64 :=
  hash64 (BitVec.ofNat 64 (fld d (64 * j) 64) ^^^ BitVec.ofNat 64 (bf key 0 64))
    (BitVec.ofNat 64 (a + 8 * j) ^^^ BitVec.ofNat 64 (bf key 64 64))

/-- The contribution of a write of an atom to DSUM (10 R262). -/
def digest (s : State) (rbit : Bool) (atom old new : Nat) : State :=
  if rbit then
    modGk s (ctrlOf (32 * atom)) fun g =>
      { g with dsum := iter 4 (fun j d => d.set (Fin.ofNat 4 j)
          (d[Fin.ofNat 4 j] + mixAt g.dkey (32 * atom) new j - mixAt g.dkey (32 * atom) old j)) g.dsum }
  else s

/-- The bytes of a class-0 physical read of at most 8 bytes in one atom, without errors. -/
def rdPhys (s : State) (a n : Nat) : Nat := fld (stored s (a / 32)) (8 * (a % 32)) (8 * n)

/-! ## One untagged access at its controller (08 R185, R189; 10 R260, R262) -/

/-- A read of at most 32 bytes in one atom, with its validity stamp (08 R181). An accumulate accepted T_k ago has
drained before it (09 R231, R232). -/
def dramLoad (s : State) (a n stale : Nat) : State × Answer :=
  let atom := a / 32
  let cut (v : Nat) : W512 := BitVec.ofNat 512 (fld v (8 * (a % 32)) (8 * n))
  let s := match cbEntry s atom with
    | some e => (match e.oldest with
        | some t => if t + staleNs (max stale 1) ≤ s.time.toNat then drainEntry s atom else s
        | none => s)
    | none => s
  match cbEntry s atom, stale with
  | some e, 0 => (s, .ok (cut e.val.toNat) s.time.toNat true)
  | e, _ =>
      match eccRead s atom with
      | none => (s, .err .memEcc)
      | some s =>
          let stamp := match e with
            | some e => e.oldest.getD s.time.toNat
            | none => s.time.toNat
          (s, .ok (cut (dramAtom s atom)) stamp true)

/-- A write, st4, amo or cas of at most 32 bytes in one atom: the combining entry drains first; a
write of a whole atom reads nothing unless the page has R set; an uncorrectable read leaves the atom
as it was. -/
def dramWrite (s : State) (acc : Acc1) (a : Nat) (rbit : Bool) : State × Answer :=
  let atom := a / 32
  let s := drainFree s atom
  let read := if acc.op == .store && acc.size == 32 && !rbit then some s else eccRead s atom
  match read with
  | none => (s, .err .memEcc)
  | some s =>
      let old := dramAtom s atom
      let part := fld old (8 * (a % 32)) (8 * acc.size)
      let res := Answer.ok (BitVec.ofNat 512 part) s.time.toNat true
      match newBytes acc part with
      | none => (s, res)
      | some v =>
          let new := spliceN old (a % 32) acc.size v
          (putAtom (digest s rbit atom old new) atom new, res)

/-- One untagged access other than red, performed at DRAM. -/
def dramAccess (s : State) (acc : Acc1) (a : Nat) (rbit : Bool) (stale : Nat) : State × Answer :=
  let s := touch s a (needsWrite acc.op)
  match acc.op with
  | .load => dramLoad s a acc.size stale
  | .store | .nibble _ | .amo _ | .cas | .red _ | .ldf | .ldfe | .stf | .stfw | .fest _ =>
      dramWrite s acc a rbit

end Sys2Proof.Machine
end

