-- ==== Sys2Proof/Machine/Tile.lean ====
section
/-! DEFINITION. Tile memory and scratchpads at the place that owns them (08 R179, R182, R184, R204,
R206-R213; 14 R349). -/

namespace Sys2Proof.Machine

/-- Changing a core's tile memory. -/
def modTile (s : State) (c : Nat) (f : Tile → Tile) : State :=
  modCore s c fun k => { k with tile := f k.tile }

/-- Number of tile words that n bytes from an offset touch. -/
def wordsOf (off n : Nat) : Nat := if n = 0 then 0 else (off + n - 1) / 8 - off / 8 + 1

/-- Adding to the arrival counters of a core that are bound to a producer (14 R349); only lookup cores
are producers. -/
def countArrivals (s : State) (c producer n : Nat) : State :=
  if producer < 4096 then
    modCore s c fun k =>
      let ac := iter 8 (fun i v =>
        if k.ctr.bind[Fin.ofNat 8 i] = some producer then
          v.set (Fin.ofNat 8 i) (v[Fin.ofNat 8 i] + BitVec.ofNat 32 n)
        else v) k.ctr.ac
      { k with ctr := { k.ctr with ac := ac } }
  else s

/-- Writing bytes of a tile on behalf of a producer. -/
def tileStore (s : State) (c off n v producer : Nat) : State :=
  countArrivals (modTile s c fun t => { t with mem := Mem.wrN t.mem off v n }) c producer (wordsOf off n)

/-- Bytes of a tile. -/
def tileLoad (s : State) (c off n : Nat) : Nat := Mem.rdN (getCore s c).tile.mem off n

/-- One access on bytes of a tile, full/empty states unchanged; the value as it stood before. -/
def tileDo (s : State) (c off : Nat) (acc : Acc1) (producer : Nat) : State × Nat :=
  let old := tileLoad s c off acc.size
  match newBytes acc old with
  | some v => (tileStore s c off acc.size v producer, old)
  | none => (s, old)

/-! ## Full/empty words (08 R206-R209) -/

/-- Whether a word is full. -/
def isFull (t : Tile) (w : Nat) : Bool := !t.empty.contains w

/-- Whether the state that an operation waits for holds (08 R207). -/
def feReady (t : Tile) (w : Nat) (op : AccOp) : Bool :=
  match op with
  | .ldf | .ldfe => isFull t w
  | .stfw => !isFull t w
  | .load | .store | .nibble _ | .amo _ | .cas | .red _ | .stf | .fest _ => true

/-- Whether a reservation holds an operation back (08 R208): ldfe and stfw of any party but the
fibre that holds it. -/
def feHeld (t : Tile) (w : Nat) (op : AccOp) (slot : Option Nat) : Bool :=
  match nget t.resv w with
  | some r => (op == .ldfe || op == .stfw) && slot != some r
  | none => false

/-- Setting the state of a word. -/
def setFull (t : Tile) (w : Nat) (full : Bool) : Tile :=
  { t with empty := if full then t.empty.filter (· != w) else addTo t.empty w }

/-- Performing a full/empty operation on a word whose condition holds (08 R207): the value read, and
whether the state changed. -/
def fePerform (s : State) (c w : Nat) (acc : Acc1) (producer : Nat) : State × Nat × Bool :=
  let t := (getCore s c).tile
  let old := Mem.rdN t.mem (8 * w) 8
  match acc.op with
  | .ldfe => (modTile s c fun t => setFull t w false, old, true)
  | .stf | .stfw =>
      (modTile (tileStore s c (8 * w) 8 acc.data.toNat producer) c fun t => setFull t w true, 0,
        !isFull t w)
  | .fest full =>
      let s' := modTile s c fun t => setFull t w full
      if isFull t w == full then (s', 0, false) else (countArrivals s' c producer 1, 0, true)
  | .ldf | .load | .store | .nibble _ | .amo _ | .cas | .red _ => (s, old, false)

/-- The first waiter of a word that can be served. -/
def nextWaiter (s : State) (t : Tile) (w : Nat) : Option (Nat × Waiter) :=
  t.waiters.find? fun x => x.1 == w &&
    match x.2 with
    | .fibre _ op => (nget t.resv w).isNone && feReady t w op
    | .remote id =>
        match getReq s id with
        | some r => feReady t w r.acc.op && !feHeld t w r.acc.op none
        | none => false

/-- Serving the waiters of a word in arrival order (08 R208): remote ones are performed and answered;
the first local one becomes READY with the word reserved for it, which holds back no ldf behind it. -/
def feServe : Nat → State → Nat → Nat → State
  | 0, s, _, _ => s
  | n + 1, s, c, w =>
      match nextWaiter s (getCore s c).tile w with
      | some (w', .remote id) =>
          let s := modTile s c fun t => { t with waiters := t.waiters.erase (w', .remote id) }
          match getReq s id with
          | some r =>
              let (s, v, _) := fePerform s c w r.acc r.who.core
              feServe n (answerReq s id (.ok (BitVec.ofNat 512 v) 0 true)) c w
          | none => feServe n s c w
      | some (_, .fibre slot _) =>
          let s := modTile s c fun t => { t with resv := nput t.resv w slot }
          let s := match getFib s c slot with
            | some f => (match f.sch.run with
                | .parked _ => makeReady s c slot
                | .ready | .running _ => s)
            | none => s
          feServe n s c w
      | none => s

/-- The waiters of a word are served. -/
def serveWord (s : State) (c w : Nat) : State := feServe ((getCore s c).tile.waiters.length + 1) s c w

/-- After an operation on a word: a reservation whose fibre's condition no longer holds ends, and the
waiters are served when the state changed (08 R208). -/
def feAfter (s : State) (c w : Nat) (changed : Bool) : State :=
  if changed then
    let t := (getCore s c).tile
    let lost := match nget t.resv w with
      | some slot => t.waiters.any fun x => x.1 == w &&
          match x.2 with
          | .fibre sl op => sl == slot && !feReady t w op
          | .remote _ => false
      | none => false
    serveWord (if lost then modTile s c fun t => { t with resv := ndel t.resv w } else s) c w
  else s

/-- A fibre gives up its place among a word's waiters and its reservation; those behind it are
served (08 R208, R209). -/
def feLeave (s : State) (c slot w : Nat) : State :=
  let t := (getCore s c).tile
  let mine (x : Nat × Waiter) : Bool := x.1 == w &&
    match x.2 with
    | .fibre sl _ => sl == slot
    | .remote _ => false
  if t.waiters.any mine || nget t.resv w == some slot then
    serveWord (modTile s c fun t =>
      { t with waiters := t.waiters.filter (!mine ·),
               resv := if nget t.resv w = some slot then ndel t.resv w else t.resv }) c w
  else s

/-- A full/empty operation of a fibre on its own tile: performed if its condition holds and no
reservation holds it back. -/
def feLocal (s : State) (c slot w : Nat) (acc : Acc1) : Option (State × Nat) :=
  let t := (getCore s c).tile
  if feReady t w acc.op && !feHeld t w acc.op (some slot) then
    let (s, v, ch) := fePerform s c w acc c
    some (feAfter (feLeave s c slot w) c w ch, v)
  else none

/-- A fibre joins the waiters of a word, unless it stands among them already. -/
def feJoin (s : State) (c slot w : Nat) (op : AccOp) : State :=
  modTile s c fun t =>
    if t.waiters.any fun x => x.1 == w && x.2 == .fibre slot op then t
    else { t with waiters := t.waiters ++ [(w, .fibre slot op)] }

/-! ## Remote accesses (08 R164, R182, R208) -/

/-- Whether the owner lets an access through (07 R164): the core holds a crew of the requester's task,
and every byte lies below its tile bytes. A command core belongs to no task, and its access is checked
against the crew that is there (log 9). -/
def tileAllows (s : State) (c off n : Nat) (who : Issuer) : Bool :=
  match kindOf c, (getCore s c).crew with
  | .lookup, some w => (kindOf who.core == .command || w.tid == who.tid) && off + n ≤ w.tile
  | _, _ => false

/-- The owning core's tile port performs a request, or holds a waiting full/empty operation
(08 R182, R208). An engine's SCATTER, ACCUM and COLL writes count as arrivals as its COPY and FILL do, and the change of
state that an ldfe makes counts none, since R349 lists the words that count (14 R349; DEDUCED, log 64). -/
def tileRemote (s : State) (id : Nat) (r : Req) (c off : Nat) : State :=
  if !tileAllows s c off r.acc.size r.who then answerReq s id (.err .segLimit)
  else
    let w := off / 8
    match r.acc.op with
    | .ldf | .ldfe | .stf | .stfw | .fest _ =>
        let t := (getCore s c).tile
        if feReady t w r.acc.op && !feHeld t w r.acc.op none then
          let (s, v, ch) := fePerform s c w r.acc r.who.core
          feAfter (answerReq s id (.ok (BitVec.ofNat 512 v) 0 true)) c w ch
        else
          modTile (deferReq s id) c fun t => { t with waiters := t.waiters ++ [(w, .remote id)] }
    | .load | .store | .nibble _ | .amo _ | .cas | .red _ =>
        let (s, v) := tileDo s c off r.acc r.who.core
        answerReq s id (.ok (BitVec.ofNat 512 v) 0 true)

/-! ## Scratchpads (08 R183, R184) -/

/-- One access at its bank; bit 24 of the address names the cluster (07 R164). -/
def scratchDo (s : State) (a : Nat) (acc : Acc1) : State × Nat :=
  let a := a % 2 ^ 25
  let old := Mem.rdN s.mem.scratch a acc.size
  match newBytes acc old with
  | some v => ({ s with mem := { s.mem with scratch := Mem.wrN s.mem.scratch a v acc.size } }, old)
  | none => (s, old)

end Sys2Proof.Machine
end

