-- ==== Sys2Proof/Machine/HostLine.lean ====
section
/-! DEFINITION. The host-line cache and the CXL port (08 R193, R194; 09 R225; 16 R395, R396). -/

namespace Sys2Proof.Machine

/-- Changing the port. -/
def modHost (s : State) (f : HostPort → HostPort) : State := { s with host := f s.host }

/-- The line of a host address. -/
def hostLine (h : HostPort) (line : Nat) : Option HLine := h.lines.find? fun l => l.line == line

/-- A line is used: it becomes the most recently used one. -/
def putLine (h : HostPort) (l : HLine) : HostPort :=
  { h with lines := (h.lines.filter fun x => x.line != l.line) ++ [l] }

/-- What the device sends to the host (08 R193, R194): 0 read for shared, 1 read for ownership,
2 uncached read, 3 uncached write, 4 write-back, 5 a snoop's answer. -/
def toHost (h : HostPort) (what line : Nat) (data : W512) : HostPort :=
  { h with sent := h.sent ++ [(what, line, data)] }

/-- How a line stands toward the host: a snoop that has been answered and is still queued counts (08 R193). -/
def toward (h : HostPort) (l : HLine) : Option Mesi :=
  if h.snoops.any fun q => q.1 == l.line && q.2 then none
  else if h.snoops.any fun q => q.1 == l.line then some .s
  else some l.st

/-- Room for a line: the least recently used of the 16 ways leaves, an M line after its write-back
(16 R396). -/
def makeRoom (h : HostPort) (line : Nat) : HostPort :=
  let inSet := h.lines.filter fun l => l.line % 8192 == line % 8192
  match inSet with
  | v :: _ =>
      if inSet.length < 16 then h
      else
        let h := if toward h v == some Mesi.m then toHost h 4 v.line v.data else h
        { h with lines := h.lines.filter fun l => l.line != v.line }
  | [] => h

/-- A line arrives from the host, unless it is held already (08 R193). -/
def installLine (h : HostPort) (line : Nat) (st : Mesi) (data : W512) : HostPort :=
  match hostLine h line with
  | some l => putLine h { l with st := if st == Mesi.m then Mesi.m else l.st }
  | none => putLine (makeRoom h line) ⟨line, st, data⟩

/-- One access on the bytes of a line that is held in a state that allows it. -/
def lineDo (h : HostPort) (l : HLine) (ha : Nat) (acc : Acc1) : HostPort × Nat :=
  let off := ha % 64
  let old := fld l.data.toNat (8 * off) (8 * acc.size)
  match newBytes acc old with
  | some v => (putLine h { l with st := .m, data := BitVec.ofNat 512 (spliceN l.data.toNat off acc.size v) }, old)
  | none => (putLine h (if needsWrite acc.op then { l with st := .m } else l), old)

/-- How a request meets the host memory. -/
inductive HostRes where
  | done (h : HostPort) (v : Nat)
  | waits (h : HostPort)
  | blocked
  | down
  deriving DecidableEq, Repr

/-- A request to host memory (08 R193, R194): served by its line, sent to the host, held while a
snoop for its line is queued, or ended because the link is down. -/
def hostTry (h : HostPort) (ha : Nat) (cached : Bool) (acc : Acc1) : HostRes :=
  let line := ha / 64
  let wr := needsWrite acc.op
  if !h.up then .down
  else if !cached then .waits (toHost h (if wr then 3 else 2) line acc.data)
  else if wr && h.snoops.any fun q => q.1 == line then .blocked
  else
    match hostLine h line with
    | some l =>
        if wr && l.st == Mesi.s then .waits (toHost h 1 line 0)
        else let (h, v) := lineDo h l ha acc
             .done h v
    | none => .waits (toHost h (if wr then 1 else 0) line 0)

/-- The host's answer to a request completes it (08 R193, R194). -/
def hostAnswer (h : HostPort) (ha : Nat) (cached : Bool) (acc : Acc1) (grantE : Bool) (data : W512) :
    HostPort × Nat :=
  let line := ha / 64
  if !cached then (h, fld data.toNat (8 * (ha % 64)) (8 * acc.size))
  else
    let h := installLine h line (if needsWrite acc.op then Mesi.m else if grantE then Mesi.e else Mesi.s) data
    match hostLine h line with
    | some l => lineDo h l ha acc
    | none => (h, 0)

/-- A snoop of a line whose ownership the device has asked for takes the line only after the device's write (08 R216;
21 R443). -/
def snoopTakes (h : HostPort) (line : Nat) (own : Bool) : HostPort :=
  { h with taken := (line, own) :: h.taken.filter fun x => x.1 != line }

/-- A device write has completed in a line that a snoop takes: the line's data goes to the host, and the line, unless
the snoop is still queued, to I or S. -/
def giveTaken (h : HostPort) (line : Nat) : HostPort :=
  match h.taken.find? fun x => x.1 == line, hostLine h line with
  | some (_, own), some l =>
      let h := toHost { h with taken := h.taken.filter fun x => x.1 != line } 5 line l.data
      if h.snoops.any fun q => q.1 == line then h
      else if own then { h with lines := h.lines.filter fun x => x.line != line }
      else { h with lines := h.lines.map fun x => if x.line == line then { x with st := Mesi.s } else x }
  | _, _ => h

/-- A snoop enters the queue and is answered, with the line's data when it stands in M (08 R193). -/
def snoopIn (h : HostPort) (line : Nat) (own : Bool) : HostPort :=
  let h := match hostLine h line with
    | some l => if toward h l == some Mesi.m then toHost h 5 line l.data else h
    | none => h
  { h with snoops := h.snoops ++ [(line, own)] }

/-- The oldest snoop is applied (08 R193). -/
def snoopOne (h : HostPort) : HostPort :=
  match h.snoops with
  | (line, own) :: rest =>
      let h := { h with snoops := rest }
      if own then { h with lines := h.lines.filter fun l => l.line != line }
      else { h with lines := h.lines.map fun l => if l.line == line then { l with st := Mesi.s } else l }
  | [] => h

/-- Every queued snoop is applied, as an acquire at .sys waits for (09 R225); the acquires that wait for some of
them complete with the next step of the queue. -/
def snoopAll (s : State) : State :=
  let s := modHost s fun h => iter h.snoops.length (fun _ h => snoopOne h) h
  { s with net := { s.net with txns := s.net.txns.map fun x => (x.1, { x.2 with snoops := min 1 x.2.snoops }) } }

end Sys2Proof.Machine
end

