-- ==== Sys2Proof/Machine/Operands.lean ====
section
/-! DEFINITION. What an access is formed from: offsets, the segment check (07 R163-R167), the range
scoreboard (08 R179, 12 R286), the resources that a fibre can wait for (11 R268), page leaves, the core
translation cache, the TLB and the page-table walk (13 R323-R327), and the checks of a leaf
(08 R176, R196, R197). -/

namespace Sys2Proof.Machine

/-! ## Segments (07 R163-R165) -/

def segBase (s : W128) : Nat := bf s 0 55
def segTag (s : W128) : Nat := bf s 56 6
def segLimit (s : W128) : Nat := bf s 64 55
def segKind (s : W128) : Nat := bf s 124 2

/-- The places of the rights in a segment register. -/
def rightR : Nat := 119
def rightW : Nat := 120
def rightX : Nat := 121
def rightA : Nat := 122

/-- A fault with the kind of its address and the address. -/
abbrev Err := FCode × AKind × Nat

/-- The address that a fault of a segment access names (15 R374). -/
def segErr (seg : W128) (off : Nat) (code : FCode) : Err :=
  match segKind seg with
  | 0 => (code, .tile, off)
  | 1 => (code, .tile, off)
  | 2 => (code, .virtual, (segBase seg + off) % 2 ^ 55)
  | _ => (code, .none, segBase seg + off)

/-- Whether a tile window's core number names the issuing core itself (07 R164). -/
def ownId (c id : Nat) : Bool := kindOf c != .dense && id == cidOf c

/-- Seg of R165: rights in the order given, then the limit, then the place. An access to the own core's
tile memory through the window is checked against the own tile bytes (07 R164). -/
def segCheck (c : Nat) (k : Core) (sg : Fin 8) (off size : Nat) (rights : List Nat) : Except Err Loc :=
  let seg := k.segs[sg]
  if rights.any fun r => !bitAt seg r then .error (segErr seg off .segRights)
  else if segLimit seg < off + size then .error (segErr seg off .segLimit)
  else
    match segKind seg with
    | 0 => .ok (.tile c off)
    | 1 =>
        let id := fld off 16 12
        let o := off % 2 ^ 16
        if ownId c id then
          if o + size ≤ tileBytes c k then .ok (.tile c o) else .error (segErr seg off .segLimit)
        else .ok (.tile id o)
    | 2 => .ok (.va ((segBase seg + off) % 2 ^ 55) (if bitAt seg 123 then some (segTag seg) else none))
    | _ => .ok (.scratch (segBase seg + off))

/-- ALIGN, then the segment check (08 R197). -/
def segAcc (c : Nat) (k : Core) (sg : Fin 8) (off size align : Nat) (rights : List Nat) : Except Err Loc :=
  if off % align != 0 then .error (segErr k.segs[sg] off .align) else segCheck c k sg off size rights

/-- The offset of a CM, CF or CV operand: Reg(base) + imm · n (04 R73, R84). -/
def offOf (s : State) (base : Reg) (bits imm n : Nat) : Nat :=
  (rd s base + immS s bits imm * BitVec.ofNat 64 n).toNat

/-- Moving a place by some bytes. -/
def Loc.plus : Loc → Nat → Loc
  | .tile c o, n => .tile c (o + n)
  | .va a t, n => .va ((a + n) % 2 ^ 55) t
  | .scratch a, n => .scratch (a + n)

/-- Whether two accesses meet in a byte of the place that their segments name. -/
def Loc.meets (a : Loc) (n : Nat) (b : Loc) (m : Nat) : Bool :=
  match a, b with
  | .tile c o, .tile d p => c == d && overlap o n p m
  | .va x _, .va y _ => overlap x n y m
  | .scratch x, .scratch y => overlap (x % 2 ^ 25) n (y % 2 ^ 25) m
  | _, _ => false

/-- Whether two accesses meet in a byte of a physical place. -/
def Place.meets (p : Place) (n : Nat) (q : Place) (m : Nat) : Bool :=
  match p, q with
  | .dram x, .dram y => overlap x n y m
  | .tile c o, .tile d p => c == d && overlap o n p m
  | .scratch x, .scratch y => overlap x n y m
  | .host x _, .host y _ => overlap x n y m
  | .regs x, .regs y => overlap x n y m
  | .peer d x, .peer e y => d == e && overlap x n y m
  | _, _ => false

/-- The code segment: the lowest of sg2 to sg7 that grants X (07 R167). -/
def codeSeg (k : Core) : Option (Fin 8) :=
  [2, 3, 4, 5, 6, 7].find? fun sg : Fin 8 => bitAt k.segs[sg] rightX

/-! ## The range scoreboard (08 R179, 12 R286, R288, R290) -/

/-- Bytes of a number in memory (03 R46; 12 R294). -/
def fmtBytes : Fmt → Nat
  | .fp32 | .int32 => 4
  | .fp16 | .bf16 => 2
  | .t8 | .int8 => 1
  | .e2m1 => 1
  | .int64 => 8

/-- The format with a code (04 R72). -/
def fmtOf (n : Nat) : Fmt :=
  match n with
  | 0 => .fp32 | 1 => .fp16 | 2 => .bf16 | 3 => .t8 | 4 => .e2m1 | 5 => .int8 | 6 => .int32 | _ => .int64

/-- The tile bytes [lo, hi) that a segment range names, if it lies in the core's own tile. -/
def tileRangeOf (c : Nat) (k : Core) (sg off n : Nat) : Option (Nat × Nat) :=
  let seg := k.segs[Fin.ofNat 8 sg]
  if segKind seg = 0 then some (off, off + n)
  else if segKind seg = 1 && ownId c (fld off 16 12) then some (off % 2 ^ 16, off % 2 ^ 16 + n)
  else none

/-- The tile write range of a command (12 R288, R290, R293-R297). -/
def cmdWrites (c : Nat) (k : Core) (w : Vector W64 4) : Option (Nat × Nat) :=
  let n := bf w[0] 40 24
  let span (lo len : Nat) : Option (Nat × Nat) := if len = 0 then none else some (lo, lo + len)
  match bf w[0] 0 4 with
  | 1 => span (bf w[1] 16 16) (n * bf w[1] 32 16)
  | 4 => span (bf w[1] 16 16) (16 * n + 8)
  | 5 =>
      let e := bf w[1] 32 16 / fmtBytes (fmtOf (bf w[0] 28 4))
      span (bf w[1] 16 16) (bf w[2] 0 16 * e * fmtBytes (fmtOf (bf w[2] 16 4)))
  | 6 => if n = 0 then none else tileRangeOf c k (bf w[0] 35 3) w[3].toNat (8 * n)
  | 7 =>
      let kk := bf w[1] 48 16
      span (bf w[1] 32 16) (if kk = 0 then 16 * n else 8 * kk * n)
  | 8 => if n = 0 then none else tileRangeOf c k (bf w[0] 32 3) w[2].toNat (8 * n)
  | 9 => if n = 0 then none else tileRangeOf c k (bf w[0] 32 3) w[2].toNat (8 * n)
  | _ => none

/-- Whether an entry of the command FIFO is in flight: from its push until it retires or is aborted. -/
def inFlight : CmdState → Bool
  | .queued | .running | .stopped => true
  | .done | .aborted => false

/-- Whether bytes of the own tile overlap the range of a command in flight (08 R179); only lookup
cores keep the scoreboard. -/
def rangeBusy (c : Nat) (k : Core) (off n : Nat) : Bool :=
  kindOf c == .lookup && k.fifo.any fun e =>
    inFlight e.2.st &&
    match e.2.range with
    | some (lo, hi) => overlap off n lo (hi - lo)
    | none => false

/-! ## Resources (02 R22, 11 R268, 12 R303) -/

/-- The class of a resource and the units that a request takes. -/
def resClass : Resource → Nat
  | .dqEntries _ => 0 | .storeBuffer _ => 1 | .sendSlot => 2 | .feSlot => 3 | .fifo => 4
  | .dqHead _ => 5 | .trap => 6 | .tileRange _ _ => 7 | .acc n => 8 + n | .dqOwn _ => 12

def resUnits : Resource → Nat
  | .dqEntries n => n | .storeBuffer n => n
  | .sendSlot | .feSlot | .fifo | .dqHead _ | .trap | .tileRange _ _ | .acc _ | .dqOwn _ => 1

/-- The store-buffer entries of the hardware, each of up to 16 bytes, that one of the model's takes
(11 R266). -/
def sbUnits (acc : Acc1) : Nat := (acc.size + 15) / 16

/-- Entries of the hardware in use. -/
def sbUsed (sb : NMap SbEntry) : Nat := sb.foldl (fun n x => n + sbUnits x.2.acc) 0

/-- FIFO entries that a push can take (12 R299). -/
def fifoFree (k : Core) : Nat := 8 - (k.fifo.filter fun e => inFlight e.2.st).length

/-- Free units of a resource that is handed over in order; the reserved ones are among them. -/
def resFree (c : Nat) (k : Core) : Resource → Nat
  | .dqEntries _ => nPool (kindOf c) - k.q.pool.length
  | .storeBuffer _ => 32 - sbUsed k.q.sb
  | .sendSlot => if k.q.sendSlot.isSome then 0 else 1
  | .feSlot => if k.q.feSlot.isSome then 0 else 1
  | .fifo => fifoFree k
  | .dqHead _ | .trap | .tileRange _ _ | .acc _ | .dqOwn _ => 0

/-- Units of a class that are reserved for fibres other than one (11 R268). -/
def resHeld (k : Core) (cls slot : Nat) : Nat :=
  k.fibres.foldl (fun n x =>
    match x.2.sch.resv with
    | some r => if resClass r = cls && x.1 != slot then n + resUnits r else n
    | none => n) 0

/-- Whether a fibre other than one waits for a resource of a class. -/
def resWaited (k : Core) (cls slot : Nat) : Bool :=
  k.fibres.any fun x => x.1 != slot &&
    match x.2.sch.run, x.2.sch.wait with
    | .parked _, .resource r => resClass r == cls
    | _, _ => false

/-- Whether a fibre of a core may take a resource now (11 R268): units reserved for it, or free ones that nobody
waits for. -/
def roomFor (s : State) (c slot : Nat) (r : Resource) : Bool :=
  let k := getCore s c
  let mine := match (getFib s c slot).bind (·.sch.resv) with
    | some q => resClass q == resClass r && decide (resUnits r ≤ resUnits q)
    | none => false
  mine || !resWaited k (resClass r) slot
    && decide (resUnits r + resHeld k (resClass r) slot ≤ resFree c k r)

/-- Whether the issuing fibre may take a resource now. -/
def canTake (s : State) (r : Resource) : Bool := roomFor s s.issue.core s.issue.slot r

/-! ## Leaves and their checks (13 R324; 08 R176, R196, R197) -/

def leafCls (l : W64) : Nat := bf l 8 2
def leafStale (l : W64) : Nat := bf l 10 2

/-- The region of a physical address (08 R176): 0 device DRAM, 1 device registers, 2 host, 3 a hole. -/
def regionOf (pa : Nat) : Nat :=
  if pa < 2 ^ 39 then 0
  else if 2 ^ 40 ≤ pa && pa < 2 ^ 40 + 2 ^ 32 then 1
  else if 2 ^ 47 ≤ pa then 2 else 3

/-- The place at a physical address of this device; none in a hole. -/
def placeAt (pa : Nat) (cached : Bool) : Option Place :=
  match regionOf pa with
  | 0 => some (.dram pa)
  | 1 => some (.regs (pa - 2 ^ 40))
  | 2 => some (.host (pa - 2 ^ 47) cached)
  | _ => none

/-- Accesses that R196 lets act only on DC DRAM and SC host pages. -/
def isAtomic : AccOp → Bool
  | .amo _ | .cas | .red _ => true
  | .load | .store | .nibble _ | .ldf | .ldfe | .stf | .stfw | .fest _ => false

/-- CLASS_MISUSE by class, region and access (08 R193, R196). -/
def classBad (cls region : Nat) (op : AccOp) (tagged : Bool) : Bool :=
  match region with
  | 0 => cls == 2 || (cls == 0 && isAtomic op)
  | 1 => tagged || (cls == 0 && isAtomic op)
  | 2 => cls == 1 || tagged || (cls == 0 && isAtomic op) || op == .red .fadd
  | _ => false

/-- BUS_ERROR by class, region, access and size (08 R176, R196, R203, R204). -/
def busBad (cls region : Nat) (op : AccOp) (size : Nat) : Bool :=
  let nib := match op with
    | .nibble _ => true
    | _ => false
  match region with
  | 0 => false
  | 1 => cls != 0 || !(size == 4 || size == 8) || nib
  | 2 => cls == 0 && nib
  | _ => true

/-- The physical address that a leaf gives a virtual one. -/
def leafPa (l : W64) (bits va : Nat) : Nat := bf l 16 32 * 2 ^ 16 + va % 2 ^ bits

/-- The checks of a leaf in the order of R197, and the place (none: a load whose BUS_ERROR comes with
its reply, 08 R203). -/
def leafCheck (s : State) (x : Xlate) (va : Nat) (acc : Acc1) (tagged : Bool) :
    Except FCode (Option Place) :=
  let pa := leafPa x.leaf x.bits va
  let cls := leafCls x.leaf
  let region := regionOf pa
  if classBad cls region acc.op tagged then .error .classMisuse
  else if needsWrite acc.op && (!bitAt x.leaf 2 || bitAt x.leaf 4) then .error .pageRights
  else if busBad cls region acc.op acc.size then
    (if needsWrite acc.op then .error .busError else .ok none)
  else if bitAt x.leaf 56 && bf x.leaf 48 8 != s.regs.domid.toNat then
    .ok (some (.peer (bf x.leaf 48 8) pa))
  else .ok (placeAt pa (cls == 2))

/-- Whether a performed access may use an entry as it stands (13 R327). -/
def usable (x : Xlate) (write : Bool) : Bool := bitAt x.leaf 5 && (!write || bitAt x.leaf 6)

/-! ## Translation caches (13 R326) -/

/-- Whether an entry translates an address. -/
def Xlate.has (x : Xlate) (asid va : Nat) : Bool := x.asid == asid && va / 2 ^ x.bits == x.page

/-- The entry of a list that translates an address. -/
def xfind (xs : List Xlate) (asid va : Nat) : Option Xlate := xs.find? fun x => x.has asid va

/-- Whether two entries are of one page. -/
def Xlate.same (x y : Xlate) : Bool := x.asid == y.asid && x.page == y.page && x.bits == y.bits

/-- Filling the core translation cache: 16 entries, the least recently used one leaves. -/
def tcPut (s : State) (c : Nat) (x : Xlate) : State :=
  modCore s c fun k =>
    let xs := (k.caches.xlate.filter fun y => !y.same x) ++ [x]
    { k with caches := { k.caches with xlate := if 16 < xs.length then xs.tail else xs } }

/-- A use of an entry. -/
def tcTouch (s : State) (c : Nat) (x : Xlate) : State :=
  modCore s c fun k =>
    { k with caches := { k.caches with xlate := (k.caches.xlate.filter fun y => !y.same x) ++ [x] } }

/-- A translation unit. -/
def getUnit (s : State) (u : Nat) : XUnit := ngetD s.units u XUnit.blank

/-- Changing a translation unit. -/
def modUnit (s : State) (u : Nat) (f : XUnit → XUnit) : State :=
  { s with units := nmodD s.units u XUnit.blank f }

/-- A core's translation cache and its unit's TLB hold an entry no more (13 R325, R327). -/
def xlateDrop (s : State) (c u : Nat) (x : Xlate) : State :=
  modUnit (modCore s c fun k => { k with caches := { k.caches with xlate := k.caches.xlate.filter fun y => !y.same x } })
    u fun t => { t with tlb := t.tlb.filter fun y => !y.same x }

/-- Filling a TLB: 1,024 sets of 8 ways, the least recently used of the set leaves. -/
def tlbPut (s : State) (u : Nat) (x : Xlate) : State :=
  modUnit s u fun t =>
    let rest := t.tlb.filter fun y => !y.same x
    let inSet := rest.filter fun y => y.page % 1024 == x.page % 1024
    let rest := match inSet with
      | v :: _ => if 8 ≤ inSet.length then rest.filter fun y => !y.same v else rest
      | [] => rest
    { t with tlb := rest ++ [x] }

/-! ## The walk (13 R323-R325, R327) -/

/-- Whether a leaf breaks R325, for a page of a size in bits. -/
def badLeaf (l : W64) (bits : Nat) : Bool :=
  bf l 12 4 != 0 || bf l 57 7 != 0 || leafCls l == 3 || (leafStale l != 0 && leafCls l != 1)
    || bf l 16 (bits - 16) != 0

/-- Whether a table entry breaks R325. -/
def badTable (l : W64) : Bool := bf l 2 14 != 0 || bf l 48 16 != 0

/-- Reading one table: the leaf, or the next table; an entry is a physical load at its controller, whose code is
checked (08 R189). The bits of an index at a level, 13 of them from bit lo, and the levels below. -/
def walkFrom (s : State) : Nat → Nat → Nat → Nat → State × Except Err Xlate
  | 0, _, _, va => (s, .error (.pageAbsent, .virtual, va))
  | n + 1, table, asid, va =>
      let lo := 16 + 13 * n
      let at_ := table + fld va lo 13 * 8
      if 2 ^ 39 ≤ table then (s, .error (.pageAbsent, .virtual, va))
      else
        match dramAccess s ⟨.load, 8, 0, 0⟩ at_ false 0 with
        | (s, .err code) => (s, .error (code, .physical, at_))
        | (s, .ok v _ _) =>
            let l := v.setWidth 64
            if !bitAt l 0 then (s, .error (.pageAbsent, .virtual, va))
            else if bitAt l 1 then
              if badLeaf l lo then (s, .error (.pageAbsent, .virtual, va))
              else (s, .ok { asid := asid, page := va / 2 ^ lo, bits := lo, leaf := l, home := at_ })
            else if badTable l then (s, .error (.pageAbsent, .virtual, va))
            else walkFrom s n (bf l 16 32 * 2 ^ 16) asid va

/-- A walk from the root of an ASID. -/
def walkTables (s : State) (asid va : Nat) : State × Except Err Xlate :=
  match nget s.tasks.roots asid with
  | some root => walkFrom s 3 root asid va
  | none => (s, .error (.pageAbsent, .virtual, va))

/-- The atomic OR of A, and of D for a write, at the leaf's home; not performed when the atom cannot be read
(08 R189), nor when V has become 0 (13 R327). -/
def orLeaf (s : State) (x : Xlate) (write : Bool) (va : Nat) : State × Except Err Xlate :=
  let bits : W64 := if write then 0x60 else 0x20
  match dramLoad s x.home 8 0 with
  | (s, .err code) => (touch s x.home false, .error (code, .physical, x.home))
  | (s, .ok v _ _) =>
      if bitAt v 0 then
        match dramAccess s ⟨.amo .or, 8, bits.setWidth 512, 0⟩ x.home false 0 with
        | (s, .err code) => (s, .error (code, .physical, x.home))
        | (s, .ok _ _ _) => (s, .ok { x with leaf := x.leaf ||| bits })
      else (touch s x.home false, .error (.pageAbsent, .virtual, va))

end Sys2Proof.Machine
end

