-- ==== Sys2Proof/Machine/Access.lean ====
section
/-! DEFINITION. The way of an access from its instruction to its place (08 R195, R199-R204, R210-R215;
09 R220-R224): store-buffer forwarding, row cache, translation with its parks, transactions of a parked
fibre, store-buffer entries, and the waits of fences and releases. -/

namespace Sys2Proof.Machine

/-! ## Pieces -/

/-- The address of a place in the space that its segment names. -/
def Loc.addr : Loc → Nat
  | .tile c o => c * 2 ^ 16 + o
  | .va a _ => a
  | .scratch a => a

/-- The kind of the address that a fault record names for a place (15 R374). -/
def Loc.kind : Loc → AKind
  | .tile _ _ => .tile
  | .va _ _ => .virtual
  | .scratch _ => .none

/-- Accesses are cut at atoms of DRAM and host memory, and at 64-byte granules elsewhere (08 R183). -/
def Loc.grain : Loc → Nat
  | .va _ _ => 32
  | .tile _ _ | .scratch _ => 64

/-- The offset and length of each piece of an access of n bytes. -/
def cutAt (a n g : Nat) : List (Nat × Nat) :=
  (upto ((a + n - 1) / g - a / g + 1)).map fun j =>
    let lo := max a ((a / g + j) * g)
    (lo - a, min (a + n) ((a / g + j + 1) * g) - lo)

/-- The pieces of a contiguous load, unresolved. -/
def loadPieces (loc : Loc) (n : Nat) : List Piece :=
  (cutAt loc.addr n loc.grain).map fun x => ⟨x.1, loc.plus x.1, ⟨.load, x.2, 0, 0⟩, none⟩

/-- The pieces of a load whose bytes are at hand. -/
def valPieces (loc : Loc) (n v : Nat) : List Piece :=
  (cutAt 0 n 64).map fun x =>
    ⟨x.1, loc.plus x.1, ⟨.load, x.2, 0, 0⟩, some (.val (BitVec.ofNat 512 (fld v (8 * x.1) (8 * x.2))))⟩

/-- An access to own tile bytes in the range of a command parks until the command has left (08 R179). -/
def parkRange (s : State) (i : Instr) (off n : Nat) : State × Flow :=
  parkHere s i .resource (.resource (.tileRange off n))

/-- Whether a place lies in the tile memory of a core. -/
def Loc.isOwn (loc : Loc) (c : Nat) : Bool :=
  match loc with
  | .tile d _ => d == c
  | .va _ _ | .scratch _ => false

/-- The tile offset of a place. -/
def Loc.tileOff : Loc → Nat
  | .tile _ o => o
  | .va _ _ | .scratch _ => 0

/-! ## Store-buffer forwarding (08 R199, 09 R219, R223) -/

/-- The latest store-buffer entry that covers the byte at a distance from a place. Entries that still await their
translation are left out: their store has not passed it, and is not sent before (08 R195; DESIGN CHOICE, log 47). -/
def sbLatest (sb : NMap SbEntry) (loc : Loc) (j : Nat) : Option (Nat × SbEntry) :=
  sb.foldl (fun r x =>
    if x.2.place.isSome && x.2.loc.meets x.2.acc.size (loc.plus j) 1 then some x else r) none

/-- Whether an entry is a plain untagged store, whose bytes a load may take. -/
def SbEntry.plain (e : SbEntry) : Bool :=
  e.acc.op == .store &&
    match e.loc with
    | .va _ (some _) => false
    | .va _ none | .tile _ _ | .scratch _ => true

/-- The byte that a load takes from an entry. -/
def sbByte (e : SbEntry) (loc : Loc) (j : Nat) : Nat := bf e.acc.data (8 * ((loc.plus j).addr - e.loc.addr)) 8

/-- The value of a load that the buffer covers in full, and the entries it takes bytes from. -/
def sbCover (sb : NMap SbEntry) (loc : Loc) : Nat → Option (Nat × List Nat)
  | 0 => some (0, [])
  | n + 1 =>
      match sbLatest sb loc n, sbCover sb loc n with
      | some (id, e), some (v, ids) =>
          if e.plain then some (v + sbByte e loc n * 2 ^ (8 * n), addTo ids id) else none
      | _, _ => none

/-- Whether a load's place carries a stream tag. -/
def Loc.tagged : Loc → Bool
  | .va _ (some _) => true
  | .va _ none | .tile _ _ | .scratch _ => false

/-- Whether a red of the core that its place has not accepted overlaps a load: the load waits for it, whatever
else the buffer covers (09 R224). -/
def redOver (sb : NMap SbEntry) (loc : Loc) (n : Nat) : Bool :=
  sb.any fun x => !x.2.accepted && x.2.loc.meets x.2.acc.size loc n &&
    match x.2.acc.op with
    | .red _ => true
    | _ => false

/-- The value that the store buffer serves in full; the reader keeps the entries of other fibres that it takes
bytes from (09 R223). -/
def forward (s : State) (c slot : Nat) (loc : Loc) (n : Nat) : Option (State × Nat) :=
  if loc.tagged || redOver (getCore s c).q.sb loc n then none
  else
    match sbCover (getCore s c).q.sb loc n with
    | some (v, ids) =>
        let others := ids.filter fun id => match nget (getCore s c).q.sb id with
          | some e => e.who.slot != slot
          | none => false
        some (modFib s c slot fun f =>
          { f with sch := { f.sch with seen := f.sch.seen ++ others.map fun id => (c, id) } }, v)
    | none => none

/-! ## Row cache (08 R181, 09 R232) -/

/-- The valid entry of an atom that a fibre has not read past. -/
def rowFind (k : Core) (time slot va : Nat) : Option RowEnt :=
  k.caches.row.find? fun e =>
    e.atom == va / 32 && decide (time < e.stamp + staleNs e.cls) && !e.past.contains slot

/-- The value of a row-cache hit. -/
def rowHit (s : State) (c slot : Nat) (loc : Loc) (n : Nat) : Option Nat :=
  match loc with
  | .va a none =>
      match rowFind (getCore s c) s.time.toNat slot a with
      | some e => some (bf e.data (8 * (a % 32)) (8 * n))
      | none => none
  | .va _ (some _) | .tile _ _ | .scratch _ => none

/-- Whether an access looks up the row cache: untagged, through a KIND 2 segment, on a core whose crew
declared one (08 R180, R181; 10 R244). -/
def rowLooks (s : State) (c : Nat) (loc : Loc) : Bool :=
  match loc, (getCore s c).crew with
  | .va _ none, some w => w.cache != 0
  | _, _ => false

/-- The requests of a core that may fill its row cache. -/
def mayFill (r : Req) : Bool :=
  match r.origin with
  | .prefetch _ _ => true
  | .engine _ _ _ _ => !needsWrite r.acc.op
  | .txn _ _ | .pool _ _ | .store _ _ | .icache _ _ _ => false

/-- The fills of a core under way that a test names will be discarded. -/
def missFills (s : State) (c : Nat) (p : Req → Bool) : State :=
  let ids := (s.net.reqs.filter fun x => mayFill x.2 && x.2.who.core == c && p x.2).map (·.1)
  modCore s c fun k => { k with caches := { k.caches with missed := ids.foldl addTo k.caches.missed } }

/-- A write of the core discards the row-cache entry of its atom, and fills of it that are under way
(08 R181, R216). -/
def dropRow (s : State) (c : Nat) (loc : Loc) (n : Nat) : State :=
  match loc with
  | .va a _ =>
      let s := modCore s c fun k => { k with caches := { k.caches with
        row := k.caches.row.filter fun e => !(a / 32 ≤ e.atom && e.atom ≤ (a + n - 1) / 32) } }
      missFills s c fun r => r.va / 32 == a / 32
  | .tile _ _ | .scratch _ => s

/-- Whether a place lies in an atom of DRAM. -/
def Place.inAtom (p : Place) (atom : Nat) : Bool :=
  match p with
  | .dram a => a / 32 == atom
  | _ => false

/-- The same for a write whose place is known: whatever address an entry or a fill has the atom under (08 R181;
09 R232). -/
def dropPlace (s : State) (c : Nat) (p : Place) : State :=
  match p with
  | .dram a =>
      let s := modCore s c fun k => { k with caches := { k.caches with
        row := k.caches.row.filter fun e => e.phys != a / 32 } }
      missFills s c fun r => r.place.inAtom (a / 32)
  | _ => s

/-- A read of a fibre leaves for an atom of DRAM past the row cache. A fill of the atom that is under way is discarded
(09 R232); an entry of it stays (08 R181), and is no hit for the fibre any more: what the fibre reads next must not be
older (09 R221; DEDUCED, log 53). -/
def passRow (s : State) (c slot : Nat) (p : Place) : State :=
  match p with
  | .dram a =>
      let s := modCore s c fun k => { k with caches := { k.caches with
        row := k.caches.row.map fun e => if e.phys = a / 32 then { e with past := addTo e.past slot } else e } }
      missFills s c fun r => r.place.inAtom (a / 32)
  | _ => s

/-! ## Resolving a piece (08 R195) -/

/-- What the pipeline finds for a piece. -/
inductive Res where
  | tgt (t : Tgt)
  | miss
  | bad (e : Err)
  deriving DecidableEq, Repr

/-- The entry that translates an address for a fibre: of the core translation cache, or held for its
reissue (11 R271). -/
def heldOr (k : Core) (slot asid va : Nat) : Option Xlate :=
  match xfind k.caches.xlate asid va with
  | some x => some x
  | none => xfind ((k.caches.held.filter fun h => h.1 == slot).map (·.2)) asid va

/-- Where an access goes, with the checks of its leaf. -/
def resolveVa (s : State) (c slot va : Nat) (acc : Acc1) (tagged : Bool) : State × Res :=
  let k := getCore s c
  match heldOr k slot (asidOf k) va with
  | none => (s, .miss)
  | some x =>
      match leafCheck s x va acc tagged with
      | .error code => (s, .bad (code, .virtual, va))
      | .ok pl =>
          if usable x (needsWrite acc.op) then
            (if k.caches.xlate.contains x then tcTouch s c x else s,
              .tgt (match pl with
                | some p => .goes p (bitAt x.leaf 7) (leafStale x.leaf) x.bits
                | none => .late .busError))
          else (s, .miss)

/-- Where a piece goes. Bytes of the own tile are at hand. -/
def resolve (s : State) (c slot : Nat) (p : Piece) : State × Res :=
  match p.loc with
  | .tile d o =>
      (s, .tgt (if d = c then .val (BitVec.ofNat 512 (tileLoad s c o p.acc.size))
                else .goes (.tile d o) false 0 0))
  | .scratch a => (s, .tgt (.goes (.scratch (a % 2 ^ 25)) false 0 0))
  | .va a tag => resolveVa s c slot a p.acc tag.isSome

/-- Resolving pieces in ascending order, up to the first that misses or faults, one that was formed with
an error among them. -/
def plan (s : State) (c slot : Nat) : List Piece → State × List Piece × Option (Piece × Option Err)
  | [] => (s, [], none)
  | p :: ps =>
      match p.tgt with
      | some (.late code) => (s, p :: ps, some (p, some (code, p.loc.kind, p.loc.addr)))
      | some _ => let (s, qs, r) := plan s c slot ps
                  (s, p :: qs, r)
      | none =>
          match resolve s c slot p with
          | (s, .tgt t) => let (s, qs, r) := plan s c slot ps
                           (s, { p with tgt := some t } :: qs, r)
          | (s, .miss) => (s, p :: ps, some (p, none))
          | (s, .bad e) => (s, p :: ps, some (p, some e))

/-! ## Walks -/

/-- A translation starts: the lookup in the unit's TLB (13 R326). -/
def startWalk (s : State) (who : Issuer) (va : Nat) (wants : WalkFor) (acc : Acc1) (tagged : Option Nat)
    (more : List Nat) : State :=
  let (id, s) := freshId s
  let w : WalkReq :=
    { who := who, va := va, write := needsWrite acc.op, asid := asidOf (getCore s who.core),
      wants := wants, more := more, acc := acc, tag := tagged, missed := false,
      walking := false, hit := none,
      dropped := false }
  { s with net := { s.net with walks := nput s.net.walks id w } }

/-- The virtual address and tag of a place. -/
def Loc.va? : Loc → Nat × Option Nat
  | .va a t => (a, t)
  | .tile _ _ | .scratch _ => (0, none)

/-- A wait with a limit starts at its first park and keeps its start over reissues (07 R160). -/
def startTimer (s : State) : State :=
  let lim := (myCore s).trap.timeout.toNat
  modMe s fun f =>
    { f with sch := { f.sch with
        t0 := some (f.sch.t0.getD (s.time.toNat, lim)),
        pass := if s.issue.words = 1 then 4 else if f.ctl.adone then 8 else 0 } }

/-- A wait that has ended by TIMEOUT and whose pair is issued again to say so, with its A half (log 46). -/
def expired (s : State) : Bool := (me s).sch.late

/-- A wait whose limit is 0 ends by TIMEOUT at its first check (07 R160). -/
def noLimit (s : State) : Bool :=
  expired s || match (me s).sch.t0 with
    | some (_, lim) => lim == 0
    | none => (myCore s).trap.timeout == 0

/-! ## Transactions of a parked fibre -/

/-- Whether a request is a write of a fibre through a page. -/
def fibreWrite (r : Req) : Bool :=
  r.who.core < 4120 && needsWrite r.acc.op &&
    (match r.origin with
     | .txn _ _ | .store _ _ => true
     | .pool _ _ | .engine _ _ _ _ | .icache _ _ _ | .prefetch _ _ => false) &&
    match r.place with
    | .dram _ | .host _ _ | .peer _ _ => true
    | .tile _ _ | .scratch _ | .regs _ | .row _ _ _ _ _ => false

/-- Whether a write of a core's fibres to the atom of a fill stands in its store buffer or is on its way. -/
def writesAtom (s : State) (c : Nat) (r : Req) : Bool :=
  let atom := r.va / 32
  let same (p : Place) : Bool := match r.place with
    | .dram a => p.inAtom (a / 32)
    | _ => false
  (getCore s c).q.sb.any (fun x => x.2.loc.meets x.2.acc.size (.va (32 * atom) none) 32
      || x.2.place.any fun p => same p.1)
    || s.net.reqs.any fun x =>
      fibreWrite x.2 && x.2.who.core == c && x.2.answer.isNone
        && (overlap x.2.va x.2.acc.size (32 * atom) 32 || same x.2.place)

/-- Whether a request is a read of a fibre that is still its own. -/
def fibreRead (s : State) (r : Req) : Bool :=
  r.acc.op == .load && match r.origin with
    | .txn _ _ => decide (r.who.core < 4120)
    | .pool c e => (nget (getCore s c).q.pool e).any (·.owned)
    | .store _ _ | .engine _ _ _ _ | .icache _ _ _ | .prefetch _ _ => false

/-- A request enters the net, sent from the core of its issuer. A write that leaves the core discards the row-cache
entries of its atom and fills of it that are under way; a fill that is sent while such a write is outstanding fills
nothing (08 R181, R216; 09 R232). A fibre's read passes the row cache by. -/
def addReq (s : State) (r : Req) : State :=
  let c := r.who.core
  let late := mayFill r && writesAtom s c r
  let s := if fibreWrite r then dropPlace (dropRow s c (.va r.va none) r.acc.size) c r.place else s
  let s := if fibreRead s r then passRow s c r.who.slot r.place else s
  let (id, s) := freshId s
  let s := if late then modCore s c fun k => { k with caches := { k.caches with missed := addTo k.caches.missed id } }
           else s
  modReqs s fun m => nput m id { r with sentAt := s.time.toNat, via := c }

/-- The request of a resolved piece. A piece whose bytes are at hand, or whose error comes with the
reply, is answered already. -/
def pieceReq (who : Issuer) (origin : Origin) (p : Piece) : Req :=
  let base : Req :=
    { who := who, origin := origin, place := .scratch 0, acc := p.acc, va := p.loc.va?.1,
      tag := p.loc.va?.2, rbit := false, stale := 0, deferred := false, answer := none }
  match p.tgt with
  | some (.goes pl rbit stale bits) => { base with place := pl, rbit := rbit, stale := stale, bits := bits }
  | some (.val v) => { base with answer := some (.ok v 0 true) }
  | some (.late code) => { base with answer := some (.err code) }
  | none => base

/-- A transaction. -/
def getTxn (s : State) (id : Nat) : Option Txn := nget s.net.txns id

/-- Changing the transactions. -/
def modTxns (s : State) (f : NMap Txn → NMap Txn) : State :=
  { s with net := { s.net with txns := f s.net.txns } }

/-- A new transaction. -/
def newTxn (s : State) (who : Issuer) (dst : Dst) (size : Nat) (acq : Bool) (ps : List Piece) :
    Nat × State :=
  let (id, s) := freshId s
  (id, modTxns s fun m => nput m id
    { who := who, dst := dst, size := size, plan := ps, got := [], left := 0, full := true, acq := acq,
      snoops := 0, err := none })

/-- All pieces are resolved: they are sent (08 R195). -/
def launch (s : State) (id : Nat) : State :=
  match getTxn s id with
  | some t =>
      let s := t.plan.foldl (fun s p =>
        addReq s (pieceReq t.who (.txn id p.off) p)) s
      modTxns s fun m => nput m id { t with left := t.plan.length }
  | none => s

/-- Resolving a transaction further after a park: it is sent, walks again, or faults (08 R195). -/
def advanceTxn (s : State) (id : Nat) : State :=
  match getTxn s id with
  | some t =>
      let (s, ps, r) := plan s t.who.core t.who.slot t.plan
      let s := modTxns s fun m => nput m id { t with plan := ps }
      match r with
      | none => setWait (launch s id) t.who.core t.who.slot .reply (.txn id)
      | some (p, none) => startWalk s t.who p.loc.va?.1 (.txn id p.off) p.acc p.loc.va?.2 []
      | some (_, some e) => faultBack (modTxns s fun m => ndel m id) t.who e.1 e.2.1 e.2.2
  | none => s

/-- The address of the first place off the core that an access reaches. -/
def offCore (c : Nat) (ls : List Loc) : AKind × Nat :=
  match ls.find? fun l => !l.isOwn c with
  | some l => (l.kind, l.addr)
  | none => (.none, 0)

/-- An access of a fibre that leaves the core: its pieces are resolved, and the fibre parks with reason
1, or with reason 5 while a translation is missing (08 R195, R199). -/
def sendOff (s : State) (i : Instr) (dst : Dst) (size : Nat) (acq : Bool) (ps : List Piece) :
    State × Flow :=
  if inHandler s then
    let e := offCore s.issue.core (ps.map (·.loc))
    faultHere s i .handlerDiscipline e.1 e.2
  else
    let c := s.issue.core
    let (s, ps, r) := plan s c s.issue.slot ps
    match r with
    | some (_, some e) => faultHere s i e.1 e.2.1 e.2.2
    | none =>
        let (id, s) := newTxn s (issuer s i) dst size acq ps
        parkOn (launch s id) i .reply (.txn id)
    | some (p, none) =>
        let who := issuer s i
        let (id, s) := newTxn s who dst size acq ps
        parkOn (startWalk s who p.loc.va?.1 (.txn id p.off) p.acc p.loc.va?.2 []) i .xlate (.txn id)

/-- A contiguous load of a fibre (08 R199): the own tile, unless a command's range covers it; the store
buffer in full; the row cache where the instruction looks it up; else a park. fin completes it in the
pipeline, unless the load must park (08 R201). -/
def loadIssue (s : State) (i : Instr) (loc : Loc) (n : Nat) (dst : Dst) (rc mustPark acq : Bool)
    (fin : State → Nat → State × Flow) : State × Flow :=
  let c := s.issue.core
  let now (s : State) (v : Nat) : State × Flow :=
    if mustPark then
      sendOff s i dst n acq (valPieces loc n v)
    else fin s v
  if loc.isOwn c then
    if rangeBusy c (getCore s c) loc.tileOff n then parkRange s i loc.tileOff n
    else now s (tileLoad s c loc.tileOff n)
  else if inHandler s then faultHere s i .handlerDiscipline loc.kind loc.addr
  else
    match forward s c s.issue.slot loc n with
    | some (s, v) => now s v
    | none =>
        let looks := rc && rowLooks s c loc
        match if looks then rowHit s c s.issue.slot loc n else none with
        | some v => now (bumpEv s c 0x10B) v
        | none => sendOff (if looks then bumpEv s c 0x10C else s) i dst n acq (loadPieces loc n)

/-! ## Store buffer (08 R200) -/

/-- Changing the store buffer of a core. -/
def modSb (s : State) (c : Nat) (f : NMap SbEntry → NMap SbEntry) : State :=
  modCore s c fun k => { k with q := { k.q with sb := f k.q.sb } }

/-- Changing the count of unacknowledged entries of a fibre. -/
def addUnack (s : State) (c slot : Nat) (f : Nat → Nat) : State :=
  modFib s c slot fun x => { x with sch := { x.sch with unack := f x.sch.unack } }

/-- The entries of the hardware that the parts of a store take. -/
def partUnits (parts : List (Loc × Acc1)) : Nat := parts.foldl (fun n x => n + sbUnits x.2) 0

/-- Entries of one instruction enter the store buffer, in order, untranslated; the first one's number
names the group. -/
def sbEnter (s : State) (who : Issuer) (parts : List (Loc × Acc1)) : Nat × State :=
  let grp := s.net.next
  let s := parts.foldl (fun s x =>
    let (id, s) := freshId s
    let e : SbEntry := { who := who, loc := x.1, acc := x.2, place := none, sent := false,
                         accepted := false,
                         grp := grp }
    dropRow (modSb s who.core fun m => nput m id e) who.core x.1 x.2.size) s
  (grp, addUnack s who.core who.slot (· + partUnits parts))

/-- The entries of a group. -/
def sbGroup (k : Core) (grp : Nat) : NMap SbEntry := k.q.sb.filter fun x => x.2.grp == grp

/-- Translating the entries of a group in order, up to the first that misses or faults. -/
def sbResolve (s : State) (c slot : Nat) : NMap SbEntry → State × Option (SbEntry × Option Err)
  | [] => (s, none)
  | (id, e) :: es =>
      if e.place.isSome then sbResolve s c slot es
      else
        match resolve s c slot ⟨0, e.loc, e.acc, none⟩ with
        | (s, .tgt (.goes p rbit stale _)) =>
            sbResolve (dropPlace (modSb s c fun m => nput m id { e with place := some (p, rbit, stale) }) c p) c slot es
        | (s, .tgt (.val _)) | (s, .tgt (.late _)) => sbResolve s c slot es
        | (s, .miss) => (s, some (e, none))
        | (s, .bad er) => (s, some (e, some er))

/-- A group is withdrawn: its store has faulted and is not performed. -/
def sbWithdraw (s : State) (c slot grp : Nat) : State :=
  let n := sbUsed (sbGroup (getCore s c) grp)
  addUnack (modSb s c fun m => m.filter fun x => x.2.grp != grp) c slot (· - n)

/-- Translating a group further after a park: the fibre goes on, walks again, or faults (08 R200). -/
def advanceStore (s : State) (who : Issuer) (grp : Nat) : State :=
  match sbResolve s who.core who.slot (sbGroup (getCore s who.core) grp) with
  | (s, none) => makeReady s who.core who.slot
  | (s, some (e, none)) =>
      setWait (startWalk s who e.loc.va?.1 (.store grp) e.acc e.loc.va?.2 []) who.core who.slot .xlate .walk
  | (s, some (_, some er)) => faultBack (sbWithdraw s who.core who.slot grp) who er.1 er.2.1 er.2.2

/-- Stores that the own tile performs at issue. -/
def ownStores (s : State) (c : Nat) (parts : List (Loc × Acc1)) : State :=
  parts.foldl (fun s x => (tileDo s c x.1.tileOff x.2 c).1) s

/-- The first part of a store to the own tile that a command's range covers. -/
def storesBusy (s : State) (c : Nat) (parts : List (Loc × Acc1)) : Option (Loc × Acc1) :=
  parts.find? fun x => rangeBusy c (getCore s c) x.1.tileOff x.2.size

/-- The fault that a store meets in the pipeline, the lowest part first. -/
def storeFault (s : State) (c slot : Nat) (parts : List (Loc × Acc1)) : Option Err :=
  match plan s c slot (parts.map fun x => ⟨0, x.1, x.2, none⟩) with
  | (_, _, some (_, some e)) => some e
  | _ => none

/-- A store-class access of a fibre (08 R200, R204, R212): performed in the own tile, or entered in the
store buffer and translated. -/
def storeIssue (s : State) (i : Instr) (parts : List (Loc × Acc1)) : State × Flow :=
  let c := s.issue.core
  if parts.all fun x => x.1.isOwn c then
    if let some x := storesBusy s c parts then parkRange s i x.1.tileOff x.2.size
    else (ownStores s c parts, .next)
  else if inHandler s then
    let e := offCore c (parts.map (·.1))
    faultHere s i .handlerDiscipline e.1 e.2
  else if !canTake s (.storeBuffer (partUnits parts)) then
    parkHere s i .resource (.resource (.storeBuffer (partUnits parts)))
  else
    match storeFault s c s.issue.slot parts with
    | some e => faultHere s i e.1 e.2.1 e.2.2
    | none =>
        let who := issuer s i
        let (grp, s) := sbEnter s who parts
        match sbResolve s c s.issue.slot (sbGroup (getCore s c) grp) with
        | (s, none) => (s, .next)
        | (s, some (e, _)) =>
            parkOn (startWalk s who e.loc.va?.1 (.store grp) e.acc e.loc.va?.2 []) i .xlate .walk

/-! ## Read-modify-writes (08 R210, R211) -/

/-- amo and cas: in the pipeline on the own tile, else a transaction. -/
def rmwIssue (s : State) (i : Instr) (loc : Loc) (acc : Acc1) (dst : Dst)
    (fin : State → Nat → State × Flow) : State × Flow :=
  let c := s.issue.core
  if loc.isOwn c then
    if rangeBusy c (getCore s c) loc.tileOff acc.size then parkRange s i loc.tileOff acc.size
    else let (s, v) := tileDo s c loc.tileOff acc c
         fin s v
  else if inHandler s then faultHere s i .handlerDiscipline loc.kind loc.addr
  else sendOff (dropRow s c loc acc.size) i dst acc.size false [⟨0, loc, acc, none⟩]

/-! ## Fences and releases (08 R201, R214, R215; 09 R223, R239) -/

/-- Whether a scope waits for the acceptance of reds. -/
def waitsReds : Scope → Bool
  | .core | .vly => false
  | .dev | .sys | .dom => true

/-- Whether a store-buffer entry holds up a fence or release at a scope, once the fibre has written it or read it
by forwarding. A red that its place has accepted holds up nothing (09 R241). -/
def holdsUp (e : SbEntry) (sc : Scope) : Bool :=
  let red := match e.acc.op with
    | .red _ => true
    | _ => false
  !e.accepted &&
    match e.place with
    | none => false
    | some (.peer _ _, _) => sc == .dom
    | some _ => !red || waitsReds sc

/-- Whether a write of another fibre that a fibre has read by forwarding holds up its release: on the core where
it read it (09 R223). -/
def seenHolds (s : State) (f : Fibre) (sc : Scope) : Bool :=
  f.sch.seen.any fun x => match nget (getCore s x.1).q.sb x.2 with
    | some e => holdsUp e sc
    | none => false

/-- Whether a fibre may leave its core: its own writes, and those of others that it has read by forwarding, are
acknowledged (09 R221, R238). -/
def mayLeave (s : State) (f : Fibre) : Bool := f.sch.unack == 0 && !seenHolds s f .dom

/-- Whether a fibre has nothing outstanding at a scope. -/
def drained (s : State) (c slot : Nat) (sc : Scope) : Bool :=
  sc == .core || !((getCore s c).q.sb.any (fun x => x.2.who.slot == slot && holdsUp x.2 sc)
    || match getFib s c slot with
       | some f => seenHolds s f sc
       | none => false)

/-- Whether a fence or release at a scope raises a failure: that of a write or red that it covers (08 R201, R215;
09 R239), or that of a red that was held when it began (10 R264). -/
def raises (sc : Scope) (held : Bool) : FailKind → Bool
  | .write => sc != .core
  | .red => waitsReds sc
  | .peer => sc == .dom
  | .late => waitsReds sc && held

/-- The oldest failure held for a fibre that a fence or release at a scope meets; so many of them were held when it
began. -/
def failureOf (f : Fibre) (sc : Scope) (held : Nat) : Option (FCode × Nat × FailKind) :=
  ((upto f.sch.failed.length).zip f.sch.failed).findSome? fun x =>
    if raises sc (x.1 < held) x.2.2.2 then some x.2 else none

/-- The failure that the issuing fibre's fence or release meets when it need not wait. -/
def failureNow (s : State) (sc : Scope) : Option (FCode × Nat × FailKind) :=
  failureOf (me s) sc (me s).sch.failed.length

/-- A wait for the writes that a fence or release of the issuing fibre covers. -/
def drainWait (s : State) (i : Instr) (sc : Scope) (next : Then) : Wait :=
  .drain sc next (issuer s i) (me s).sch.failed.length

/-- A failure is taken: its record is appended at the park. -/
def dropFailure (s : State) (c slot : Nat) (x : FCode × Nat × FailKind) : State :=
  modFib s c slot fun f => { f with sch := { f.sch with failed := f.sch.failed.erase x } }

/-- A wait for earlier writes at its instruction: if nothing is outstanding it goes on, else the fibre parks with
reason 1 and goes on when nothing is. -/
def waitIssue (s : State) (i : Instr) (sc : Scope) (next : Then) (go : State → State × Flow) : State × Flow :=
  if drained s s.issue.core s.issue.slot sc then go s
  else parkOn s i .reply (drainWait s i sc next)

/-- A fence or release at its instruction: once nothing is outstanding, a failure held for the fibre faults, or it
goes on (08 R201, R215). -/
def releaseIssue (s : State) (i : Instr) (sc : Scope) (next : Then) (go : State → State × Flow) :
    State × Flow :=
  waitIssue s i sc next fun s =>
    match failureNow s sc with
    | some x => faultHere (dropFailure s s.issue.core s.issue.slot x) i x.1 .physical x.2.1
    | none => go s

/-- A release that stores (08 R201, R207): once nothing is outstanding it proceeds as any store. -/
def releaseStore (s : State) (i : Instr) (sc : Scope) (loc : Loc) (acc : Acc1) : State × Flow :=
  let c := s.issue.core
  if !loc.isOwn c && inHandler s then faultHere s i .handlerDiscipline loc.kind loc.addr
  else
    releaseIssue s i sc (if loc.isOwn c then .tile loc.tileOff acc else .store loc acc) fun s =>
      storeIssue s i [(loc, acc)]

/-- A fibre goes back to its instruction and issues it again; a pair's A part is not performed again
(04 R75). -/
def reissue (s : State) (w : Issuer) : State :=
  makeReady (modFib (oweGroup s w.core w.slot) w.core w.slot fun f =>
    { f with pc := w.pc, ctl := { f.ctl with pp := w.pp, adone := w.pair } }) w.core w.slot

/-- A fibre parks again at its instruction for a resource that it now needs (02 R22; 04 R75). -/
def parkBack (s : State) (w : Issuer) (r : Resource) : State :=
  parkAgain (reissue s w) w.core w.slot .resource (.resource r)

end Sys2Proof.Machine
end

