-- ==== Sys2Proof/Machine/Index.lean ====
section
/-! DEFINITION. The index instructions lea, madv, fwalk and brank (05 R117-R120; 13 R333, R334). -/

namespace Sys2Proof.Machine

/-- The value that lea writes (05 R117). -/
def leaValue (seg : W128) (off n : Nat) : W64 :=
  if segLimit seg < off + n then BitVec.allOnes 64
  else
    match segKind seg with
    | 0 => BitVec.ofNat 64 off
    | 1 => BitVec.ofNat 64 off
    | 2 => BitVec.ofNat 64 ((segBase seg + off) % 2 ^ 55)
    | _ => BitVec.ofNat 64 (segBase seg + off)

def execLea (r : Reg) (sg : Fin 8) (base : Reg) (sz : Size) (imm : BitVec 7) (s : State) :
    Host.Outcome State Fault Refusal :=
  regOp (.lea r sg base sz imm) r s fun s =>
    leaValue (myCore s).segs[sg] (offOf s base 7 imm.toNat (szBytes sz)) (szBytes sz)

/-! ## Reads of several words -/

/-- One read of an instruction that makes several, its bytes at hand when the own tile, the store buffer or the row
cache gives them, as a load's are (05 R119; 08 R181, R199). -/
def readPiece (s : State) (c slot : Nat) (loc : Loc) (n off : Nat) : State × Piece :=
  let acc : Acc1 := ⟨.load, n, 0, 0⟩
  if loc.isOwn c then
    (s, ⟨off, loc, acc, some (.val (BitVec.ofNat 512 (tileLoad s c loc.tileOff n)))⟩)
  else
    match forward s c slot loc n with
    | some (s, v) => (s, ⟨off, loc, acc, some (.val (BitVec.ofNat 512 v))⟩)
    | none =>
        if rowLooks s c loc then
          match rowHit s c slot loc n with
          | some v => (bumpEv s c 0x10B, ⟨off, loc, acc, some (.val (BitVec.ofNat 512 v))⟩)
          | none => (bumpEv s c 0x10C, ⟨off, loc, acc, none⟩)
        else (s, ⟨off, loc, acc, none⟩)

/-- A place that stands for the address of an error. -/
def errLoc (e : Err) : Loc :=
  match e.2.1 with
  | .tile => .tile (e.2.2 / 2 ^ 16) (e.2.2 % 2 ^ 16)
  | .virtual => .va e.2.2 none
  | .physical | .none => .scratch e.2.2

/-- A read whose segment check fails ends with its error in its turn; the others are formed. -/
def readPieces (s : State) (c slot : Nat) (k : Core) (sg : Fin 8) (n : Nat) :
    List (Nat × Nat) → State × List Piece
  | [] => (s, [])
  | (at_, off) :: rest =>
      let (s, p) := match segAcc c k sg off n n [rightR] with
        | .ok loc => readPiece s c slot loc n at_
        | .error e => (s, ⟨at_, errLoc e, ⟨.load, n, 0, 0⟩, some (.late e.1)⟩)
      let (s, ps) := readPieces s c slot k sg n rest
      (s, p :: ps)

/-- The bytes that resolved pieces hold, at their offsets. -/
def pieceBytes (ps : List Piece) : Mem :=
  ps.foldl (fun m p =>
    match p.tgt with
    | some (.val v) => Mem.wrN m p.off v.toNat p.acc.size
    | _ => m) []

/-- Whether the bytes of every piece are at hand. -/
def allVal (ps : List Piece) : Bool :=
  ps.all fun p => match p.tgt with
    | some (.val _) => true
    | _ => false

/-- The first piece of the own tile that stands in the range of a command. -/
def piecesBusy (s : State) (c : Nat) (ps : List Piece) : Option Piece :=
  ps.find? fun p => p.loc.isOwn c && rangeBusy c (getCore s c) p.loc.tileOff p.acc.size &&
    match p.tgt with
    | some (.late _) => false
    | _ => true

/-! ## madv (05 R118) -/

/-- The effect of madv on a fibre, from the two keys. -/
def madvApply (f : Fibre) (d a b : Reg) (peq plt : PReg) (n ka kb : Nat) (ra rb : W64) : Fibre :=
  let lt := ka < kb
  let eq := ka == kb
  let f := putReg f d (BitVec.ofNat 64 (min ka kb))
  let f := if lt || eq then putReg f a (ra + BitVec.ofNat 64 n) else f
  let f := if !lt then putReg f b (rb + BitVec.ofNat 64 n) else f
  putP (putP f peq eq) plt lt

def execMadv (d a b : Reg) (peq plt : PReg) (esz : Esz) (s : State) : Host.Outcome State Fault Refusal :=
  run (.madv d a b peq plt esz) s fun s =>
    let i := Instr.madv d a b peq plt esz
    let c := s.issue.core
    let n := eszBytes esz
    let ra := rd s a
    let rb := rd s b
    match segAcc c (myCore s) 0 ra.toNat n n [rightR], segAcc c (myCore s) 0 rb.toNat n n [rightR] with
    | .error e, _ => faultHere s i e.1 e.2.1 e.2.2
    | .ok _, .error e => faultHere s i e.1 e.2.1 e.2.2
    | .ok la, .ok lb =>
        let (s', p) := readPiece s c s.issue.slot la n 0
        let (s', q) := readPiece s' c s.issue.slot lb n 8
        if let some b := piecesBusy s c [p, q] then parkRange s i b.loc.tileOff b.acc.size
        else if allVal [p, q] then
          let m := pieceBytes [p, q]
          (modMe s' fun f => madvApply f d a b peq plt n (Mem.rdN m 0 n) (Mem.rdN m 8 n) ra rb, .next)
        else sendOff s' i (.madv d a b peq plt n) 16 false [p, q]

/-! ## brank (05 R120) -/

/-- The effect of brank on a fibre, from the block. -/
def brankApply (f : Fibre) (d : Reg) (pd : PReg) (j blk : Nat) : Fibre :=
  putP (putReg f d (BitVec.ofNat 64 (popN j blk))) pd (blk / 2 ^ j % 2 == 1)

def execBrank (d a b : Reg) (pd : PReg) (s : State) : Host.Outcome State Fault Refusal :=
  run (.brank d a b pd) s fun s =>
    let i := Instr.brank d a b pd
    let c := s.issue.core
    let j := bf (rd s b) 0 9
    match segAcc c (myCore s) 0 ((rd s a).toNat / 64 * 64) 64 64 [rightR] with
    | .error e => faultHere s i e.1 e.2.1 e.2.2
    | .ok loc =>
        let (s', p) := readPiece s c s.issue.slot loc 64 0
        if let some b := piecesBusy s c [p] then parkRange s i b.loc.tileOff b.acc.size
        else if allVal [p] then
          (modMe s' fun f => brankApply f d pd j (Mem.rdN (pieceBytes [p]) 0 64), .next)
        else sendOff s' i (.brank d pd j) 64 false [p]

/-! ## fwalk (05 R119; 13 R333, R334) -/

/-- What one level step needs after its record: the range itself, reads through a segment, or an
error. -/
inductive Walk1 where
  | range (lo hi : Nat)
  | reads (sg : Fin 8) (kind p0 p1 : Nat) (offs : List Nat)
  | bad (code : FCode)
  deriving DecidableEq, Repr

/-- The offsets of the reads that a bitmap rank needs (13 R334): the count of its block, and the dwords that hold the
bits below the place; the rest of the block is not read (DESIGN CHOICE, log 48). -/
def rankOffs (arr cnt p : Nat) : List Nat :=
  (cnt + 8 * (p / 512)) % 2 ^ 64 ::
    (upto ((p % 512 + 63) / 64)).map fun j => (arr + 64 * (p / 512) + 8 * j) % 2 ^ 64

/-- Rank from the dwords that rankOffs names, from byte at on (13 R334). -/
def rankFrom (m : Mem) (at_ p : Nat) : Nat :=
  (Mem.rdN m at_ 8 + popN (p % 512) (Mem.rdN m (at_ + 8) (8 * ((p % 512 + 63) / 64)))) % 2 ^ 64

/-- One step from a level record of 32 bytes (05 R119, 13 R333). -/
def levelStep (rec b : Nat) : Walk1 :=
  let kind := fld rec 0 8
  let n := fld rec 64 64
  let arr := fld rec 128 64
  let cnt := fld rec 192 64
  let resv := fld rec 11 5 != 0 || fld rec 16 48 != 0
  let unused :=
    match kind with
    | 1 => fld rec 8 3 != 0 || arr != 0 || cnt != 0
    | 2 => n != 0 || cnt != 0
    | 3 => false
    | 4 => fld rec 8 3 != 0 || n != 0 || arr != 0 || cnt != 0
    | 5 => n != 0 || cnt != 0
    | _ => true
  let sg := Fin.ofNat 8 (fld rec 8 3)
  if resv || unused then .bad .formatRecord
  else
    match kind with
    | 1 => .range (b * n % 2 ^ 64) ((b * n + n) % 2 ^ 64)
    | 4 => .range b ((b + 1) % 2 ^ 64)
    | 3 =>
        if arr % 64 != 0 || cnt % 8 != 0 then .bad .align
        else
          let p0 := b * n % 2 ^ 64
          let p1 := (b * n + n) % 2 ^ 64
          .reads sg 3 p0 p1 (rankOffs arr cnt p0 ++ rankOffs arr cnt p1)
    | _ =>
        if arr % 8 != 0 then .bad .align
        else .reads sg kind 0 0 [(arr + 8 * b) % 2 ^ 64, (arr + 8 * b + 8) % 2 ^ 64]

/-- The range from the dwords read. -/
def levelRange (m : Mem) (kind p0 p1 : Nat) : Nat × Nat :=
  if kind = 3 then
    (rankFrom m 0 p0, rankFrom m (8 * (1 + (p0 % 512 + 63) / 64)) p1)
  else (Mem.rdN m 0 8, Mem.rdN m 8 8)

/-- fwalk writes both registers together. -/
def fwalkApply (f : Fibre) (d : Reg) (r : Nat × Nat) : Fibre :=
  putReg (putReg f d (BitVec.ofNat 64 r.1)) (succReg d) (BitVec.ofNat 64 r.2)

/-- The reads of a level step, each at 8 times its number. -/
def levelPieces (s : State) (c slot : Nat) (sg : Fin 8) (offs : List Nat) : State × List Piece :=
  readPieces s c slot (getCore s c) sg 8 (((upto offs.length).map (8 * ·)).zip offs)

/-- The first piece's error, which is met before any read. -/
def headError (ps : List Piece) : Option Err :=
  match ps with
  | p :: _ =>
      (match p.tgt with
       | some (.late code) => some (code, p.loc.kind, p.loc.addr)
       | _ => none)
  | [] => none

/-- The first read of a handler that fails its segment check or leaves the own tile (02 R32). -/
def handlerError (c : Nat) (ps : List Piece) : Option Err :=
  ps.findSome? fun p =>
    match p.tgt with
    | some (.late code) => some (code, p.loc.kind, p.loc.addr)
    | _ => if p.loc.isOwn c then none else some (.handlerDiscipline, p.loc.kind, p.loc.addr)

/-- The first read of a level step from position b that its record misaligns: of the counts when CNT is no multiple
of 8, else of the array (13 R333). -/
def misread (rec b : Nat) : Nat :=
  let arr := fld rec 128 64
  let cnt := fld rec 192 64
  let p0 := b * fld rec 64 64 % 2 ^ 64
  if fld rec 0 8 = 3 then (if cnt % 8 != 0 then cnt + 8 * (p0 / 512) else arr + 64 * (p0 / 512)) % 2 ^ 64
  else (arr + 8 * b) % 2 ^ 64

/-- The fault of a level record at a tile offset: of the record, or, as ld.d names it, of a misaligned read of its
arrays (05 R119, 13 R333). -/
def recordErr (k : Core) (rec roff b : Nat) (code : FCode) : Err :=
  if code == .align then segErr k.segs[Fin.ofNat 8 (fld rec 8 3)] (misread rec b) .align
  else (code, .tile, roff)

/-- The rest of fwalk once its record, at tile offset roff, is at hand. -/
def fwalkFrom (s : State) (i : Instr) (d : Reg) (rec roff : Nat) (b : W64) : State × Flow :=
  let c := s.issue.core
  match levelStep rec b.toNat with
  | .bad code =>
      let e := recordErr (getCore s c) rec roff b.toNat code
      faultHere s i e.1 e.2.1 e.2.2
  | .range lo hi => (modMe s fun f => fwalkApply f d (lo, hi), .next)
  | .reads sg kind p0 p1 offs =>
      let (s', ps) := levelPieces s c s.issue.slot sg offs
      match if inHandler s then handlerError c ps else headError ps with
      | some e => faultHere s i e.1 e.2.1 e.2.2
      | none =>
          if let some b := piecesBusy s c ps then parkRange s i b.loc.tileOff b.acc.size
          else if allVal ps then
            (modMe s' fun f => fwalkApply f d (levelRange (pieceBytes ps) kind p0 p1), .next)
          else sendOff s' i (.fwalk d kind p0 p1) (8 * offs.length) false ps

def execFwalk (d a b : Reg) (s : State) : Host.Outcome State Fault Refusal :=
  run (.fwalk d a b) s fun s =>
    let i := Instr.fwalk d a b
    let c := s.issue.core
    match segAcc c (myCore s) 0 (rd s a).toNat 32 32 [rightR] with
    | .error e => faultHere s i e.1 e.2.1 e.2.2
    | .ok loc =>
        let (s', p) := readPiece s c s.issue.slot loc 32 0
        if let some b := piecesBusy s c [p] then parkRange s i b.loc.tileOff b.acc.size
        else
          match p.tgt with
          | some (.val v) => fwalkFrom s' i d v.toNat (rd s a).toNat (rd s b)
          | _ => sendOff s' i (.fwalkRec d (rd s a).toNat (rd s b)) 32 false [p]

end Sys2Proof.Machine
end

