-- ==== Sys2Proof/Machine/LoadStore.lean ====
section
/-! DEFINITION. Loads, stores, prefetch and fence (08 R198-R205, R214). -/

namespace Sys2Proof.Machine

/-- The data of a store as an access. -/
def storeAcc (n v : Nat) : Acc1 := ⟨.store, n, BitVec.ofNat 512 (trunc n v), 0⟩

def execLd (r : Reg) (sg : Fin 8) (base : Reg) (sz : Size) (x : Bool) (imm : BitVec 7) (s : State) :
    Host.Outcome State Fault Refusal :=
  run (.ld r sg base sz x imm) s fun s =>
    let i := Instr.ld r sg base sz x imm
    let n := szBytes sz
    match segAcc s.issue.core (myCore s) sg (offOf s base 7 imm.toNat n) n n [rightR] with
    | .error e => faultHere s i e.1 e.2.1 e.2.2
    | .ok loc => loadIssue s i loc n (.reg r n x) true false false fun s v => (wr s r (extend x n v), .next)

/-- ld.acq beyond .core parks and does not look up the row cache (08 R201). -/
def execLdAcq (r : Reg) (sg : Fin 8) (base : Reg) (sz : Size) (x : Bool) (sc : Scope) (imm : BitVec 4)
    (s : State) : Host.Outcome State Fault Refusal :=
  run (.ldAcq r sg base sz x sc imm) s fun s =>
    let i := Instr.ldAcq r sg base sz x sc imm
    let n := szBytes sz
    match segAcc s.issue.core (myCore s) sg (offOf s base 4 imm.toNat n) n n [rightR] with
    | .error e => faultHere s i e.1 e.2.1 e.2.2
    | .ok loc =>
        loadIssue s i loc n (.reg r n x) (sc == .core) (sc != .core) (sc == .sys || sc == .dom)
          fun s v => (wr s r (extend x n v), .next)

def execSt (r : Reg) (sg : Fin 8) (base : Reg) (sz : Size) (imm : BitVec 7) (s : State) :
    Host.Outcome State Fault Refusal :=
  run (.st r sg base sz imm) s fun s =>
    let i := Instr.st r sg base sz imm
    let n := szBytes sz
    match segAcc s.issue.core (myCore s) sg (offOf s base 7 imm.toNat n) n n [rightW] with
    | .error e => faultHere s i e.1 e.2.1 e.2.2
    | .ok loc => storeIssue s i [(loc, storeAcc n (rd s r).toNat)]

def execStRel (r : Reg) (sg : Fin 8) (base : Reg) (sz : Size) (sc : Scope) (imm : BitVec 4) (s : State) :
    Host.Outcome State Fault Refusal :=
  run (.stRel r sg base sz sc imm) s fun s =>
    let i := Instr.stRel r sg base sz sc imm
    let n := szBytes sz
    match segAcc s.issue.core (myCore s) sg (offOf s base 4 imm.toNat n) n n [rightW] with
    | .error e => faultHere s i e.1 e.2.1 e.2.2
    | .ok loc => releaseStore s i sc loc (storeAcc n (rd s r).toNat)

/-- The two registers of a pair from 16 bytes, the lower address first (08 R202). -/
def putPair (f : Fibre) (r : Reg) (v : Nat) : Fibre :=
  putReg (putReg f r (BitVec.ofNat 64 v)) (succReg r) (BitVec.ofNat 64 (v / 2 ^ 64))

def execLdp (r : Reg) (sg : Fin 8) (base : Reg) (imm : BitVec 7) (s : State) :
    Host.Outcome State Fault Refusal :=
  run (.ldp r sg base imm) s fun s =>
    let i := Instr.ldp r sg base imm
    match segAcc s.issue.core (myCore s) sg (offOf s base 7 imm.toNat 8) 16 16 [rightR] with
    | .error e => faultHere s i e.1 e.2.1 e.2.2
    | .ok loc =>
        loadIssue s i loc 16 (.pair r) true false false fun s v => (modMe s fun f => putPair f r v, .next)

def execStp (r : Reg) (sg : Fin 8) (base : Reg) (imm : BitVec 7) (s : State) :
    Host.Outcome State Fault Refusal :=
  run (.stp r sg base imm) s fun s =>
    let i := Instr.stp r sg base imm
    match segAcc s.issue.core (myCore s) sg (offOf s base 7 imm.toNat 8) 16 16 [rightW] with
    | .error e => faultHere s i e.1 e.2.1 e.2.2
    | .ok loc =>
        storeIssue s i [(loc, storeAcc 16 ((rd s r).toNat + (rd s (succReg r)).toNat * 2 ^ 64))]

/-! ## Prefetch (08 R205) -/

/-- A pf that is dropped counts on a lookup core. -/
def dropPf (s : State) (c : Nat) : State := if kindOf c == .lookup then bumpEv s c 0x10A else s

/-- Whether a leaf lets an atom into the row cache: class DC, device DRAM, staleness class 1 to 3
(08 R181, R196). -/
def cacheable (s : State) (x : Xlate) (va : Nat) : Bool :=
  leafCls x.leaf == 1 && leafStale x.leaf != 0 && regionOf (leafPa x.leaf x.bits va) == 0
    && (!bitAt x.leaf 56 || bf x.leaf 48 8 == s.regs.domid.toNat)

/-- The read of a prefetch leaves for its atom. -/
def sendPf (s : State) (who : Issuer) (x : Xlate) (va : Nat) : State :=
  let va := va / 32 * 32
  addReq s
    { who := who, origin := .prefetch who.core va, place := .dram (leafPa x.leaf x.bits va),
      acc := ⟨.load, 32, 0, 0⟩, va := va, tag := none, rbit := false, stale := leafStale x.leaf,
      deferred := false, answer := none, bits := x.bits }

/-- Taking or giving back a place of the prefetch queue. -/
def modPf (s : State) (c : Nat) (f : List Nat → List Nat) : State :=
  modCore s c fun k => { k with caches := { k.caches with prefetch := f k.caches.prefetch } }

/-- The effect of pf. -/
def prefetch (s : State) (i : Instr) (sg : Fin 8) (off : Nat) : State :=
  let c := s.issue.core
  let k := myCore s
  match segCheck c k sg off 1 [rightR] with
  | .ok (.va a none) =>
      if k.crew.all (fun w => w.cache == 0) || 8 ≤ k.caches.prefetch.length then dropPf s c
      else
        let who := issuer s i
        match xfind k.caches.xlate (asidOf k) a with
        | some x =>
            if cacheable s x a then sendPf (modPf (tcTouch s c x) c fun q => q ++ [a / 32]) who x a
            else dropPf s c
        | none =>
            startWalk (modPf s c fun q => q ++ [a / 32]) who a .prefetch ⟨.load, 32, 0, 0⟩ none []
  | _ => dropPf s c

def execPf (sg : Fin 8) (base : Reg) (sz : Size) (imm : BitVec 7) (s : State) :
    Host.Outcome State Fault Refusal :=
  run (.pf sg base sz imm) s fun s =>
    (prefetch s (.pf sg base sz imm) sg (offOf s base 7 imm.toNat (szBytes sz)), .next)

/-! ## Fence (08 R214, R215) -/

def execFence (sc : Scope) (s : State) : Host.Outcome State Fault Refusal :=
  run (.fence sc) s fun s => releaseIssue s (.fence sc) sc .nothing fun s => (s, .next)

end Sys2Proof.Machine
end

