-- ==== Sys2Proof/Machine/Atomic.lean ====
section
/-! DEFINITION. amo, cas and red (08 R210-R213). The address is Reg(base), with no offset. -/

namespace Sys2Proof.Machine

def execAmo (d : Reg) (sg : Fin 8) (base b : Reg) (op : AmoOp) (esz : Esz) (s : State) :
    Host.Outcome State Fault Refusal :=
  run (.amo d sg base b op esz) s fun s =>
    let i := Instr.amo d sg base b op esz
    let n := eszBytes esz
    match segAcc s.issue.core (myCore s) sg (rd s base).toNat n n [rightR, rightW, rightA] with
    | .error e => faultHere s i e.1 e.2.1 e.2.2
    | .ok loc =>
        rmwIssue s i loc ⟨.amo op, n, (rd s b).setWidth 512, 0⟩ (.reg d n true)
          fun s v => (wr s d (sext (8 * n) v), .next)

def execCas (d : Reg) (sg : Fin 8) (base b c : Reg) (s : State) : Host.Outcome State Fault Refusal :=
  run (.cas d sg base b c) s fun s =>
    let i := Instr.cas d sg base b c
    match segAcc s.issue.core (myCore s) sg (rd s base).toNat 8 8 [rightR, rightW, rightA] with
    | .error e => faultHere s i e.1 e.2.1 e.2.2
    | .ok loc =>
        rmwIssue s i loc ⟨.cas, 8, (rd s c).setWidth 512, rd s b⟩ (.reg d 8 false)
          fun s v => (wr s d (BitVec.ofNat 64 v), .next)

def execRed (sg : Fin 8) (base b : Reg) (op : RedOp) (esz : Esz) (s : State) :
    Host.Outcome State Fault Refusal :=
  run (.red sg base b op esz) s fun s =>
    let i := Instr.red sg base b op esz
    let n := eszBytes esz
    match segAcc s.issue.core (myCore s) sg (rd s base).toNat n n [rightW, rightA] with
    | .error e => faultHere s i e.1 e.2.1 e.2.2
    | .ok loc => storeIssue s i [(loc, ⟨.red op, n, (rd s b).setWidth 512, 0⟩)]

end Sys2Proof.Machine
end

