-- ==== Sys2Proof/Machine/FullEmpty.lean ====
section
/-! DEFINITION. Full/empty operations and nibble stores (08 R204, R206-R209). -/

namespace Sys2Proof.Machine

/-- The checks of a full/empty operation: ALIGN, the segment, then SEG_KIND for every place but a tile
of the valley, or the own store of a command core (08 R197, R206). -/
def feLoc (c : Nat) (k : Core) (sg : Fin 8) (off : Nat) (rights : List Nat) : Except Err Loc :=
  match segAcc c k sg off 8 8 rights with
  | .error e => .error e
  | .ok (.tile d o) =>
      if d == c || (kindOf c == .lookup && d / 256 == c / 256) then .ok (.tile d o)
      else .error (segErr k.segs[sg] off .segKind)
  | .ok _ => .error (segErr k.segs[sg] off .segKind)

/-- A waiting operation on the own tile finds the wrong state: it parks with reason 4 and its PC at
itself; a handler commits a violation (08 R206, R208). -/
def feParkLocal (s : State) (i : Instr) (loc : Loc) (op : AccOp) : State × Flow :=
  let w := loc.tileOff / 8
  if inHandler s then faultHere s i .handlerDiscipline loc.kind loc.tileOff
  else if noLimit s then (wrP (feLeave s s.issue.core s.issue.slot w) 7 false, .next)
  else parkHere (startTimer (feJoin s s.issue.core s.issue.slot w op)) i .sync (.fullEmpty w)

/-- The request of a transaction's full/empty operation. -/
def feRequest (s : State) (id : Nat) : Option Nat :=
  (s.net.reqs.find? fun x => x.2.origin == .txn id 0).map (·.1)

/-- A wait on a remote full/empty operation sends its withdrawal, once (08 R209). -/
def withdrawFe (s : State) (c slot id : Nat) : State :=
  match feRequest s id with
  | some q =>
      postMsg (modFib s c slot fun f => { f with sch := { f.sch with t0 := none, late := false } }) (.withdraw q)
  | none => s

/-- A waiting operation on another core takes the outbound slot and is sent (08 R208); under a limit of 0 its
withdrawal follows at once (07 R160). -/
def feSend (s : State) (i : Instr) (loc : Loc) (acc : Acc1) (r : Option Reg) (acq : Bool) : State × Flow :=
  if inHandler s then faultHere s i .handlerDiscipline loc.kind loc.addr
  else if !canTake s .feSlot then parkHere s i .resource (.resource .feSlot)
  else
    let c := s.issue.core
    let slot := s.issue.slot
    let now := noLimit s
    let s := modCore s c fun k => { k with q := { k.q with feSlot := some slot } }
    let id := s.net.next
    let (s, fl) := sendOff (startTimer s) i (.fe r) 8 acq [⟨0, loc, acc, none⟩]
    (if now then withdrawFe s c slot id else s, fl)

/-- ldf and ldfe (08 R207): an acquire at its scope. -/
def feLoad (s : State) (i : Instr) (r : Reg) (sg : Fin 8) (off : Nat) (sc : Scope) (op : AccOp) :
    State × Flow :=
  let c := s.issue.core
  let acc : Acc1 := ⟨op, 8, 0, 0⟩
  let acq := sc == .sys || sc == .dom
  match feLoc c (myCore s) sg off [rightR] with
  | .error e => faultHere s i e.1 e.2.1 e.2.2
  | .ok loc =>
      if loc.isOwn c then
        if rangeBusy c (myCore s) loc.tileOff 8 then parkRange s i loc.tileOff 8
        else
          match if expired s then none else feLocal s c s.issue.slot (loc.tileOff / 8) acc with
          | some (s, v) =>
              let s := if acq then snoopAll s else s
              (wrP (wr s r (BitVec.ofNat 64 v)) 7 true, .next)
          | none => feParkLocal s i loc op
      else feSend s i loc acc (some r) acq

def execLdf (r : Reg) (sg : Fin 8) (base : Reg) (sc : Scope) (imm : BitVec 7) (s : State) :
    Host.Outcome State Fault Refusal :=
  run (.ldf r sg base sc imm) s fun s =>
    feLoad s (.ldf r sg base sc imm) r sg (offOf s base 7 imm.toNat 8) sc .ldf

def execLdfe (r : Reg) (sg : Fin 8) (base : Reg) (sc : Scope) (imm : BitVec 7) (s : State) :
    Host.Outcome State Fault Refusal :=
  run (.ldfe r sg base sc imm) s fun s =>
    feLoad s (.ldfe r sg base sc imm) r sg (offOf s base 7 imm.toNat 8) sc .ldfe

/-- stf and fest (08 R207): a release at its scope that never waits for the word. -/
def feStore (s : State) (i : Instr) (sg : Fin 8) (off : Nat) (sc : Scope) (acc : Acc1) : State × Flow :=
  let c := s.issue.core
  match feLoc c (myCore s) sg off [rightW] with
  | .error e => faultHere s i e.1 e.2.1 e.2.2
  | .ok loc =>
      if loc.isOwn c then
        releaseIssue s i sc (.fe loc.tileOff acc) fun s =>
          if rangeBusy c (myCore s) loc.tileOff 8 then parkRange s i loc.tileOff 8
          else
            let w := loc.tileOff / 8
            let (s, _, ch) := fePerform s c w acc c
            (feAfter s c w ch, .next)
      else releaseStore s i sc loc acc

def execStf (r : Reg) (sg : Fin 8) (base : Reg) (sc : Scope) (imm : BitVec 7) (s : State) :
    Host.Outcome State Fault Refusal :=
  run (.stf r sg base sc imm) s fun s =>
    feStore s (.stf r sg base sc imm) sg (offOf s base 7 imm.toNat 8) sc
      ⟨.stf, 8, (rd s r).setWidth 512, 0⟩

def execFest (full : Bool) (sg : Fin 8) (base : Reg) (sc : Scope) (imm : BitVec 7) (s : State) :
    Host.Outcome State Fault Refusal :=
  run (.fest full sg base sc imm) s fun s =>
    feStore s (.fest full sg base sc imm) sg (offOf s base 7 imm.toNat 8) sc ⟨.fest full, 8, 0, 0⟩

/-- stfw (08 R207): a release at its scope that waits for an empty word. -/
def execStfw (r : Reg) (sg : Fin 8) (base : Reg) (sc : Scope) (imm : BitVec 7) (s : State) :
    Host.Outcome State Fault Refusal :=
  run (.stfw r sg base sc imm) s fun s =>
    let i := Instr.stfw r sg base sc imm
    let c := s.issue.core
    let acc : Acc1 := ⟨.stfw, 8, (rd s r).setWidth 512, 0⟩
    match feLoc c (myCore s) sg (offOf s base 7 imm.toNat 8) [rightR, rightW] with
    | .error e => faultHere s i e.1 e.2.1 e.2.2
    | .ok loc =>
        if loc.isOwn c then
          releaseIssue s i sc (.fe loc.tileOff acc) fun s =>
            if rangeBusy c (myCore s) loc.tileOff 8 then parkRange s i loc.tileOff 8
            else
              match if expired s then none else feLocal s c s.issue.slot (loc.tileOff / 8) acc with
              | some (s, _) => (wrP s 7 true, .next)
              | none => feParkLocal s i loc .stfw
        else if inHandler s then faultHere s i .handlerDiscipline loc.kind loc.addr
        else releaseIssue s i sc (.remote loc acc) fun s => feSend s i loc acc none false

/-- st4 (08 R204): one read-modify-write of a byte at the place that owns it. -/
def execSt4 (r : Reg) (sg : Fin 8) (base : Reg) (hi : Bool) (imm : BitVec 7) (s : State) :
    Host.Outcome State Fault Refusal :=
  run (.st4 r sg base hi imm) s fun s =>
    let i := Instr.st4 r sg base hi imm
    match segAcc s.issue.core (myCore s) sg (offOf s base 7 imm.toNat 1) 1 1 [rightW] with
    | .error e => faultHere s i e.1 e.2.1 e.2.2
    | .ok loc => storeIssue s i [(loc, ⟨.nibble hi, 1, (rd s r).setWidth 512, 0⟩)]

end Sys2Proof.Machine
end

