-- ==== Sys2Proof/Machine/Queue.lean ====
section
/-! DEFINITION. Access queues, spawning, messages and migration, as their instructions start them
(11 R270-R285). -/

namespace Sys2Proof.Machine

/-- Changing the queues of a core. -/
def modQ (s : State) (c : Nat) (f : Queues → Queues) : State :=
  modCore s c fun k => { k with q := f k.q }

/-! ## The data-queue pool (11 R266, R271) -/

/-- The lowest number below n that is no key of a map. -/
def lowestFree {α : Type} (m : NMap α) : Nat → Option Nat
  | 0 => none
  | n + 1 =>
      match lowestFree m n with
      | some i => some i
      | none => if (nget m n).isNone then some n else none

/-- A pool entry is taken for a fibre and appended to its data queue. -/
def dqAppend (s : State) (c slot : Nat) (e : PoolEntry) : Nat × State :=
  let i := (lowestFree (getCore s c).q.pool (nPool (kindOf c))).getD 0
  let s := modQ s c fun q => { q with pool := nput q.pool i e }
  (i, modFib s c slot fun f => { f with sch := { f.sch with dq := f.sch.dq ++ [i] } })

/-- What the issuing fibre must wait for before it appends m entries (11 R268, R271, R272): its own limit of 16, or
entries of the pool. -/
def dqLacks (s : State) (m : Nat) : Option Resource :=
  if 16 < (me s).sch.dq.length + m then some (.dqOwn m)
  else if canTake s (.dqEntries m) then none
  else some (.dqEntries m)

/-- Whether the issuing fibre can append m entries now. -/
def dqRoom (s : State) (m : Nat) : Bool := (dqLacks s m).isNone

/-- The value of a queue read that is at hand: the own tile, the store buffer in full, the row cache. -/
def dqValue (s : State) (c slot : Nat) (loc : Loc) (n : Nat) : State × Option Nat :=
  if loc.isOwn c then (s, some (tileLoad s c loc.tileOff n))
  else
    match forward s c slot loc n with
    | some (s, v) => (s, some v)
    | none =>
        if rowLooks s c loc then
          match rowHit s c slot loc n with
          | some v => (bumpEv s c 0x10B, some v)
          | none => (bumpEv s c 0x10C, none)
        else (s, none)

/-- The piece of a queue read. -/
def dqPiece (loc : Loc) (n : Nat) : Piece := ⟨0, loc, ⟨.load, n, 0, 0⟩, none⟩

/-- Whether the bytes of a queue read are at hand, or its translation is. -/
def dqCheck (s : State) (c slot : Nat) (loc : Loc) (n : Nat) : State × Res :=
  if loc.isOwn c || (forward s c slot loc n).isSome || (rowLooks s c loc && (rowHit s c slot loc n).isSome) then
    (s, .tgt (.val 0))
  else resolve s c slot (dqPiece loc n)

/-- One read that has passed its checks takes its entry and is sent (11 R271). -/
def dqSend (s : State) (who : Issuer) (loc : Loc) (n : Nat) (x : Bool) : State :=
  let c := who.core
  let e : PoolEntry := { st := .pending, ext := x, size := n, loc := some loc, owned := true }
  match dqValue s c who.slot loc n with
  | (s, some v) => (dqAppend s c who.slot { e with st := .ready (BitVec.ofNat 64 v) }).2
  | (s, none) =>
      let (i, s) := dqAppend s c who.slot e
      match resolve s c who.slot (dqPiece loc n) with
      | (s, .tgt t) =>
          let p := { dqPiece loc n with tgt := some t }
          addReq s (pieceReq who (.pool c i) p)
      | (s, .miss) | (s, .bad _) => s

/-- The reads of a queue instruction, checked in ascending order: the first fault before any miss, or the
addresses whose translation misses. -/
def dqChecks (s : State) (c slot n : Nat) : List (Except Err Loc) → State × Except Err (List (Nat × Option Nat))
  | [] => (s, .ok [])
  | .error e :: _ => (s, .error e)
  | .ok loc :: rest =>
      match dqCheck s c slot loc n with
      | (s, .bad e) => (s, .error e)
      | (s, .tgt _) => dqChecks s c slot n rest
      | (s, .miss) =>
          match dqChecks s c slot n rest with
          | (s, .ok ms) => (s, .ok (loc.va? :: ms))
          | (s, .error _) => (s, .ok [loc.va?])

/-- Leaves held for a fibre's reissue are given up. -/
def dropHeld (s : State) (c slot : Nat) : State :=
  modCore s c fun k => { k with caches := { k.caches with
    held := k.caches.held.filter fun h => h.1 != slot } }

/-- The part of aq.push and aq.list after their addresses are formed. -/
def dqIssue (s : State) (i : Instr) (locs : List (Except Err Loc)) (n : Nat) (x : Bool) : State × Flow :=
  let c := s.issue.core
  let slot := s.issue.slot
  match dqChecks s c slot n locs with
  | (_, .error e) => faultHere (dropHeld s c slot) i e.1 e.2.1 e.2.2
  | (s', .ok ((va, tag) :: more)) =>
      let who := issuer s' i
      parkHere (startWalk s' who va .reissue ⟨.load, n, 0, 0⟩ tag (more.map (·.1))) i .xlate .walk
  | (s', .ok []) =>
      let busy := locs.findSome? fun l =>
        match l with
        | .ok loc => if loc.isOwn c && rangeBusy c (getCore s c) loc.tileOff n then some loc.tileOff else none
        | .error _ => none
      if let some off := busy then parkRange s i off n
      else
        let who := issuer s' i
        let s' := locs.foldl (fun s l =>
          match l with
          | .ok loc => dqSend s who loc n x
          | .error _ => s) s'
        (dropHeld s' c slot, .next)

def execAqPush (sg : Fin 8) (base : Reg) (sz : Size) (x : Bool) (imm : BitVec 7) (s : State) :
    Host.Outcome State Fault Refusal :=
  run (.aqPush sg base sz x imm) s fun s =>
    let i := Instr.aqPush sg base sz x imm
    let n := szBytes sz
    let off := offOf s base 7 imm.toNat n
    if off % n != 0 then
      let e := segErr (myCore s).segs[sg] off .align
      faultHere s i e.1 e.2.1 e.2.2
    else if let some r := dqLacks s 1 then parkHere s i .resource (.resource r)
    else dqIssue s i [segAcc s.issue.core (myCore s) sg off n n [rightR]] n x

/-- A dword of the index list of aq.list. On a dense core, where sg0 is the scratchpad, it is read at its
bank (log 10). -/
def listDword (s : State) (c slot : Nat) (loc : Loc) : State × Nat :=
  match loc with
  | .scratch a =>
      (match forward s c slot loc 8 with
       | some r => r
       | none => (s, Mem.rdN s.mem.scratch (a % 2 ^ 25) 8))
  | .tile _ o => (s, tileLoad s c o 8)
  | .va _ _ => (s, 0)

/-- The dwords of an index list. -/
def listDwords (s : State) (c slot : Nat) (list : Loc) (m : Nat) : State × List Nat :=
  (upto m).foldl (fun x j =>
    let (s, v) := listDword x.1 c slot (list.plus (8 * j))
    (s, x.2 ++ [v])) (s, [])

/-- The store-buffer entries that a dword of an index list must wait for: they overlap it, and the buffer does not
serve it (08 R199, 09 R224). -/
def listWaits (s : State) (c slot : Nat) (list : Loc) (m : Nat) : List Nat :=
  (upto m).flatMap fun j =>
    let loc := list.plus (8 * j)
    if loc.isOwn c || (forward s c slot loc 8).isSome then []
    else ((getCore s c).q.sb.filter fun x => !x.2.accepted && x.2.loc.meets x.2.acc.size loc 8).map (·.1)

def execAqList (r : Reg) (sg : Fin 8) (base : Reg) (sz : Size) (x : Bool) (imm : BitVec 7) (s : State) :
    Host.Outcome State Fault Refusal :=
  run (.aqList r sg base sz x imm) s fun s =>
    let i := Instr.aqList r sg base sz x imm
    let c := s.issue.core
    let n := szBytes sz
    let m := bf (rd s r) 16 4 + 1
    let lo := bf (rd s r) 0 16
    match segAcc c (myCore s) 0 lo (8 * m) 8 [rightR] with
    | .error e => faultHere s i e.1 e.2.1 e.2.2
    | .ok list =>
        if list.isOwn c && rangeBusy c (myCore s) list.tileOff (8 * m) then
          parkRange s i list.tileOff (8 * m)
        else if let some r := dqLacks s m then parkHere s i .resource (.resource r)
        else if !(listWaits s c s.issue.slot list m).isEmpty then
          parkHere s i .reply (.stores (listWaits s c s.issue.slot list m))
        else
          let (s, vs) := listDwords s c s.issue.slot list m
          let offs := vs.map fun v => (offOf s base 7 imm.toNat n + v * n) % 2 ^ 64
          dqIssue s i (offs.map fun off => segAcc c (myCore s) sg off n n [rightR]) n x

/-! ## dq.pop and dq.cnt (11 R274-R276) -/

/-- The state of the pool entries of a queue's first k places. -/
def dqHead (k : Core) (dq : List Nat) (n : Nat) : List PoolState :=
  (dq.take n).map fun e => match nget k.q.pool e with
    | some x => x.st
    | none => .pending

/-- The value that an entry gives (11 R274). -/
def dqOut (k : Core) (e : Nat) : W64 :=
  match nget k.q.pool e with
  | some x => (match x.st with
      | .ready v => extend x.ext x.size v.toNat
      | .held | .pending | .error _ _ _ | .forwarded _ _ => 0)
  | none => 0

/-- Whether an entry still awaits its reply. -/
def isWaiting : PoolState → Bool
  | .held | .pending | .forwarded _ _ => true
  | .ready _ | .error _ _ _ => false

/-- The head of the data queue of a fibre is freed; an entry whose reply is to come keeps its place until it
arrives (02 R23, 11 R275). -/
def dqFree (s : State) (c slot n : Nat) : State :=
  match getFib s c slot with
  | some f =>
      let s := modQ s c fun q => { q with pool := (f.sch.dq.take n).foldl poolFree q.pool }
      modFib s c slot fun f => { f with sch := { f.sch with dq := f.sch.dq.drop n } }
  | none => s

def execDqPop (d : Reg) (two : Bool) (s : State) : Host.Outcome State Fault Refusal :=
  run (.dqPop d two) s fun s =>
    let i := Instr.dqPop d two
    let n := if two then 2 else 1
    let dq := (me s).sch.dq
    let heads := dqHead (myCore s) dq n
    if dq.length < n then faultHere s i .queueUnderflow .none 0
    else if heads.any isWaiting then parkHere s i .resource (.resource (.dqHead n))
    else
      match heads.findSome? fun h => match h with
        | .error code ak addr => some (code, ak, addr)
        | .held | .pending | .ready _ | .forwarded _ _ => none with
      | some (code, ak, addr) =>
          let (s, fl) := faultHere s i code ak addr
          (if codeCls code = 0 then
            modFib s s.issue.core s.issue.slot fun f => { f with sch := { f.sch with wait := .dqFault n } }
           else s, fl)
      | none =>
          let k := myCore s
          let v0 := dqOut k (dq.getD 0 0)
          let v1 := dqOut k (dq.getD 1 0)
          let s := dqFree s s.issue.core s.issue.slot n
          let s := wr s d v0
          (if two then wr s (succReg d) v1 else s, .next)

/-- READY entries at the head of a queue. -/
def readyHeads (k : Core) : List Nat → Nat
  | [] => 0
  | e :: es =>
      match nget k.q.pool e with
      | some x => (match x.st with
          | .ready _ => 1 + readyHeads k es
          | .held | .pending | .error _ _ _ | .forwarded _ _ => 0)
      | none => 0

def execDqCnt (d : Reg) (s : State) : Host.Outcome State Fault Refusal :=
  regOp (.dqCnt d) d s fun s =>
    let k := myCore s
    let f := me s
    BitVec.ofNat 64 (f.sch.dq.length + readyHeads k f.sch.dq * 2 ^ 5
      + (nPool (kindOf s.issue.core) - (k.q.pool.filter fun e => e.2.st != .held).length) * 2 ^ 10 + f.sch.unack % 64 * 2 ^ 21)

/-! ## spawn (11 R277, 02 R26) -/

/-- The lowest run-queue slot that is FREE and not reserved. -/
def freeSlot (k : Core) (n : Nat) : Option Nat :=
  (upto n).find? fun i => (nget k.fibres i).isNone && !k.q.slotResv.contains i

def execSpawn (d a : Reg) (imm : BitVec 13) (s : State) : Host.Outcome State Fault Refusal :=
  run (.spawn d a imm) s fun s =>
    let c := s.issue.core
    if kindOf c == .dense then (wr s d (-2), .next)
    else
      match freeSlot (myCore s) (nSlots (kindOf c)) with
      | none => (wr s d (-1), .next)
      | some slot =>
          let p := src s
          let child : Fibre :=
            { Fibre.blank with
              pc := s.issue.pc + sext 13 imm.toNat * 4,
              g := Fibre.blank.g.set 0 (rd s a),
              ctl := { Ctl.blank with priv := p.ctl.priv, rm := p.ctl.rm, fz := p.ctl.fz, seed := p.ctl.seed },
              sch := { Sched.blank with since := 2 * (myCore s).seq.cycle + 1 } }
          let s := putFib s c slot child
          let s := modMe s fun f => { f with ctl := { f.ctl with seed := seedAfter 1 p.ctl.seed } }
          let s := { s with issue := { s.issue with seedW := true } }
          (wr s d (BitVec.ofNat 64 (cidOf c * 256 + slot)), .next)

/-! ## send (11 R278-R280) -/

/-- Whether a lookup core holds a crew of a task; a core without a task names none (log 9). -/
def hasCrew (s : State) (t tid : Nat) : Bool :=
  match (getCore s t).crew with
  | some w => tid != 0 && w.tid == tid
  | none => false

/-- The words of a request: the handler address, then n registers. -/
def sendWords (s : State) (b : Reg) (n : Nat) : List W64 :=
  (rd s b &&& 0xFFFFFFFFFFFFFFFC) :: (upto n).map fun j =>
    match b with
    | .g k => (src s).g[Fin.ofNat 8 (k.val + j + 1)]
    | r => rd s r

/-- The pool entry of a reply, before its request is granted a slot. -/
def heldEntry : PoolEntry := { st := .held, ext := false, size := 8, loc := none, owned := true }

/-- A request takes the outbound slot and asks for an inbox slot; a pool entry is held for its reply until the slot
is granted (11 R279, R280). -/
def sendIssue (s : State) (i : Instr) (d a b : Reg) (n : Nat) (q : Bool) : State × Flow :=
  let c := s.issue.core
  let slot := s.issue.slot
  let t := bf (rd s a) 0 12
  if !hasCrew s t (tidOf (myCore s)) && !(me s).ctl.priv then faultHere s i .msgTarget .none 0
  else if let some r := (if q then dqLacks s 1 else none) then parkHere s i .resource (.resource r)
  else if !canTake s .sendSlot then parkHere s i .resource (.resource .sendSlot)
  else
    let who := issuer s i
    let words := sendWords s b n
    let s := modQ s c fun q => { q with sendSlot := some slot }
    let (e, s) :=
      if q then
        let e := (lowestFree (getCore s c).q.pool (nPool (kindOf c))).getD 0
        (some e, modQ s c fun q => { q with pool := nput q.pool e heldEntry })
      else (none, s)
    let id := s.net.next
    parkOn (postMsg s (.send who t words e false false d)) i .reply (.msg id)

def execSend (d a b : Reg) (n : BitVec 2) (s : State) : Host.Outcome State Fault Refusal :=
  run (.send d a b n) s fun s => sendIssue s (.send d a b n) d a b n.toNat false

def execSendQ (d a b : Reg) (n : BitVec 2) (s : State) : Host.Outcome State Fault Refusal :=
  run (.sendQ d a b n) s fun s => sendIssue s (.sendQ d a b n) d a b n.toNat true

/-- The reply form, in a handler whose message asked for a reply and that has sent none. -/
def execSendR (d b : Reg) (s : State) : Host.Outcome State Fault Refusal :=
  run (.sendR d b) s fun s =>
    let i := Instr.sendR d b
    match (myCore s).handler with
    | some h =>
        (match h.credit, fidCore h.sender with
         | some e, some t =>
             if !inHandler s || h.replied then faultHere s i .handlerDiscipline .none 0
             else
               let s := postMsg s (.reply s.issue.core t e (some (rd s b)))
               let s := modCore s s.issue.core fun k => { k with handler := some { h with replied := true } }
               (wr s d 0, .next)
         | _, _ => faultHere s i .handlerDiscipline .none 0)
    | none => faultHere s i .handlerDiscipline .none 0

/-- The handler of a core ends (11 R281): strand 15 is free, and a credit that it has not used is
answered with a value. -/
def endHandler (s : State) (c : Nat) (v : Option W64) : State :=
  let s := match (getCore s c).handler with
    | some h =>
        (match h.credit, h.replied, fidCore h.sender with
         | some e, false, some t => postMsg s (.reply c t e v)
         | _, _, _ => s)
    | none => s
  let s := delFib s c handlerSlot
  modCore s c fun k =>
    { modStrand k 15 (fun t => { t with occ := none, h0 := 0, h1 := 0 }) with handler := none }

def execHret (s : State) : Host.Outcome State Fault Refusal :=
  run .hret s fun s =>
    if !inHandler s then faultHere s .hret .handlerDiscipline .none 0
    else (endHandler s s.issue.core (some 0), .next)

/-! ## migr (11 R282) -/

/-- Whether the forwarding table of a core has no entry left (11 R266). -/
def fwdFull (q : Queues) : Bool := 16 ≤ (q.fwd.filter (· != [])).length

/-- The fibre asks its destination for a slot, once its writes are acknowledged: 4 when replies are to
come and the forwarding table is full. -/
def migrAsk (s : State) (who : Issuer) (d : Reg) (dest : Nat) : State × Option Nat :=
  let k := getCore s who.core
  match getFib s who.core who.slot with
  | some f =>
      let waiting := (dqHead k f.sch.dq 16).any isWaiting
      if waiting && fwdFull k.q then
        (modFib s who.core who.slot fun f => putReg f d 4, none)
      else
        let id := s.net.next
        (postMsg s (.reserve who dest d), some id)
  | none => (s, none)

def execMigr (d a : Reg) (s : State) : Host.Outcome State Fault Refusal :=
  run (.migr d a) s fun s =>
    let i := Instr.migr d a
    let c := s.issue.core
    let t := bf (rd s a) 0 12
    if kindOf c != .lookup || !hasCrew s t (tidOf (myCore s)) then (wr s d 2, .next)
    else if t == c then (wr s d 3, .next)
    else if (me s).ctl.priv then faultHere s i .privilege .none 0
    else
      let who := issuer s i
      if !mayLeave s (me s) then parkOn s i .reply (.drain .dom (.migr d t) who 0)
      else
        match migrAsk s who d t with
        | (s, some id) => parkOn s i .reply (.msg id)
        | (s, none) => (s, .next)

end Sys2Proof.Machine
end

