-- ==== Sys2Proof/Machine/Engine.lean ====
section
/-! DEFINITION. The engine instructions and the control words of a stopped command (12 R287-R289,
R299, R302, R303). -/

namespace Sys2Proof.Machine

/-! ## Command words (12 R287, R288) -/

def cmdCode (w : Vector W64 4) : Nat := bf w[0] 0 4
def cmdN (w : Vector W64 4) : Nat := bf w[0] 40 24
def cmdSga (w : Vector W64 4) : Fin 8 := Fin.ofNat 8 (bf w[0] 32 3)
def cmdSgb (w : Vector W64 4) : Fin 8 := Fin.ofNat 8 (bf w[0] 35 3)

/-- A half of W1, which holds tile offsets, RB, MAP and K. -/
def cmdHalf (w : Vector W64 4) (j : Nat) : Nat := bf w[1] (16 * j) 16

/-- The codes. -/
def cGather : Nat := 1
def cScatter : Nat := 2
def cAccum : Nat := 3
def cDedup : Nat := 4
def cReduce : Nat := 5
def cCopy : Nat := 6
def cWalk : Nat := 7
def cFill : Nat := 8
def cColl : Nat := 9

/-- The tile offsets of a command with the alignment each needs, and its offsets in SGA and SGB
(12 R289). -/
def cmdAligned (w : Vector W64 4) : Bool :=
  let h := cmdHalf w
  match cmdCode w with
  | 1 | 2 | 3 | 4 => h 0 % 8 == 0 && h 1 % 8 == 0
  | 5 => h 0 % 8 == 0 && h 1 % 8 == 0 && h 3 % 8 == 0
  | 6 | 9 => bf w[2] 0 3 == 0 && bf w[3] 0 3 == 0
  | 7 => h 0 % 32 == 0 && h 1 % 8 == 0 && h 2 % 8 == 0
  | 8 => bf w[2] 0 3 == 0
  | _ => true

/-- Whether SGA and SGB hold the rights that the code needs. -/
def cmdRights (k : Core) (w : Vector W64 4) : Bool :=
  let a (r : Nat) : Bool := bitAt k.segs[cmdSga w] r
  let b (r : Nat) : Bool := bitAt k.segs[cmdSgb w] r
  match cmdCode w with
  | 1 => a rightR
  | 2 | 8 => a rightW
  | 3 => a rightW && a rightA
  | 6 => a rightR && b rightW
  | 9 => a rightR && a rightW && b rightR
  | _ => true

/-- The tile ranges that a command reads. -/
def cmdReads (c : Nat) (k : Core) (w : Vector W64 4) : List (Nat × Nat) :=
  let h := cmdHalf w
  let n := cmdN w
  let span (lo len : Nat) : Nat × Nat := (lo, lo + len)
  match cmdCode w with
  | 1 | 4 => [span (h 0) (8 * n)]
  | 2 | 3 => [span (h 0) (8 * n), span (h 1) (n * h 2)]
  | 5 => [span (h 0) (n * h 2), span (h 3) (4 * n)]
  | 6 => (tileRangeOf c k (bf w[0] 32 3) w[2].toNat (8 * n)).toList
  | 7 => [span (h 0) 32, span (h 1) (8 * n)]
  | 9 => if n = 0 then [] else (tileRangeOf c k (bf w[0] 35 3) w[3].toNat 320).toList
  | _ => []

/-- Whether every tile range lies within the LIMIT of sg0. -/
def cmdInTile (c : Nat) (k : Core) (w : Vector W64 4) : Bool :=
  ((cmdReads c k w) ++ (cmdWrites c k w).toList).all fun r => r.1 == r.2 || r.2 ≤ segLimit k.segs[(0 : Fin 8)]

/-- Whether a command's words have 0 in every bit that its code does not use (12 R287 to R289). W0 has SGA and SGB for
every code; that one which the code does not use has to be 0 as a reserved field has is the model's choice (DEDUCED, log
62). -/
def cmdUses (w : Vector W64 4) : Bool :=
  let code := cmdCode w
  let m0 : W64 :=
    0xFFFFFF00007FFFFF ||| (if code = 1 then 0x800000 else 0) ||| (if code = 5 then 0xF0000000 else 0)
      ||| (if code = 4 ∨ code = 5 then 0 else 0x700000000)
      ||| (if code = 6 ∨ code = 9 then 0x3800000000 else 0)
  let ones : W64 := BitVec.allOnes 64
  let m : W64 × W64 × W64 :=
    match code with
    | 1 | 2 => (0xFFFFFFFFFFFF, ones, 0xFFFF)
    | 3 => (0xFFFFFFFFFFFF, ones, 0xFFFFF)
    | 4 => (0xFFFFFFFF, 0, 0)
    | 5 => (ones, 0xFFFFF, 0)
    | 6 => (0, ones, ones)
    | 7 => (ones, ones, 0)
    | 8 => (0, ones, ones)
    | _ => (0xF, ones, ones)
  w[0] &&& ~~~m0 == 0 && w[1] &&& ~~~m.1 == 0 && w[2] &&& ~~~m.2.1 == 0 && w[3] &&& ~~~m.2.2 == 0

/-- Whether the TBL of a command is none, or a loaded slot whose row size equals RB. -/
def tblOk (k : Core) (w : Vector W64 4) : Bool :=
  let tbl := bf w[3] 0 16
  tbl == 0xFFFF ||
    match nget k.tabs.slots tbl with
    | some d => bf d 16 16 == cmdHalf w 2
    | none => false

/-- The fmt pairs that REDUCE takes (12 R294). -/
def reducePair (f d : Nat) : Bool :=
  (f ≤ 3 && d ≤ 2) || ((f == 5 || f == 6) && (d == 5 || d == 6))

/-- The format checks of R289. -/
def cmdFormat (c : Nat) (k : Core) (w : Vector W64 4) : Bool :=
  let code := cmdCode w
  let rb := cmdHalf w 2
  let rbOk := rb != 0 && rb % 8 == 0
  let clash := match cmdWrites c k w with
    | some (lo, hi) => (cmdReads c k w).any fun r => overlap lo (hi - lo) r.1 (r.2 - r.1)
    | none => false
  let own :=
    match code with
    | 1 | 2 => rbOk && tblOk k w
    | 3 => rbOk && tblOk k w && bf w[3] 16 3 != 7 && !(bf w[3] 16 3 == 6 && bf w[3] 19 1 == 1)
    | 4 | 8 => true
    | 5 => rbOk && reducePair (bf w[0] 28 4) (bf w[2] 16 4)
    | 6 => !(cmdSga w == cmdSgb w && overlap w[2].toNat (8 * cmdN w) w[3].toNat (8 * cmdN w))
    | 7 => cmdHalf w 3 ≤ 4096
    | 9 => bf w[1] 0 3 ≤ 4
    | _ => false
  let here := kindOf c == .lookup || code == 6 || code == 8 || code == 9
  cmdUses w && own && here && !clash

/-- The first failing check of a command (12 R289). -/
def cmdCheck (c : Nat) (k : Core) (w : Vector W64 4) : Option FCode :=
  if !cmdAligned w then some .align
  else if !cmdRights k w then some .segRights
  else if !cmdInTile c k w then some .segLimit
  else if !cmdFormat c k w then some .engineFormat
  else none

/-! ## Control words (12 R302) -/

/-- Whether W0 is a control word. -/
def isControl (w : Vector W64 4) : Bool := bitAt w[0] 24 || bitAt w[0] 25

/-- Changing an entry of the command FIFO. -/
def modCmd (s : State) (c e : Nat) (f : Cmd → Cmd) : State :=
  modCore s c fun k => { k with fifo := nmod k.fifo e f }

/-- RES: RUNNING again from PROG; REDUCE starts from row 0 (12 R294, R302). -/
def cmdResume (s : State) (c e : Nat) : State :=
  let (id, s) := freshId s
  modCmd s c e fun x =>
    let fresh := cmdCode x.w == cReduce
    { x with st := .running, started := false, seqNo := id, fcode := 0, fault := none, failed := [],
             sent := false,
             prog := if fresh then 0 else x.prog, performed := if fresh then [] else x.performed,
             next := if fresh then 0 else x.prog }

/-- ABT: the entry is ABORTED, its range is released, and nothing is added (12 R302). -/
def cmdAbort (s : State) (c e : Nat) : State :=
  modCmd s c e fun x => { x with st := .aborted, started := false }

/-- A stopped entry that a RES may name: any but a COLL (12 R302). -/
def resumable (x : Cmd) : Bool := x.st == .stopped && cmdCode x.w != cColl

/-- Applying a control word, or ENGINE_FORMAT. -/
def control (s : State) (c : Nat) (w : Vector W64 4) : Option State :=
  let res := bitAt w[0] 24
  let clean := w[0] == (if res then 0x1000000 else 0x2000000) && bf w[1] 3 61 == 0 && w[2] == 0 && w[3] == 0
  let e := bf w[1] 0 3
  match nget (getCore s c).fifo e with
  | some x =>
      if !clean then none
      else if res then (if resumable x then some (cmdResume s c e) else none)
      else if x.st == .stopped then some (cmdAbort s c e)
      else none
  | none => none

/-! ## rq.push, rq.try, rq.stat (12 R303) -/

/-- The lowest entry that is FREE, DONE or ABORTED. -/
def freeEntryOf (k : Core) : Option Nat :=
  (upto 8).find? fun e =>
    match nget k.fifo e with
    | some x => !inFlight x.st
    | none => true

/-- Taking an entry for a command. -/
def cmdPush (s : State) (who : Issuer) (w : Vector W64 4) (e : Nat) : State :=
  let (id, s) := freshId s
  let x : Cmd :=
    { w := w, range := cmdWrites who.core (getCore s who.core) w, who := who, fid := fidOf who.core who.slot, seqNo := id, st := .queued, started := false,
      flags := 0, fcode := 0, aux := 0, prog := 0, performed := [], next := 0, flight := [], fault := none,
      failed := [], buf := [], sent := false, back := false }
  modCore s who.core fun k => { k with fifo := nput k.fifo e x }

/-- The command words in g(2n) to g(2n + 3). -/
def cmdRegs (s : State) (n : Nat) : Vector W64 4 :=
  let g (j : Nat) : W64 := (src s).g[Fin.ofNat 8 (2 * n + j)]
  #v[g 0, g 1, g 2, g 3]

def execRqPush (n : BitVec 3) (s : State) : Host.Outcome State Fault Refusal :=
  run (.rqPush n) s fun s =>
    let i := Instr.rqPush n
    let c := s.issue.core
    let w := cmdRegs s n.toNat
    if isControl w then
      match control s c w with
      | some s => (s, .next)
      | none => faultHere s i .engineFormat .none 0
    else
      match cmdCheck c (myCore s) w with
      | some code => faultHere s i code .none 0
      | none =>
          match canTake s .fifo, freeEntryOf (myCore s) with
          | true, some e =>
              let who := issuer s i
              (cmdPush s who w e, .next)
          | _, _ => parkHere s i .resource (.resource .fifo)

def execRqTry (d : Reg) (n : BitVec 2) (s : State) : Host.Outcome State Fault Refusal :=
  run (.rqTry d n) s fun s =>
    let i := Instr.rqTry d n
    let c := s.issue.core
    let w := cmdRegs s n.toNat
    if isControl w then
      match control s c w with
      | some s => (wr s d 8, .next)
      | none => faultHere s i .engineFormat .none 0
    else
      match cmdCheck c (myCore s) w with
      | some code => faultHere s i code .none 0
      | none =>
          match canTake s .fifo, freeEntryOf (myCore s) with
          | true, some e =>
              let who := issuer s i
              (wr (cmdPush s who w e) d (BitVec.ofNat 64 e), .next)
          | _, _ => (wr s d (-1), .next)

/-- The code of a STATE (12 R299). -/
def cmdStateNum : CmdState → Nat
  | .queued => 1 | .running => 2 | .stopped => 3 | .done => 4 | .aborted => 5

/-- Whether a COLL still reads its buffer or waits for its result: it has performed no element. -/
def collReads (x : Cmd) : Bool := cmdCode x.w == cColl && !x.back

/-- The status word of an entry (12 R299). -/
def cmdStatus (x : Cmd) : W64 :=
  BitVec.ofNat 64 (cmdStateNum x.st + x.flags.toNat * 2 ^ 3 + x.fcode * 2 ^ 8
    + (if collReads x then 0 else x.prog % 2 ^ 24 * 2 ^ 16) + x.aux % 2 ^ 24 * 2 ^ 40)

/-- DONEMASK (12 R299): the elements above PROG that were performed; a REDUCE and a COLL that has not
been answered keep none. -/
def doneMask (x : Cmd) : W64 :=
  if collReads x then 0
  else BitVec.ofNat 64 (x.performed.foldl (fun m e => if x.prog ≤ e && e < x.prog + 64 then m + 2 ^ (e - x.prog) else m) 0)

/-- rq.stat reads the entry as it stands. A FREE entry reads zero. -/
def execRqStat (d a : Reg) (k : BitVec 3) (s : State) : Host.Outcome State Fault Refusal :=
  regOp (.rqStat d a k) d s fun s =>
    match nget (myCore s).fifo (bf (rd s a) 0 3) with
    | some x =>
        match k.toNat with
        | 0 => cmdStatus x
        | 1 => x.w[0]
        | 2 => x.w[1]
        | 3 => x.w[2]
        | 4 => x.w[3]
        | 5 => doneMask x
        | _ => BitVec.ofNat 64 x.fid
    | none => 0

end Sys2Proof.Machine
end

