-- ==== Sys2Proof/Machine/Counter.lean ====
section
/-! DEFINITION. Counters, barriers, the time base and event counters, as their instructions use them
(14 R347-R359, R364-R366), and wake (07 R173). -/

namespace Sys2Proof.Machine

/-! ## Done and arrival counters (14 R347-R353) -/

/-- Whether a counter has reached a threshold (14 R347). -/
def reached (c t : W32) : Bool := (c - t).toNat < 2 ^ 31

/-- The threshold of dwait and await (04 R84, 14 R351). -/
def threshold (s : State) (imm : BitVec 20) : W32 :=
  match ext s with
  | some x => BitVec.ofNat 32 (bf x 0 12 * 2 ^ 20 + imm.toNat)
  | none => imm.setWidth 32

/-- Changing the counters of a core. -/
def modCtr (s : State) (c : Nat) (f : Counters → Counters) : State :=
  modCore s c fun k => { k with ctr := f k.ctr }

/-- A wait on a counter: p7 true when it has been reached, else the fibre parks with reason 3 and its PC
at the instruction, or ends at once under a limit of 0 (14 R351, 07 R160). -/
def counterWait (s : State) (i : Instr) (ok : Bool) (w : Wait) : State × Flow :=
  if ok && !expired s then (wrP s 7 true, .next)
  else if noLimit s then (wrP s 7 false, .next)
  else parkHere (startTimer s) i .counter w

def execDwait (k : Fin 8) (imm : BitVec 20) (s : State) : Host.Outcome State Fault Refusal :=
  run (.dwait k imm) s fun s =>
    let t := threshold s imm
    counterWait s (.dwait k imm) (reached (myCore s).ctr.d[k] t) (.done k.val t)

def execAwait (k : Fin 8) (imm : BitVec 20) (s : State) : Host.Outcome State Fault Refusal :=
  run (.await k imm) s fun s =>
    let t := threshold s imm
    counterWait s (.await k imm) (reached (myCore s).ctr.ac[k] t) (.arrival k.val t)

def execDset (k : Fin 8) (a : Reg) (s : State) : Host.Outcome State Fault Refusal :=
  run (.dset k a) s fun s =>
    (modCtr s s.issue.core fun x => { x with d := x.d.set k ((rd s a).setWidth 32) }, .next)

def execDadd (k : Fin 8) (a : Reg) (s : State) : Host.Outcome State Fault Refusal :=
  run (.dadd k a) s fun s =>
    (modCtr s s.issue.core fun x => { x with d := x.d.set k (x.d[k] + (rd s a).setWidth 32) }, .next)

def execAcbind (k : Fin 8) (a : Reg) (s : State) : Host.Outcome State Fault Refusal :=
  run (.acbind k a) s fun s =>
    let v := rd s a
    (modCtr s s.issue.core fun x =>
      { x with bind := x.bind.set k (if bitAt v 63 then none else some (bf v 0 12)),
               ac := x.ac.set k 0 }, .next)

/-! ## Barriers (14 R354-R356) -/

/-- Changing the arrival count of a kind. -/
def modBar (s : State) (c : Nat) (k : BarKind) (f : Nat → Nat) : State :=
  modCtr s c fun x => { x with bar := x.bar.set (barIdx k) (f x.bar[barIdx k]) }

/-- The arrival of a fibre; it may be the last contribution. -/
def barArrive (s : State) (c : Nat) (k : BarKind) : State := bindBarriers (modBar s c k (· + 1)) c

/-- The end of a fibre's wait in a barrier, with its word and its predicate. -/
def leaveBarrier (s : State) (c slot : Nat) (d : Reg) (pd : PReg) (v : W64) (p : Bool) : State :=
  let s := modFib s c slot fun f => { putP (putReg f d v) pd p with sch := { f.sch with t0 := none, late := false } }
  makeReady s c slot

/-! ## The missing-party word (14 R357) -/

/-- The bit of M0 and of M1 that a missing core sets. -/
def missBits (kind : BarKind) (d : Nat) (k : Core) : Nat × Nat :=
  let rel := match k.crew with
    | some w => w.rel
    | none => 0
  match kind with
  | .row => (2 ^ (d % 16), 0)
  | .col => (2 ^ (d / 16 % 16), 0)
  | .vly => if kindOf d == .dense then (2 ^ ((d - 4096) % 8), 0) else (2 ^ (d / 16 % 16), 2 ^ (d % 16))
  | .task => if kindOf d == .dense then (0, 2 ^ rel) else (2 ^ rel, 0)

/-- How a missing core stands. -/
def missGrade (k : Core) : Nat :=
  if k.frozen.isSome then 2
  else
    let parked := k.fibres.all fun x => x.1 == handlerSlot ||
      match x.2.sch.run with
      | .parked _ => true
      | .ready | .running _ => false
    if parked then 1 else 0

/-- The word. The core of the fibre whose wait ends is judged without that fibre, which counts as READY for its
grade (20 R437; log 31). -/
def missingWord (s : State) (c slot : Nat) (kind : BarKind) : W64 :=
  let miss := (parties s c kind).filter fun x =>
    !contributes kind (if x.1 = c then { x.2 with fibres := ndel x.2.fibres slot } else x.2)
  let m := miss.foldl (fun (n : Nat × Nat) x =>
    let b := missBits kind x.1 x.2
    (n.1 ||| b.1, n.2 ||| b.2)) (0, 0)
  let worst := miss.foldl (fun n x => max n (if x.1 = c then 0 else missGrade x.2)) 0
  BitVec.ofNat 64 (m.1 % 2 ^ 16 + m.2 % 2 ^ 16 * 2 ^ 16 + miss.length % 2 ^ 13 * 2 ^ 32 + worst * 2 ^ 48)

/-- A fibre's arrival is withdrawn, and its wait in the barrier ends with the missing-party word. -/
def expireBar (s : State) (c slot : Nat) (kind : BarKind) (d : Reg) (pd : PReg) : State :=
  let s := modBar s c kind (· - 1)
  leaveBarrier s c slot d pd (missingWord s c slot kind) false

/-- The scope of a barrier's release and acquire (14 R356). -/
def barScope : BarKind → Scope
  | .task => .dev
  | .row | .col | .vly => .vly

/-- bar: the release, the arrival, a park with reason 4 and the PC after it (14 R356); under a limit of 0 a barrier
that its arrival does not complete ends at once (07 R160). -/
def execBar (kind : BarKind) (d : Reg) (pd : PReg) (s : State) : Host.Outcome State Fault Refusal :=
  run (.bar kind d pd) s fun s =>
    let i := Instr.bar kind d pd
    releaseIssue s i (barScope kind) (.bar kind d pd) fun s =>
      let c := s.issue.core
      let t := barArrive s c kind
      if inHandler s || !noLimit s || barDone t c kind then
        parkOn (startTimer t) i .sync (.bar kind d pd (issuer s i))
      else
        let t := modBar t c kind (· - 1)
        (wrP (wr t d (missingWord t c s.issue.slot kind)) pd false, .next)

/-! ## Time, energy and event counters (14 R359, R364-R366) -/

def execTread (d : Reg) (s : State) : Host.Outcome State Fault Refusal :=
  regOp (.tread d) d s fun s => s.time

/-- The estimates of the resident tasks (12 R311). -/
def residentEnergy (s : State) : Nat :=
  s.tasks.table.foldl (fun n t => if t.2.st == .resident then n + t.2.estimate else n) 0

/-- erd (14 R364). -/
def execErd (d : Reg) (k : BitVec 2) (s : State) : Host.Outcome State Fault Refusal :=
  regOp (.erd d k) d s fun s =>
    let c := s.issue.core
    match k.toNat with
    | 0 => energyWord s c true
    | 1 => energyWord s c false
    | 2 => BitVec.ofNat 64 (100000 - residentEnergy s)
    | _ =>
        if kindOf c == .command then
          BitVec.ofNat 64 (sumDoms s (·.prev) % 2 ^ 32 + s.gov.win % 2 ^ 32 * 2 ^ 32)
        else
          BitVec.ofNat 64 ((ngetD s.doms (unitOf c) Domain.blank).prev % 2 ^ 32
            + (s.gov.win + 2 ^ 32 - 1) % 2 ^ 32 * 2 ^ 32)

/-- The counter that a selector names (14 R365); an unassigned one reads all ones, and one that the core
kind lacks reads 0. -/
def counterOf (s : State) (c sel : Nat) : W64 :=
  let k := getCore s c
  let look := kindOf c == .lookup
  let j := Fin.ofNat 8 sel
  if sel < 8 then k.ctr.d[j].setWidth 64
  else if sel < 0x10 then (if look then k.ctr.ac[j].setWidth 64 else 0)
  else if sel < 0x18 then
    (if look then
      (match k.ctr.bind[j] with
       | some q => BitVec.ofNat 64 q
       | none => BitVec.ofNat 64 (2 ^ 63))
     else 0)
  else if 0x100 ≤ sel && sel ≤ 0x10F then ngetD k.ctr.ev sel 0
  else if sel = 0x200 then (getUnit s (unitOf c)).hits
  else if sel = 0x201 then (getUnit s (unitOf c)).misses
  else if sel = 0x202 then (getUnit s (unitOf c)).walks
  else if 0x300 ≤ sel && sel ≤ 0x305 then ngetD s.shared.ev sel 0
  else BitVec.allOnes 64

def execPcrd (d a : Reg) (s : State) : Host.Outcome State Fault Refusal :=
  regOp (.pcrd d a) d s fun s => counterOf s s.issue.core (bf (rd s a) 0 16)

/-! ## wake (07 R173) -/

/-- wake sends its message and parks with reason 1 until the code comes. -/
def execWake (d a : Reg) (skip : Bool) (s : State) : Host.Outcome State Fault Refusal :=
  run (.wake d a skip) s fun s =>
    let i := Instr.wake d a skip
    let who := issuer s i
    let id := s.net.next
    parkOn (postMsg s (.wake who (bf (rd s a) 0 22) skip d)) i .reply (.msg id)

end Sys2Proof.Machine
end

