-- ==== Sys2Proof/Machine/Graph.lean ====
section
/-! DEFINITION. Graph images (10 R245-R256): their fields, the validation that gkbind makes, and the
evaluation of the processing elements over eight lanes. -/

namespace Sys2Proof.Machine

/-! ## The image (10 R246-R250) -/

/-- n bytes of an image from an offset. -/
def gImg (im : BitVec 4096) (off n : Nat) : Nat := bf im (8 * off) (8 * n)

def gN (im : BitVec 4096) : Nat := gImg im 5 1
def gSeed (im : BitVec 4096) : Nat := gImg im 6 2
def gKinds (im : BitVec 4096) : Nat := gImg im 8 1
def gRdOld (im : BitVec 4096) : Bool := fld (gImg im 9 1) 0 1 == 1
def gNoRead (im : BitVec 4096) : Bool := fld (gImg im 9 1) 1 1 == 1
def gOut (im : BitVec 4096) : Nat := gImg im 10 1
def gVb (im : BitVec 4096) : Nat := gImg im 12 4

/-- The side-access words RDA, RDB, RDC, WRA, WRB, WRC. -/
def gSide (im : BitVec 4096) (j : Nat) : Nat := gImg im (0x10 + 8 * j) 8

/-- A processing element's entry. -/
def gPe (im : BitVec 4096) (i : Nat) : Nat := gImg im (0x40 + 8 * i) 8

/-- A constant. -/
def gK (im : BitVec 4096) (i : Nat) : Nat := gImg im (0xC0 + 4 * i) 4

def peOp (e : Nat) : Nat := fld e 0 6
def peT (e : Nat) : Bool := fld e 6 1 == 1
def peRm (e : Nat) : Nat := fld e 7 3
def peSrc (e j : Nat) : Nat := fld e (10 + 6 * j) 6
def peImm (e : Nat) : Nat := fld e 28 8

/-- Sources used, of A, B, C (10 R253, R254). -/
def peUses (e : Nat) : Nat :=
  match peOp e with
  | 0x02 => 0
  | 0x01 | 0x0E | 0x10 | 0x11 | 0x15 | 0x16 => 1
  | 0x0D => if fld (peImm e) 0 4 < 4 then 1 else 2
  | 0x06 | 0x13 => 3
  | _ => 2

/-- IMM bits that an operation uses. -/
def peImmMask (op : Nat) : Nat :=
  match op with
  | 0x02 => 0x0F
  | 0x0C => 0x03
  | 0x0D => 0x7F
  | 0x0E => 0x01
  | 0x12 => 0x07
  | 0x15 => 0x03
  | _ => 0

/-- Whether an operation has an INT32 form. -/
def peTyped (op : Nat) : Bool := [0x03, 0x04, 0x05, 0x06, 0x07, 0x08, 0x10, 0x12, 0x15].contains op

/-- Whether an entry rounds (10 R252-R254). -/
def peRounds (e : Nat) : Bool :=
  match peOp e with
  | 0x03 | 0x04 | 0x05 | 0x06 | 0x10 | 0x11 => !peT e
  | 0x15 => !peT e && fld (peImm e) 0 2 == 0
  | 0x0D => !(fld (peImm e) 0 4 == 2 || fld (peImm e) 0 4 == 3)
  | _ => false

/-- The latency of an entry (10 R253). -/
def peCost (e : Nat) : Nat :=
  match peOp e with
  | 0x06 => 2
  | 0x0D => if fld (peImm e) 0 4 = 4 then 8 else 2
  | 0x11 | 0x14 => 4
  | _ => 1

/-- Groups of a cvt kind (10 R254). -/
def cvtGroups (kind : Nat) : Nat :=
  match kind with
  | 0 | 1 | 4 | 6 => 1
  | 2 | 3 => 2
  | 5 => 4
  | 7 => 8
  | _ => 0

/-- A reserved source code, NONE included (10 R249). -/
def srcReserved (c : Nat) : Bool := (0x1B ≤ c && c ≤ 0x1F) || 0x30 ≤ c

/-! ## Validation (10 R251) -/

/-- ERR 2 for a side-access word. -/
def sideBad (im : BitVec 4096) (j : Nat) : Bool :=
  let w := gSide im j
  let src := fld w 34 6
  fld w 40 24 != 0 || 6 ≤ fld w 27 3 || fld w 0 27 % 32 != 0 || (fld w 27 3 == 0 && w != 0)
    || (j < 3 && src != 0) || (3 ≤ j && fld w 27 3 != 0 && srcReserved src)

/-- ERR 2 for a processing element. -/
def peBad (im : BitVec 4096) (i : Nat) : Bool :=
  let e := gPe im i
  if gN im ≤ i then e != 0
  else
    peOp e == 0 || 0x16 < peOp e || fld e 36 28 != 0
      || ((upto 3).any fun j => if j < peUses e then srcReserved (peSrc e j) else peSrc e j != 0)
      || peImm e - Nat.land (peImm e) (peImmMask (peOp e)) != 0
      || (peOp e == 0x15 && fld (peImm e) 0 2 == 3)

/-- ERR 3: a source at or beyond its own element, or an SRC or OUT at or beyond N. -/
def refBad (im : BitVec 4096) : Bool :=
  ((upto (gN im)).any fun i => (upto (peUses (gPe im i))).any fun j =>
      peSrc (gPe im i) j < 16 && i ≤ peSrc (gPe im i) j)
    || ([3, 4, 5].any fun j => fld (gSide im j) 27 3 != 0 && fld (gSide im j) 34 6 < 16
        && gN im ≤ fld (gSide im j) 34 6)
    || (gOut im < 16 && gN im ≤ gOut im)

/-- ERR 5 for a processing element. -/
def peForm (e : Nat) : Bool :=
  (peT e && !peTyped (peOp e)) || (peRm e != 0 && !peRounds e)
    || (peOp e == 0x0D && cvtGroups (fld (peImm e) 0 4) ≤ fld (peImm e) 4 3)

/-- The cost of an image. -/
def gCost (im : BitVec 4096) : Nat := (upto (gN im)).foldl (fun n i => n + peCost (gPe im i)) 0

/-- The validation of an image: its ERR code. -/
def gkValidate (im : BitVec 4096) : Nat :=
  let n := gN im
  if gImg im 0 4 != 0x4B434547 || gImg im 4 1 != 1 || n == 0 || 16 < n then 1
  else if gKinds im / 16 != 0 || gImg im 9 1 / 4 != 0 || gImg im 11 1 != 0 || gVb im / 2 ^ 27 != 0
      || gVb im % 32 != 0 || gImg im 0x100 256 != 0 || (gOut im != 0x3F && srcReserved (fld (gOut im) 0 6))
      || 64 ≤ gOut im || (upto 6).any (sideBad im) || (upto 16).any (peBad im) then 2
  else if refBad im then 3
  else if gOut im == 0x3F && gKinds im % 2 == 1 then 4
  else if (upto n).any (fun i => peForm (gPe im i))
      || 1 < ((upto n).filter fun i => peOp (gPe im i) == 0x15).length then 5
  else if 48 < gCost im then 6
  else 0

/-! ## Lanes -/

/-- Eight 32-bit lanes. -/
abbrev Lanes := List Nat

/-- A lane. -/
def lane (x : Lanes) (l : Nat) : Nat := x.getD l 0

/-- The lanes of 32 bytes. -/
def lanesOf (v : Nat) : Lanes := (upto 8).map fun l => fld v (32 * l) 32

/-- The 32 bytes of lanes. -/
def lanesVal (x : Lanes) : Nat := (upto 8).foldl (fun n l => n + lane x l % 2 ^ 32 * 2 ^ (32 * l)) 0

/-- A half of a lane: element e of the lanes as 16-bit elements. -/
def laneHalf (x : Lanes) (e : Nat) : Nat := fld (lane x (e / 2)) (16 * (e % 2)) 16

/-- A byte of the lanes. -/
def laneByte (x : Lanes) (e : Nat) : Nat := fld (lane x (e / 4)) (8 * (e % 4)) 8

/-- A result per lane, in ascending order, with its flags; lane l rounds with the seed after l
advances (10 R252). -/
def each (r : RMode) (f : RMode → Nat → FRes) : List FRes := (upto 8).map fun l => f (r.after l) l

/-- The bits and flags of lane results. -/
def bitsOf (xs : List FRes) : Lanes := xs.map (·.bits)
def flagsOf (xs : List FRes) : BitVec 5 := xs.foldl (fun f x => f ||| x.fl) 0

/-- An integer result of a lane. -/
def laneInt (f : Nat → Nat) : Lanes × BitVec 5 := ((upto 8).map fun l => f l % 2 ^ 32, 0)

/-- A floating-point result per lane. -/
def laneFp (r : RMode) (f : RMode → Nat → FRes) : Lanes × BitVec 5 :=
  let xs := each r f
  (bitsOf xs, flagsOf xs)

/-! ## Operations (10 R253-R256) -/

/-- shift by B[4:0]. -/
def shiftLane (k x n : Nat) : Nat :=
  match k with
  | 0 => x * 2 ^ n
  | 1 => x / 2 ^ n
  | 2 => ((sInt 32 x / (2 ^ n : Nat)) % 2 ^ 32).toNat
  | _ => x * 2 ^ n + x / 2 ^ (32 - n)

/-- cmp on INT32. -/
def icmpLane (k x y : Nat) : Bool :=
  match k with
  | 0 => x == y
  | 1 => x != y
  | 2 => sInt 32 x < sInt 32 y
  | 3 => sInt 32 x ≤ sInt 32 y
  | 4 => sInt 32 y < sInt 32 x
  | 5 => sInt 32 y ≤ sInt 32 x
  | 6 => x < y
  | _ => y ≤ x

/-- The condition of a code (05 R114). -/
def fcondOf (k : Nat) : FCond :=
  match k with
  | 0 => .eq | 1 => .ne | 2 => .lt | 3 => .le | 4 => .gt | 5 => .ge | 6 => .un | _ => .ord

/-- Packing 16-bit results two to a lane. -/
def pack16 (x : Lanes) : Lanes :=
  (upto 8).map fun l => if l < 4 then lane x (2 * l) + lane x (2 * l + 1) * 2 ^ 16 else 0

/-- Packing 8-bit results four to a lane. -/
def pack8 (x : Lanes) : Lanes :=
  (upto 8).map fun l => if l < 2 then
    (upto 4).foldl (fun n j => n + lane x (4 * l + j) * 2 ^ (8 * j)) 0 else 0

/-- Packing 4-bit results eight to a lane. -/
def pack4 (x : Lanes) : Lanes :=
  (upto 8).map fun l => if l = 0 then (upto 8).foldl (fun n j => n + lane x j * 2 ^ (4 * j)) 0 else 0

/-- cvt (10 R254). -/
def cvtLanes (dtab : NMap W16) (r : RMode) (imm : Nat) (a b : Lanes) : Lanes × BitVec 5 :=
  let g := fld imm 4 3
  let sc16 := lane b 0 % 2 ^ 16
  let sc8 := lane b 0 % 2 ^ 8
  let cv (f d : Fmt) (ta tb : Nat) (el : Nat → Nat) : List FRes :=
    each r fun r l => convert dtab r ta tb f d (el l)
  match fld imm 0 4 with
  | 0 => let xs := cv .fp32 .bf16 0 0 (lane a)
         (pack16 (bitsOf xs), flagsOf xs)
  | 1 => let xs := cv .fp32 .fp16 0 0 (lane a)
         (pack16 (bitsOf xs), flagsOf xs)
  | 2 => let xs := cv .bf16 .fp32 0 0 fun l => laneHalf a (8 * g + l)
         (bitsOf xs, flagsOf xs)
  | 3 => let xs := cv .fp16 .fp32 0 0 fun l => laneHalf a (8 * g + l)
         (bitsOf xs, flagsOf xs)
  | 4 => let xs := cv .fp32 .t8 0 sc16 (lane a)
         (pack8 (bitsOf xs), flagsOf xs)
  | 5 => laneFp r fun r l => finish32 r (decT8 dtab sc16 (laneByte a (8 * g + l)))
  | 6 => let xs := cv .fp32 .e2m1 0 sc8 (lane a)
         (pack4 (bitsOf xs), flagsOf xs)
  | _ => laneFp r fun r l => convert dtab r sc8 0 .e2m1 .fp32 (fld (lane a g) (4 * l) 4)

/-- min and max of two lanes, signed when T is set. -/
def minmaxLane (mx t : Bool) (x y : Nat) : FRes :=
  if t then ⟨if (sInt 32 x < sInt 32 y) != mx then x else y, 0⟩ else fminmax mx false false x y

/-- One processing element: its lanes and flags, from its sources, the context lanes and the atom's
address. -/
def peLanes (im : BitVec 4096) (dtab : NMap W16) (e : Nat) (r : RMode) (a b c st : Lanes) (pa : Nat) :
    Lanes × BitVec 5 :=
  let t := peT e
  let imm := peImm e
  match peOp e with
  | 0x02 => laneInt fun l => gK im ((fld imm 0 4 + l) % 16)
  | 0x03 => if t then laneInt fun l => lane a l + lane b l
            else laneFp r fun r l => faddBits r (lane a l) (lane b l)
  | 0x04 => if t then laneInt fun l => lane a l + 2 ^ 32 - lane b l
            else laneFp r fun r l => fsubBits r (lane a l) (lane b l)
  | 0x05 => if t then laneInt fun l => lane a l * lane b l
            else laneFp r fun r l => fmulBits r (lane a l) (lane b l)
  | 0x06 => if t then laneInt fun l => lane a l * lane b l + lane c l
            else laneFp r fun r l => fmaBits r (lane a l) (lane b l) (lane c l)
  | 0x07 => laneFp rne fun _ l => minmaxLane false t (lane a l) (lane b l)
  | 0x08 => laneFp rne fun _ l => minmaxLane true t (lane a l) (lane b l)
  | 0x09 => laneInt fun l => Nat.land (lane a l) (lane b l)
  | 0x0A => laneInt fun l => Nat.lor (lane a l) (lane b l)
  | 0x0B => laneInt fun l => Nat.xor (lane a l) (lane b l)
  | 0x0C => laneInt fun l => shiftLane (fld imm 0 2) (lane a l) (lane b l % 32)
  | 0x0D => cvtLanes dtab r imm a b
  | 0x0E => laneInt fun l => if l < 4 then
              (if imm % 2 = 0 then lane a (2 * l) / 2 ^ 16 + lane a (2 * l + 1) / 2 ^ 16 * 2 ^ 16
               else lane a (2 * l) % 2 ^ 16 + lane a (2 * l + 1) % 2 ^ 16 * 2 ^ 16) else 0
  | 0x0F => laneInt fun l => laneHalf a l * 2 ^ 16 + laneHalf b l
  | 0x10 => if t then laneInt fun l => lane a l * lane a l
            else laneFp r fun r l => fmulBits r (lane a l) (lane a l)
  | 0x11 => laneFp r fun r l => frsqBits r (lane a l)
  | 0x12 => if t then laneInt fun l => if icmpLane (fld imm 0 3) (lane a l) (lane b l) then 2 ^ 32 - 1 else 0
            else laneFp rne fun _ l =>
              let y := fcmpBits (fcondOf (fld imm 0 3)) false (lane a l) (lane b l)
              ⟨if y.1 then 2 ^ 32 - 1 else 0, y.2⟩
  | 0x13 => laneInt fun l => if lane c l != 0 then lane a l else lane b l
  | 0x14 =>
      let key : W128 := BitVec.ofNat 128 (lanesVal b)
      let m (j : Nat) : Nat := (mixAt key pa (lanesVal a) j).toNat
      laneInt fun l => m (l / 2) / 2 ^ (32 * (l % 2))
  | 0x15 =>
      (match fld imm 0 2 with
       | 0 => if t then laneInt fun l => lane st l + lane a l
              else laneFp r fun r l => faddBits r (lane st l) (lane a l)
       | k => laneFp rne fun _ l => minmaxLane (k == 2) t (lane st l) (lane a l))
  | _ => (a, 0)

/-- What a token gives its graph (10 R245, R249). -/
structure GIn where
  inn : Lanes
  old : Lanes
  mask : Lanes
  kind : Nat
  pa : Nat
  st : Lanes
  sides : List Lanes
  deriving DecidableEq, Repr

/-- The lanes of a source code, with the outputs so far. -/
def gSrc (im : BitVec 4096) (g : GIn) (ps : List Lanes) (code : Nat) : Lanes :=
  if code < 16 then ps.getD code []
  else if 0x20 ≤ code then (upto 8).map fun _ => gK im (code - 0x20)
  else
    match code with
    | 0x10 => g.inn
    | 0x11 => g.sides.getD 0 []
    | 0x12 => g.sides.getD 1 []
    | 0x13 => g.sides.getD 2 []
    | 0x14 => g.old
    | 0x15 => g.st
    | 0x16 => (upto 8).map fun l => (g.pa + 4 * l) % 2 ^ 32
    | 0x17 => upto 8
    | 0x18 => g.mask
    | 0x19 => (upto 8).map fun _ => g.kind
    | _ => (upto 8).map fun _ => 0

/-- The outcome of a graph: outputs, flags, seed, the acc output, and whether the token is dropped. -/
structure GOut where
  ps : List Lanes
  fl : BitVec 5
  seed : W16
  acc : Option Lanes
  dropped : Bool
  deriving DecidableEq, Repr

/-- The elements in order (10 R257). -/
def gRun (im : BitVec 4096) (dtab : NMap W16) (g : GIn) (seed : W16) : GOut :=
  (upto (gN im)).foldl (fun o i =>
    let e := gPe im i
    let s (j : Nat) : Lanes := gSrc im g o.ps (peSrc e j)
    let r : RMode := ⟨peRm e, false, o.seed⟩
    let (x, fl) := peLanes im dtab e r (s 0) (s 1) (s 2) g.st g.pa
    { ps := o.ps ++ [x], fl := o.fl ||| fl,
      seed := if peRounds e then (r.after 8).seed else o.seed,
      acc := if peOp e = 0x15 then some x else o.acc,
      dropped := o.dropped || (peOp e == 0x16 && x.any (· != 0)) })
    ⟨[], 0, seed, none, false⟩

end Sys2Proof.Machine
end

