-- ==== Sys2Proof/Machine/Table.lean ====
section
/-! DEFINITION. Segments, decode and permutation tables, table descriptors, graph binding and
invalidation of translations (13 R320-R345). -/

namespace Sys2Proof.Machine

/-! ## segld and segrd (13 R339, R340) -/

/-- SEG_KIND for a register value (13 R339, layout of 07 R163). -/
def segFormBad (v : W128) : Bool :=
  bitAt v 55 || bf v 62 2 != 0 || bf v 126 2 != 0 || bf v 0 6 != 0 || segKind v < 2

/-- Whether a value stays within a resident entry (13 R339). -/
def segWithin (v e : W128) : Bool :=
  segKind v == segKind e && bitAt v 123 == bitAt e 123 && segTag v == segTag e
    && ([rightR, rightW, rightX, rightA].all fun r => !bitAt v r || bitAt e r)
    && segBase e ≤ segBase v && segBase v + segLimit v ≤ segBase e + segLimit e

/-- The 128 bits of a register pair. -/
def pair128 (s : State) (a : Reg) : W128 :=
  BitVec.ofNat 128 ((rd s a).toNat + (rd s (succReg a)).toNat * 2 ^ 64)

def execSegld (a : Reg) (k : Fin 8) (s : State) : Host.Outcome State Fault Refusal :=
  run (.segld a k) s fun s =>
    let i := Instr.segld a k
    let v := pair128 s a
    if segFormBad v then faultHere s i .segKind .none 0
    else if !(me s).ctl.priv && !segWithin v (myCore s).resSegs[k] then faultHere s i .segRights .none 0
    else (modCore s s.issue.core fun c => { c with segs := c.segs.set k v }, .next)

def execSegrd (d : Reg) (t : Bool) (k : Fin 8) (s : State) : Host.Outcome State Fault Refusal :=
  run (.segrd d t k) s fun s =>
    let v := if t then (myCore s).resSegs[k] else (myCore s).segs[k]
    (modMe s fun f => putReg (putReg f d (v.setWidth 64)) (succReg d) ((v >>> 64).setWidth 64), .next)

/-! ## dtld, tbld, xpld (13 R335-R337, R341) -/

/-- The cluster of a dense core. -/
def clusterOf (c : Nat) : Nat := (c - 4096) / 8

/-- A decode table as its differences from the reset table (13 R335). -/
def dtabFromBytes (v : Nat) : NMap W16 :=
  (upto 256).filterMap fun c =>
    if fld v (16 * c) 16 = c * 128 then none else some (c, BitVec.ofNat 16 (fld v (16 * c) 16))

/-- Entry e of the reset exchange permutation table (13 R336). -/
def xtabReset (e : Nat) : Nat :=
  (upto 8).foldl (fun n m => n + ((m + e / 2) % 8 + e % 2 * 8) * 2 ^ (4 * m)) 0

/-- Entry e of a cluster's exchange permutation table. -/
def xtabAt (s : State) (cl e : Nat) : Nat :=
  match nget s.shared.xtab (256 * cl + e) with
  | some v => v.toNat
  | none => xtabReset e

/-- Loading the core's decode table. -/
def loadDtab (s : State) (c v : Nat) (src : Loc) : State :=
  modCore s c fun k => { k with tabs := { k.tabs with
    dtab := dtabFromBytes v, dtabFrom := some (asidOf k, src) } }

/-- Loading the exchange permutation table of a dense core's cluster. -/
def loadXtab (s : State) (c v : Nat) (src : Loc) : State :=
  let cl := clusterOf c
  let tab := (upto 256).foldl (fun m e =>
    if fld v (32 * e) 32 = xtabReset e then ndel m (256 * cl + e)
    else nput m (256 * cl + e) (BitVec.ofNat 32 (fld v (32 * e) 32))) s.shared.xtab
  { s with shared := { s.shared with
      xtab := tab, xtabFrom := nput s.shared.xtabFrom cl (asidOf (getCore s c), src) } }

/-- A power of two. -/
def isPow2 (n : Nat) : Bool := n != 0 && 2 ^ Nat.log2 n == n

/-- The checks of a table descriptor (13 R331, R341). -/
def tblGood (d : BitVec 256) : Bool :=
  let rb := bf d 16 16
  let pk := bf d 34 2
  let nd := bf d 40 8 + 1
  let nch := bf d 48 12 + 1
  let stride := bf d 192 32
  !bitAt d 39 && bf d 60 4 == 0 && bf d 76 4 == 0 && bf d 88 40 == 0
    && 8 ≤ rb && rb ≤ 32768 && rb % 8 == 0 && pk != 3
    && (pk == 0 || (bf d 64 12 + nch ≤ 4096 && bf d 80 8 + nd ≤ 256 && stride != 0 && stride % 65536 == 0))
    && (pk != 2 || (isPow2 nd && isPow2 nch))

/-- Whether a command of the core that is in flight names a descriptor slot (13 R341). -/
def slotInUse (k : Core) (slot : Nat) : Bool :=
  k.fifo.any fun e => inFlight e.2.st && (cmdCode e.2.w == 1 || cmdCode e.2.w == 2 || cmdCode e.2.w == 3)
    && bf e.2.w[3] 0 16 == slot

/-- The end of tbld, once its block has arrived: the core with the slot loaded and true, the same core
and false while a command uses the slot, or TABLE_FORMAT. -/
def loadSlot (k : Core) (slot v : Nat) (src : Loc) : Option (Core × Bool) :=
  let d : BitVec 256 := BitVec.ofNat 256 v
  if slotInUse k slot then some (k, false)
  else if !tblGood d then none
  else some ({ k with tabs := { k.tabs with
    slots := nput k.tabs.slots slot d, slotFrom := nput k.tabs.slotFrom slot (asidOf k, src) } }, true)

/-- A table load: its block is checked and read as ld does. -/
def tableLoad (s : State) (i : Instr) (sg : Fin 8) (off n align : Nat) (dst : Dst)
    (fin : State → Loc → Nat → State × Flow) : State × Flow :=
  match segAcc s.issue.core (myCore s) sg off n align [rightR] with
  | .error e => faultHere s i e.1 e.2.1 e.2.2
  | .ok loc => loadIssue s i loc n dst false (!loc.isOwn s.issue.core) false fun s v => fin s loc v

def execDtld (sg : Fin 8) (base : Reg) (imm : BitVec 7) (s : State) : Host.Outcome State Fault Refusal :=
  run (.dtld sg base imm) s fun s =>
    tableLoad s (.dtld sg base imm) sg (offOf s base 7 imm.toNat 8) 512 64 .dtab
      fun s loc v => (loadDtab s s.issue.core v loc, .next)

def execTbld (r : Reg) (sg : Fin 8) (base : Reg) (imm : BitVec 7) (s : State) :
    Host.Outcome State Fault Refusal :=
  run (.tbld r sg base imm) s fun s =>
    let i := Instr.tbld r sg base imm
    let slot := bf (rd s r) 0 4
    tableLoad s i sg (offOf s base 7 imm.toNat 8) 32 32 (.tabSlot slot)
      fun s loc v =>
        match loadSlot (myCore s) slot v loc with
        | some (k, ok) => (wrP (setCore s s.issue.core k) 7 ok, .next)
        | none => faultHere s i .tableFormat .none 0

def execXpld (sg : Fin 8) (base : Reg) (imm : BitVec 7) (s : State) : Host.Outcome State Fault Refusal :=
  run (.xpld sg base imm) s fun s =>
    tableLoad s (.xpld sg base imm) sg (offOf s base 7 imm.toNat 8) 1024 64 .xtab
      fun s loc v => (loadXtab s s.issue.core v loc, .next)

/-! ## gkbind (13 R342) -/

/-- Geckos of the device (10 R242). -/
def nGeckos : Nat := 2048

/-- A change in every gecko. -/
def allGeckos (s : State) (f : Gecko → Gecko) : State :=
  { s with geckos := iter nGeckos (fun g m => nput m g (f (ngetD s.geckos g Gecko.blank))) [] }

/-- Binding a tag and a context to an image in every gecko. -/
def gkBind (s : State) (tag ctx lo hi : Nat) (im : BitVec 4096) : State :=
  let status : W64 := BitVec.ofNat 64 (2 ^ 8 + gkValidate im * 2 ^ 9 + gSeed im * 2 ^ 16)
  allGeckos s fun g =>
    { g with ctx := nput g.ctx ctx ⟨im, 0, status, lo, hi⟩, tags := nput g.tags tag ctx }

/-- Unbinding a tag in every gecko. -/
def gkUnbind (s : State) (tag : Nat) : State := allGeckos s fun g => { g with tags := ndel g.tags tag }

/-- gkbind reads its image and parks until every gecko has applied it. -/
def execGkbind (a b : Reg) (tag : BitVec 6) (ctx : BitVec 3) (s : State) :
    Host.Outcome State Fault Refusal :=
  run (.gkbind a b tag ctx) s fun s =>
    let i := Instr.gkbind a b tag ctx
    if bitAt (rd s a) 63 then
      sendOff s i (.gkUnbind a tag.toNat) 0 false [⟨0, .scratch 0, ⟨.load, 0, 0, 0⟩, some (.val 0)⟩]
    else
      let off := (rd s a).toNat
      let w := rd s b
      match segAcc s.issue.core (myCore s) (Fin.ofNat 8 (bf w 54 3)) off 512 64 [rightR] with
      | .error e => faultHere s i e.1 e.2.1 e.2.2
      | .ok loc =>
          loadIssue s i loc 512 (.gk a tag.toNat ctx.toNat (bf w 5 22 * 32) (bf w 32 22 * 32)) false true false
            fun s _ => (s, .next)

/-! ## ptinv (13 R343) -/

/-- The kinds of ptinv. -/
def ptPage : Nat := 0
def ptAsid : Nat := 1
def ptAll : Nat := 2

/-- Whether an entry of a translation cache or a TLB is discarded. -/
def ptHits (kind va asid : Nat) (x : Xlate) : Bool :=
  kind == ptAll || (x.asid == asid && (kind == ptAsid || x.has asid va))

/-- Whether an entry of a core's row cache or instruction cache, or a read on its way to one, is discarded: its
address, in a page of a size in bits, lies in the page of va. -/
def ptNear (kind va : Nat) (a bits : Nat) : Bool := kind != ptPage || a / 2 ^ bits == va / 2 ^ bits

/-- The discards in one core. -/
def ptCore (kind va asid : Nat) (k : Core) : Core :=
  let mine := kind == ptAll || asidOf k == asid
  { k with caches := { k.caches with
      xlate := k.caches.xlate.filter fun x => !ptHits kind va asid x,
      row := if mine then k.caches.row.filter fun e => !ptNear kind va (32 * e.atom) e.bits else k.caches.row,
      icache := if mine then k.caches.icache.filter fun l => !ptNear kind va (64 * l.line) l.bits
        else k.caches.icache } }

/-- The size in bits of the page of an address, as the tables give it; 64 KB where they give none. -/
def tablePage (s : State) (asid va : Nat) : Nat :=
  match (walkTables s asid va).2 with
  | .ok x => x.bits
  | .error _ => 16

/-! ## Walkers (13 R327) -/

/-- Changing a translation. -/
def modWalk (s : State) (id : Nat) (f : WalkReq → WalkReq) : State :=
  { s with net := { s.net with walks := nmod s.net.walks id f } }

/-- Whether two misses are of one page of a unit, of the size that the tables give it, and share a walk (13 R327). -/
def sharesWalk (s : State) (v w : WalkReq) : Bool :=
  let n := tablePage s v.asid v.va
  unitOf v.who.core == unitOf w.who.core && v.asid == w.asid && v.va / 2 ^ n == w.va / 2 ^ n

/-- Whether a translation walks the tables. -/
def walks (w : WalkReq) : Bool := w.walking && w.hit.isNone

/-- The walkers of a die that are busy: one for each walk. -/
def walkersBusy (s : State) (die : Nat) : Nat :=
  ((s.net.walks.filter fun x => walks x.2 && dieOf x.2.who.core == die
      && !s.net.walks.any fun y => y.1 < x.1 && walks y.2 && sharesWalk s x.2 y.2)).length

/-- Misses that wait take a walker of their die, in order of age, or share a walk that is under way (13 R327). -/
def takeWalkers (s : State) (die : Nat) : NMap WalkReq → State
  | [] => s
  | (id, w) :: rest =>
      if !w.missed || w.walking || dieOf w.who.core != die then takeWalkers s die rest
      else if s.net.walks.any fun y => walks y.2 && sharesWalk s w y.2 then
        takeWalkers (modWalk s id fun w => { w with walking := true }) die rest
      else if walkersBusy s die < 512 then
        takeWalkers (modUnit (modWalk s id fun w => { w with walking := true }) (unitOf w.who.core) fun t =>
          { t with walks := t.walks + 1 }) die rest
      else takeWalkers s die rest

/-! ## The discards of ptinv (13 R343) -/

/-- Fills of a core's caches under way whose addresses are discarded fill nothing, and prefetches among them leave
the prefetch queue, as those do whose translation is still under way. -/
def ptFills (s : State) (kind va asid : Nat) (c : Nat) : State :=
  if kind == ptAll || asidOf (getCore s c) == asid then
    let early := (s.net.walks.filter fun x =>
      x.2.wants == .prefetch && x.2.who.core == c && ptNear kind va x.2.va (tablePage s x.2.asid x.2.va)).map (·.2.va / 32)
    let gone := s.net.reqs.filter fun x =>
      match x.2.origin with
      | .prefetch d _ | .engine d _ _ _ | .icache d _ _ => d == c && ptNear kind va x.2.va x.2.bits
      | .txn _ _ | .pool _ _ | .store _ _ => false
    let atoms := gone.filterMap fun x => match x.2.origin with
      | .prefetch _ a => some (a / 32)
      | _ => none
    modCore s c fun k => { k with caches := { k.caches with
      missed := (gone.map (·.1)).foldl addTo k.caches.missed,
      prefetch := k.caches.prefetch.filter fun a => !atoms.contains a && !early.contains a } }
  else s

/-- Whether a core stands in the structures of a scope. -/
def ptIn (c : Nat) (sc : Scope) (d : Nat) : Bool :=
  match sc with
  | .core => d == c
  | .vly => unitOf d == unitOf c
  | .dev | .sys | .dom => true

/-- Whether a unit's TLB stands in the structures of a scope. -/
def ptUnit (c : Nat) (sc : Scope) (u : Nat) : Bool :=
  match sc with
  | .core => false
  | .vly => u == unitOf c
  | .dev | .sys | .dom => true

/-- The discards in one translation unit. -/
def ptTlb (kind va asid : Nat) (x : XUnit) : XUnit :=
  { x with tlb := x.tlb.filter fun e => !ptHits kind va asid e }

/-- The discards of a ptinv, and the walks that it waits for, none of which fills anything. -/
def ptDiscard (s : State) (c : Nat) (sc : Scope) (kind va asid : Nat) : State × List Nat :=
  let s := s.cores.foldl (fun s x => if ptIn c sc x.1 then ptFills s kind va asid x.1 else s) s
  let cores : NMap Core :=
    s.cores.map fun x => if ptIn c sc x.1 then (x.1, ptCore kind va asid x.2) else x
  let units : NMap XUnit :=
    s.units.map fun x => if ptUnit c sc x.1 then (x.1, ptTlb kind va asid x.2) else x
  let hit (w : WalkReq) : Bool := w.walking && ptIn c sc w.who.core
  let ids := (s.net.walks.filter fun x => hit x.2).map (·.1)
  let walks : NMap WalkReq :=
    s.net.walks.map fun x => if hit x.2 then (x.1, { x.2 with dropped := true }) else x
  ({ s with cores := cores, units := units, net := { s.net with walks := walks } }, ids)

/-- A ptinv waits for the fibre's writes, raises no failure of one (13 R345), and goes on, or parks until the walks
have ended. -/
def ptIssue (s : State) (i : Instr) (sc : Scope) (kind va asid : Nat) : State × Flow :=
  waitIssue s i sc (.ptinv sc kind va asid) fun s =>
    match ptDiscard s s.issue.core sc kind va asid with
    | (s, []) => (s, .next)
    | (s, ids) => parkOn s i .reply (.walks ids)

def execPtinvPage (a b : Reg) (sc : Scope) (s : State) : Host.Outcome State Fault Refusal :=
  run (.ptinvPage a b sc) s fun s =>
    ptIssue s (.ptinvPage a b sc) sc ptPage (bf (rd s a) 0 55) (bf (rd s b) 0 11)

def execPtinvAsid (b : Reg) (sc : Scope) (s : State) : Host.Outcome State Fault Refusal :=
  run (.ptinvAsid b sc) s fun s => ptIssue s (.ptinvAsid b sc) sc ptAsid 0 (bf (rd s b) 0 11)

def execPtinvAll (sc : Scope) (s : State) : Host.Outcome State Fault Refusal :=
  run (.ptinvAll sc) s fun s => ptIssue s (.ptinvAll sc) sc ptAll 0 0

end Sys2Proof.Machine
end

