-- ==== Sys2Proof/Machine/VecMem.lean ====
section
/-! DEFINITION. Vector loads and stores (06 R134-R136). -/

namespace Sys2Proof.Machine

/-- A lane of a vector register as an element index. -/
def laneAt (v : W512) (n e : Nat) : Nat := bf v (8 * n * e) (8 * n)

def execVld (v : VReg) (sg : Fin 8) (base : Reg) (imm : BitVec 10) (s : State) :
    Host.Outcome State Fault Refusal :=
  run (.vld v sg base imm) s fun s =>
    let i := Instr.vld v sg base imm
    match segAcc s.issue.core (myCore s) sg (offOf s base 10 imm.toNat 64) 64 64 [rightR] with
    | .error e => faultHere s i e.1 e.2.1 e.2.2
    | .ok loc => loadIssue s i loc 64 (.vec v) false true false fun s _ => (s, .next)

/-- The store-buffer entries of 64 bytes: one for each atom of DRAM or host memory. -/
def vecParts (loc : Loc) (v : W512) : List (Loc × Acc1) :=
  (cutAt loc.addr 64 loc.grain).map fun x => (loc.plus x.1, storeAcc x.2 (bf v (8 * x.1) (8 * x.2)))

def execVst (v : VReg) (sg : Fin 8) (base : Reg) (imm : BitVec 10) (s : State) :
    Host.Outcome State Fault Refusal :=
  run (.vst v sg base imm) s fun s =>
    let i := Instr.vst v sg base imm
    match segAcc s.issue.core (myCore s) sg (offOf s base 10 imm.toNat 64) 64 64 [rightW] with
    | .error e => faultHere s i e.1 e.2.1 e.2.2
    | .ok loc => storeIssue s i (vecParts loc (src s).v[v])

/-- The offset of element e (06 R135). -/
def elemOff (s : State) (base : Reg) (vi : VReg) (n e : Nat) : Nat :=
  ((rd s base).toNat + laneAt (src s).v[vi] n e * n) % 2 ^ 64

def execVldg (v : VReg) (sg : Fin 8) (base : Reg) (vi : VReg) (esz : Esz) (s : State) :
    Host.Outcome State Fault Refusal :=
  run (.vldg v sg base vi esz) s fun s =>
    let i := Instr.vldg v sg base vi esz
    let c := s.issue.core
    let n := eszBytes esz
    let elems := (upto (64 / n)).map fun e => (n * e, elemOff s base vi n e)
    let (s, ps) := readPieces s c s.issue.slot (myCore s) sg n elems
    sendOff s i (.vec v) 64 false ps

/-- The elements of vsts up to the first that fails its segment check, and that failure. -/
def elemParts (c : Nat) (k : Core) (sg : Fin 8) (n : Nat) : List (Nat × Nat) → List (Loc × Acc1) × Option Err
  | [] => ([], none)
  | (off, v) :: rest =>
      match segAcc c k sg off n n [rightW] with
      | .error e => ([], some e)
      | .ok loc => let (ps, e) := elemParts c k sg n rest
                   ((loc, storeAcc n v) :: ps, e)

/-- vsts of which an element fails its segment check: the lower elements are translated first, since one
of them may fault; the instruction is issued again with a translation that was missing. -/
def failStore (s : State) (i : Instr) (parts : List (Loc × Acc1)) (e : Err) : State × Flow :=
  let c := s.issue.core
  match plan s c s.issue.slot (parts.map fun x => ⟨0, x.1, x.2, none⟩) with
  | (_, _, some (_, some e')) => faultHere s i e'.1 e'.2.1 e'.2.2
  | (_, _, none) => faultHere s i e.1 e.2.1 e.2.2
  | (s', _, some (p, none)) =>
      let who := issuer s' i
      parkHere (startWalk s' who p.loc.va?.1 .reissue p.acc p.loc.va?.2 []) i .xlate .walk

def execVsts (v : VReg) (sg : Fin 8) (base : Reg) (vi : VReg) (esz : Esz) (s : State) :
    Host.Outcome State Fault Refusal :=
  run (.vsts v sg base vi esz) s fun s =>
    let i := Instr.vsts v sg base vi esz
    let n := eszBytes esz
    let elems := (upto (64 / n)).map fun e => (elemOff s base vi n e, laneAt (src s).v[v] n e)
    match elemParts s.issue.core (myCore s) sg n elems with
    | (parts, none) => storeIssue s i parts
    | (parts, some e) => failStore s i parts e

end Sys2Proof.Machine
end

