-- ==== Sys2Proof/Machine/Matrix.lean ====
section
/-! DEFINITION. The matrix engine: accumulators, the B latch, mma steps and the ring (06 R126,
R137-R145; 03 R65, R66). -/

namespace Sys2Proof.Machine

/-- Changing the matrix state of a core. -/
def modMx (s : State) (c : Nat) (f : Matrix → Matrix) : State := modCore s c fun k => { k with mx := f k.mx }

/-- An element of an accumulator, by accumulator, row and column. -/
def accAt (m : Matrix) (a i j : Nat) : Nat := (ngetD m.acc (4096 * a + 64 * i + j) 0).toNat

/-- Writing an element; +0 is not listed. -/
def accPut (m : NMap W32) (a i j v : Nat) : NMap W32 :=
  if v % 2 ^ 32 = 0 then ndel m (4096 * a + 64 * i + j) else nput m (4096 * a + 64 * i + j) (BitVec.ofNat 32 v)

/-- The elements of one accumulator. -/
def accOf (m : NMap W32) (a : Nat) : NMap W32 := m.filter fun x => x.1 / 4096 == a

/-- Replacing one accumulator by elements keyed by 64·row + column. -/
def accSet (m : NMap W32) (a : Nat) (els : NMap W32) : NMap W32 :=
  (m.filter fun x => x.1 / 4096 < a) ++ els.map (fun x => (4096 * a + x.1, x.2))
    ++ (m.filter fun x => a < x.1 / 4096)

/-- A latch scale. -/
def scaleAt (m : Matrix) (j : Nat) : Nat := (ngetD m.scales j 127).toNat

/-! ## mma (06 R137-R140; 03 R65, R66) -/

/-- An element of the matrix engine, exactly, with a T8 code through the core's decode table
(03 R46, R52); a signalling NaN keeps its mark. -/
def mxNum (t : NMap W16) (f : Fmt) (w : Nat) : Num :=
  match f with
  | .fp16 => fp16.dec w
  | .bf16 => bf16.dec w
  | .t8 => bf16.dec (dtabAt t w)
  | .e2m1 => decE2 w
  | .fp32 | .int8 | .int32 | .int64 => .fin false 0 0 false

/-- k values of a step (06 R137). -/
def stepK (f : Fmt) : Nat :=
  match f with
  | .t8 | .e2m1 => 128
  | .fp16 | .bf16 | .fp32 | .int8 | .int32 | .int64 => 64

/-- Row n of A: the elements of v(va + 2n) and v(va + 2n + 1). -/
def aRow (f : Fibre) (fa : Fmt) (t : NMap W16) (va n : Nat) : List Num :=
  let w := (f.v[Fin.ofNat 32 (va + 2 * n)]).toNat + (f.v[Fin.ofNat 32 (va + 2 * n + 1)]).toNat * 2 ^ 512
  (upto (stepK fa)).map fun k => mxNum t fa (fld w (fmtBits fa * k) (fmtBits fa))

/-- The scale of row n of A. -/
def aScale (f : Fibre) (fa : Fmt) (va n : Nat) : Nat :=
  if fa == .e2m1 then bf f.v[Fin.ofNat 32 (va + 2 * n + 1)] 0 8 else 127

/-- Element (k, j) of the B latch, held as a number. -/
def bElem (latch : Nat) (fb : Fmt) (t : NMap W16) (k j : Nat) : Num :=
  mxNum t fb (fld latch (fmtBits fb * (64 * k + j)) (fmtBits fb))

/-- The exact sum of two terms; opposite infinities give a NaN with IV (03 R66). -/
def sumNum (x y : Num × BitVec 5) : Num × BitVec 5 :=
  let z := addNum 0 x.1 y.1
  (z.1, x.2 ||| y.2 ||| z.2)

/-- IV of products of both infinities, wherever they stand among the products (03 R66). -/
def bothInf (ts : List (Num × BitVec 5)) : BitVec 5 :=
  flIf (ts.any (fun x => x.1 == .inf false) && ts.any fun x => x.1 == .inf true) flIV

/-- p of one column: the exact sum of the products, scaled and rounded once (06 R139); a sum of negative zeros is +0
(DEDUCED, log 56). -/
def mxSum (as bs : List Num) (sa sb : Nat) : FRes :=
  let ts := (as.zip bs).map fun x => mulNum x.1 x.2
  let (x, fl) := ts.foldl sumNum (.fin false 0 0 false, bothInf ts)
  if sa = 255 ∨ sb = 255 then ⟨fp32.nan, fl ||| flNF⟩
  else
    let y := fp32.round rne (scaleNum ((sa : Int) + sb - 254) x)
    ⟨y.bits, fl ||| y.fl⟩

/-- A row step: row cursor of the accumulator takes A(n)·B, and the cursor advances; the flags of its
roundings (06 R139). -/
def mmaRow (k : Core) (f : Fibre) (a : Fin 4) (va : Nat) (fa fb : Fmt) (n : Nat) : Core × BitVec 5 :=
  let m := k.mx
  let i := m.cursor[a].toNat
  let t := k.tabs.dtab
  let latch := Mem.rdN m.latch 0 8192
  let as := aRow f fa t va n
  let sa := aScale f fa va n
  let (acc, fl) := (upto 64).foldl (fun (x : NMap W32 × BitVec 5) j =>
      let bs := (upto (stepK fb)).map fun kk => bElem latch fb t kk j
      let p := mxSum as bs sa (if fb == .e2m1 then scaleAt m j else 127)
      let y := faddBits rne (accAt m a.val i j) p.bits
      (accPut x.1 a.val i j y.bits, x.2 ||| p.fl ||| y.fl)) (m.acc, 0)
  ({ k with mx := { m with acc := acc, cursor := m.cursor.set a (BitVec.ofNat 6 (i + 1)) } }, fl)

/-- mma parks its fibre with reason 7; the engine takes its steps in the strand's turns. -/
def execMma (acc : Acc) (va : VReg) (fa fb : Fmt) (cnt : BitVec 8) (s : State) :
    Host.Outcome State Fault Refusal :=
  run (.mma acc va fa fb cnt) s fun s =>
    parkOn s (.mma acc va fa fb cnt) .matrix (.mma acc.val va.val fa fb 0 cnt.toNat false 0)

/-! ## mzero, mldb, mdrain (06 R138, R141-R143) -/

def execMzero (acc : Acc) (s : State) : Host.Outcome State Fault Refusal :=
  run (.mzero acc) s fun s =>
    if (myCore s).mx.busy.contains acc.val then parkHere s (.mzero acc) .resource (.resource (.acc acc.val))
    else
      (modMx s s.issue.core fun m =>
        { m with acc := accSet m.acc acc.val [], cursor := m.cursor.set acc 0 }, .next)

/-- The bytes of a B tile. -/
def tileSize (f : Fmt) : Nat := if f == .e2m1 then 4160 else 8192

def execMldb (f : Fmt) (sg : Fin 8) (base : Reg) (imm : BitVec 10) (s : State) :
    Host.Outcome State Fault Refusal :=
  run (.mldb f sg base imm) s fun s =>
    let i := Instr.mldb f sg base imm
    match segAcc s.issue.core (myCore s) sg (offOf s base 10 imm.toNat 64) (tileSize f) 64 [rightR] with
    | .error e => faultHere s i e.1 e.2.1 e.2.2
    | .ok loc => loadIssue s i loc (tileSize f) (.latch f) false true false fun s _ => (s, .next)

/-- The latch takes a tile (06 R138). -/
def latchLoad (m : Matrix) (f : Fmt) (bytes : Mem) : Matrix :=
  if f == .e2m1 then
    { m with
      latch := Mem.cut bytes 0 4096 ++ m.latch.filter fun c => 4096 ≤ c.1,
      scales := (upto 64).filterMap fun j =>
        let v := Mem.rd bytes (4096 + j)
        if v = 127 then none else some (j, v) }
  else { m with latch := Mem.cut bytes 0 8192 }

/-- The 32-bit elements of a vector register from a list. -/
def vecOf (bits : Nat) (xs : List Nat) : W512 :=
  BitVec.ofNat 512 (xs.foldr (fun x n => x % 2 ^ bits + n * 2 ^ bits) 0)

/-- The registers that mdrain writes, with its flags (06 R142). -/
def drainVals (m : Matrix) (a row : Nat) (f : Fmt) : List W512 × BitVec 5 :=
  let x := (upto 64).map fun j => accAt m a row j
  match f with
  | .fp16 | .bf16 =>
      let b := if f == .fp16 then fp16 else bf16
      let ys := x.map fun w =>
        let n := fp32.dec w
        let y := b.round rne n
        (⟨y.bits, y.fl ||| flIf (isSig n) flIV⟩ : FRes)
      ((upto 2).map fun q => vecOf 16 (((ys.map (·.bits)).drop (32 * q)).take 32),
        ys.foldl (fun fl y => fl ||| y.fl) 0)
  | _ => ((upto 4).map fun q => vecOf 32 ((x.drop (16 * q)).take 16), 0)

/-- Writing consecutive vector registers. -/
def putVecs (f : Fibre) (v : Nat) (xs : List W512) : Fibre :=
  (upto xs.length).foldl (fun f q => { f with v := f.v.set (Fin.ofNat 32 (v + q)) (xs.getD q 0) }) f

def execMdrain (acc : Acc) (v : VReg) (f : Fmt) (row : BitVec 6) (s : State) :
    Host.Outcome State Fault Refusal :=
  run (.mdrain acc v f row) s fun s =>
    let m := (myCore s).mx
    if m.busy.contains acc.val then
      parkHere s (.mdrain acc v f row) .resource (.resource (.acc acc.val))
    else
      let (xs, fl) := drainVals m acc.val row.toNat f
      (modMe s fun x => orFlags (putVecs x v.val xs) fl, .next)

/-! ## The ring (06 R144, R145) -/

/-- Whether a strand is in lock-step: its lock-step bit is 1 on every member of its group (06 R146). -/
def inLock (s : State) (c st : Nat) : Bool :=
  (groupCores c (strandAt (getCore s c) st).fuse).all fun m => (strandAt (getCore s m) st).lock

/-- The cores of the lock-step group of a strand; the core alone when it is not in one (06 R146). -/
def lockGroup (s : State) (c st : Nat) : List Nat :=
  if inLock s c st then groupCores c (strandAt (getCore s c) st).fuse else [c]

/-- Whether the latches or accumulators that a ring operation needs are free. -/
def ringFree (s : State) (r : RingOp) : Bool :=
  r.cores.all fun c =>
    let m := (getCore s c).mx
    match r.exch with
    | none => !m.rotating
    | some (a, _) => !m.busy.contains a

/-- A ring operation starts: latches ROTATING, or accumulators busy. -/
def ringStart (s : State) (id : Nat) (r : RingOp) : State :=
  let s := r.cores.foldl (fun s c => modMx s c fun m =>
    match r.exch with
    | none => { m with rotating := true }
    | some (a, _) => { m with busy := addTo m.busy a }) s
  { s with net := { s.net with rings := nput s.net.rings id { r with started := true } } }

/-- Starting the ring operations that wait for what has become free, the oldest first. -/
def ringsStart (s : State) : State :=
  s.net.rings.foldl (fun s x => if !x.2.started && ringFree s x.2 then ringStart s x.1 x.2 else s) s

/-- A ring operation is issued once for its group: the followers park on the leader's. -/
def ringIssue (s : State) (i : Instr) (hops : Nat) (exch : Option (Nat × BitVec 32)) : State × Flow :=
  if s.issue.follower then parkOn s i .matrix (.ring (s.net.next - 1))
  else
    let cores := lockGroup s s.issue.core s.issue.strand
    let (id, s) := freshId s
    let r : RingOp := ⟨cores, s.issue.strand, hops, exch, false⟩
    let s := { s with net := { s.net with rings := nput s.net.rings id r } }
    parkOn (if ringFree s r then ringStart s id r else s) i .matrix (.ring id)

def execMrot (cnt : BitVec 8) (s : State) : Host.Outcome State Fault Refusal :=
  run (.mrot cnt) s fun s =>
    let n := (lockGroup s s.issue.core s.issue.strand).length
    let h := cnt.toNat % n
    if h = 0 then (s, .next) else ringIssue s (.mrot cnt) h none

def execMxch (acc : Acc) (entry : BitVec 8) (s : State) : Host.Outcome State Fault Refusal :=
  run (.mxch acc entry) s fun s =>
    ringIssue s (.mxch acc entry) 0
      (some (acc.val, BitVec.ofNat 32 (xtabAt s (clusterOf s.issue.core) entry.toNat)))

end Sys2Proof.Machine
end

