-- ==== Sys2Proof/Machine/Fuse.lean ====
section
/-! DEFINITION. Fusion of dense strands: fuse, unfuse, rejoin (06 R146-R149). -/

namespace Sys2Proof.Machine

/-- The size of a fusion request. -/
def fuseNum : FuseSize → Nat
  | .two => 2 | .four => 4 | .eight => 8

/-- Changing the strand that issues. -/
def modMyStrand (s : State) (f : Strand → Strand) : State :=
  modCore s s.issue.core fun k => modStrand k s.issue.strand f

def execFuse (size : FuseSize) (s : State) : Host.Outcome State Fault Refusal :=
  run (.fuse size) s fun s =>
    (modMyStrand s fun t => if t.lock then t else { t with fuse := fuseNum size }, .next)

def execUnfuse (s : State) : Host.Outcome State Fault Refusal :=
  run .unfuse s fun s => (modMyStrand s fun t => { t with fuse := 0, lock := false, line := false }, .next)

/-- Whether strand st of every member of the aligned group of core c, all of one task, has raised its line
with a request of the size (06 R146, R148). -/
def lineHigh (s : State) (c st size : Nat) : Bool :=
  (groupCores c size).all fun m =>
    let t := strandAt (getCore s m) st
    t.line && t.fuse == size && (getCore s m).frozen.isNone && tidOf (getCore s m) == tidOf (getCore s c)

/-- rejoin: at once in a lock-step group or without a request; else the line is raised and the fibre
parks with reason 4 until the line is high, or TIMEOUT. -/
def execRejoin (s : State) : Host.Outcome State Fault Refusal :=
  run .rejoin s fun s =>
    let t := strandAt (myCore s) s.issue.strand
    if t.lock || t.fuse == 0 then (wrP s 7 true, .next)
    else
      let s' := modMyStrand s fun t => { t with line := true }
      if noLimit s && (expired s || !lineHigh s' s.issue.core s.issue.strand t.fuse) then
        (wrP (modMyStrand s fun t => { t with fuse := 0, line := false }) 7 false, .next)
      else parkHere (startTimer s') .rejoin .sync (.rejoin s.issue.words)

end Sys2Proof.Machine
end

