-- ==== Sys2Proof/Machine/Task.lean ====
section
/-! DEFINITION. Task queues: the task image as tlaunch reads it, its checks, the task table, trigger and
twait, and the completion of a task (04 R91, R92; 12 R305-R307, R315-R317; 13 R321, R329, R331). -/

namespace Sys2Proof.Machine

/-! ## The image (04 R91, R92; 13 R321, R329, R331), by offset in the segment of tlaunch -/

/-- A section: kind, index, size and offset in the image. -/
structure Sec where
  kind : Nat
  idx : Nat
  size : Nat
  off : Nat
  deriving DecidableEq, Repr

/-- The IMAGE offset of a descriptor. -/
def dImage (m : Mem) (d : Nat) : Nat := Mem.rdN m d 8

/-- The section table. -/
def secsOf (m : Mem) (base : Nat) : List Sec :=
  (upto (Mem.rdN m (base + 6) 2)).map fun j =>
    let a := base + 0x20 + 16 * j
    ⟨Mem.rdN m a 2, Mem.rdN m (a + 2) 2, Mem.rdN m (a + 4) 4, Mem.rdN m (a + 8) 8⟩

/-- The first section of a kind. -/
def secOf (m : Mem) (base kind : Nat) : Option Sec := (secsOf m base).find? fun x => x.kind == kind

/-- A crew record (13 R329). -/
structure CrewRec where
  fibres : Nat
  kind : Nat
  tile : Nat
  cache : Nat
  scratch : Nat
  entry : Nat
  handler : Nat
  ok : Bool
  deriving DecidableEq, Repr

/-- A position record (13 R329). -/
structure PosRec where
  crew : Nat
  rel : Nat
  at_ : Nat
  fixed : Bool
  valley : Nat
  fuse : Nat
  ok : Bool
  deriving DecidableEq, Repr

/-- The crews of a placement map. -/
def crewsOf (m : Mem) (base : Nat) : List CrewRec :=
  match secOf m base 7 with
  | none => []
  | some x =>
      let a := base + x.off
      (upto (Mem.rdN m a 2)).map fun j =>
        let r := a + 8 + 32 * j
        let kind := Mem.rdN m (r + 2) 1
        let t := Mem.rdN m (r + 4) 4
        let c := Mem.rdN m (r + 8) 4
        let z := Mem.rdN m (r + 12) 4
        { fibres := Mem.rdN m r 2, kind := kind, tile := t, cache := c, scratch := z,
          entry := Mem.rdN m (r + 16) 8, handler := Mem.rdN m (r + 24) 8,
          ok := kind < 2 && Mem.rdN m (r + 3) 1 == 0
            && (if kind = 0 then z == 0 else t == 0 && c == 0) }

/-- The positions of a placement map. -/
def placesOf (m : Mem) (base : Nat) : List PosRec :=
  match secOf m base 7 with
  | none => []
  | some x =>
      let a := base + x.off
      let nc := Mem.rdN m a 2
      (upto (Mem.rdN m (a + 2) 2)).map fun j =>
        let r := a + 8 + 32 * nc + 8 * j
        let f := Mem.rdN m (r + 4) 1
        { crew := Mem.rdN m r 2, rel := Mem.rdN m (r + 2) 1, at_ := Mem.rdN m (r + 3) 1,
          fixed := 128 ≤ f, valley := f % 16, fuse := Mem.rdN m (r + 5) 1,
          ok := fld f 4 3 == 0 && Mem.rdN m (r + 6) 2 == 0 }

/-- A crew by number. -/
def crewAt (cs : List CrewRec) (n : Nat) : CrewRec := cs.getD n ⟨0, 0, 0, 0, 0, 0, 0, false⟩

/-- A segment-table entry (13 R321). -/
structure SegRec where
  limit : Nat
  rights : Nat
  tag : Nat
  kind : Nat
  rep : Bool
  page : Nat
  cluster : Nat
  off : Nat
  ok : Bool
  deriving DecidableEq, Repr

/-- The entry of segment n, 2 to 7. -/
def segRecOf (m : Mem) (base n : Nat) : SegRec :=
  match secOf m base 4 with
  | none => ⟨0, 0, 0, 0, false, 0, 0, 0, true⟩
  | some x =>
      let a := base + x.off + 16 * (n - 2)
      let lim := Mem.rdN m a 8
      let rt := Mem.rdN m (a + 8) 1
      let tg := Mem.rdN m (a + 9) 1
      let kd := Mem.rdN m (a + 10) 1
      let pg := Mem.rdN m (a + 11) 1
      let w := Mem.rdN m (a + 12) 4
      { limit := lim, rights := rt, tag := tg, kind := kd % 4, rep := fld kd 2 1 == 1, page := pg,
        cluster := w % 2, off := w / 256,
        ok := rt < 32 && tg < 64 && kd < 8 && pg < 3 && 2 ≤ kd % 4 && lim < 2 ^ 55
          && (if kd % 4 = 3 then pg == 0 && fld w 1 7 == 0 && w / 256 % 64 == 0
              else w == 0) }

/-- The code segment that an image declares (07 R167). -/
def codeSegRec (m : Mem) (base : Nat) : Option Nat :=
  [2, 3, 4, 5, 6, 7].find? fun n => (segRecOf m base n).limit != 0 && fld (segRecOf m base n).rights 2 1 == 1

/-- The bytes of scratchpad that each relative cluster needs: crews' parts one after the other at
multiples of 64, rounded up to 64 KB (12 R309). R309 gives the size as the sum of the requests; that the bytes between
one part and the next count too, so that the last part lies in the region, is the model's choice (DEDUCED, log 63). -/
def regionSize (m : Mem) (base cl : Nat) : Nat :=
  let cs := crewsOf m base
  let n := (placesOf m base).foldl (fun n p =>
    let c := crewAt cs p.crew
    if c.kind = 1 ∧ p.rel = cl then (n + 63) / 64 * 64 + c.scratch else n) 0
  (n + 65535) / 65536 * 65536

/-- The sum of the scratchpad requests (12 R313). -/
def scratchSum (m : Mem) (base : Nat) : Nat :=
  (placesOf m base).foldl (fun n p => n + (crewAt (crewsOf m base) p.crew).scratch) 0

/-- What tlaunch reads at each stage: the descriptor, the image header, the section table, the header of
the placement map, and the sections that it checks. -/
def launchNeed (m : Mem) (d stage : Nat) : List (Nat × Nat) :=
  let base := dImage m d
  match stage with
  | 0 => [(d, 64)]
  | 1 => [(base, 32)]
  | 2 => [(base + 0x20, 16 * Mem.rdN m (base + 6) 2)]
  | 3 => ((secsOf m base).filter fun x => x.kind == 7).map fun x => (base + x.off, 8)
  | 4 => (secsOf m base).filterMap fun x =>
      match x.kind with
      | 4 => some (base + x.off, 96)
      | 5 => some (base + x.off, min x.size 512)
      | 7 => some (base + x.off + 8, 32 * Mem.rdN m (base + x.off) 2 + 8 * Mem.rdN m (base + x.off + 2) 2)
      | 9 => some (base + x.off, 8)
      | _ => none
  | _ => []

/-! ## The checks (02 R34; 12 R315) -/

/-- Whether the header and the section table are well formed (04 R92); the image ends with its segment
(log 12). -/
def headerOk (m : Mem) (base limit : Nat) : Bool :=
  Mem.rdN m base 4 == 0x5341524F && Mem.rdN m (base + 4) 2 == 1
    && (secsOf m base).all fun x => 1 ≤ x.kind && x.kind ≤ 9 && base + x.off + x.size ≤ limit
      && (match x.kind with
          | 4 => x.size == 96
          | 5 => x.size ≤ 512 && x.size % 32 == 0
          | 7 => 8 ≤ x.size
          | 9 => x.size == 8
          | _ => true)

/-- Numbers without repeats. -/
def distinct (xs : List Nat) : Bool :=
  match xs with
  | [] => true
  | x :: xs => !xs.contains x && distinct xs

/-- The position checks of LAUNCH_SHAPE (02 R34, 13 R329). A dense position with fixed or valley bits and a lookup
position with a fusion group fail them, while bytes +4 to +7 of the map's header are not looked at (DEDUCED, log 63). -/
def placesOk (cs : List CrewRec) (ps : List PosRec) : Bool :=
  let one (p : PosRec) : Bool :=
    let c := crewAt cs p.crew
    p.ok && p.crew < cs.length
      && (if c.kind = 0 then p.rel < 16 && p.fuse == 0
          else p.rel < 2 && p.at_ < 8 && p.fuse < 4 && !p.fixed && p.valley == 0)
  let look := ps.filter fun p => (crewAt cs p.crew).kind == 0
  let fixes := (upto 16).filterMap fun v => look.find? fun p => p.rel == v && p.fixed
  ps != [] && ps.all one
    && distinct (ps.map fun p => ((crewAt cs p.crew).kind * 256 + p.rel) * 256 + p.at_)
    && (look.all fun p => look.all fun q => p.rel != q.rel || (p.fixed == q.fixed && p.valley == q.valley))
    && distinct (fixes.map (·.valley))
    && (ps.all fun p => p.fuse == 0 || (crewAt cs p.crew).kind == 0
        || (upto (2 ^ p.fuse)).all fun j => ps.any fun q =>
            (crewAt cs q.crew).kind == 1 && q.rel == p.rel && q.fuse == p.fuse
              && q.at_ == p.at_ / 2 ^ p.fuse * 2 ^ p.fuse + j)

/-- The segment checks of LAUNCH_SHAPE (13 R321, R322). A segment of LIMIT 0 is none, and nothing else of its entry is
looked at; a LIMIT that the register has no room for (2^55 or more) fails (DEDUCED, log 63). -/
def segsOk (m : Mem) (base : Nat) : Bool :=
  [2, 3, 4, 5, 6, 7].all fun n =>
    let g := segRecOf m base n
    g.limit == 0 || (g.ok && (g.kind != 3 ||
      (!g.rep && fld g.rights 2 1 == 0 && fld g.rights 4 1 == 0
        && (placesOf m base).any (fun p => (crewAt (crewsOf m base) p.crew).kind == 1 && p.rel == g.cluster)
        && g.off + g.limit ≤ regionSize m base g.cluster)))

/-- The table descriptors of an image. -/
def descsOf (m : Mem) (base : Nat) : List (BitVec 256) :=
  match secOf m base 5 with
  | none => []
  | some x => (upto (x.size / 32)).map fun j => BitVec.ofNat 256 (Mem.rdN m (base + x.off + 32 * j) 32)

/-- The staleness class of a segment's leaves (13 R322). -/
def staleOf (m : Mem) (base n : Nat) : Nat :=
  match (descsOf m base).find? fun d => bf d 36 3 == n with
  | some d => bf d 32 2
  | none => 0

/-- The descriptor checks of LAUNCH_SHAPE (13 R322, R331). -/
def descsOk (m : Mem) (base : Nat) : Bool :=
  let ds := descsOf m base
  ds.length ≤ 16 && ds.all tblGood
    && ds.all fun d => ds.all fun e => bf d 36 3 != bf e 36 3 || bf d 32 2 == bf e 32 2

/-- The section-size checks of LAUNCH_SHAPE (04 R92) and the trap entry (12 R310). -/
def sectionsOk (m : Mem) (base : Nat) : Bool :=
  match codeSegRec m base with
  | none => false
  | some cs =>
      let lim := (segRecOf m base cs).limit
      (secsOf m base).all fun x =>
        match x.kind with
        | 1 => x.size ≤ lim
        | 2 => 2 ≤ x.idx && x.idx ≤ 7 && x.size ≤ (segRecOf m base x.idx).limit
        | 3 | 8 => x.idx < (crewsOf m base).length
        | 9 => Mem.rdN m (base + x.off) 8 % 4 == 0 && Mem.rdN m (base + x.off) 8 < lim
        | _ => true

/-- LAUNCH_TILE (02 R34; 08 R180; 12 R315). -/
def tilesBad (m : Mem) (base : Nat) : Bool :=
  let cs := crewsOf m base
  (cs.any fun c => 65536 < c.tile || 32768 < c.cache || c.cache % 4096 != 0 || 65536 < c.tile + c.cache
      || 2 ^ 24 < c.scratch)
    || 2 ^ 24 < regionSize m base 0 || 2 ^ 24 < regionSize m base 1
    || (secsOf m base).any fun x => x.kind == 3 && (crewAt cs x.idx).tile < x.size

/-- The declared feature groups and the energy estimate. -/
def imageTfeat (m : Mem) (base : Nat) : Nat := Mem.rdN m (base + 8) 8
def imageEnergy (m : Mem) (base : Nat) : Nat := Mem.rdN m (base + 0x10) 8

/-- The next TID (12 R307). -/
def nextTid (t : TaskSys) : Nat :=
  let used (x : Nat) : Bool := t.table.any fun e => e.2.tid == x
  (((upto 1026).map fun j => (t.lastTid + 1 + j) % 65536).find? fun x => x != 0 && !used x).getD 0

/-- The predecessors that a descriptor names. -/
def predsOf (m : Mem) (d : Nat) : List Nat :=
  ((upto 4).map fun j => Mem.rdN m (d + 0x28 + 2 * j) 2).filter (· != 0)

/-- The rejection code of a launch, 0 for none (12 R315). -/
def launchCode (t : TaskSys) (m : Mem) (d limit : Nat) : Nat :=
  let base := dImage m d
  let head := headerOk m base limit
  let cs := crewsOf m base
  if head && cs.any (fun c => c.fibres == 0 || (if c.kind = 1 then 8 else 256) < c.fibres) then 1
  else if !head || Mem.rdN m (d + 0x33) 13 != 0 || (predsOf m d).contains (nextTid t)
      || !cs.all (·.ok) || !placesOk cs (placesOf m base) || !segsOk m base || !descsOk m base
      || !sectionsOk m base || 2 ^ 13 ≤ imageTfeat m base then 2
  else if tilesBad m base then 3
  else if Mem.rdN m (d + 0x31) 1 % 16 < Mem.rdN m (d + 0x30) 1 % 16 then 4
  else if 100000 < imageEnergy m base then 5
  else if 1024 ≤ t.table.length && !t.table.any (fun e => e.2.st == .complete) then 6
  else if Mem.rdN m (d + 0x18) 8 < 4096 + 131072 * (placesOf m base).length + scratchSum m base
      || Mem.rdN m (d + 0x10) 8 % 4096 != 0 || Mem.rdN m (d + 0x20) 8 % 8 != 0 then 7
  else 0

/-- FEATURE_UNMET (12 R306): a declared group that no core kind among the crews has. -/
def featureUnmet (m : Mem) (base : Nat) : Bool :=
  let cs := crewsOf m base
  let feat : W64 := (if cs.any (·.kind == 0) then featOf .lookup else 0)
    ||| (if cs.any (·.kind == 1) then featOf .dense else 0)
  BitVec.ofNat 64 (imageTfeat m base) &&& ~~~feat != 0

/-! ## The task table (12 R306, R307) -/

/-- Changing a task by ASID. -/
def modTask (s : State) (a : Nat) (f : Task → Task) : State :=
  { s with tasks := { s.tasks with table := nmod s.tasks.table a f } }

/-- The task with a TID, and its ASID. -/
def taskOf (s : State) (tid : Nat) : Option (Nat × Task) :=
  if tid = 0 then none else s.tasks.table.find? fun e => e.2.tid == tid

/-- Whether a predecessor lets its successors run. -/
def predDone (s : State) (p : Nat) : Bool :=
  match taskOf s p with
  | some (_, t) => t.st == .complete || bitAt t.flags 2
  | none => true

/-- A task that has completed or been triggered is no predecessor any more, whoever has its TID later. -/
def clearPred (s : State) (tid : Nat) : State :=
  { s with tasks := { s.tasks with table := s.tasks.table.map fun e =>
      (e.1, { e.2 with pred := e.2.pred.filter (· != tid) }) } }

/-- QUEUED tasks whose predecessors have completed or been triggered are ELIGIBLE. -/
def advanceTasks (s : State) : State :=
  { s with tasks := { s.tasks with table := s.tasks.table.map fun e =>
      if e.2.st == .queued && e.2.pred.all (predDone s) then
        (e.1, { e.2 with st := .eligible, since := s.time.toNat })
      else e } }

/-- The number of the dispatcher among the agents that send requests. -/
def taskAgent : Nat := 4122

/-- The place n bytes further. -/
def Place.plus (p : Place) (n : Nat) : Place :=
  match p with
  | .dram a => .dram (a + n)
  | .tile c a => .tile c (a + n)
  | .scratch a => .scratch (a + n)
  | .host a k => .host (a + n) k
  | .regs a => .regs (a + n)
  | .peer d a => .peer d (a + n)
  | .row d t r o m => .row d t r (o + n) m

/-- One dword stored by the device at a place, for a task or for none, with the R bit of its leaf (10 R262): in DRAM
at its controller, in host memory in a line that the device owns; where the host has to answer, and at a register or at
another device, it is sent as a request (08 R193, R194). -/
def placeStore (s : State) (p : Place) (rbit : Bool) (v : W64) (tid : Nat) : State :=
  let acc : Acc1 := ⟨.store, 8, v.setWidth 512, 0⟩
  let r : Req :=
    { who := ⟨taskAgent, goneSlot, 0, 0, false, false, tid⟩, origin := .store taskAgent s.net.next, place := p,
      acc := acc, va := 0, tag := none, rbit := rbit, stale := 0, deferred := false, answer := none }
  match p with
  | .dram a =>
      (match dramAccess s acc a rbit 0 with
       | (s, .ok _ _ _) => s
       | (s, .err code) => writeLost s code a)
  | .host ha cached =>
      (match hostTry s.host ha cached acc with
       | .done h _ => { s with host := h }
       | .waits h => addReq { s with host := h } { r with deferred := true }
       | .blocked => addReq s r
       | .down => s)
  | .regs _ | .tile _ _ | .scratch _ | .peer _ _ | .row _ _ _ _ _ => addReq s r

/-- One dword stored by the device at a physical address; nothing where no place is. -/
def physStore (s : State) (pa : Nat) (v : W64) : State :=
  match placeAt pa true with
  | some p => placeStore s p false v 0
  | none => s

/-- The completion record (12 R306), at the place that tlaunch has fixed. -/
def writeRecord (s : State) (t : Task) (energy : Nat) : State :=
  let put (s : State) (n : Nat) (v : W64) : State := placeStore s (t.compl.1.plus n) t.compl.2 v t.tid
  let s := put s 0 (BitVec.ofNat 64 (t.status + t.tid * 2 ^ 32 + t.flags.toNat * 2 ^ 48))
  let s := put s 8 (BitVec.ofNat 64 (t.first.getD s.time.toNat))
  let s := put s 16 s.time
  put s 24 (BitVec.ofNat 64 energy)

/-- Whether a write of a task's record is still to be performed. -/
def recordWaits (s : State) (tid : Nat) : Bool :=
  s.net.reqs.any fun x => x.2.who.core == taskAgent && x.2.who.tid == tid

/-- A task whose record is written is COMPLETE, and its successors may be eligible (09 R236; 12 R306, R307). -/
def finishTask (s : State) (a : Nat) : State :=
  match nget s.tasks.table a with
  | some t =>
      if t.st == .recording && !recordWaits s t.tid then
        let s := clearPred (advanceTasks (modTask s a fun t => { t with st := .complete })) t.tid
        { s with tasks := { s.tasks with completed := s.tasks.completed ++ [a] } }
      else s
  | none => s

/-- A write of a task's record has been performed. -/
def recordDone (s : State) (tid : Nat) : State :=
  match taskOf s tid with
  | some (a, _) => finishTask s a
  | none => s

/-- A task ends with a STATUS: its record is written, and with it the task is complete (12 R306, R307). -/
def completeTask (s : State) (a status energy : Nat) : State :=
  match nget s.tasks.table a with
  | some t =>
      let t := { t with st := .recording, status := status, cores := [] }
      finishTask (writeRecord (modTask s a fun _ => t) t energy) a
  | none => s

/-- The walks of an ASID end, and fill nothing (13 R344). -/
def endWalks (s : State) (a : Nat) : State :=
  let s := { s with net := { s.net with walks := s.net.walks.filter fun x => x.2.asid != a } }
  (upto 2).foldl (fun s die => takeWalkers s die s.net.walks) s

/-- The entry of a new task: the lowest free one, or that of the oldest completion, whose translations
are discarded device-wide (12 R307, 13 R326). -/
def takeEntry (s : State) : Nat × State :=
  match lowestFree s.tasks.table 1024 with
  | some a => (a, s)
  | none =>
      match s.tasks.completed with
      | a :: rest =>
          let s := endWalks (ptDiscard s 0 .dev ptAsid 0 a).1 a
          (a, { s with tasks := { s.tasks with
            table := ndel s.tasks.table a, roots := ndel s.tasks.roots a, completed := rest } })
      | [] => (0, s)

/-- An accepted launch: the task takes its TID and its entry; FEATURE_UNMET completes it at once
(12 R306, R307, R315). Bits that R305 gives no meaning (MODE[6:4], PRI[7:4], CEIL[7:4]) may hold anything (DEDUCED, log
63). -/
def acceptTask (s : State) (home : Nat) (seg : W128) (m : Mem) (d : Nat) (compl : Place × Bool) : Nat × State :=
  let base := dImage m d
  let tid := nextTid s.tasks
  let (a, s) := takeEntry s
  let t : Task :=
    { tid := tid, st := .queued, home := home, seg := seg, base := base, head := m,
      arg := BitVec.ofNat 64 (Mem.rdN m (d + 8) 8), compl := compl, save := Mem.rdN m (d + 0x10) 8,
      savesz := Mem.rdN m (d + 0x18) 8, pred := (predsOf m d).filter fun p => !predDone s p, pri := Mem.rdN m (d + 0x30) 1 % 16,
      ceil := Mem.rdN m (d + 0x31) 1 % 16, mode := BitVec.ofNat 8 (Mem.rdN m (d + 0x32) 1),
      launched := s.time.toNat, since := s.time.toNat, first := none, epri := 0, order := 0, flags := 0,
      status := 0, cores := [], valleys := [], clusters := [], regions := [], saved := [], scratch := [], xtabs := [],
      estimate := imageEnergy m base }
  let s := { s with tasks := { s.tasks with
    table := nput s.tasks.table a t, lastTid := tid,
    roots := nput s.tasks.roots a ((Config.rootSlot a).toNat * 65536) } }
  (tid, if featureUnmet m base then completeTask (modTask s a fun t => { t with first := some s.time.toNat }) a 1 0
        else advanceTasks s)

/-! ## tlaunch (12 R315) -/

/-- The unresolved pieces of a range of the segment, each at its offset in the segment; bytes of the own
tile are at hand. -/
def rangePieces (s : State) (c : Nat) (loc : Loc) (off n : Nat) : List Piece :=
  let ps := if loc.isOwn c then valPieces loc n (tileLoad s c loc.tileOff n) else loadPieces loc n
  ps.map fun p => { p with off := off + p.off }

/-- The pieces of the ranges of a stage, or the fault of the first range that fails its checks. -/
def stagePieces (s : State) (c : Nat) (sg : Fin 8) : List (Nat × Nat) → Except Err (List Piece)
  | [] => .ok []
  | (off, n) :: rest =>
      if n = 0 then stagePieces s c sg rest
      else
        match segCheck c (getCore s c) sg off n [rightR], stagePieces s c sg rest with
        | .error e, _ => .error e
        | .ok _, .error e => .error e
        | .ok loc, .ok ps => .ok (rangePieces s c loc off n ++ ps)

/-- What a tlaunch waits for while only the page of its completion record is being translated. -/
def launchWait : Piece := ⟨0, .scratch 0, ⟨.load, 0, 0, 0⟩, some (.val 0)⟩

/-- Whether a transaction is such a tlaunch: the leaf of that page is held until it ends. -/
def launchWalks (t : Txn) : Bool :=
  match t.dst with
  | .launch _ _ _ _ => t.plan == [launchWait]
  | _ => false

/-- The end of a stage of a tlaunch that has its bytes: the next stage is read, or the launch is
rejected or accepted. A COMPL that its segment does not put into device memory (a KIND 0, 1 or 3 segment) is SEG_KIND
(12 R315; DEDUCED, log 63). -/
def launchStep : Nat → State → Nat → Txn → Reg → Fin 8 → Nat → Nat → State
  | 0, s, _, _, _, _, _, _ => s
  | n + 1, s, id, t, d, sg, off, stage =>
      let c := t.who.core
      let seg := (getCore s c).segs[sg]
      let finish (s : State) (v : Nat) : State :=
        makeReady (modFib (modTxns s fun x => ndel x id) c t.who.slot fun f =>
          putReg f d (BitVec.ofNat 64 v)) c t.who.slot
      let base := dImage t.got off
      if stage < 4 && (stage < 2 || headerOk t.got base (segLimit seg)) then
        match stagePieces s c sg (launchNeed t.got off (stage + 1)) with
        | .error e => faultBack (modTxns s fun x => ndel x id) t.who e.1 e.2.1 e.2.2
        | .ok [] => launchStep n s id t d sg off (stage + 1)
        | .ok ps =>
            let t' := { t with plan := ps, left := 0, dst := .launch d sg off (stage + 1) }
            advanceTxn (modTxns s fun x => nput x id t') id
      else
        let code := launchCode s.tasks t.got off (segLimit seg)
        if code != 0 then finish s (code * 2 ^ 32)
        else
          let ca := Mem.rdN t.got (off + 0x20) 8
          let acc : Acc1 := ⟨.store, 8, 0, 0⟩
          match segCheck c (getCore s c) sg ca 32 [rightW] with
          | .error e => faultBack (modTxns s fun x => ndel x id) t.who e.1 e.2.1 e.2.2
          | .ok (.va va tag) =>
              (match (let x := resolveVa s c t.who.slot va acc tag.isSome
                      (dropHeld x.1 c t.who.slot, x.2)) with
               | (s, .bad e) => faultBack (modTxns s fun x => ndel x id) t.who e.1 e.2.1 e.2.2
               | (s, .miss) =>
                   let t' := { t with plan := [launchWait], left := 0, dst := .launch d sg off stage }
                   setWait (startWalk (modTxns s fun x => nput x id t') t.who va (.txn id 0) acc tag [])
                     c t.who.slot .xlate (.txn id)
               | (s, .tgt (.goes p rbit _ _)) =>
                   let (tid, s) := acceptTask s c seg t.got off (p, rbit)
                   finish s tid
               | (s, .tgt (.val _)) | (s, .tgt (.late _)) =>
                   faultBack (modTxns s fun x => ndel x id) t.who .busError .virtual va)
          | .ok _ =>
              let e := segErr seg ca .segKind
              faultBack (modTxns s fun x => ndel x id) t.who e.1 e.2.1 e.2.2

def execTlaunch (d a : Reg) (sg : Fin 8) (s : State) : Host.Outcome State Fault Refusal :=
  run (.tlaunch d a sg) s fun s =>
    let i := Instr.tlaunch d a sg
    let c := s.issue.core
    let off := (rd s a).toNat
    match segAcc c (myCore s) sg off 64 64 [rightR] with
    | .error e => faultHere s i e.1 e.2.1 e.2.2
    | .ok loc => sendOff s i (.launch d sg off 0) 64 false (rangePieces s c loc off 64)

/-! ## trigger and twait (12 R316, R317) -/

/-- The effect of trigger, after its release. -/
def triggerTask (s : State) (tid : Nat) : State :=
  match taskOf s tid with
  | some (a, t) =>
      if t.st == .complete || bitAt t.flags 2 then s
      else clearPred (advanceTasks (modTask s a fun t => { t with flags := t.flags ||| 4 })) tid
  | none => s

def execTrigger (s : State) : Host.Outcome State Fault Refusal :=
  run .trigger s fun s =>
    let tid := bf (rd s (.g 0)) 0 16
    waitIssue s .trigger .dev (.trigger tid) fun s => (triggerTask s tid, .next)

def execTwait (d a : Reg) (s : State) : Host.Outcome State Fault Refusal :=
  run (.twait d a) s fun s =>
    let tid := bf (rd s a) 0 16
    match taskOf s tid with
    | none => (wr s d (-2), .next)
    | some (_, t) =>
        if t.st == .complete && !expired s then (wr (snoopAll s) d (BitVec.ofNat 64 t.status), .next)
        else if noLimit s then (wr s d (-1), .next)
        else parkHere (startTimer s) (.twait d a) .sync (.task tid d)

end Sys2Proof.Machine
end

