-- ==== Sys2Proof/Machine/Sequencer.lean ====
section
/-! DEFINITION. The core sequencer: the ends of park conditions, the run queue, rotation, fetch through
the instruction cache, the decode checks of an issue and its latching (02 R28-R30; 04 R70, R75; 08 R453;
11 R267, R268; 15 R385). -/

namespace Sys2Proof.Machine

/-! ## Park conditions that have ended (02 R22, 11 R268) -/

/-- The fibres of a core in the order in which they parked. -/
def byAge (k : Core) : NMap Fibre := sortBy (fun x => x.2.sch.since * 512 + x.1) k.fibres

/-- The resource that a parked fibre waits for. -/
def waitsFor (f : Fibre) : Option Resource :=
  match f.sch.run, f.sch.wait with
  | .parked _, .resource r => some r
  | _, _ => none

/-- A wait for a resource that is reserved to its first waiter: whether the fibre's own queue has room. -/
def ownRoom (f : Fibre) : Resource → Bool
  | .dqEntries n | .dqOwn n => f.sch.dq.length + n ≤ 16
  | _ => true

/-- Free units of a class are reserved to its waiters in the order in which they parked; a waiter that does
not find enough holds up those behind it. -/
def grantClass (s : State) (c cls : Nat) : List (Nat × Fibre) → State
  | [] => s
  | (slot, f) :: rest =>
      match waitsFor f with
      | some r =>
          if resClass r != cls || !ownRoom f r then grantClass s c cls rest
          else
            let k := getCore s c
            if resUnits r + resHeld k cls slot ≤ resFree c k r then
              let s := modFib (makeReady s c slot) c slot fun f => { f with sch := { f.sch with resv := some r } }
              grantClass s c cls rest
            else s
      | none => grantClass s c cls rest

/-- Whether the limit of a parked fibre's wait has passed while its condition does not hold (07 R160; 14 R355). -/
def limitPassed (s : State) (c slot : Nat) (f : Fibre) : Bool :=
  match f.sch.run, f.sch.t0 with
  | .parked _, some (t, lim) =>
      t + lim ≤ s.time.toNat &&
        match f.sch.wait with
        | .done n thr => !reached (getCore s c).ctr.d[Fin.ofNat 8 n] thr
        | .arrival n thr => !reached (getCore s c).ctr.ac[Fin.ofNat 8 n] thr
        | .fullEmpty _ => true
        | .task tid _ => (match taskOf s tid with
            | some (_, x) => x.st != .complete
            | none => true)
        | .rejoin _ => !lineHigh s c slot (strandAt (getCore s c) slot).fuse
        | .bar kind _ _ _ => !barDone s c kind
        | .txn id => (feRequest s id).isSome
        | _ => false
  | _, _ => false

/-- What a wait that ends by itself has found. -/
inductive Woke where
  | no
  | ready
  | drained (sc : Scope) (next : Then) (who : Issuer) (held : Nat)
  deriving DecidableEq, Repr

/-- Whether a wait has ended. -/
def woke (s : State) (c : Nat) (k : Core) (slot : Nat) (f : Fibre) : Woke :=
  let go (b : Bool) : Woke := if b then .ready else .no
  match f.sch.run, f.sch.wait with
  | .parked _, .done n t => go (!f.sch.late && reached k.ctr.d[Fin.ofNat 8 n] t)
  | .parked _, .arrival n t => go (!f.sch.late && reached k.ctr.ac[Fin.ofNat 8 n] t)
  | .parked _, .resource (.dqHead n) => go (!(dqHead k f.sch.dq n).any isWaiting)
  | .parked _, .resource .trap => go (!bitAt k.trap.ecause 17)
  | .parked _, .resource (.tileRange off n) => go (!rangeBusy c k off n)
  | .parked _, .resource (.dqOwn n) => go (f.sch.dq.length + n ≤ 16)
  | .parked _, .resource (.acc n) => go (!k.mx.busy.contains n)
  | .parked _, .task tid _ =>
      (match taskOf s tid with
       | some (_, t) => go (!f.sch.late && t.st == .complete)
       | none => go !f.sch.late)
  | .parked _, .walks ids => go (!ids.any fun i => (nget s.net.walks i).isSome)
  | .parked _, .stores ids => go (!k.q.sb.any fun x => ids.contains x.1 && !x.2.accepted)
  | .parked _, .drain sc next who held =>
      let done := match next with
        | .migr _ _ => mayLeave s f
        | _ => drained s c slot sc
      if done then .drained sc next who held else .no
  | _, _ => .no

/-- A failure among the writes that a fence or release covers ends it (08 R215). -/
def drainFail (s : State) (who : Issuer) (x : FCode × Nat × FailKind) : State :=
  faultBack (dropFailure s who.core who.slot x) who x.1 .physical x.2.1

/-- Whether what follows a wait for earlier writes raises the failure of one; trigger, ptinv and migr do not
(08 R215; 12 R317; 13 R345). -/
def meetsFailure : Then → Bool
  | .nothing | .store _ _ | .tile _ _ | .remote _ _ | .fe _ _ | .bar _ _ _ => true
  | .migr _ _ | .trigger _ | .ptinv _ _ _ _ => false

/-- A release that stores proceeds as any store: it takes its entry, or parks with reason 2 and its PC at the
store (08 R200, R201). -/
def storeNext (s : State) (who : Issuer) (loc : Loc) (acc : Acc1) : State :=
  if roomFor s who.core who.slot (.storeBuffer (sbUnits acc)) then
    let (grp, s) := sbEnter s who [(loc, acc)]
    advanceStore s who grp
  else parkBack s who (.storeBuffer (sbUnits acc))

/-- A stfw on another core proceeds: it takes the outbound slot, or parks with reason 2 and its PC at the
instruction (08 R208). -/
def remoteNext (s : State) (who : Issuer) (loc : Loc) (acc : Acc1) : State :=
  if roomFor s who.core who.slot .feSlot then
    let lim := (getCore s who.core).trap.timeout.toNat
    let s := modQ s who.core fun q => { q with feSlot := some who.slot }
    let s := modFib s who.core who.slot fun f => { f with sch := { f.sch with t0 := some (s.time.toNat, lim) } }
    let (id, s) := newTxn s who (.fe none) 8 false [⟨0, loc, acc, none⟩]
    let s := advanceTxn s id
    if lim = 0 then withdrawFe s who.core who.slot id else s
  else parkBack s who .feSlot

/-- What a fence or release does once its writes are acknowledged. -/
def drainNext (s : State) (who : Issuer) (next : Then) : State :=
  let c := who.core
  let slot := who.slot
  match next with
  | .nothing => makeReady s c slot
  | .store loc acc => storeNext s who loc acc
  | .tile off acc =>
      if rangeBusy c (getCore s c) off acc.size then parkBack s who (.tileRange off acc.size)
      else makeReady (tileDo s c off acc c).1 c slot
  | .remote loc acc => remoteNext s who loc acc
  | .fe off acc =>
      if rangeBusy c (getCore s c) off 8 then parkBack s who (.tileRange off 8)
      else
        (match feLocal s c slot (off / 8) acc with
         | some (s, _) =>
             makeReady (modFib s c slot fun f => if acc.op == .stfw then putP f 7 true else f) c slot
         | none => reissue s who)
  | .bar kind d pd =>
      let lim := (getCore s c).trap.timeout.toNat
      let s := modFib (barArrive s c kind) c slot fun f =>
        { f with sch := { f.sch with t0 := some (s.time.toNat, lim) } }
      if lim = 0 && !barDone s c kind then expireBar s c slot kind d pd
      else parkAgain s c slot .sync (.bar kind d pd who)
  | .migr d dest =>
      (match migrAsk s who d dest with
       | (s, some id) => setWait s c slot .reply (.msg id)
       | (s, none) => makeReady s c slot)
  | .trigger tid => makeReady (triggerTask s tid) c slot
  | .ptinv sc kind va asid =>
      (match ptDiscard s c sc kind va asid with
       | (s, []) => makeReady s c slot
       | (s, ids) => setWait s c slot .reply (.walks ids))

/-- Whether a wait is evaluated by its own core, not by the owner of a remote word (07 R160). -/
def ownWait : Wait → Bool
  | .txn _ => false
  | _ => true

/-- A wait whose condition does not hold at a cycle in which its limit has passed ends by TIMEOUT, whatever becomes
of its condition in later cycles (07 R160; 02 R40). -/
def markLate (s : State) (c slot : Nat) (f : Fibre) : State :=
  if ownWait f.sch.wait && limitPassed s c slot f then
    modFib s c slot fun f => { f with sch := { f.sch with late := true } }
  else s

/-- One parked fibre whose wait has ended, or whose limit has passed. -/
def wakeFibre (s : State) (c slot : Nat) : State :=
  match getFib s c slot with
  | some f =>
      (match woke s c (getCore s c) slot f with
       | .no => markLate s c slot f
       | .ready => makeReady s c slot
       | .drained sc next who held =>
           (match if meetsFailure next then failureOf f sc held else none with
            | some x => drainFail s who x
            | none => drainNext s who next))
  | none => s

/-- The park conditions of a core that have ended. -/
def wakeCore (s : State) (c : Nat) : State :=
  let order := byAge (getCore s c)
  let s := order.foldl (fun s x => wakeFibre s c x.1) s
  [0, 1, 2, 3, 4].foldl (fun s cls => grantClass s c cls (byAge (getCore s c))) s

/-! ## Run queue and strands (02 R28, R29; 11 R267) -/

/-- The lowest strand of the rotation that holds no fibre. -/
def freeStrand (c : Nat) (k : Core) : Option Nat :=
  (upto (nStrands (kindOf c))).find? fun st => (strandAt k st).occ.isNone

/-- A fibre takes a strand; its count of issues starts anew. -/
def takeStrand (s : State) (c slot st : Nat) : State :=
  let s := modFib s c slot fun f => { f with sch := { f.sch with run := .running st, issued := 0 } }
  modCore s c fun k => modStrand k st fun t => { t with occ := some slot }

/-- Whether a fibre counts as READY in this cycle of its core. -/
def isReady (k : Core) (f : Fibre) : Bool := f.sch.run == .ready && f.sch.since ≤ 2 * k.seq.cycle + 1

/-- The swap-in port: the oldest READY fibre takes a strand that holds none. The pinned fibres of a dense
core run on their own strands. -/
def swapIn (s : State) (c : Nat) : State :=
  let k := getCore s c
  if kindOf c == .dense then
    k.fibres.foldl (fun s x => if isReady k x.2 then takeStrand s c x.1 x.1 else s) s
  else
    match freeStrand c k, (byAge k).find? fun x => isReady k x.2 with
    | some st, some x => takeStrand s c x.1 st
    | _, _ => s

/-- Whether 8 cycles have passed since the strand last issued or stepped. -/
def spaced (k : Core) (st : Nat) : Bool :=
  match (strandAt k st).last with
  | some t => t + 8 ≤ k.seq.cycle
  | none => true

/-- Whether a strand of a core has issued or stepped in a cycle of it. -/
def cycleTaken (k : Core) (t : Nat) : Bool := (upto 16).any fun st => (strandAt k st).last == some t

/-- Whether a strand has issued or stepped in this cycle of its core. -/
def cycleUsed (k : Core) : Bool := cycleTaken k k.seq.cycle

/-- The cycle of a core in which a word of a lock-step group is issued on it when the leader's turn comes: this one, or
the next when a strand has issued or stepped in this one; a core issues once in a cycle (02 R28; 06 R146). -/
def freeCycle (k : Core) : Option Nat := [k.seq.cycle, k.seq.cycle + 1].find? fun t => !cycleTaken k t

/-- The fibre on a strand. -/
def onStrand (k : Core) (st : Nat) : Option (Nat × Fibre) :=
  match (strandAt k st).occ with
  | some slot => (nget k.fibres slot).map fun f => (slot, f)
  | none => none

/-- What a strand may do in its turn. -/
inductive Turn where
  | none
  | issue
  | step
  deriving DecidableEq, Repr

/-- Whether a strand holds a fibre that may issue in this cycle; on a stopped core only the handler may. -/
def canIssue (k : Core) (st : Nat) : Bool :=
  k.frozen.isNone && (!k.stopped || (st == 15 && k.handler.isSome)) && spaced k st &&
    match onStrand k st with
    | some (_, f) => f.sch.run == .running st && f.sch.wait == .none
    | none => false

/-- The PC of the fibre on a strand. -/
def pcOn (k : Core) (st : Nat) : Option W64 := (onStrand k st).map fun x => x.2.pc

/-- Whether a lock-step strand may issue: every member may, at one PC and in a cycle of its core in which nothing else
issues, and the leader's sequencer issues for them; or it owes the group a word at which it parked (06 R146; 02 R28). -/
def lockIssue (s : State) (c st : Nat) : Bool :=
  let k := getCore s c
  let g := lockGroup s c st
  canIssue k st && ((strandAt k st).alone ||
    (g.head? == some c && g.all fun m =>
      canIssue (getCore s m) st && !(strandAt (getCore s m) st).alone && (freeCycle (getCore s m)).isSome
        && pcOn (getCore s m) st == pcOn k st))

/-- The turn of a strand. -/
def turnOf (s : State) (c st : Nat) : Turn :=
  let k := getCore s c
  if kindOf c == .dense && k.frozen.isNone && spaced k st &&
      (match onStrand k st with
       | some (_, f) => f.sch.run == .parked .matrix
       | none => false) then .step
  else if inLock s c st then (if lockIssue s c st then .issue else .none)
  else if canIssue k st then .issue
  else .none

/-- The strands in cyclic order after the one that issued last; strand 15 of a lookup core takes part while
a handler runs. -/
def rotation (c : Nat) (k : Core) : List Nat :=
  let all := if kindOf c == .lookup then upto 16 else upto 8
  all.filter (fun st => k.seq.last < st) ++ all.filter fun st => st ≤ k.seq.last

/-- A turn in which a strand neither issues nor steps: the rotation goes on after it, and its spacing stays
(06 R140; for a fetch that misses or faults DEDUCED from 02 R29, log 44). -/
def passTurn (s : State) (c st : Nat) : State := modCore s c fun k => { k with seq := { k.seq with last := st } }

/-- A strand takes its turn: its spacing starts anew, and the rotation goes on after it. -/
def takeTurn (s : State) (c st : Nat) : State :=
  modCore s c fun k =>
    let k := modStrand k st fun t => { t with last := some ((freeCycle k).getD k.seq.cycle) }
    { k with seq := { k.seq with last := st } }

/-! ## Fetch (04 R70; 07 R167; 08 R453; 15 R385) -/

/-- What a fetch finds. -/
inductive Fetched where
  | word (w : Nat)
  | miss (loc : Loc)
  | bad (e : Err)
  deriving DecidableEq, Repr

/-- The lines that a fibre may fetch from: those of the instruction cache, and those that it alone may use. -/
def linesOf (c : Caches) (slot : Nat) : List ILine :=
  c.icache ++ (c.once.filter fun x => x.1 == slot).map (·.2)

/-- A fibre has issued, or will not issue what it has fetched: the lines that it alone might use are gone. -/
def dropOnce (s : State) (c slot : Nat) : State :=
  modCore s c fun k => { k with caches := { k.caches with once := k.caches.once.filter fun x => x.1 != slot } }

/-- Fetch32 of a fibre: the segment checks, then the instruction cache. -/
def fetchAt (k : Core) (slot : Nat) (pc : W64) : Fetched :=
  match codeSeg k with
  | none => .bad (.segRights, .none, pc.toNat)
  | some sg =>
      let seg := k.segs[sg]
      if segLimit seg < pc.toNat + 4 then .bad (segErr seg pc.toNat .segLimit)
      else
        let loc : Loc := if segKind seg = 3 then .scratch (segBase seg + pc.toNat)
          else .va ((segBase seg + pc.toNat) % 2 ^ 55) none
        match (linesOf k.caches slot).find? fun l => l.line == loc.addr / 64 with
        | some l => .word (bf l.data (8 * (loc.addr % 64)) 32)
        | none => .miss loc

/-- The checks of a leaf for a fetch, in the order of R385. -/
def leafFetch (s : State) (x : Xlate) (va : Nat) : Except FCode Place :=
  let acc : Acc1 := ⟨.load, 64, 0, 0⟩
  match leafCheck s x va acc false with
  | .error code => .error code
  | .ok pl =>
      if !bitAt x.leaf 3 then .error .pageRights
      else match pl with
        | some p => .ok p
        | none => .error .busError

/-- The issuer of a fetch: no word is known yet. -/
def fetcher (s : State) (c slot : Nat) (pc : W64) : Issuer :=
  { core := c, slot := slot, pc := pc, word := 0, pair := false,
    pp := match getFib s c slot with
      | some f => f.ctl.pp
      | none => false,
    tid := tidOf (getCore s c) }

/-- The read that fills a line. -/
def sendFill (s : State) (who : Issuer) (p : Place) (va bits : Nat) : State :=
  addReq s
    { who := who, origin := .icache who.core who.slot va, place := p, acc := ⟨.load, 64, 0, 0⟩, va := va,
      tag := none, rbit := false, stale := 0, deferred := false, answer := none, bits := bits }

/-- A fibre waits for its line: parked, or, for a handler, on its strand (08 R453). -/
def fetchWait (s : State) (c slot : Nat) (why : Park) (w : Wait) : State :=
  if slot = handlerSlot then modFib s c slot fun f => { f with sch := { f.sch with wait := w } }
  else parkFib s c slot why w

/-- A fetch that misses the instruction cache (08 R453). -/
def fetchMiss (s : State) (c slot : Nat) (pc : W64) (loc : Loc) : State :=
  let who := fetcher s c slot pc
  let va := loc.addr / 64 * 64
  match loc with
  | .va _ _ =>
      let k := getCore s c
      (match xfind k.caches.xlate (asidOf k) va with
       | some x =>
           (match leafFetch s x va with
            | .error code => takeFault s c slot (fetchCode slot code) pc .virtual va 0
            | .ok p =>
                if usable x false then fetchWait (sendFill (tcTouch s c x) who p va x.bits) c slot .reply .icache
                else fetchWait (startWalk s who va .fetch ⟨.load, 64, 0, 0⟩ none []) c slot .xlate .icache)
       | none => fetchWait (startWalk s who va .fetch ⟨.load, 64, 0, 0⟩ none []) c slot .xlate .icache)
  | .tile _ _ | .scratch _ =>
      fetchWait (sendFill s who (.scratch (va % 2 ^ 25)) va 0) c slot .reply .icache

/-! ## Decode checks of an issue (04 R75, 15 R385) -/

/-- The first check that a pair fails, with the word that the record holds: the words are decoded, then
checked in turn. The issue latch names the fibre. -/
def pairCheck (s : State) (w0 w1 : Nat) : Option (FCode × Nat) :=
  let c := s.issue.core
  let look := kindOf c == .lookup
  let ctl := (src s).ctl
  let legal (i : Instr) : Bool := !(look && (regsOf i).any fun r => match r with
    | .s _ => true
    | _ => false)
  let feat (i : Instr) : Bool := bitAt (emask (myCore s) c ctl.priv) (group i) && kindOk (kindOf c) i
  match (decodeWord w0).filter legal, (decodeWord w1).filter legal with
  | none, _ => some (.illegalEncoding, w0)
  | some i0, r1 =>
      match r1 with
      | none => some (.illegalEncoding, w1)
      | some i1 =>
          let pp1 := match i0 with
            | .pfx v => some v
            | _ => none
          if (destsOf i0).any (destsOf i1).contains then some (.illegalEncoding, w0)
          else if !feat i0 then some (.feature, w0)
          else if !feat i1 then some (.feature, w1)
          else if group i0 == 12 && !ctl.priv then some (.privilege, w0)
          else if ctl.pp && !consumes ctl.pfxv i0 then some (.prefixMisuse, w0)
          else
            match pp1 with
            | some v => if consumes v i1 then none else some (.prefixMisuse, w1)
            | none => none

/-- Opening an issue: the latch names the fibre and its words; the strand takes its turn. -/
def openIssue (s : State) (c st slot : Nat) (pc : W64) (words : Nat) (todo : List Instr) (group : List Nat)
    (follower : Bool) (leadPc : Option W64) : State :=
  let s := takeTurn (bumpEv (dropOnce s c slot) c 0x101) c st
  let s := modFib s c slot fun f => { f with sch := { f.sch with issued := f.sch.issued + 1 } }
  let s := modCore s c fun k => { k with handler :=
    if slot = handlerSlot then k.handler.map fun h => { h with count := h.count + 1 } else k.handler }
  { s with issue :=
      { core := c, slot := slot, strand := st, pc := pc, words := words, live := true, snap := none,
        hsnap := (0, 0), dsnap := [], seedW := false, ended := false, group := group, follower := follower,
        leadPc := leadPc, todo := todo } }

/-- The latch as it stands while a pair is checked. -/
def nameIssuer (s : State) (c st slot : Nat) (pc : W64) : State :=
  { s with issue := { Issue.blank with core := c, slot := slot, strand := st, pc := pc, words := 2 } }

/-- Whether a handler has used its 4,096 issues (02 R32). -/
def handlerSpent (s : State) (c slot : Nat) : Bool :=
  slot == handlerSlot && match (getCore s c).handler with
    | some h => 4096 ≤ h.count
    | none => false

/-- What strand 15 may not issue: a 4,097th word, or an instruction that is barred there (02 R32; 15 R385,
row 3). -/
def undisciplined (s : State) (c slot w : Nat) : Bool :=
  slot == handlerSlot && (handlerSpent s c slot || barredWord w)

/-- A strand issues: the words at its fibre's PC are fetched and decoded, and latched; or the fibre parks
or faults at its fetch. The checks are taken in the order of 15 R385. -/
def latchIssue (s : State) (c st slot : Nat) (f : Fibre) : State :=
  let k := getCore s c
  let pc := f.pc
  let group := if inLock s c st && !(strandAt k st).alone then (lockGroup s c st).filter (· != c) else []
  let bad (code : FCode) (w : Nat) : State := takeFault (takeTurn (dropOnce s c slot) c st) c slot code pc .none 0 w
  match fetchAt k slot pc with
  | .bad e => takeFault (passTurn (dropOnce s c slot) c st) c slot (fetchCode slot e.1) pc e.2.1 e.2.2 0
  | .miss loc => fetchMiss (passTurn s c st) c slot pc loc
  | .word w0 =>
      if fld w0 31 1 = 1 then
        if undisciplined s c slot w0 then bad .handlerDiscipline w0
        else
          match decodeWord w0 with
          | none => bad .illegalEncoding w0
          | some i => openIssue s c st slot pc 1 [i] group false none
      else if bitAt pc 2 || fld w0 30 1 = 1 then bad .illegalEncoding w0
      else
        match fetchAt k slot (pc + 4) with
        | .bad e => takeFault (passTurn (dropOnce s c slot) c st) c slot (fetchCode slot e.1) pc e.2.1 e.2.2 w0
        | .miss loc => fetchMiss (passTurn s c st) c slot pc loc
        | .word w1 =>
            if fld w1 31 1 = 1 || fld w1 30 1 = 0 then bad .illegalEncoding w0
            else if undisciplined s c slot w0 then bad .handlerDiscipline w0
            else
              match pairCheck (nameIssuer s c st slot pc) w0 w1 with
              | some (code, w) => bad code w
              | none =>
                  match decodeWord w0, decodeWord w1 with
                  | some i0, some i1 =>
                      openIssue s c st slot pc 2 (if f.ctl.adone then [i0] else [i0, i1]) group false none
                  | _, _ => bad .illegalEncoding w0

/-- Whether this cycle of a core is a gated one: every second cycle while its domain is gated (02 R39). -/
def gatedNow (s : State) (c : Nat) : Bool :=
  kindOf c != .command && (ngetD s.doms (unitOf c) Domain.blank).gated
    && bitAt (ngetD (getCore s c).ctr.ev 0x100 0) 0

/-- The start of a cycle: the swap-in of the cycle before, the park conditions that ended in it, and the count of
cycles (11 R267). -/
def cycleHead (s : State) (c : Nat) : State :=
  let s := if (getCore s c).frozen.isSome || (getCore s c).stopped then s else swapIn s c
  let s := bumpEv (wakeCore s c) c 0x100
  modCore s c fun k => { k with seq := { k.seq with cycle := k.seq.cycle + 1 } }

/-- The first strand of the rotation that may take its turn. -/
def nextTurn (s : State) (c : Nat) : Option Nat :=
  (rotation c (getCore s c)).find? fun st => turnOf s c st != .none

/-- A cycle that issues: its start, then one strand's turn, unless a word of a lock-step group has been issued in it
(02 R28, 11 R267). A turn of the matrix engine is the step that comes next, and takes the turn. -/
def openCycle (s : State) (c : Nat) : State :=
  let t := cycleHead s c
  if (getCore s c).frozen.isSome || cycleUsed (getCore t c) then t
  else
    match nextTurn t c with
    | none => t
    | some st =>
        match turnOf t c st, onStrand (getCore t c) st with
        | .step, _ => { t with agenda := .mmaStep c st :: t.agenda }
        | .issue, some (slot, f) => latchIssue t c st slot f
        | _, _ => t

/-- SEQUENCER_CYCLE of a core: a gated cycle counts in CYCLES and GATED and issues nothing; waits end in it as in any
other (02 R39; 07 R160). -/
def execSequencerCycle (c : Nat) (s : State) : Host.Outcome State Fault Refusal :=
  let s := { s with issue := Issue.blank }
  if gatedNow s c then .next (bumpEv (bumpEv (wakeCore s c) c 0x100) c 0x102) else .next (openCycle s c)

/-! ## The latched issue runs -/

/-- The registers and the decode table as they stood before the pair are what its A half reads (04 R75, 13 R344);
the issue goes on. -/
def armA (pre s : State) : State :=
  { s with issue := { s.issue with
      live := true, snap := some (me pre), hsnap := lastResults pre, dsnap := (myCore pre).tabs.dtab } }

/-- The latch after the words of an issue: as it was opened, but for whether the issue has ended. -/
def sameLatch (o t : State) : State := { t with issue := { o.issue with ended := t.issue.ended } }

/-- The end of one member's issue: a lock-step follower takes the leader's next PC, and a member that
parked at the word owes it to the group (06 R146). -/
def endMember (s : State) : State :=
  let c := s.issue.core
  let s := match s.issue.follower, s.issue.ended, s.issue.leadPc with
    | true, false, some pc => modMe s fun f => { f with pc := pc }
    | _, _, _ => s
  modCore s c fun k => modStrand k s.issue.strand fun t => { t with alone := t.lock && s.issue.ended }

/-- The first of the cores that has a fibre on the strand, with its fibre, and the cores after it. -/
def nextOn (s : State) (st : Nat) : List Nat → Option (Nat × Nat × Fibre × List Nat)
  | [] => none
  | m :: rest =>
      match onStrand (getCore s m) st with
      | some (slot, f) => some (m, slot, f, rest)
      | none => nextOn s st rest

/-- The words of a member's issue: a pair on which it fails a check ends its issue there, and one whose A half
has committed performs its C half alone (04 R75). -/
def memberWords (s : State) (c st slot : Nat) (f : Fibre) : List Instr → Except (FCode × Nat) (List Instr)
  | [i, j] =>
      (match pairCheck (nameIssuer s c st slot f.pc) ((encode false i).getD 0) ((encode false j).getD 0) with
       | some x => .error x
       | none => .ok (if f.ctl.adone then [i] else [i, j]))
  | xs => .ok xs

/-- The next follower of a lock-step issue. -/
def nextMember (s : State) : Option State :=
  let lead := if s.issue.follower then s.issue.leadPc else if s.issue.ended then none else some (me s).pc
  match nextOn s s.issue.strand s.issue.group with
  | some (m, slot, f, rest) =>
      (match memberWords s m s.issue.strand slot f s.issue.todo with
       | .ok todo => some (openIssue s m s.issue.strand slot f.pc s.issue.words todo rest true lead)
       | .error x =>
           let t := takeFault s m slot x.1 f.pc .none 0 x.2
           let u := openIssue t m s.issue.strand slot f.pc s.issue.words [] rest true lead
           some { u with issue := { u.issue with ended := true } })
  | none => none

/-- The end of an issue: a fibre that has used its quantum gives up its strand next (02 R30). -/
def closeIssue (s : State) : State :=
  let c := s.issue.core
  let due : Bool := match (me s).sch.run with
    | .running _ => kindOf c != .dense && s.issue.slot != handlerSlot && decide (4096 ≤ (me s).sch.issued)
    | .ready | .parked _ => false
  let agenda := if due then .quantumEnd c s.issue.strand :: s.agenda else s.agenda
  { s with issue := Issue.blank, agenda := agenda }

/-- QUANTUM_END (02 R30): the fibre on the strand goes to the run queue when another is READY; else its
count starts anew. -/
def execQuantumEnd (c st : Nat) (s : State) : Host.Outcome State Fault Refusal :=
  let k := getCore s c
  match onStrand k st with
  | some (slot, f) =>
      if f.sch.run != .running st || f.sch.issued < 4096 || k.frozen.isSome || kindOf c == .dense
          || slot == handlerSlot then .next s
      else if otherReady k slot then
        .next (requeue (leaveStrand (bumpEv s c 0x10D) c slot) c slot)
      else .next (modFib s c slot fun f => { f with sch := { f.sch with issued := 0 } })
  | none => .next s

end Sys2Proof.Machine
end

