-- ==== Sys2Proof/Machine/Save.lean ====
section
/-! DEFINITION. A core's save block (02 R20, R21; 12 R313), which an inspection window also shows
(16 R393): each dword of it, read from a core and put into one. Where the spec names the content of a part and not its
bits, their places are the model's (log 14). -/

namespace Sys2Proof.Machine

/-! ## Storage that is not in use (16 R393) -/

/-- The dwords of a context, of a pool entry and of a FIFO entry in a core's block, and that of the state of a slot. -/
def ctxDword (c slot j : Nat) : Nat :=
  match kindOf c with
  | .dense => 0x2C08 + 10 * slot + j
  | .lookup | .command => 0x2080 + 10 * slot + j

def poolDword (c e j : Nat) : Nat :=
  match kindOf c with
  | .dense => 0x2CD8 + 2 * e + j
  | .lookup | .command => 0x2B00 + 2 * e + j

def cmdDword (c e j : Nat) : Nat :=
  match kindOf c with
  | .dense => 0x2DD8 + 8 * e + j
  | .lookup | .command => 0x34A8 + 8 * e + j

def slotDword (slot : Nat) : Nat := 0x2A80 + slot / 2

/-- The dword of lock-step bits of a dense core's block. -/
def lockDword : Nat := 0x2E3B

/-- What a dword of the block holds whose slot or entry is not in use: what has been written there, else 0 (log 14). -/
def spareGet (k : Core) (j : Nat) : W64 := ngetD k.spare j 0

def sparePut (k : Core) (j : Nat) (v : W64) : Core :=
  { k with spare := if v = 0 then ndel k.spare j else nput k.spare j v }

/-- Several dwords of it from one on: read by a function of their places, or written. -/
def spareFold {α : Type} (k : Core) (j n : Nat) (put : α → Nat → W64 → α) (x : α) : α :=
  (upto n).foldl (fun x i => put x i (spareGet k (j + i))) x

def spareKeep (k : Core) (j n : Nat) (v : Nat → W64) : Core := (upto n).foldl (fun k i => sparePut k (j + i) (v i)) k

/-! ## Contexts -/

/-- The park reason that a context holds. -/
def parkOf (f : Fibre) : Nat :=
  match f.sch.run with
  | .parked why => parkCode why
  | .ready | .running _ => 0

/-- The flags dword of a context (02 R21). -/
def ctxFlags (f : Fibre) : Nat :=
  let c := f.ctl
  f.preds.toNat + c.priv.toNat * 2 ^ 7 + c.rm.toNat * 2 ^ 8 + c.fz.toNat * 2 ^ 11 + c.seed.toNat * 2 ^ 12
    + c.flags.toNat * 2 ^ 28 + c.pp.toNat * 2 ^ 33 + c.pfxv.toNat * 2 ^ 34 + parkOf f * 2 ^ 57
    + c.adone.toNat * 2 ^ 60

/-- Dword j of a context. -/
def ctxGet (f : Fibre) (j : Nat) : W64 :=
  if j = 0 then f.pc else if j < 9 then f.g[Fin.ofNat 8 (j - 1)] else BitVec.ofNat 64 (ctxFlags f)

/-- A cleared park reason makes a parked fibre READY, and reason 6 parks a READY one; any other reason stands for a
wait that the context does not hold. -/
def ctxPark (f : Fibre) (v : W64) : Sched :=
  match f.sch.run with
  | .parked _ => if bf v 57 3 = 0 then { f.sch with run := .ready, wait := .none } else f.sch
  | .ready => if bf v 57 3 = 6 then { f.sch with run := .parked .fault, wait := .fault } else f.sch
  | .running _ => f.sch

/-- Putting dword j of a context. -/
def ctxPut (f : Fibre) (j : Nat) (v : W64) : Fibre :=
  if j = 0 then { f with pc := v }
  else if j < 9 then { f with g := f.g.set (Fin.ofNat 8 (j - 1)) v }
  else
    { f with
      preds := v.setWidth 7,
      ctl := { priv := bitAt v 7, rm := BitVec.ofNat 3 (bf v 8 3), fz := bitAt v 11,
               seed := BitVec.ofNat 16 (bf v 12 16), flags := BitVec.ofNat 5 (bf v 28 5), pp := bitAt v 33,
               pfxv := BitVec.ofNat 23 (bf v 34 23), adone := bitAt v 60 },
      sch := ctxPark f v }

/-- A dword within a vector register. -/
def vecGet (f : Fibre) (j : Nat) : W64 := BitVec.ofNat 64 (bf f.v[Fin.ofNat 32 (j / 8)] (64 * (j % 8)) 64)

def vecPut (f : Fibre) (j : Nat) (v : W64) : Fibre :=
  { f with v := f.v.set (Fin.ofNat 32 (j / 8)) (setBf f.v[Fin.ofNat 32 (j / 8)] (64 * (j % 8)) 64 v.toNat) }

/-- The full/empty bits of words 64j to 64j + 63, 1 for full (log 14). -/
def feGet (t : Tile) (j : Nat) : W64 :=
  BitVec.ofNat 64 ((upto 64).foldl (fun n b => n + (isFull t (64 * j + b)).toNat * 2 ^ b) 0)

def fePut (t : Tile) (j : Nat) (v : W64) : Tile :=
  (upto 64).foldl (fun t b => setFull t (64 * j + b) (bitAt v b)) t

/-- The tag dword of an inbox slot (11 R266). -/
def inboxTag (m : InMsg) : Nat :=
  m.sender % 2 ^ 22 + m.credit.isSome.toNat * 2 ^ 22 + m.credit.getD 0 * 2 ^ 24

/-- Dword j of inbox slot n. -/
def inboxGet (q : Queues) (n j : Nat) : W64 :=
  match q.inbox[n]? with
  | some m => if j < 4 then m.words.getD j 0 else BitVec.ofNat 64 (inboxTag m)
  | none => 0

def inboxPut (q : Queues) (n j : Nat) (v : W64) : Queues :=
  { q with inbox := q.inbox.modify n fun m =>
      if j < 4 then { m with words := m.words.set j v }
      else { m with sender := bf v 0 22, credit := if bitAt v 22 then some (bf v 24 10) else none } }

/-- The range of an entry: its first byte, and from bit 32 the byte after its last; 0 without one (log 14). -/
def rangeWord (x : Cmd) : Nat :=
  match x.range with
  | some (lo, hi) => lo + hi * 2 ^ 32
  | none => 0

/-- Dword j of a FIFO entry: W0-W3, status, DONEMASK, fid, range (12 R313). -/
def cmdGet (x : Cmd) (j : Nat) : W64 :=
  if j < 4 then x.w[Fin.ofNat 4 j]
  else if j = 4 then cmdStatus x
  else if j = 5 then doneMask x
  else if j = 6 then BitVec.ofNat 64 x.fid
  else BitVec.ofNat 64 (rangeWord x)

/-- The state of an entry in use after its STATE is written (12 R299); a code that is no state changes nothing. -/
def cmdStateOf (old : CmdState) : Nat → CmdState
  | 1 => .queued | 2 => .running | 3 => .stopped | 4 => .done | 5 => .aborted | _ => old

def cmdPut (x : Cmd) (j : Nat) (v : W64) : Cmd :=
  if j < 4 then { x with w := x.w.set (Fin.ofNat 4 j) v }
  else if j = 4 then
    { x with st := cmdStateOf x.st (bf v 0 3), flags := BitVec.ofNat 5 (bf v 3 5), fcode := bf v 8 8, prog := bf v 16 24,
             aux := bf v 40 24 }
  else if j = 5 then
    { x with performed := (upto 64).filterMap fun b => if bitAt v b then some (x.prog + b) else none }
  else if j = 6 then { x with fid := v.toNat }
  else { x with range := if v = 0 then none else some (bf v 0 32, bf v 32 32) }

/-- An entry of which nothing but its dwords is known. -/
def bareCmd (c : Nat) (k : Core) : Cmd :=
  { w := Vector.replicate 4 0, range := none, who := ⟨c, goneSlot, 0, 0, false, false, tidOf k⟩, fid := 0, seqNo := 0,
    st := .done, started := false, flags := 0, fcode := 0, aux := 0, prog := 0, performed := [], next := 0, flight := [],
    fault := none, failed := [], buf := [], sent := false, back := false }

/-- A dword of FIFO entry e is written: STATE 0 makes the entry FREE, and another puts a FREE one to use (12 R299). -/
def fifoPut (c : Nat) (k : Core) (e j : Nat) (v : W64) : Core :=
  match nget k.fifo e with
  | some x =>
      if j = 4 && bf v 0 3 = 0 then
        spareKeep { k with fifo := ndel k.fifo e } (cmdDword c e 0) 8 fun i => if i = 4 then v else cmdGet x i
      else { k with fifo := nput k.fifo e (cmdPut x j v) }
  | none =>
      let k := sparePut k (cmdDword c e j) v
      if j = 4 && (1 ≤ bf v 0 3 && bf v 0 3 ≤ 5) then
        spareKeep { k with fifo := nput k.fifo e (spareFold k (cmdDword c e 0) 8 cmdPut (bareCmd c k)) }
          (cmdDword c e 0) 8 fun _ => 0
      else k

/-- Dword j of the forwarding table: entry j / 4 holds its old pool entries in 16-bit fields, each as its number plus
1, and 0 in a field that holds none; where a reply goes on to stands in the pool entry (log 14). -/
def fwdGet (q : Queues) (j : Nat) : W64 :=
  BitVec.ofNat 64 ((upto 4).foldl (fun n b =>
    n + (match (q.fwd.getD (j / 4) [])[4 * (j % 4) + b]? with
      | some e => e + 1
      | none => 0) * 2 ^ (16 * b)) 0)

def fwdPut (q : Queues) (j : Nat) (v : W64) : Queues :=
  let old := q.fwd.getD (j / 4) []
  let fld16 (n : Nat) : Nat := if n / 4 = j % 4 then bf v (16 * (n % 4)) 16 else (old.map (· + 1)).getD n 0
  let new := ((upto 16).map fld16).filterMap fun n => if n = 0 then none else some (n - 1)
  { q with fwd :=
      if j / 4 < q.fwd.length then q.fwd.set (j / 4) new else if new = [] then q.fwd else q.fwd ++ [new] }

/-- A dword of a segment register from 2 up. -/
def segGet (k : Core) (j : Nat) : W64 := BitVec.ofNat 64 (bf k.segs[Fin.ofNat 8 (2 + j / 2)] (64 * (j % 2)) 64)

/-- A segment register's value: its reserved bits hold 0 (07 R163). -/
def segClean (v : W128) : W128 := setBf (setBf (setBf v 55 1 0) 62 2 0) 126 2 0

def segPut (k : Core) (j : Nat) (v : W64) : Core :=
  let n : Fin 8 := Fin.ofNat 8 (2 + j / 2)
  { k with segs := k.segs.set n (segClean (setBf k.segs[n] (64 * (j % 2)) 64 v.toNat)) }

/-- The trap registers and TIMEOUT. -/
def trapGet (t : Trap) (j : Nat) : W64 :=
  match j with
  | 0 => t.tvec | 1 => t.epc | 2 => t.ecause | 3 => t.eaddr | 4 => t.einfo | _ => t.timeout

/-- Putting one of them: reserved bits hold 0 (07 R160, R162). -/
def trapPut (t : Trap) (j : Nat) (v : W64) : Trap :=
  match j with
  | 0 => { t with tvec := v &&& ~~~2 } | 1 => { t with epc := v } | 2 => { t with ecause := v &&& 0x3FFFFFF }
  | 3 => { t with eaddr := v } | 4 => { t with einfo := v &&& 0xFFFFFFFF }
  | _ => { t with timeout := v &&& 0xFFFFFFFFFF }

/-! Parts of which the spec names the content and not each bit: the places of the bits are the model's (log 14). -/

/-- The state and the reservation of a slot, with its age (11 R266): states in the order of 02 R22, and the age as
the low 16 bits of the model's order. -/
def slotGet (k : Core) (slot : Nat) : Nat :=
  let resv := (k.q.slotResv.contains slot).toNat * 8
  match nget k.fibres slot with
  | some f =>
      let st := match f.sch.run with
        | .ready => 1
        | .running _ => 2
        | .parked _ => 3
      st + resv + f.sch.since % 65536 * 65536
  | none => resv + bf (spareGet k (slotDword slot)) (32 * (slot % 2) + 16) 16 * 65536

/-- The fibre of a slot is on no strand. -/
def offStrands (k : Core) (slot : Nat) : Core :=
  let off (t : Strand) : Strand := if t.occ = some slot then { t with occ := none } else t
  { k with seq := { k.seq with strands := k.seq.strands.map off } }

/-- A fibre of a slot in a state, with an age: READY, or PARKED with reason 6. -/
def slotFibre (k : Core) (slot age : Nat) (f : Fibre) (ready : Bool) : Core :=
  { k with fibres := nput k.fibres slot { f with sch := { f.sch with
      run := if ready then .ready else .parked .fault,
      wait := if ready then .none else .fault,
      since := f.sch.since / 65536 * 65536 + age } } }

/-- Writing it: FREE empties a slot, whose context stays as it is; READY and PARKED put it in that state, one that was
FREE with the context that it holds. A fibre is not put on a strand: RUNNING changes its age alone (log 14). -/
def slotPut (c : Nat) (k : Core) (slot w : Nat) : Core :=
  let resv := if fld w 3 1 = 1 then addTo k.q.slotResv slot else k.q.slotResv.erase slot
  let k := { k with q := { k.q with slotResv := resv } }
  let age := fld w 16 16
  let aged (f : Fibre) : Core :=
    { k with fibres := nput k.fibres slot { f with sch := { f.sch with since := f.sch.since / 65536 * 65536 + age } } }
  match nget k.fibres slot, fld w 0 3 with
  | none, n =>
      let k := sparePut k (slotDword slot)
        (BitVec.ofNat 64 (setBf (spareGet k (slotDword slot)) (32 * (slot % 2) + 16) 16 age).toNat)
      if n = 1 || n = 3 then
        let f := spareFold k (ctxDword c slot 0) 10 ctxPut Fibre.blank
        slotFibre (spareKeep k (ctxDword c slot 0) 10 fun _ => 0) slot age f (n = 1)
      else k
  | some f, 0 => spareKeep { offStrands k slot with fibres := ndel k.fibres slot } (ctxDword c slot 0) 10 (ctxGet f)
  | some f, 1 => if f.sch.run == .ready then aged f else slotFibre (offStrands k slot) slot age f true
  | some f, 3 =>
      (match f.sch.run with
       | .parked _ => aged f
       | .ready | .running _ => slotFibre (offStrands k slot) slot age f false)
  | some f, _ => aged f

/-- The fault of a code number (15 R373). -/
def codeOf (n : Nat) : FCode :=
  (([.illegalEncoding, .feature, .privilege, .prefixMisuse, .handlerDiscipline, .align, .segRights, .segLimit, .segKind,
    .classMisuse, .queueUnderflow, .msgTarget, .engineFormat, .tableFormat, .fabricProtection, .pageAbsent, .pageRights,
    .busError, .memEcc, .graphConfig, .graphTimeout, .engineIndex, .formatRecord, .breakpoint, .fabricTimeout] :
      List FCode).find? fun c => codeNum c == n).getD .busError

/-- The state of a pool entry in use. -/
def poolSt (k : Core) (e : Nat) : Option PoolState := (nget k.q.pool e).map (·.st)

/-- The value dword of a pool entry: of an ERROR entry the address, of a FORWARDED one its new place. -/
def poolVal (c : Nat) (k : Core) (e : Nat) : W64 :=
  match poolSt k e with
  | some (.ready v) => v
  | some (.error _ _ a) => BitVec.ofNat 64 a
  | some (.forwarded d i) => BitVec.ofNat 64 (d + i * 65536)
  | some .held | some .pending | none => spareGet k (poolDword c e 0)

/-- Its state, in the order of 11 R266, with the fault code. -/
def poolCode (k : Core) (e : Nat) : Nat :=
  match poolSt k e with
  | none | some .held => 0
  | some .pending => 1
  | some (.ready _) => 2
  | some (.error code _ _) => 3 + codeNum code * 256
  | some (.forwarded _ _) => 4

/-- Dword j of a pool entry: value, state. -/
def poolGet (c : Nat) (k : Core) (e j : Nat) : W64 := if j = 0 then poolVal c k e else BitVec.ofNat 64 (poolCode k e)

/-- An entry with a state and a value: FREE frees it, and another state puts a FREE one to use (log 14). -/
def poolSet (c : Nat) (k : Core) (e code : Nat) (v : W64) : Core :=
  let x := (nget k.q.pool e).getD { st := .pending, ext := false, size := 8, loc := none, owned := true }
  let keep := sparePut k (poolDword c e 0) v
  let into (k : Core) (st : PoolState) : Core := { k with q := { k.q with pool := nput k.q.pool e { x with st := st } } }
  let ak := match x.st with
    | .error _ ak _ => ak
    | .held | .pending | .ready _ | .forwarded _ _ => .none
  match fld code 0 3 with
  | 0 => if (nget k.q.pool e).isSome && x.st == .held then keep
         else { keep with q := { keep.q with pool := ndel keep.q.pool e } }
  | 1 => into keep .pending
  | 2 => into (sparePut k (poolDword c e 0) 0) (.ready v)
  | 3 => into (sparePut k (poolDword c e 0) 0) (.error (codeOf (fld code 8 8)) ak v.toNat)
  | 4 => into (sparePut k (poolDword c e 0) 0) (.forwarded (bf v 0 16) (bf v 16 16))
  | _ => k

/-- Writing dword j of a pool entry. -/
def poolPut (c : Nat) (k : Core) (e j : Nat) (v : W64) : Core :=
  if j = 0 then poolSet c k e (poolCode k e) v else poolSet c k e v.toNat (poolVal c k e)

/-- d0-d7, then ac0-ac7 with their bindings: a producer in bits 43:32, bit 63 set for an unbound one, as acbind
takes them (14 R353). -/
def ctrGet (t : Counters) (j : Nat) : W64 :=
  if j < 8 then t.d[Fin.ofNat 8 j].setWidth 64
  else
    t.ac[Fin.ofNat 8 j].setWidth 64 + match t.bind[Fin.ofNat 8 j] with
      | some q => BitVec.ofNat 64 (q * 2 ^ 32)
      | none => BitVec.ofNat 64 (2 ^ 63)

def ctrPut (t : Counters) (j : Nat) (v : W64) : Counters :=
  if j < 8 then { t with d := t.d.set (Fin.ofNat 8 j) (v.setWidth 32) }
  else
    { t with ac := t.ac.set (Fin.ofNat 8 j) (v.setWidth 32),
             bind := t.bind.set (Fin.ofNat 8 j) (if bitAt v 63 then none else some (bf v 32 12)) }

/-- Cursors, one a byte, and the latch state in bit 32; then the fusion requests as group sizes, 4 bits a strand,
the lock-step bits from bit 32, and from bit 40 those of members that issue a word alone. -/
def fuseGet (k : Core) (j : Nat) : W64 :=
  if j = 0 then
    BitVec.ofNat 64 ((upto 4).foldl (fun n a => n + k.mx.cursor[Fin.ofNat 4 a].toNat * 2 ^ (8 * a)) 0
      + k.mx.rotating.toNat * 2 ^ 32)
  else
    BitVec.ofNat 64 ((upto 8).foldl (fun n i =>
      n + (strandAt k i).fuse % 16 * 2 ^ (4 * i) + (strandAt k i).lock.toNat * 2 ^ (32 + i)
        + (strandAt k i).alone.toNat * 2 ^ (40 + i)) 0)

def fusePut (k : Core) (j : Nat) (v : W64) : Core :=
  if j = 0 then
    { k with mx := { k.mx with
        cursor := (upto 4).foldl (fun c a => c.set (Fin.ofNat 4 a) (BitVec.ofNat 6 (bf v (8 * a) 6))) k.mx.cursor,
        rotating := bitAt v 32 } }
  else
    (upto 8).foldl (fun k i => modStrand k i fun t =>
      { t with fuse := bf v (4 * i) 4, lock := bitAt v (32 + i), alone := bitAt v (40 + i) }) k

/-- Two neighbouring accumulator elements. -/
def accDword (m : Matrix) (j : Nat) : W64 :=
  let e (n : Nat) : Nat := (ngetD m.acc n 0).toNat
  BitVec.ofNat 64 (e (2 * j) + e (2 * j + 1) * 2 ^ 32)

def accDwordPut (m : Matrix) (j : Nat) (v : W64) : Matrix :=
  let put (a : NMap W32) (n w : Nat) : NMap W32 := if w = 0 then ndel a n else nput a n (BitVec.ofNat 32 w)
  { m with acc := put (put m.acc (2 * j) (bf v 0 32)) (2 * j + 1) (bf v 32 32) }

/-- The B latch: its elements, then its scales. -/
def latchGet (m : Matrix) (j : Nat) : W64 :=
  if j < 1024 then Mem.rd64 m.latch (8 * j)
  else BitVec.ofNat 64 ((upto 8).foldl (fun n b => n + scaleAt m (8 * (j - 1024) + b) * 2 ^ (8 * b)) 0)

def latchPut (m : Matrix) (j : Nat) (v : W64) : Matrix :=
  if j < 1024 then { m with latch := Mem.wr64 m.latch (8 * j) v }
  else
    (upto 8).foldl (fun m b =>
      let n := 8 * (j - 1024) + b
      let x := bf v (8 * b) 8
      { m with scales := if x = 127 then ndel m.scales n else nput m.scales n (BitVec.ofNat 8 x) }) m

/-- What a dword of the block is. -/
inductive BlockPart where
  | tile (j : Nat)
  | full (j : Nat)
  | ctx (slot j : Nat)
  | slots (j : Nat)
  | pool (e j : Nat)
  | counters (j : Nat)
  | fuse (j : Nat)
  | inbox (slot j : Nat)
  | cmd (e j : Nat)
  | seg (j : Nat)
  | trap (j : Nat)
  | acc (j : Nat)
  | vec (st j : Nat)
  | latch (j : Nat)
  | sreg (st j : Nat)
  | forward (j : Nat)
  | zero
  deriving DecidableEq, Repr

/-- The part at dword j of the lookup block (12 R313). -/
def lookPart (j : Nat) : BlockPart :=
  let o := 8 * j
  if o < 0x10000 then .tile j
  else if o < 0x10400 then .full (j - 0x2000)
  else if o < 0x15400 then .ctx ((j - 0x2080) / 10) ((j - 0x2080) % 10)
  else if o < 0x15800 then .slots (j - 0x2A80)
  else if o < 0x19800 then .pool ((j - 0x2B00) / 2) ((j - 0x2B00) % 2)
  else if o < 0x1A340 then .inbox ((j - 0x3300) / 5) ((j - 0x3300) % 5)
  else if o < 0x1A540 then .forward (j - 0x3468)
  else if o < 0x1A740 then .cmd ((j - 0x34A8) / 8) ((j - 0x34A8) % 8)
  else if o < 0x1A7C0 then .counters (j - 0x34E8)
  else if o < 0x1A820 then .seg (j - 0x34F8)
  else if o < 0x1A850 then .trap (j - 0x3504)
  else .zero

/-- The part at dword j of the dense block (12 R313). -/
def densePart (j : Nat) : BlockPart :=
  let o := 8 * j
  if o < 0x10000 then .acc j
  else if o < 0x14000 then .vec ((j - 0x2000) / 256) ((j - 0x2000) % 256)
  else if o < 0x16040 then .latch (j - 0x2800)
  else if o < 0x162C0 then .ctx ((j - 0x2C08) / 10) ((j - 0x2C08) % 10)
  else if o < 0x166C0 then .sreg ((j - 0x2C58) / 16) ((j - 0x2C58) % 16)
  else if o < 0x16EC0 then .pool ((j - 0x2CD8) / 2) ((j - 0x2CD8) % 2)
  else if o < 0x170C0 then .cmd ((j - 0x2DD8) / 8) ((j - 0x2DD8) % 8)
  else if o < 0x17140 then .counters (j - 0x2E18)
  else if o < 0x171A0 then .seg (j - 0x2E28)
  else if o < 0x171D0 then .trap (j - 0x2E34)
  else if o < 0x171E0 then .fuse (j - 0x2E3A)
  else .zero

/-- A command core has the lookup layout with 64 contexts and 256 pool entries, and nothing of a lookup core's
messages (11 R266; 16 R393). -/
def commandPart (j : Nat) : BlockPart :=
  match lookPart j with
  | .ctx slot n => if slot < 64 then .ctx slot n else .zero
  | .slots n => if n < 32 then .slots n else .zero
  | .pool e n => if e < 256 then .pool e n else .zero
  | .inbox _ _ | .forward _ => .zero
  | p => p

def blockPart (c j : Nat) : BlockPart :=
  match kindOf c with
  | .dense => densePart j
  | .lookup => lookPart j
  | .command => commandPart j

/-- Dword j of the save block of a core. -/
def blockGet (c : Nat) (k : Core) (j : Nat) : W64 :=
  let fib (slot : Nat) (g : Fibre → W64) : W64 :=
    match nget k.fibres slot with
    | some f => g f
    | none => spareGet k j
  match blockPart c j with
  | .tile n => Mem.rd64 k.tile.mem (8 * n)
  | .full n => feGet k.tile n
  | .ctx slot n => fib slot fun f => ctxGet f n
  | .slots n => BitVec.ofNat 64 (slotGet k (2 * n) + slotGet k (2 * n + 1) * 2 ^ 32)
  | .pool e n => poolGet c k e n
  | .counters n => ctrGet k.ctr n
  | .fuse n => fuseGet k n
  | .inbox slot n => if slot < k.q.inbox.length then inboxGet k.q slot n else spareGet k j
  | .forward n => fwdGet k.q n
  | .cmd e n => (match nget k.fifo e with
      | some x => cmdGet x n
      | none => spareGet k j)
  | .seg n => segGet k n
  | .trap n => trapGet k.trap n
  | .acc n => accDword k.mx n
  | .vec st n => fib st fun f => vecGet f n
  | .latch n => latchGet k.mx n
  | .sreg st n => fib st fun f => f.s[Fin.ofNat 16 n]
  | .zero => 0

/-- Putting dword j of the save block into a core. -/
def blockPut (c : Nat) (k : Core) (j : Nat) (v : W64) : Core :=
  let fib (slot : Nat) (g : Fibre → Fibre) : Core :=
    match nget k.fibres slot with
    | some f => { k with fibres := nput k.fibres slot (g f) }
    | none => sparePut k j v
  match blockPart c j with
  | .tile n => { k with tile := { k.tile with mem := Mem.wr64 k.tile.mem (8 * n) v } }
  | .full n => { k with tile := fePut k.tile n v }
  | .ctx slot n => fib slot fun f => ctxPut f n v
  | .slots n => slotPut c (slotPut c k (2 * n) (bf v 0 32)) (2 * n + 1) (bf v 32 32)
  | .pool e n => poolPut c k e n v
  | .counters n => { k with ctr := ctrPut k.ctr n v }
  | .fuse n => fusePut k n v
  | .inbox slot n => if slot < k.q.inbox.length then { k with q := inboxPut k.q slot n v } else sparePut k j v
  | .forward n => { k with q := fwdPut k.q n v }
  | .cmd e n => fifoPut c k e n v
  | .seg n => segPut k n v
  | .trap n => { k with trap := trapPut k.trap n v }
  | .acc n => { k with mx := accDwordPut k.mx n v }
  | .vec st n => fib st fun f => vecPut f n v
  | .latch n => { k with mx := latchPut k.mx n v }
  | .sreg st n => fib st fun f => { f with s := f.s.set (Fin.ofNat 16 n) v }
  | .zero => k

end Sys2Proof.Machine
end

