-- ==== Sys2Proof/Machine/Area.lean ====
section
/-! DEFINITION. Reads and writes that the dispatcher and the runtime make for a task: its image, its initial
segment contents, its save area (12 R306, R308, R313; 13 R322, R337). -/

namespace Sys2Proof.Machine

/-- A range cut at atoms; nothing for an empty one. -/
def cutRange (loc : Loc) (n : Nat) : List (Nat × Nat) := if n = 0 then [] else cutAt loc.addr n loc.grain

/-- A free value of at most 64 bytes. -/
def freeNum (s : State) : Nat × State :=
  iter 8 (fun j (x : Nat × State) =>
    let (v, s) := freeVal x.2
    (x.1 + v.toNat * 2 ^ (64 * j), s)) (0, s)

/-- Bytes read by the device at a physical place; what a host line that the device does not hold, or another
device, would answer is free. An error where the read meets one (01 R12). -/
def placeRead (s : State) (p : Place) (n stale : Nat) : State × Except FCode Nat :=
  let free : State × Except FCode Nat :=
    let (v, s) := freeNum s
    (s, .ok (v % 2 ^ (8 * n)))
  match p with
  | .dram a =>
      (match dramAccess s ⟨.load, n, 0, 0⟩ a false stale with
       | (s, .ok v _ _) => (s, .ok v.toNat)
       | (s, .err code) => (s, .error code))
  | .tile c o => (s, .ok (tileLoad s c o n))
  | .scratch a => (s, .ok (Mem.rdN s.mem.scratch (a % 2 ^ 25) n))
  | .host a cached =>
      (match hostTry s.host a cached ⟨.load, n, 0, 0⟩ with
       | .done h v => (modHost s fun _ => h, .ok v)
       | .down => (s, .error .busError)
       | .waits _ | .blocked => free)
  | .peer _ _ => free
  | .regs _ | .row _ _ _ _ _ => (s, .error .busError)

/-- Bytes read by the device at a place of a segment, at most one atom or granule. -/
def locRead (s : State) (asid : Nat) (loc : Loc) (n : Nat) : State × Except FCode Nat :=
  match loc with
  | .tile c o => placeRead s (.tile c o) n 0
  | .scratch a => placeRead s (.scratch a) n 0
  | .va va _ =>
      match walkTables s asid va with
      | (s, .error e) => (s, .error e.1)
      | (s, .ok x) =>
          match leafCheck s x va ⟨.load, n, 0, 0⟩ false with
          | .error code => (s, .error code)
          | .ok none => (s, .error .busError)
          | .ok (some p) =>
              match orLeaf s x false va with
              | (s, .error e) => (s, .error e.1)
              | (s, .ok x) => placeRead s p n (leafStale x.leaf)

/-- A range read by the device: its bytes from 0 up, or the error of the first byte that cannot be read. -/
def rangeRead (s : State) (asid : Nat) (loc : Loc) (n : Nat) : State × Except FCode Mem :=
  (cutRange loc n).foldl (fun (x : State × Except FCode Mem) p =>
    match x.2 with
    | .error _ => x
    | .ok m =>
        match locRead x.1 asid (loc.plus p.1) p.2 with
        | (s, .ok v) => (s, .ok (Mem.wrN m p.1 v p.2))
        | (s, .error code) => (s, .error code)) (s, .ok [])

/-- Bytes written by the device at a place of a segment, at most one atom or granule; a place that cannot be
written keeps its bytes, and an uncorrectable atom that keeps it from being written is reported (01 R12). -/
def locWrite (s : State) (asid : Nat) (loc : Loc) (n v : Nat) : State :=
  let acc : Acc1 := ⟨.store, n, BitVec.ofNat 512 v, 0⟩
  match loc with
  | .tile c o => tileStore s c o n v c
  | .scratch a => (scratchDo s a acc).1
  | .va va _ =>
      match walkTables s asid va with
      | (s, .error _) => s
      | (s, .ok x) =>
          match orLeaf s x true va with
          | (s, .error _) => s
          | (s, .ok x) =>
              match placeAt (leafPa x.leaf x.bits va) true with
              | some (.dram a) =>
                  (match dramAccess s acc a (bitAt x.leaf 7) 0 with
                   | (s, .ok _ _ _) => s
                   | (s, .err code) => writeLost s code a)
              | some (.host ha _) =>
                  modHost s fun h =>
                    (match hostTry h ha true acc with
                     | .done h _ => h
                     | .down => h
                     | .waits _ | .blocked => toHost h 3 (ha / 64) (BitVec.ofNat 512 (v * 2 ^ (8 * (ha % 64)))))
              | _ => s

/-- A range written by the device, from the bytes of a memory. -/
def rangeWrite (s : State) (asid : Nat) (loc : Loc) (n : Nat) (m : Mem) : State :=
  (cutRange loc n).foldl (fun s p => locWrite s asid (loc.plus p.1) p.2 (Mem.rdN m p.1 p.2)) s

/-! ## A task's segment and its save area -/

/-- The ASID of the command cores (13 R326). -/
def runtimeAsid : Nat := 1024

/-- The place at an offset of the segment that tlaunch named. -/
def taskLoc (t : Task) (off : Nat) : Loc :=
  match segKind t.seg with
  | 0 => .tile t.home off
  | 1 => .tile (fld off 16 12) (off % 2 ^ 16)
  | 2 => .va ((segBase t.seg + off) % 2 ^ 55) none
  | _ => .scratch (segBase t.seg + off)

/-- Dwords of a save block. -/
def blockDwords : Nat := 16384

/-- The place of dword j of the block of the core at a place of the placement map. -/
def blockLoc (t : Task) (place j : Nat) : Loc := taskLoc t (t.save + 4096 + 131072 * place + 8 * j)

end Sys2Proof.Machine
end

