-- ==== Sys2Proof/Machine/Gecko.lean ====
section
/-! DEFINITION. Requests at a memory controller and its gecko: acceptance into the combining buffer, tokens
and their graphs, and the accesses performed at DRAM (08 R185, R189; 10 R242-R265). -/

namespace Sys2Proof.Machine

/-! ## Requests that may be performed (08 R199, R200; 09 R221, R224) -/

/-- The issuer of a request as it stands now: a store's entry knows whether its fibre has gone. -/
def whoNow (s : State) (r : Req) : Issuer :=
  match r.origin with
  | .store c id => (match nget (getCore s c).q.sb id with
      | some e => e.who
      | none => r.who)
  | _ => r.who

/-- Whether a request reads bytes at its place. -/
def readsBytes (op : AccOp) : Bool :=
  match op with
  | .load | .amo _ | .cas | .ldf | .ldfe => true
  | .store | .nibble _ | .red _ | .stf | .stfw | .fest _ => false

/-- The engine entry that issued a request, or none for a fibre (09 R229). -/
def entryOf (r : Req) : Option Nat :=
  match r.origin with
  | .engine _ e _ _ => some e
  | _ => none

/-- The place of a request in the space that its segment names, where a page gives it. -/
def reqLoc (r : Req) : Option Loc :=
  match r.place with
  | .dram _ | .host _ _ | .peer _ _ => some (.va r.va none)
  | .tile _ _ | .scratch _ | .regs _ | .row _ _ _ _ _ => none

/-- Whether a store-buffer entry overlaps a request that its place has not seen before it: every overlapping entry
has to be acknowledged, and every overlapping red, translated or not, accepted (08 R199, 09 R224). -/
def sbMeets (e : SbEntry) (r : Req) : Bool :=
  !e.accepted && match e.place, e.acc.op, reqLoc r with
    | some (p, _), _, _ => p.meets e.acc.size r.place r.acc.size
    | none, .red _, some loc => e.loc.meets e.acc.size loc r.acc.size
    | none, _, _ => false

/-- Whether a store-buffer entry stands before a request. Before a fibre's read, atomic or waiting full/empty
operation stand the entries that are older (08 R199; 09 R222, R234); before an engine's access those of other fibres
that are older than the push, any of which may happen before it (09 R226, R227; DESIGN CHOICE, log 54). -/
def sbBefore (s : State) (id : Nat) (r : Req) (n : Nat) (e : SbEntry) : Bool :=
  match (entryOf r).bind fun en => nget (getCore s r.who.core).fifo en with
  | some x => n < x.seqNo && e.who.slot != x.who.slot
  | none => n < id && (readsBytes r.acc.op || r.acc.op == .stfw)

/-- Whether a store-buffer entry of its core holds a request up. -/
def heldByStores (s : State) (id : Nat) (r : Req) : Bool :=
  (getCore s r.who.core).q.sb.any fun x => sbBefore s id r x.1 x.2 && sbMeets x.2 r

/-- The age of a request: a store is as old as its store-buffer entry. -/
def ageOf (id : Nat) (r : Req) : Nat :=
  match r.origin with
  | .store _ e => e
  | _ => id

/-- A number of bytes widened to whole atoms of 32. -/
def Place.atoms (p : Place) (n : Nat) : Place × Nat :=
  let wide (a : Nat) : Nat := (a + n - 1) / 32 * 32 + 32 - a / 32 * 32
  match p with
  | .dram a => (.dram (a / 32 * 32), wide a)
  | .tile c a => (.tile c (a / 32 * 32), wide a)
  | .scratch a => (.scratch (a / 32 * 32), wide a)
  | .host a k => (.host (a / 32 * 32) k, wide a)
  | .regs a => (.regs (a / 32 * 32), wide a)
  | .peer d a => (.peer d (a / 32 * 32), wide a)
  | .row d t r o m => (.row d t r o m, n)

/-- Whether two requests are queue reads of one fibre, whose reads of one atom stay in push order (11 R273). -/
def queueReads (x r : Req) : Bool :=
  match x.origin, r.origin with
  | .pool _ _, .pool _ _ => x.who.slot == r.who.slot
  | _, _ => false

/-- Whether two requests are pieces of one transfer to or from a scratchpad, whose granules complete in address
order (08 R183). -/
def oneTransfer (x r : Req) : Bool :=
  (match x.place, r.place with
   | .scratch _, .scratch _ => needsWrite x.acc.op == needsWrite r.acc.op
   | _, _ => false) &&
    match x.origin, r.origin with
    | .txn a _, .txn b _ => a == b
    | .engine c e _ _, .engine d f _ _ => c == d && e == f
    | _, _ => false

/-- Whether a request waits at its place in a way that lets later accesses to the bytes pass: a full/empty operation
at a tile and a merged row read do; one that waits for the host, and the write of a COPY that waits for its dword, do
not (09 R221, R222; 12 R291). -/
def letsPass (r : Req) : Bool :=
  r.deferred && match r.place with
    | .tile _ _ => (match r.origin with
        | .engine _ _ _ _ => false
        | .txn _ _ | .pool _ _ | .store _ _ | .icache _ _ _ | .prefetch _ _ => true)
    | .row _ _ _ _ _ => true
    | .dram _ | .host _ _ | .scratch _ | .regs _ | .peer _ _ => false

/-- Whether an older request goes before: to the same bytes, of the same core's fibres or of the same command, to
the same atom in a data queue, or a lower granule of the transfer. -/
def heldByOlder (s : State) (id : Nat) (r : Req) : Bool :=
  s.net.reqs.any fun x =>
    ageOf x.1 x.2 < ageOf id r && x.2.who.core == r.who.core && entryOf x.2 == entryOf r && x.2.answer.isNone
      && (oneTransfer x.2 r || (!letsPass x.2 && (x.2.place.meets x.2.acc.size r.place r.acc.size
            || (queueReads x.2 r && (x.2.place.atoms x.2.acc.size).1.meets (x.2.place.atoms x.2.acc.size).2
                  (r.place.atoms r.acc.size).1 (r.place.atoms r.acc.size).2))))

/-- Whether an earlier remote access from the same core to the same tile port is on its way (11 R278). -/
def behindTile (s : State) (id : Nat) (r : Req) : Bool :=
  match portCore r with
  | some d => s.net.reqs.any fun x => x.1 < id && x.2.via == r.via && portCore x.2 == some d
      && x.2.answer.isNone && !x.2.deferred && !heldByStores s x.1 x.2
  | none => false

/-- A request that has not been performed and may be. -/
def reqFree (s : State) (id : Nat) : Option Req :=
  match getReq s id with
  | some r =>
      if r.answer.isNone && !r.deferred && !heldByStores s id r && !heldByOlder s id r && !behindTile s id r
      then some r else none
  | none => none

/-! ## Failures of accumulates (10 R264) -/

/-- The FID dword of a record with SRC 2 to 4: a core (15 R374). -/
def coreFid (c : Nat) : Nat := kindCode (kindOf c) * 2 ^ 20 + cidOf c

/-- The notice that a controller appends for an accumulate whose master has gone (10 R264). -/
def ctrlNotice (s : State) (atom : Nat) (who : Issuer) (addr : Nat) : State :=
  let g := ctrlOf (32 * atom)
  appendRec s (g / 1024) (srcCtrl g)
    { code := .memEcc, cls := 3, src := 3, restored := false, akind := .physical, entry := 0, count := 0,
      fid := coreFid who.core, pc := 0, addr := addr, info := 0, tid := who.tid }

/-- A red that was not applied: the controller sends its failure to the core of the fibre; a notice reports that of
any other accumulate. -/
def redFailed (s : State) (r : Req) (a : Nat) : State :=
  match r.origin with
  | .store _ _ => postMsg s (.redFail (whoNow s r) a)
  | _ => ctrlNotice s (a / 32) (whoNow s r) a

/-- The failure of a red arrives: it is held against its fibre, or, when the fibre has gone, reported. -/
def redArrives (s : State) (who : Issuer) (a : Nat) : State :=
  match getFib s who.core who.slot with
  | some _ =>
      modFib s who.core who.slot fun f => { f with sch := { f.sch with failed := f.sch.failed ++ [(.memEcc, a, .late)] } }
  | none => ctrlNotice s (a / 32) who a

/-! ## Acceptance (10 R259-R261) -/

/-- The entry whose oldest undrained acceptance is oldest; one that holds none comes first. -/
def oldestEntry (g : Gecko) : Option (Nat × CbEntry) :=
  leastBy (fun x => match x.2.oldest with
    | some t => t + 1
    | none => 0) g.cb

/-- Room for an entry: one with no undrained acceptance is freed; else the accumulate waits while the
oldest drains. -/
def cbRoom (s : State) (g : Nat) : State :=
  if (getGk s g).cb.length < 1024 then s
  else
    match oldestEntry (getGk s g) with
    | some (atom, e) => if e.oldest.isSome then drainFree (bumpDev s 0x303) atom else freeEntry s atom
    | none => s

/-- The entry of an atom, read from DRAM when there is none; false when the read is uncorrectable. -/
def cbOpen (s : State) (atom stale : Nat) : State × Bool :=
  match cbEntry s atom with
  | some _ => (s, true)
  | none =>
      let s := touch (cbRoom s (ctrlOf (32 * atom))) (32 * atom) false
      match eccRead s atom with
      | none => (s, false)
      | some s =>
          let v := BitVec.ofNat 256 (dramAtom s atom)
          (modGk s (ctrlOf (32 * atom)) fun g => { g with cb := nput g.cb atom ⟨v, none, stale⟩ }, true)

/-- An accumulate is applied to the entry of its atom. -/
def applyRed (s : State) (r : Req) (a : Nat) : State :=
  let atom := a / 32
  match cbEntry s atom with
  | none => s
  | some e =>
      let old := e.val.toNat
      match newBytes r.acc (fld old (8 * (a % 32)) (8 * r.acc.size)) with
      | none => s
      | some v =>
          let new := spliceN old (a % 32) r.acc.size v
          let e : CbEntry := { e with val := BitVec.ofNat 256 new, oldest := some (e.oldest.getD s.time.toNat),
                                      cls := r.stale }
          modGk (digest s r.rbit atom old new) (ctrlOf a) fun g => { g with cb := nput g.cb atom e }

/-- An untagged accumulate is accepted and applied; its acceptance is acknowledged whatever its read
brings. -/
def acceptRed (s : State) (id : Nat) (r : Req) (a : Nat) : State :=
  match cbOpen (answerReq s id (.ok 0 s.time.toNat true)) (a / 32) r.stale with
  | (s, false) => redFailed s r a
  | (s, true) => applyRed s r a

/-! ## Tokens (10 R244, R245, R250, R257) -/

/-- The kind code of a token. -/
def tokKind (op : AccOp) : Nat :=
  match op with
  | .load => 0
  | .red _ => 2
  | .amo _ | .cas => 3
  | .store | .nibble _ | .ldf | .ldfe | .stf | .stfw | .fest _ => 1

/-- The KIND input. -/
def tokKindWord (op : AccOp) : Nat :=
  match op with
  | .red o => 2 + o.code * 2 ^ 8
  | .amo o => 3 + o.code * 2 ^ 8
  | .cas => 3 + 7 * 2 ^ 8
  | _ => tokKind op

/-- A side access: its number, its address, its size in bytes. -/
abbrev Side := Nat × Nat × Nat

/-- The side accesses of a token at physical address a (10 R250). -/
def tokSides (im : BitVec 4096) (a : Nat) : List Side :=
  let idx := (a % 2 ^ 27 / 32 * 32 + 2 ^ 27 - gVb im % 2 ^ 27) % 2 ^ 27 / 32
  (upto 6).filterMap fun j =>
    let w := gSide im j
    let n := 2 ^ fld w 27 3
    if fld w 27 3 = 0 then none
    else some (j, a / 2 ^ 27 * 2 ^ 27 + (fld w 0 27 + idx / 2 ^ fld w 30 4 * n) % 2 ^ 27, n)

/-- Whether a side access lies in the window of its context. -/
def inWindow (c : GkCtx) (x : Side) : Bool :=
  c.lo ≤ x.2.1 % 2 ^ 27 && x.2.1 % 2 ^ 27 + x.2.2 ≤ c.hi

/-- A read of an atom by a token: its code is read where the combining buffer does not hold it. -/
def tokRead (s : State) (atom : Nat) : State × Bool :=
  let s := touch s (32 * atom) false
  match cbEntry s atom with
  | some _ => (s, true)
  | none =>
      match eccRead s atom with
      | some s => (s, true)
      | none => (s, false)

/-- Reading several atoms, up to the first that is uncorrectable; whether none is. -/
def tokReads (s : State) : List Nat → State × Bool
  | [] => (s, true)
  | a :: rest => match tokRead s a with
      | (s, true) => tokReads s rest
      | (s, false) => (s, false)

/-- Writing an atom whole: its combining entry drains first, and the write counts in the digest. -/
def tokWrite (s : State) (rbit : Bool) (atom v : Nat) : State :=
  let s := drainFree s atom
  putAtom (digest (touch s (32 * atom) true) rbit atom (dramAtom s atom) v) atom v

/-- Whether a token reads its own atom (10 R245, R262). -/
def tokNeeds (im : BitVec 4096) (r : Req) : Bool :=
  match tokKind r.acc.op with
  | 0 => !gNoRead im
  | 1 => !(r.acc.op == .store && r.acc.size == 32 && !gRdOld im && !r.rbit)
  | _ => true

/-- The atoms that a token reads. -/
def tokAtoms (im : BitVec 4096) (r : Req) (a : Nat) (sides : List Side) : List Nat :=
  (if tokNeeds im r then [a / 32] else [])
    ++ sides.filterMap fun x => if x.1 < 3 || x.2.2 < 32 || r.rbit then some (x.2.1 / 32) else none

/-- The bytes that the access leaves in its atom without a graph. -/
def tokPlain (r : Req) (a cur : Nat) : Nat :=
  match newBytes r.acc (fld cur (8 * (a % 32)) (8 * r.acc.size)) with
  | some v => spliceN cur (a % 32) r.acc.size v
  | none => cur

/-- The inputs of a token (10 R245). -/
def tokIn (s : State) (im : BitVec 4096) (c : GkCtx) (r : Req) (a : Nat) (sides : List Side) : GIn :=
  let cur := stored s (a / 32)
  let off := a % 32
  let n := r.acc.size
  let whole := tokKind r.acc.op == 1 && !tokNeeds im r
  let inn :=
    match tokKind r.acc.op with
    | 0 => if gNoRead im then 0 else cur
    | 2 => spliceN 0 off n r.acc.data.toNat
    | _ => tokPlain r a cur
  { inn := lanesOf inn, old := lanesOf (if whole then 0 else cur),
    mask := (upto 8).map fun l => if overlap off n (4 * l) 4 then 2 ^ 32 - 1 else 0,
    kind := tokKindWord r.acc.op, pa := a / 32 * 32, st := lanesOf c.lanes.toNat,
    sides := (upto 3).map fun j =>
      match sides.find? fun x => x.1 == j with
      | some x => lanesOf (fld (stored s (x.2.1 / 32)) (8 * (x.2.1 % 32)) (8 * x.2.2))
      | none => lanesOf 0 }

/-- Side writes, in order: the later stands. -/
def tokSideWrites (s : State) (im : BitVec 4096) (r : Req) (g : GIn) (ps : List Lanes) (sides : List Side) : State :=
  sides.foldl (fun s x =>
    if x.1 < 3 then s
    else
      let v := lanesVal (gSrc im g ps (fld (gSide im x.1) 34 6))
      let atom := x.2.1 / 32
      tokWrite s r.rbit atom (spliceN (stored s atom) (x.2.1 % 32) x.2.2 (v % 2 ^ (8 * x.2.2)))) s

/-- A token's evaluation and commit (10 R257). -/
def tokEval (s : State) (id : Nat) (r : Req) (a ctx : Nat) (c : GkCtx) (sides : List Side) : State :=
  let im := c.image
  let g := tokIn s im c r a sides
  let gn := ctrlOf a
  let cur := stored s (a / 32)
  let o := gRun im (getGk s gn).dtab g (BitVec.ofNat 16 (bf c.status 16 16))
  let k := tokKind r.acc.op
  let out := if gOut im == 0x3F then none else some (lanesVal (gSrc im g o.ps (gOut im)))
  let plain := lanesVal g.inn
  let answer :=
    match k with
    | 0 => fld (if o.dropped then plain else out.getD 0) (8 * (a % 32)) (8 * r.acc.size)
    | 3 => fld cur (8 * (a % 32)) (8 * r.acc.size)
    | _ => 0
  let own :=
    match k with
    | 0 => none
    | 3 => some (if o.dropped then plain else out.getD plain)
    | _ => if o.dropped then none else out
  let s := match own with
    | some v => tokWrite s r.rbit (a / 32) v
    | none => s
  let s :=
    if o.dropped then s
    else
      let status := setBf (c.status ||| o.fl.setWidth 64) 16 16 o.seed.toNat
      let c' := { c with status := status, lanes := match o.acc with
        | some x => BitVec.ofNat 256 (lanesVal x)
        | none => c.lanes }
      tokSideWrites (modGk s gn fun k => { k with ctx := nput k.ctx ctx c' }) im r g o.ps sides
  answerReq s id (.ok (BitVec.ofNat 512 answer) s.time.toNat true)

/-- An untagged access other than red; the read of an instruction-cache line takes two atoms. -/
def issueDram (s : State) (id : Nat) (r : Req) (a : Nat) : State :=
  if r.acc.size = 64 then
    let half : Acc1 := { r.acc with size := 32 }
    let (s, x) := dramAccess s half a r.rbit r.stale
    let (s, y) := dramAccess s half (a + 32) r.rbit r.stale
    answerReq s id (match x, y with
      | .ok v t d, .ok w _ _ => .ok (v ||| (w <<< 256)) t d
      | .err e, _ => .err e
      | _, .err e => .err e)
  else let (s, x) := dramAccess s r.acc a r.rbit r.stale
       answerReq s id x

/-- An access performed as if its segment were untagged. -/
def performDram (s : State) (id : Nat) (r : Req) (a : Nat) : State :=
  match r.acc.op with
  | .red _ => acceptRed s id r a
  | _ => issueDram s id r a

/-- A token at its gecko. -/
def token (s : State) (id : Nat) (r : Req) (a tag : Nat) : State :=
  let g := getGk s (ctrlOf a)
  match nget g.tags tag with
  | none => answerReq s id (.err .graphConfig)
  | some ctx =>
      let c := ngetD g.ctx ctx GkCtx.blank
      if fld (gKinds c.image) (tokKind r.acc.op) 1 = 0 then performDram s id r a
      else if bf c.status 9 3 = 6 then answerReq s id (.err .graphTimeout)
      else if bf c.status 9 3 != 0 then answerReq s id (.err .graphConfig)
      else
        let sides := tokSides c.image a
        if !sides.all (inWindow c) then answerReq s id (.err .graphConfig)
        else
          match tokReads s (tokAtoms c.image r a sides) with
          | (s, false) => answerReq s id (.err .memEcc)
          | (s, true) => tokEval s id r a ctx c sides

/-- GECKO_TOKEN (10 R257): an access through a tagged segment. -/
def execGeckoToken (id : Nat) (s : State) : Host.Outcome State Fault Refusal :=
  match reqFree s id with
  | some r =>
      (match r.place, r.tag with
       | .dram a, some tag => .next (token s id r a tag)
       | _, _ => .next s)
  | none => .next s

/-- ACCUMULATE_ACCEPT (10 R259): an untagged red or ACCUM element. -/
def execAccumulateAccept (id : Nat) (s : State) : Host.Outcome State Fault Refusal :=
  match reqFree s id with
  | some r =>
      (match r.place, r.tag, r.acc.op with
       | .dram a, none, .red _ => .next (acceptRed s id r a)
       | _, _, _ => .next s)
  | none => .next s

/-- CONTROLLER_ISSUE (08 R185): every other access to DRAM. -/
def execControllerIssue (id : Nat) (s : State) : Host.Outcome State Fault Refusal :=
  match reqFree s id with
  | some r =>
      (match r.place, r.tag, r.acc.op with
       | .dram _, none, .red _ => .next s
       | .dram a, none, _ => .next (issueDram s id r a)
       | _, _, _ => .next s)
  | none => .next s

/-- COMBINING_DRAIN (10 R260): an entry's value is written to DRAM; it stays, with no undrained
acceptance. -/
def execCombiningDrain (ctrl atom : Nat) (s : State) : Host.Outcome State Fault Refusal :=
  if ctrlOf (32 * atom) = ctrl && (cbEntry s atom).any fun e => e.oldest.isSome then
    .next (drainEntry s atom)
  else .next s

/-! ## The base die (08 R181, R187, R190, R191) -/

/-- ROW_CACHE_EXPIRY (08 R181): an entry whose stamp is T_k ago is gone. -/
def execRowCacheExpiry (core atom : Nat) (s : State) : Host.Outcome State Fault Refusal :=
  let t := s.time.toNat
  .next (modCore s core fun k => { k with caches := { k.caches with
    row := k.caches.row.filter fun e => e.atom != atom || decide (t < e.stamp + staleNs e.cls) } })

/-- PROMOTION_EPOCH (08 R187). -/
def execPromotionEpoch (chan : Nat) (s : State) : Host.Outcome State Fault Refusal :=
  .next (modChan s chan fun k =>
    { k with
      threshold := if 64 < k.promos then min 255 (2 * k.threshold)
                   else if k.promos < 16 then max 2 (k.threshold / 2) else k.threshold,
      counts := k.counts.filterMap fun x => if x.2 / 2 = 0 then none else some (x.1, x.2 / 2),
      promos := 0 })

/-- The place in the ring of the outstanding SCRUB_ERROR record of a controller. -/
def scrubRecord (s : State) (g : Nat) : Option Nat :=
  let q := getDie s (g / 1024)
  match q.srcs.findIdx? (· == srcCtrl g) with
  | some i =>
      let a := q.fqbase.toNat + (q.get + i) % 2 ^ 20 * 32
      if (Mem.rd s.mem.dram a).toNat = codeNum .scrubError then some a else none
  | none => none

/-- SCRUB (08 R190, 15 R375): a correctable atom is corrected and its row demoted; an uncorrectable one is
reported, merged into an outstanding report of the controller. -/
def execScrub (atom : Nat) (s : State) : Host.Outcome State Fault Refusal :=
  if s.mem.bad.contains atom then
    let g := ctrlOf (32 * atom)
    match scrubRecord s g with
    | some a =>
        let n := rdPhys s (a + 3) 1
        .next (dramAccess s ⟨.store, 1, BitVec.ofNat 512 (min 255 (n + 1)), 0⟩ (a + 3) false 0).1
    | none =>
        .next (appendRec s (g / 1024) (srcCtrl g)
          { code := .scrubError, cls := 3, src := 3, restored := false, akind := .physical, entry := 0,
            count := 0, fid := g, pc := 0, addr := 32 * atom, info := 0, tid := 0 })
  else .next ((eccRead s atom).getD s)

/-- REFRESH (08 R191): a row is refreshed; no value and no state of the row changes. -/
def execRefresh (_chan _bank _row : Nat) (s : State) : Host.Outcome State Fault Refusal := .next s

end Sys2Proof.Machine
end

