-- ==== Sys2Proof/Machine/Register.lean ====
section
/-! DEFINITION. The device-register region: the global block, the controller blocks, the broadcast block and
the inspection windows (15 R375; 16 R390-R393, R395, R410). -/

namespace Sys2Proof.Machine

/-! ## Fault queue (15 R375) -/

/-- Held records whose source has none outstanding any more are appended, in order. -/
def appendHeld (s : State) (d : Nat) : State :=
  let held := (getDie s d).held
  held.foldl (fun s x => appendRec s d x.1 x.2) (modDie s d fun q => { q with held := [] })

/-- A write of FQGET: GET passes records, and held ones may follow. -/
def setGet (s : State) (d v : Nat) : State :=
  let n := (v + 2 ^ 20 - (getDie s d).get) % 2 ^ 20
  appendHeld (modDie s d fun q => { q with get := v % 2 ^ 20, srcs := q.srcs.drop n }) d

/-- FQGET_WRITE (15 R375). -/
def execFqgetWrite (die value : Nat) (s : State) : Host.Outcome State Fault Refusal :=
  .next (if die < 2 then setGet s die value else s)

/-! ## Attestation (16 R410) -/

/-- Bytes of a number, from the lowest. -/
def bytesOf : Nat → Nat → List Byte
  | 0, _ => []
  | n + 1, v => BitVec.ofNat 8 v :: bytesOf n (v / 256)

/-- The firmware image that the device runs. -/
def firmware (s : State) : List Byte := s.boot.flash.getD Config.flashImage

/-- A field of an image, lowest byte first. -/
def imgNum (xs : List Byte) (off n : Nat) : Nat :=
  (upto n).foldl (fun v j => v + (xs.getD (off + j) 0).toNat * 2 ^ (8 * j)) 0

/-- The length that an image gives its body. -/
def bodyLen (xs : List Byte) : Nat := imgNum xs 8 8

/-- The body. -/
def bodyOf (xs : List Byte) : List Byte := (xs.drop 0x100).take (bodyLen xs)

/-- The bytes that an image takes: to the end of its last section (04 R91). -/
def imageLen (m : Mem) (base : Nat) : Nat :=
  (secsOf m base).foldl (fun n x => max n (x.off + x.size)) (0x20 + 16 * Mem.rdN m (base + 6) 2)

/-- The digest of a task's image as memory holds it, or the error of an image that cannot be read (01 R12). -/
def imageDigest (s : State) (t : Task) : State × Except FCode W512 :=
  let n := imageLen t.head t.base
  match rangeRead s runtimeAsid (taskLoc t t.base) n with
  | (s, .ok m) => (s, .ok (Config.shakeCells n m))
  | (s, .error code) => (s, .error code)

/-- The image digest of the task that the report is asked for; 0 for a task that is not in the task table (log 22). -/
def attestedDigest (s : State) : State × Except FCode W512 :=
  match taskOf s (bf s.regs.attTid 0 16) with
  | some (_, t) => imageDigest s t
  | none => (s, .ok 0)

/-- Bytes 0x00 to 0xBF of the report, with an image digest. -/
def reportHead (s : State) (image : Nat) : Nat :=
  let tid := bf s.regs.attTid 0 16
  0x54415452 + (if tid = 0 then 1 else 2) * 2 ^ 32 + Config.serial.toNat * 2 ^ 64
    + s.regs.nonce.toNat * 2 ^ 128 + (Config.shake256 (bodyOf (firmware s))).toNat * 2 ^ 384
    + (if tid = 0 then 0 else image * 2 ^ 896 + tid * 2 ^ 1408) + s.time.toNat * 2 ^ 1472

/-- The 320 bytes of the report: a signature of the digest of its head follows the head. The error of an image that
cannot be read is that of the read of the report (01 R12; log 22). -/
def report (s : State) : State × Except FCode Nat :=
  match attestedDigest s with
  | (s, .ok image) =>
      let h := reportHead s image.toNat
      (s, .ok (h + (Config.ed448Sign (Config.shake256 (bytesOf 192 h))).toNat * 2 ^ 1536))
  | (s, .error code) => (s, .error code)

/-- ATTEST_NONCE_WRITE. -/
def execAttestNonceWrite (nonce : BitVec 256) (s : State) : Host.Outcome State Fault Refusal :=
  .next { s with regs := { s.regs with nonce := nonce } }

/-- ATTEST_TID_WRITE. -/
def execAttestTidWrite (value : W64) (s : State) : Host.Outcome State Fault Refusal :=
  .next { s with regs := { s.regs with attTid := value } }

/-- The dwords of a report. -/
def reportWords (r : Nat) : List W64 := (upto 40).map fun j => BitVec.ofNat 64 (fld r (64 * j) 64)

/-- ATTEST_REPORT_READ: the REPLY holds the report, or the fault code of its read. -/
def execAttestReportRead (s : State) : Host.Outcome State Fault Refusal :=
  .next (match report s with
    | (s, .ok r) => sendFrame s (.reply 0 (reportWords r))
    | (s, .error code) => sendFrame s (.reply (codeNum code) []))

/-! ## Blocks (16 R390) -/

/-- The block that an offset in the region lies in, with the offset in it. -/
inductive RegBlock where
  | global (off : Nat)
  | ctrl (c off : Nat)
  | bcast (off : Nat)
  | window (core off : Nat)
  | nothing
  deriving DecidableEq, Repr

def regBlock (a : Nat) : RegBlock :=
  if a < 0x20000 then .global a
  else if 0x40000000 ≤ a && a < 0x42000000 then .ctrl ((a - 0x40000000) / 0x4000) (a % 0x4000)
  else if 0x44000000 ≤ a && a < 0x44004000 then .bcast (a % 0x4000)
  else if 0x80000000 ≤ a && a < 0x80000000 + 4120 * 0x20000 then
    .window ((a - 0x80000000) / 0x20000) (a % 0x20000)
  else .nothing

/-- The 4 bits of each peer in a PEERACC dword. -/
def peerWord (r : DevRegs) (w : Nat) : Nat :=
  (upto 16).foldl (fun n q => n + (ngetD r.peeracc (16 * w + q) 0).toNat * 2 ^ (4 * q)) 0

/-- A dword of the global block (16 R391). Of the attestation block the spec gives reads of the report alone: what the
others of its dwords read as, the nonce and the TID among them, is free (DESIGN CHOICE, log 35). -/
def globalGet (s : State) (o : Nat) : State × Except FCode W64 :=
  let die (d : Nat) : Die := getDie s d
  let word (v : W64) : State × Except FCode W64 := (s, .ok v)
  let num (n : Nat) : State × Except FCode W64 := word (BitVec.ofNat 64 n)
  if o = 0 then num (s.regs.domid.toNat + Config.serial.toNat * 2 ^ 8)
  else if o = 0x08 then word s.time
  else if o = 0x10 then word (die 0).fqbase
  else if o = 0x18 then num (die 0).put
  else if o = 0x20 then num (die 0).get
  else if o = 0x28 then word (die 1).fqbase
  else if o = 0x30 then num (die 1).put
  else if o = 0x38 then num (die 1).get
  else if o = 0x40 then num s.gov.st
  else if 0x100 ≤ o && o < 0x180 then num (peerWord s.regs ((o - 0x100) / 8))
  else if 0x400 ≤ o && o < 0x460 then num ((ngetD s.regs.temps ((o - 0x400) / 8) 0 % 2 ^ 16).toNat)
  else if o = 0x480 then num (s.gov.mdraw % 2 ^ 32 + (s.gov.win - 1) % 2 ^ 32 * 2 ^ 32)
  else if 0xF000 ≤ o && o < 0xF140 then
    (match report s with
     | (s, .ok r) => (s, .ok (BitVec.ofNat 64 (fld r (8 * (o - 0xF000)) 64)))
     | (s, .error code) => (s, .error code))
  else if 0xF140 ≤ o && o < 0x10000 then
    let (v, s) := freeVal s
    (s, .ok v)
  else if 0x10000 ≤ o then word (ngetD s.regs.domtab ((o - 0x10000) / 8) 0)
  else num 0

/-- The bits of v where the mask is set, those of old elsewhere. -/
def blend (old v mask : W64) : W64 := (old &&& ~~~mask) ||| (v &&& mask)

/-- A write to a dword of the global block (16 R391): the bytes of the mask. -/
def globalPut (s : State) (o : Nat) (v mask : W64) : State :=
  let base (d : Nat) : State :=
    modDie s d fun q => { q with fqbase := blend q.fqbase v mask &&& 0xFFFFFE000000 }
  let passes (d : Nat) : State :=
    setGet s d ((blend (BitVec.ofNat 64 (getDie s d).get) v mask).toNat % 2 ^ 20)
  let modR (f : DevRegs → DevRegs) : State := { s with regs := f s.regs }
  if o = 0x10 then base 0
  else if o = 0x28 then base 1
  else if o = 0x20 then passes 0
  else if o = 0x38 then passes 1
  else if 0x100 ≤ o && o < 0x180 then
    let w := (o - 0x100) / 8
    let n := blend (BitVec.ofNat 64 (peerWord s.regs w)) v mask
    let acc := (upto 16).foldl (fun m q =>
      if bf n (4 * q) 4 = 0 then ndel m (16 * w + q)
      else nput m (16 * w + q) (BitVec.ofNat 4 (bf n (4 * q) 4))) s.regs.peeracc
    modR fun r => { r with peeracc := acc }
  else if 0xF200 ≤ o && o < 0xF220 then
    let j := (o - 0xF200) / 8
    let n := blend (BitVec.ofNat 64 (bf s.regs.nonce (64 * j) 64)) v mask
    modR fun r => { r with nonce := setBf r.nonce (64 * j) 64 n.toNat }
  else if o = 0xF220 then modR fun r => { r with attTid := blend r.attTid v mask }
  else if 0x10000 ≤ o then
    let j := (o - 0x10000) / 8
    let keep : W64 := if j % 2 = 0 then 0x807FFFFFFFFFFFFF else 0x7FF
    let n := blend (ngetD s.regs.domtab j 0) v mask &&& keep
    modR fun r => { r with domtab := if n = 0 then ndel r.domtab j else nput r.domtab j n }
  else s

/-- A dword of a controller block (16 R392). -/
def ctrlGet (s : State) (c o : Nat) : W64 :=
  let g := getGk s c
  if o < 0x40 then (ngetD g.ctx (o / 8) GkCtx.blank).status
  else if o < 0x60 then g.dsum[Fin.ofNat 4 ((o - 0x40) / 8)]
  else if o = 0x60 then g.dkey.setWidth 64
  else if o = 0x68 then (g.dkey >>> 64).setWidth 64
  else if 0x200 ≤ o && o < 0x400 then
    BitVec.ofNat 64 ((upto 4).foldl (fun n q => n + dtabAt g.dtab ((o - 0x200) / 2 + q) * 2 ^ (16 * q)) 0)
  else if 0x2000 ≤ o then
    BitVec.ofNat 64 (bf (filterOf s (2 * c + fld o 12 1) (fld o 8 4) (fld o 7 1)) (8 * fld o 0 7) 64)
  else 0

/-- A write to a dword of a controller block (16 R392). -/
def ctrlPut (s : State) (c o : Nat) (v mask : W64) : State :=
  if o < 0x40 then
    modGk s c fun g => { g with ctx := nmod g.ctx (o / 8) fun x =>
      { x with status := x.status &&& ~~~(v &&& mask &&& 0x1F) } }
  else if o < 0x60 then
    let j : Fin 4 := Fin.ofNat 4 ((o - 0x40) / 8)
    modGk s c fun g => { g with dsum := g.dsum.set j (blend g.dsum[j] v mask) }
  else if o = 0x60 || o = 0x68 then
    let lo := if o = 0x60 then 0 else 64
    modGk s c fun g =>
      { g with dkey := setBf g.dkey lo 64 (blend (BitVec.ofNat 64 (bf g.dkey lo 64)) v mask).toNat }
  else if 0x200 ≤ o && o < 0x400 then
    let n := blend (ctrlGet s c o) v mask
    let tab (m : NMap W16) : NMap W16 := (upto 4).foldl (fun m q =>
      let e := (o - 0x200) / 2 + q
      if bf n (16 * q) 16 = e * 128 then ndel m e else nput m e (BitVec.ofNat 16 (bf n (16 * q) 16))) m
    modGk s c fun g => { g with dtab := tab g.dtab }
  else s

/-- A dword of an inspection window (16 R393). -/
def windowGet (s : State) (c o : Nat) : W64 :=
  if (getCore s c).frozen.isNone then 0 else blockGet c (getCore s c) (o / 8)

/-- A write through an inspection window. -/
def windowPut (s : State) (c o : Nat) (v mask : W64) : State :=
  let k := getCore s c
  if k.frozen.isNone then s
  else setCore s c (blockPut c k (o / 8) (blend (blockGet c k (o / 8)) v mask))

/-- Reading the dword at an offset of the region, or the fault of the read. Only the control node reaches the
inspection windows. -/
def regGet (s : State) (a : Nat) (node : Bool) : State × Except FCode W64 :=
  match regBlock (a / 8 * 8) with
  | .global o => globalGet s o
  | .ctrl c o => (s, .ok (ctrlGet s c o))
  | .bcast _ => (s, .ok 0)
  | .window c o => (s, if node then .ok (windowGet s c o) else .error .busError)
  | .nothing => (s, .error .busError)

/-- Writing in every controller (16 R392). -/
def bcastPut (s : State) (o : Nat) (v mask : W64) : State := iter nGeckos (fun c s => ctrlPut s c o v mask) s

/-- Writing the bytes of the mask in the dword at an offset of the region; none raises BUS_ERROR. -/
def regPut (s : State) (a : Nat) (v mask : W64) (node : Bool) : Option State :=
  match regBlock (a / 8 * 8) with
  | .global o => some (globalPut s o v mask)
  | .ctrl c o => some (ctrlPut s c o v mask)
  | .bcast o => some (bcastPut s o v mask)
  | .window c o => if node then some (windowPut s c o v mask) else none
  | .nothing => none

/-- One access of 4 or 8 bytes: what it reads, or its fault: BUS_ERROR (16 R390), or that of an image whose digest is
asked for. -/
def regAccess (s : State) (a size : Nat) (wr : Option W64) (node : Bool) : State × Except FCode W64 :=
  let sh := 8 * (a % 8)
  let mask : W64 := if size = 4 then 0xFFFFFFFF else BitVec.allOnes 64
  match wr with
  | none =>
      (match regGet s a node with
       | (s, .ok v) => (s, .ok ((v >>> sh) &&& mask))
       | (s, .error code) => (s, .error code))
  | some v =>
      (match regPut s a ((v &&& mask) <<< sh) (mask <<< sh) node with
       | some s => (s, .ok 0)
       | none => (s, .error .busError))

/-- A load or store of a device register. -/
def performReg (s : State) (id : Nat) (r : Req) (a : Nat) : State :=
  let wr := match r.acc.op with
    | .store => some (r.acc.data.setWidth 64)
    | _ => none
  let (s, x) := regAccess s a r.acc.size wr false
  answerReq s id (match x with
    | .ok v => .ok (v.setWidth 512) s.time.toNat true
    | .error code => .err code)

/-- REGISTER_WRITE (16 R390). -/
def execRegisterWrite (id : Nat) (s : State) : Host.Outcome State Fault Refusal :=
  match reqFree s id with
  | some r =>
      (match r.place, r.acc.op with
       | .regs a, .store => .next (performReg s id r a)
       | _, _ => .next s)
  | none => .next s

/-- BROADCAST_WRITE (16 R392): a whole dword. -/
def execBroadcastWrite (off : Nat) (value : W64) (s : State) : Host.Outcome State Fault Refusal :=
  .next (bcastPut s (off % 0x4000 / 8 * 8) value (BitVec.allOnes 64))

/-- INSPECTION_ACCESS (16 R393): a read is answered to the control node. -/
def execInspectionAccess (core off : Nat) (wr : Option W64) (s : State) : Host.Outcome State Fault Refusal :=
  match wr with
  | some v => .next (windowPut s core off v (BitVec.allOnes 64))
  | none => .next (sendFrame s (.reply 0 [windowGet s core off]))

/-- HOST_REGISTER_ACCESS (16 R395): any size but 4 or 8, and any access to an inspection window, completes
with Unsupported Request. The host receives 6 with the data of a read, 7 for Unsupported Request. -/
def execHostRegisterAccess (off size : Nat) (wr : Option W64) (s : State) : Host.Outcome State Fault Refusal :=
  let unsupported := !(size == 4 || size == 8) || match regBlock off with
    | .window _ _ => true
    | _ => false
  if unsupported then .next (modHost s fun h => toHost h 7 off 0)
  else
    match regAccess s off size wr false, wr with
    | (s, .ok v), none => .next (modHost s fun h => toHost h 6 off (v.setWidth 512))
    | (s, .ok _), some _ => .next s
    | (s, .error _), _ => .next (modHost s fun h => toHost h 7 off 0)

end Sys2Proof.Machine
end

