-- ==== Sys2Proof/Machine/EngineRun.lean ====
section
/-! DEFINITION. How commands run: their elements, one step at a time, their replies, and their start, stop
and retirement (12 R290-R301; 13 R332-R334; 14 R348). -/

namespace Sys2Proof.Machine

/-! ## Elements performed and failed (12 R290, R300) -/

/-- PROG goes past the elements performed. -/
def progFrom (done : List Nat) : Nat → Nat → Nat
  | 0, p => p
  | n + 1, p => if done.contains p then progFrom done n (p + 1) else p

/-- An element is performed. -/
def elemDone (s : State) (c e elem : Nat) : State :=
  let s := modCmd s c e fun x =>
    let done := addTo x.performed elem
    let prog := progFrom done (done.length + 1) x.prog
    { x with flight := ndel x.flight elem, prog := prog, performed := done.filter (prog ≤ ·) }
  match nget (getCore s c).fifo e with
  | some x => if collReads x then s else bumpEv s c 0x10F
  | none => s

/-- The record of an element that violated, or of a copy engine's stop (15 R374). -/
def entryRec (s : State) (c e : Nat) (code : FCode) (cls : Nat) (ak : AKind) (addr info : Nat) : FaultRec :=
  { code := code, cls := cls, src := 2, restored := false, akind := ak, entry := e, count := 0,
    fid := coreFid c, pc := 0, addr := addr, info := info, tid := tidOf (getCore s c) }

/-- A violation of an engine entry freezes the core, unless it is frozen already, and has its record (12 R300;
15 R372, R380). -/
def entryViolates (s : State) (c e : Nat) (code : FCode) (ak : AKind) (addr info : Nat) : State :=
  let r := entryRec s c e code 1 ak addr info
  appendRec (freezeCore s c (.entry e)) (dieOf c) (srcEntry c e) r

/-- An element meets a fault: the command sends nothing more. g3 is the offset that R301 reports. -/
def elemFault (s : State) (c e elem : Nat) (er : Err) (g3 : Nat) : State :=
  let s := modCmd s c e fun x =>
    { x with
      failed := addTo x.failed elem,
      fault := match x.fault with
        | some (m, first, g) => if m ≤ elem then some (m, first, g) else some (elem, er, g3)
        | none => some (elem, er, g3) }
  if codeCls er.1 = 1 then entryViolates s c e er.1 er.2.1 er.2.2 elem else s

/-! ## Sending an element (12 R290, R291) -/

/-- A part of an element: one access in an atom or granule. -/
structure Part where
  loc : Loc
  acc : Acc1
  dst : Option Nat
  deriving DecidableEq, Repr

/-- The parts of a contiguous transfer, cut at multiples of a grain: the access on each piece, from its offset
and length, and where its bytes go. -/
def partsOf (loc : Loc) (n grain : Nat) (acc : Nat → Nat → Acc1) (dst : Nat → Option Nat) : List Part :=
  (cutAt loc.addr n grain).map fun x => ⟨loc.plus x.1, acc x.1 x.2, dst x.1⟩

/-- The issuer of a command's accesses: no fibre waits for them. -/
def engineWho (x : Cmd) : Issuer := { x.who with slot := goneSlot }

/-- The number under which a core holds the leaves of a command, beside those of its fibres' slots. -/
def engineSlot (e : Nat) : Nat := 1024 + e

/-- Where the parts of an element go, up to the first that misses or faults. -/
def resolveParts (s : State) (c e : Nat) : List Part → State × List (Part × Option Tgt) × Option (Part × Option Err)
  | [] => (s, [], none)
  | p :: ps =>
      if p.loc.isOwn c then
        let (s, qs, r) := resolveParts s c e ps
        (s, (p, none) :: qs, r)
      else
        match resolve s c (engineSlot e) ⟨0, p.loc, p.acc, none⟩ with
        | (s, .tgt (.late code)) => (s, [], some (p, some (code, p.loc.kind, p.loc.addr)))
        | (s, .tgt t) => let (s, qs, r) := resolveParts s c e ps
                         (s, (p, some t) :: qs, r)
        | (s, .miss) => (s, [], some (p, none))
        | (s, .bad er) => (s, [], some (p, some er))

/-- Whether a translation for an entry is under way. -/
def entryWalks (s : State) (c e : Nat) : Bool :=
  s.net.walks.any fun w => w.2.who.core == c && w.2.wants == .engine e

/-- Bytes that an element has read land: in its buffer for WALK and COLL, else in the own tile. -/
def landBytes (s : State) (c e d n v : Nat) : State :=
  match nget (getCore s c).fifo e with
  | some x =>
      if cmdCode x.w == cWalk || cmdCode x.w == cColl then
        modCmd s c e fun x => { x with buf := Mem.wrN x.buf d v n }
      else tileStore s c d n v c
  | none => s

/-- A part of the own tile is performed at once; it reads the tile as it stood before the element. -/
def ownPart (pre s : State) (c e : Nat) (p : Part) : State :=
  match p.acc.op, p.dst with
  | .load, some d => landBytes s c e d p.acc.size (tileLoad pre c p.loc.tileOff p.acc.size)
  | _, _ => (tileDo s c p.loc.tileOff p.acc c).1

/-- What WALK writes for an element: the child range, or K samples of it (12 R296). -/
def walkWrite (s : State) (c : Nat) (x : Cmd) (elem b lo hi : Nat) : State :=
  let d := cmdHalf x.w 2
  let k := cmdHalf x.w 3
  if k = 0 then tileStore s c (d + 16 * elem) 16 (lo + hi * 2 ^ 64) c
  else
    iter k (fun j s =>
      let v := if hi ≤ lo then 2 ^ 64 - 1
        else lo + (hash64 (x.w[2] + BitVec.ofNat 64 b) (BitVec.ofNat 64 j)).toNat % (hi - lo)
      tileStore s c (d + 8 * k * elem + 8 * j) 8 v c) s

/-- Where the reads of an element of WALK stand in its buffer, followed by what they are for. -/
def walkAt (elem : Nat) : Nat := 256 * elem

/-- The range of an element of WALK whose reads have come. -/
def walkOut (s : State) (c : Nat) (x : Cmd) (elem : Nat) : State :=
  let m := Mem.cut x.buf (walkAt elem) 256
  let r := levelRange m (Mem.rdN m 160 8) (Mem.rdN m 168 8) (Mem.rdN m 176 8)
  walkWrite s c x elem (Mem.rdN m 184 8) r.1 r.2

/-- All parts of an element have come: it is performed, unless one of them failed. -/
def elemEnd (s : State) (c e elem : Nat) : State :=
  match nget (getCore s c).fifo e with
  | some x =>
      if x.failed.contains elem then modCmd s c e fun y => { y with flight := ndel y.flight elem }
      else elemDone (if cmdCode x.w == cWalk then walkOut s c x elem else s) c e elem
  | none => s

/-! ## Lookahead (12 R290; 13 R328) -/

/-- The translation of a later element starts, unless the core has it or it is under way. -/
def walkAhead (s : State) (c e : Nat) (x : Cmd) (va : Nat) : State :=
  let under := s.net.walks.any fun w =>
    w.2.who.core == c && w.2.va / 65536 == va / 65536 && (w.2.wants == .ahead e || w.2.wants == .engine e)
  if under || (xfind (getCore s c).caches.xlate (asidOf (getCore s c)) va).isSome then s
  else startWalk s (engineWho x) va (.ahead e) ⟨.load, 1, 0, 0⟩ none []

/-- The engine may translate up to 8 elements ahead; whether it does is free. The places of an element are given
by the command's code. -/
def lookAhead (s : State) (c e : Nat) (x : Cmd) (elem : Nat) (places : State → Nat → List Loc) : State :=
  let t := { s with fresh := s.fresh + 1 }
  if Config.choose s.fresh % 2 = 0 then t
  else
    iter 8 (fun j t =>
      if elem + 1 + j < cmdN x.w then
        (places s (elem + 1 + j)).foldl (fun t loc =>
          match loc with
          | .va a _ => walkAhead t c e x a
          | .tile _ _ | .scratch _ => t) t
      else t) t

/-- A place, or none where the segment check fails: lookahead faults nothing. -/
def aheadLocs (r : Except Err Loc) : List Loc := r.toOption.toList

/-- An element is sent once its translations have succeeded; a miss walks, a fault stops the command. -/
def sendElem (s : State) (c e : Nat) (x : Cmd) (elem g3 : Nat) (ps : List Part) : State :=
  match resolveParts s c e ps with
  | (s, _, some (p, none)) =>
      startWalk s (engineWho x) p.loc.va?.1 (.engine e) p.acc p.loc.va?.2 []
  | (s, _, some (_, some er)) => elemFault s c e elem er g3
  | (s, qs, none) =>
      let far := (qs.filter fun q => q.2.isSome).length
      let s := modCmd s c e fun y => { y with flight := nput y.flight elem far, next := elem + 1 }
      let pre := s
      let s := qs.foldl (fun s q =>
        match q.2 with
        | some t => addReq s (pieceReq (engineWho x) (.engine c e elem q.1.dst) ⟨0, q.1.loc, q.1.acc, some t⟩)
        | none => ownPart pre s c e q.1) s
      if far = 0 then elemEnd s c e elem else s

/-- Whether a COLL with DG set must still wait for writes to R pages that its pusher made before it. -/
def collWaits (s : State) (c : Nat) (x : Cmd) : Bool :=
  bitAt x.w[1] 3 && (getCore s c).q.sb.any fun e => e.1 < x.seqNo &&
    match e.2.place with
    | some (_, rbit, _) => rbit
    | none => true

/-- The elements that a command sends as it stands: none for DEDUP and REDUCE, which send nothing, nor for a COLL that
waits; a COLL reads its buffer and its descriptor, and then writes its result. -/
def elemCount (s : State) (c : Nat) (x : Cmd) : Nat :=
  let n := cmdN x.w
  let code := cmdCode x.w
  if code = cDedup || code = cReduce then 0
  else if code = cColl then
    (if n = 0 then 0 else if x.back then n else if x.sent || collWaits s c x then 0 else n + 40)
  else n

/-- The next element of a started command that may send one. Elements performed before a resumption are skipped. -/
def elemReady (s : State) (c e : Nat) : Option (Cmd × Nat) :=
  match nget (getCore s c).fifo e with
  | some x =>
      if x.st == .running && x.started && x.fault.isNone && x.flight.length < 64
          && (!(getCore s c).stopped || cmdCode x.w == cColl) && !entryWalks s c e then
        let elem := progFrom x.performed (x.performed.length + 1) (max x.next x.prog)
        if elem < x.prog + 64 && elem < elemCount s c x then some (x, elem) else none
      else none
  | none => none

/-- Whether an entry has the send cycle: the started commands take theirs in rotation after the one that sent last
(12 R290). -/
def sendTurn (s : State) (c e : Nat) : Bool :=
  let after (d : Nat) : Nat := (d + 15 - (getCore s c).q.lastElem) % 8
  !(upto 8).any fun d => after d < after e && (elemReady s c d).isSome

/-- A command of a code that has the send cycle: its next element. -/
def nextElem (s : State) (c e code : Nat) : Option (Cmd × Nat) :=
  match elemReady s c e with
  | some (x, elem) => if cmdCode x.w == code && sendTurn s c e then some (x, elem) else none
  | none => none

/-- The send cycle is taken. -/
def takeSend (s : State) (c e : Nat) : State := modQ s c fun q => { q with lastElem := e }

/-- A dword of the own tile. -/
def tileDword (s : State) (c off : Nat) : Nat := tileLoad s c off 8

/-! ## GATHER, SCATTER, ACCUM (12 R291, R292; 13 R332; 16 R398-R401) -/

/-- Where the row of an identifier lies: at an offset in SGA, at a device and an offset there, or beyond
the table. -/
inductive RowAt where
  | here (off : Nat)
  | away (dev table soff : Nat)
  | beyond
  deriving DecidableEq, Repr

/-- The value v of the partition function: for PK 1 and 2, of an identifier in groups of p rows. -/
def partV (p pk seed id : Nat) : Nat :=
  if pk = 1 then id % p
  else Nat.xor (id % p) ((hash64 (BitVec.ofNat 64 (id / p)) (BitVec.ofNat 64 seed)).toNat % p)

/-- The partition function (13 R332). -/
def rowAt (own : Nat) (d : BitVec 256) (id : Nat) : RowAt :=
  let rb := bf d 16 16
  let nd := bf d 40 8 + 1
  let stride := bf d 192 32
  if bf d 128 64 ≤ id then .beyond
  else if bf d 34 2 = 0 then .here (id * rb % 2 ^ 64)
  else
    let p := nd * (bf d 48 12 + 1)
    let row := id / p
    let v := partV p (bf d 34 2) (bf d 224 32) id
    let dev := bf d 80 8 + v % nd
    let soff := v / nd * stride + row * rb
    if stride < (row + 1) * rb then .beyond
    else if dev = own then .here soff else .away dev (bf d 0 16) soff

/-- The row of an element of a command. -/
def elemRow (s : State) (c : Nat) (x : Cmd) (id : Nat) : RowAt :=
  let tbl := bf x.w[3] 0 16
  match if tbl = 0xFFFF then none else nget (getCore s c).tabs.slots tbl with
  | some d => rowAt s.regs.domid.toNat d id
  | none => .here ((x.w[2].toNat + id * cmdHalf x.w 2) % 2 ^ 64)

/-- Whether a read may be merged in the switch (16 R401). -/
def mayMerge (s : State) (c : Nat) (x : Cmd) (dev : Nat) : Bool :=
  cmdCode x.w == cGather
    && (match nget (getCore s c).tabs.slots (bf x.w[3] 0 16) with
        | some d => bf d 32 2 != 0
        | none => false)
    && !s.net.reqs.any fun r => r.2.who.core == c && needsWrite r.2.acc.op &&
      match r.2.place with
      | .row d _ _ _ _ => d == dev
      | _ => false

/-- The requester tag of a core's next row packet: the lowest that none of its unanswered ones has (log 23). -/
def rowTag (s : State) (c : Nat) : BitVec 16 :=
  let mine := s.fab.sentRows.filter fun x => match getReq s x.1 with
    | some r => r.who.core == c
    | none => false
  BitVec.ofNat 16 (((upto (mine.length + 1)).find? fun t => !mine.any fun x => x.2.tag.toNat == t).getD 0)

/-- The kind of a row packet. -/
def rowKind (acc : Acc1) : RowKind :=
  match acc.op with
  | .red op => .accum op (acc.cmp == 8)
  | .store | .nibble _ | .amo _ | .cas | .stf | .stfw | .fest _ => .write
  | .load | .ldf | .ldfe => .read

/-- The row packet of a request (16 R398). -/
def rowPacket (s : State) (c dev table id soff : Nat) (acc : Acc1) (seg : W128) (merge : Bool) (bytes : List Byte) :
    RowPkt :=
  { table := table, row := BitVec.ofNat 64 id, soff := soff, len := acc.size, dev := dev,
    src := s.regs.domid.toNat, tag := rowTag s c, kind := rowKind acc, g := bitAt seg 123, stag := segTag seg,
    merge := merge, data := bytes, port := Config.portOf dev }

/-- A row of another device travels as one row packet (16 R398). -/
def sendRow (s : State) (c e : Nat) (x : Cmd) (elem dev table id soff : Nat) (acc : Acc1) (dst : Option Nat)
    (bytes : List Byte) : State :=
  let seg := (getCore s c).segs[cmdSga x.w]
  let merge := mayMerge s c x dev
  let r : Req :=
    { who := engineWho x, origin := .engine c e elem dst, place := .row dev table id soff merge,
      acc := acc, va := 0, tag := if bitAt seg 123 then some (segTag seg) else none, rbit := false,
      stale := 0, deferred := false, answer := none }
  let n := s.net.next
  let pkt := rowPacket s c dev table id soff acc seg merge bytes
  let s := addReq s r
  let s := { s with fab := { s.fab with sentRows := nput s.fab.sentRows n pkt } }
  modCmd s c e fun y => { y with flight := nput y.flight elem 1, next := elem + 1 }

/-- The access on a piece of a row: a read, a write of tile bytes, or accumulates of tile bytes. -/
def rowAcc (s : State) (c : Nat) (x : Cmd) (tile lo n : Nat) : Acc1 :=
  let code := cmdCode x.w
  if code = cGather then ⟨.load, n, 0, 0⟩
  else
    let v := BitVec.ofNat 512 (tileLoad s c (tile + lo) n)
    if code = cScatter then ⟨.store, n, v, 0⟩
    else ⟨.red ((redOpOf (bf x.w[3] 16 3)).getD .add), n, v, BitVec.ofNat 64 (4 * 2 ^ bf x.w[3] 19 1)⟩

/-- The rights that an element of a code needs. -/
def rowRights (code : Nat) : List Nat :=
  if code = cGather then [rightR] else if code = cScatter then [rightW] else [rightW, rightA]

/-- One element of GATHER, SCATTER or ACCUM. -/
def rowElem (s : State) (c e : Nat) (x : Cmd) (elem : Nat) : State :=
  let code := cmdCode x.w
  let rb := cmdHalf x.w 2
  let list := cmdHalf x.w 0 + 8 * elem
  let id := tileDword s c list
  let tile := cmdHalf x.w 1 + rb * elem
  let dst (lo : Nat) : Option Nat := if code = cGather then some (tile + lo) else none
  match elemRow s c x id with
  | .beyond => elemFault s c e elem (.engineIndex, .tile, list) list
  | .away dev table soff =>
      let acc := rowAcc s c x tile 0 (min rb 64)
      let bytes := if code = cGather then [] else bytesOf rb (tileLoad s c tile rb)
      sendRow s c e x elem dev table id soff { acc with size := rb, data := 0 } (dst 0) bytes
  | .here off =>
      let k := getCore s c
      let sg := cmdSga x.w
      if code = cAccum && off % (4 * 2 ^ bf x.w[3] 19 1) != 0 then
        elemFault s c e elem (segErr k.segs[sg] off .align) off
      else
        match segCheck c k sg off rb (rowRights code) with
        | .error er => elemFault s c e elem er off
        | .ok loc =>
            let grain := if code = cAccum then 4 * 2 ^ bf x.w[3] 19 1 else loc.grain
            sendElem s c e x elem off (partsOf loc rb grain (rowAcc s c x tile) dst)

/-- The places of an element of a row command, for lookahead. -/
def rowPlaces (c : Nat) (x : Cmd) (s : State) (elem : Nat) : List Loc :=
  match elemRow s c x (tileDword s c (cmdHalf x.w 0 + 8 * elem)) with
  | .here off => aheadLocs (segCheck c (getCore s c) (cmdSga x.w) off (cmdHalf x.w 2) (rowRights (cmdCode x.w)))
  | .away _ _ _ | .beyond => []

/-- An element of a row command, with the lookahead behind it. -/
def rowStep (s : State) (c e : Nat) (x : Cmd) (elem : Nat) : State :=
  lookAhead (rowElem s c e x elem) c e x elem (rowPlaces c x)

/-! ## COPY and FILL (12 R295) -/

/-- The write of a COPY waits at its place for the dword that its read brings. -/
def awaitData (s : State) (c e elem : Nat) : State :=
  modReqs s fun m => m.map fun x =>
    match x.2.origin with
    | .engine d f n _ =>
        if d = c ∧ f = e ∧ n = elem ∧ needsWrite x.2.acc.op then (x.1, { x.2 with deferred := true }) else x
    | _ => x

/-- One element of COPY: both places are resolved before anything is sent. -/
def copyElem (s : State) (c e : Nat) (x : Cmd) (elem : Nat) : State :=
  let k := getCore s c
  let from_ := (x.w[2].toNat + 8 * elem) % 2 ^ 64
  let to_ := (x.w[3].toNat + 8 * elem) % 2 ^ 64
  match segCheck c k (cmdSga x.w) from_ 8 [rightR], segCheck c k (cmdSgb x.w) to_ 8 [rightW] with
  | .error er, _ => elemFault s c e elem er from_
  | .ok _, .error er => elemFault s c e elem er from_
  | .ok a, .ok b =>
      if a.isOwn c then
        let v := BitVec.ofNat 512 (tileLoad s c a.tileOff 8)
        sendElem s c e x elem from_ [⟨b, ⟨.store, 8, v, 0⟩, none⟩]
      else if b.isOwn c then
        sendElem s c e x elem from_ [⟨a, ⟨.load, 8, 0, 0⟩, some b.tileOff⟩]
      else
        awaitData (sendElem s c e x elem from_ [⟨a, ⟨.load, 8, 0, 0⟩, none⟩, ⟨b, ⟨.store, 8, 0, 0⟩, none⟩]) c e elem

/-- The places of an element of COPY, FILL or COLL, for lookahead. -/
def dwordPlaces (c : Nat) (x : Cmd) (s : State) (elem : Nat) : List Loc :=
  let k := getCore s c
  aheadLocs (segCheck c k (cmdSga x.w) ((x.w[2].toNat + 8 * elem) % 2 ^ 64) 8 []) ++
    (if cmdCode x.w = cCopy then aheadLocs (segCheck c k (cmdSgb x.w) ((x.w[3].toNat + 8 * elem) % 2 ^ 64) 8 []) else [])

/-- A write of one dword of SGA. -/
def writeElem (s : State) (c e : Nat) (x : Cmd) (elem : Nat) (v : W64) : State :=
  let off := (x.w[2].toNat + 8 * elem) % 2 ^ 64
  match segCheck c (getCore s c) (cmdSga x.w) off 8 [rightW] with
  | .error er => elemFault s c e elem er off
  | .ok loc => sendElem s c e x elem off [⟨loc, ⟨.store, 8, v.setWidth 512, 0⟩, none⟩]

/-! ## DEDUP and REDUCE (12 R293, R294, R298; 03 R67) -/

/-- The distinct numbers of a sorted list, each with its count. -/
def runsOf : List Nat → List (Nat × Nat)
  | [] => []
  | a :: rest =>
      match runsOf rest with
      | (b, n) :: rs => if a = b then (b, n + 1) :: rs else (a, 1) :: (b, n) :: rs
      | [] => [(a, 1)]

/-- The bytes that DEDUP writes from D on, for identifiers in list order. -/
def dedupBytes (ids : List Nat) : Mem :=
  let n := ids.length
  let us := runsOf (sortBy id ids)
  let m := iter us.length (fun j m =>
    let u := us.getD j (0, 0)
    Mem.wrN (Mem.wrN m (8 * j) u.1 8) (8 * n + 4 * j) u.2 4) []
  let m := iter n (fun i m =>
    Mem.wrN m (12 * n + 4 * i) ((us.findIdx? fun u => u.1 == ids.getD i 0).getD 0) 4) m
  Mem.wrN m (16 * n) us.length 8

/-- A block of bytes is written to the own tile by the engine. -/
def writeBlock (s : State) (c off n : Nat) (m : Mem) : State := tileStore s c off n (Mem.rdN m 0 n) c

/-- A started command of a code that has not done its work. -/
def wholeCmd (s : State) (c e code : Nat) : Option Cmd :=
  match nget (getCore s c).fifo e with
  | some x =>
      if cmdCode x.w == code && x.st == .running && x.started && x.fault.isNone && !x.sent then some x else none
  | none => none

/-- Engine elements performed, for the event counter. -/
def bumpElems (s : State) (c n : Nat) : State :=
  modCtr s c fun k => { k with ev := nmodD k.ev 0x10F 0 (· + BitVec.ofNat 64 n) }

/-- DEDUP: the whole command. -/
def execDedup (core entry : Nat) (s : State) : Host.Outcome State Fault Refusal :=
  match wholeCmd s core entry cDedup with
  | some x =>
      let n := cmdN x.w
      let ids := (upto n).map fun i => tileDword s core (cmdHalf x.w 0 + 8 * i)
      let m := dedupBytes ids
      let s := writeBlock s core (cmdHalf x.w 1) (16 * n + 8) m
      .next (modCmd (bumpElems s core n) core entry fun y =>
        { y with sent := true, prog := n, aux := Mem.rdN m (16 * n) 8 })
  | none => .next s

/-- An input element of REDUCE as an FP32 or INT32 word (03 R67). -/
def redElem (dtab : NMap W16) (f : Fmt) (v : Nat) : FRes :=
  match f with
  | .int8 => ⟨(sext 8 v).toNat % 2 ^ 32, 0⟩
  | .int32 => ⟨v, 0⟩
  | .fp32 => ⟨v, 0⟩
  | _ => convert dtab rne 0x3F80 0 f .fp32 v

/-- The sum of one element place: the first element as it is, then one addition after the other. -/
def redSum (isInt : Bool) : List Nat → FRes
  | [] => ⟨0, 0⟩
  | v :: vs => vs.foldl (fun a b =>
      if isInt then ⟨(a.bits + b) % 2 ^ 32, 0⟩
      else let y := faddBits rne a.bits b
           ⟨y.bits, a.fl ||| y.fl⟩) ⟨v, 0⟩

/-- An output element of REDUCE from its sum. -/
def redOut (isInt : Bool) (d : Fmt) (v : Nat) : FRes :=
  if d == .int32 then ⟨v, 0⟩
  else convert [] rne 0 0 (if isInt then .int32 else .fp32) d v

/-- The offset of the map dword of a row of REDUCE. -/
def mapOff (x : Cmd) (i : Nat) : Nat := cmdHalf x.w 3 + 4 * i

/-- The segment that a row of REDUCE goes to. -/
def segOf (s : State) (c : Nat) (x : Cmd) (i : Nat) : Nat := tileLoad s c (mapOff x i) 4

/-- The first row of a REDUCE whose segment does not exist. -/
def reduceBad (s : State) (c : Nat) (x : Cmd) : Option Nat :=
  (upto (cmdN x.w)).find? fun i => bf x.w[2] 0 16 ≤ segOf s c x i

/-- The output rows of a REDUCE, and the flags that they raise. -/
def reduceSums (s : State) (c : Nat) (x : Cmd) : Mem × BitVec 5 :=
  let f := fmtOf (bf x.w[0] 28 4)
  let d := fmtOf (bf x.w[2] 16 4)
  let isInt := f == .int8 || f == .int32
  let cols := cmdHalf x.w 2 / fmtBytes f
  let dtab := (getCore s c).tabs.dtab
  let cell (g k : Nat) : FRes :=
    let xs := ((upto (cmdN x.w)).filter fun i => segOf s c x i == g).map fun i =>
      redElem dtab f (tileLoad s c (cmdHalf x.w 0 + cmdHalf x.w 2 * i + fmtBytes f * k) (fmtBytes f))
    let sum := redSum isInt (xs.map (·.bits))
    let out := redOut isInt d sum.bits
    ⟨out.bits, xs.foldl (fun fl y => fl ||| y.fl) (sum.fl ||| out.fl)⟩
  iter (bf x.w[2] 0 16 * cols) (fun j (r : Mem × BitVec 5) =>
    let y := cell (j / cols) (j % cols)
    (Mem.wrN r.1 (fmtBytes d * j) y.bits (fmtBytes d), r.2 ||| y.fl)) ([], 0)

/-- REDUCE: the sums, or ENGINE_INDEX at the first row whose segment does not exist. The rows are written at
retirement. -/
def execReduce (core entry : Nat) (s : State) : Host.Outcome State Fault Refusal :=
  match wholeCmd s core entry cReduce with
  | some x =>
      (match reduceBad s core x with
       | some i =>
           .next (modCmd (elemFault s core entry i (.engineIndex, .tile, mapOff x i) (mapOff x i)) core entry fun y =>
             { y with prog := i })
       | none =>
           let r := reduceSums s core x
           .next (modCmd (bumpElems s core (cmdN x.w)) core entry fun y =>
             { y with sent := true, prog := cmdN x.w, buf := r.1, flags := y.flags ||| r.2 }))
  | none => .next s

/-! ## WALK (12 R296) -/

/-- The places of the reads of a level step, or the fault of the first that fails. -/
def walkLocs (c : Nat) (k : Core) (sg : Fin 8) : List Nat → Except (Err × Nat) (List Loc)
  | [] => .ok []
  | off :: rest =>
      match segCheck c k sg off 8 [rightR], walkLocs c k sg rest with
      | .error e, _ => .error (e, off)
      | .ok _, .error e => .error e
      | .ok loc, .ok ls => .ok (loc :: ls)

/-- The words that an element of WALK keeps beside its reads: the kind and the places of its ranks, and b. -/
def walkKeep (x : Cmd) (elem kind p0 p1 b : Nat) : Cmd :=
  let at_ := walkAt elem
  let m := Mem.wrN (Mem.wrN x.buf (at_ + 160) kind 8) (at_ + 168) p0 8
  { x with buf := Mem.wrN (Mem.wrN m (at_ + 176) p1 8) (at_ + 184) b 8 }

/-- One element of WALK. -/
def walkElem (s : State) (c e : Nat) (x : Cmd) (elem : Nat) : State :=
  let k := getCore s c
  let roff := cmdHalf x.w 0
  let rec_ := tileLoad s c roff 32
  let b := tileDword s c (cmdHalf x.w 1 + 8 * elem)
  match levelStep rec_ b with
  | .bad code => elemFault s c e elem (recordErr k rec_ roff b code) roff
  | .range lo hi =>
      let s := modCmd (walkWrite s c x elem b lo hi) c e fun y => { y with next := elem + 1 }
      elemDone s c e elem
  | .reads sg kind p0 p1 offs =>
      match walkLocs c k sg offs with
      | .error (er, off) => elemFault s c e elem er off
      | .ok locs =>
          let s := modCmd s c e fun y => walkKeep y elem kind p0 p1 b
          let ps := ((upto locs.length).zip locs).map fun y =>
            (⟨y.2, ⟨.load, 8, 0, 0⟩, some (walkAt elem + 8 * y.1)⟩ : Part)
          sendElem s c e x elem (offs.headD 0) ps

/-- The places of an element of WALK, for lookahead. -/
def walkPlaces (c : Nat) (x : Cmd) (s : State) (elem : Nat) : List Loc :=
  match levelStep (tileLoad s c (cmdHalf x.w 0) 32) (tileDword s c (cmdHalf x.w 1 + 8 * elem)) with
  | .reads sg _ _ _ offs => offs.flatMap fun off => aheadLocs (segCheck c (getCore s c) sg off 8 [rightR])
  | .range _ _ | .bad _ => []

/-! ## COLL (09 R240; 12 R297; 14 R368; 16 R403) -/

/-- Where the group descriptor and the device digest stand in the buffer of a COLL. -/
def collDesc : Nat := 2 ^ 32
def collSum : Nat := 2 ^ 33

/-- The checks of a group descriptor. -/
def groupOk (s : State) (m : Mem) : Bool :=
  let n := Mem.rdN m 4 2
  let rank := Mem.rdN m 6 2
  let ids := (upto 256).map fun r => (Mem.rd m (64 + r)).toNat
  Mem.rdN m 24 40 == 0 && 1 ≤ n && n ≤ 256 && rank < n && ids.getD rank 0 == s.regs.domid.toNat
    && distinct (ids.take n) && (ids.drop n).all (· == 0)

/-- The device digest: the lane-wise sum over every gecko. -/
def deviceDigest (s : State) : Nat :=
  (upto 4).foldl (fun n j =>
    n + (s.geckos.foldl (fun v g => v + g.2.dsum[Fin.ofNat 4 j]) (0 : W64)).toNat * 2 ^ (64 * j)) 0

/-- A COLL that has read its buffer and its descriptor leaves the device, or violates. -/
def collSend (s : State) (c e : Nat) (x : Cmd) : State :=
  let m := Mem.cut x.buf collDesc 320
  let dg := bitAt x.w[1] 3
  if !groupOk s m || (dg && Mem.rdN m 8 16 != (getGk s 0).dkey.toNat) then
    elemFault s c e 0 (.engineFormat, .none, 0) 0
  else
    let sum := if dg then deviceDigest s else 0
    let s := modCmd s c e fun y =>
      { y with sent := true, prog := 0, next := 0, performed := [], buf := Mem.wrN y.buf collSum sum 32 }
    { s with fab := { s.fab with colls := s.fab.colls ++ [(c, e, s.time.toNat)] } }

/-- One read of a COLL: a dword of its buffer, then of its group descriptor. It has performed no element, so that a
fault reports element 0 (12 R301). -/
def collRead (s : State) (c e : Nat) (x : Cmd) (elem : Nat) : State :=
  let n := cmdN x.w
  let own := elem < n
  let sg := if own then cmdSga x.w else cmdSgb x.w
  let off := if own then (x.w[2].toNat + 8 * elem) % 2 ^ 64 else (x.w[3].toNat + 8 * (elem - n)) % 2 ^ 64
  match segCheck c (getCore s c) sg off 8 [rightR] with
  | .error er => elemFault s c e elem er x.w[2].toNat
  | .ok loc =>
      sendElem s c e x elem x.w[2].toNat
        [⟨loc, ⟨.load, 8, 0, 0⟩, some (if own then 8 * elem else collDesc + 8 * (elem - n))⟩]

/-- An element of COLL: a read of its buffer or its descriptor, or, once its result has come, a write of it. -/
def collElem (s : State) (c e : Nat) (x : Cmd) (elem : Nat) : State :=
  if x.back then writeElem s c e x elem (Mem.rd64 x.buf (8 * elem)) else collRead s c e x elem

/-! ## An element takes the send cycle (12 R290) -/

/-- An element of a command of a code that sends elements, with the lookahead behind it. -/
def elemStep (s : State) (c e : Nat) (x : Cmd) (elem : Nat) : State :=
  let code := cmdCode x.w
  if code = cGather || code = cScatter || code = cAccum then rowStep s c e x elem
  else if code = cCopy then lookAhead (copyElem s c e x elem) c e x elem (dwordPlaces c x)
  else if code = cFill then lookAhead (writeElem s c e x elem x.w[3]) c e x elem (dwordPlaces c x)
  else if code = cWalk then lookAhead (walkElem s c e x elem) c e x elem (walkPlaces c x)
  else if code = cColl then lookAhead (collElem s c e x elem) c e x elem (dwordPlaces c x)
  else s

/-- A command of a code sends its next element when it has the send cycle. -/
def sendStep (s : State) (c e code : Nat) : State :=
  match nextElem s c e code with
  | some (x, elem) => elemStep (takeSend s c e) c e x elem
  | none => s

/-- GATHER. -/
def execGather (core entry : Nat) (s : State) : Host.Outcome State Fault Refusal := .next (sendStep s core entry cGather)

/-- SCATTER. -/
def execScatter (core entry : Nat) (s : State) : Host.Outcome State Fault Refusal := .next (sendStep s core entry cScatter)

/-- ACCUM. -/
def execAccum (core entry : Nat) (s : State) : Host.Outcome State Fault Refusal := .next (sendStep s core entry cAccum)

/-- COPY. -/
def execCopy (core entry : Nat) (s : State) : Host.Outcome State Fault Refusal := .next (sendStep s core entry cCopy)

/-- FILL. -/
def execFill (core entry : Nat) (s : State) : Host.Outcome State Fault Refusal := .next (sendStep s core entry cFill)

/-- WALK. -/
def execWalk (core entry : Nat) (s : State) : Host.Outcome State Fault Refusal := .next (sendStep s core entry cWalk)

/-- Whether a COLL has read its buffer and its descriptor and may leave the device. -/
def collDue (s : State) (c e : Nat) : Option Cmd :=
  match nget (getCore s c).fifo e with
  | some x =>
      if cmdCode x.w == cColl && x.st == .running && x.started && x.fault.isNone && !x.back && !x.sent
          && cmdN x.w != 0 && x.prog == cmdN x.w + 40 && !collWaits s c x then some x else none
  | none => none

/-- COLL: it reads its whole buffer and its descriptor, is sent, and writes its result once it has come. -/
def execColl (core entry : Nat) (s : State) : Host.Outcome State Fault Refusal :=
  .next (match collDue s core entry with
    | some x => collSend s core entry x
    | none => sendStep s core entry cColl)

/-! ## The replies of elements -/

/-- The address that the fault of an answered access names. -/
def answerAddr (r : Req) (code : FCode) : AKind × Nat :=
  match r.place with
  | .tile c o => (.tile, c * 2 ^ 16 + o)
  | .scratch _ => (.none, 0)
  | .dram a => if code == .memEcc then (.physical, a) else (.virtual, r.va)
  | .host a _ => if code == .memEcc then (.physical, a + 2 ^ 47) else (.virtual, r.va)
  | .regs _ | .peer _ _ | .row _ _ _ _ _ => (.virtual, r.va)

/-- The write of a COPY that waits for its dword. -/
def copyPair (s : State) (c e elem : Nat) : Option Nat :=
  (s.net.reqs.find? fun x =>
    needsWrite x.2.acc.op && x.2.deferred &&
      match x.2.origin with
      | .engine d f n _ => d == c && f == e && n == elem
      | _ => false).map (·.1)

/-- A part of an element has come, done parts of it are left. -/
def partEnd (s : State) (c e elem parts : Nat) : State :=
  match nget (getCore s c).fifo e with
  | some x =>
      (match nget x.flight elem with
       | some n =>
           if n ≤ parts then elemEnd s c e elem
           else modCmd s c e fun y => { y with flight := nput y.flight elem (n - parts) }
       | none => s)
  | none => s

/-- A read of an element brings its bytes. A row of another device brings free values, numbered from the one
that its answer names: the owner answers from outside the model. -/
def elemData (s : State) (r : Req) (c e elem : Nat) (dst : Option Nat) (v : W512) : State :=
  match r.acc.op, dst, r.place with
  | .load, some d, .row _ _ _ _ _ =>
      (upto (r.acc.size / 8)).foldl (fun s j =>
        landBytes s c e (d + 8 * j) 8 (Config.freeValue (v.toNat + j)).toNat) s
  | .load, some d, _ => landBytes s c e d r.acc.size v.toNat
  | .load, none, _ =>
      (match copyPair s c e elem with
       | some id => modReqs s fun m => nmod m id fun q =>
           { q with acc := { q.acc with data := v }, deferred := false }
       | none => s)
  | _, _, _ => s

/-- The offset that R301 reports for an element whose access failed. A WALK has no SGA: its offset is that of the first
array read of the element, in the segment that its record names (DEDUCED, log 62). -/
def elemOffset (s : State) (c e elem : Nat) : Nat :=
  match nget (getCore s c).fifo e with
  | some x =>
      let code := cmdCode x.w
      if code = cGather || code = cScatter || code = cAccum then
        (match elemRow s c x (tileDword s c (cmdHalf x.w 0 + 8 * elem)) with
         | .here off => off
         | .away _ _ soff => soff
         | .beyond => cmdHalf x.w 0 + 8 * elem)
      else if code = cWalk then
        (match levelStep (tileLoad s c (cmdHalf x.w 0) 32) (tileDword s c (cmdHalf x.w 1 + 8 * elem)) with
         | .reads _ _ _ _ offs => offs.headD 0
         | .range _ _ | .bad _ => 0)
      else if collReads x then x.w[2].toNat
      else (x.w[2].toNat + 8 * elem) % 2 ^ 64
  | none => 0

/-- The fault of an element whose access was answered with a code: at the address of the access, or, for a row of
another device, at that of the row's offset in SGA (15 R374). -/
def elemErr (s : State) (r : Req) (c e : Nat) (code : FCode) (off : Nat) : Err :=
  match r.place, nget (getCore s c).fifo e with
  | .row _ _ _ _ _, some x => segErr (getCore s c).segs[cmdSga x.w] off code
  | _, _ => (code, answerAddr r code)

/-- An answer reaches its element. -/
def elemReply (s : State) (r : Req) (c e elem : Nat) (dst : Option Nat) (a : Answer) : State :=
  match (nget (getCore s c).fifo e).bind fun x => nget x.flight elem with
  | none => s
  | some _ =>
      match a with
      | .ok v _ _ => partEnd (elemData s r c e elem dst v) c e elem 1
      | .err code =>
          let g3 := elemOffset s c e elem
          let s := elemFault s c e elem (elemErr s r c e code g3) g3
          match r.acc.op, dst, copyPair s c e elem with
          | .load, none, some id => partEnd (modReqs s fun m => ndel m id) c e elem 2
          | _, _, _ => partEnd s c e elem 1

/-! ## Control words (12 R302) -/

/-- RES. -/
def execRes (core entry : Nat) (s : State) : Host.Outcome State Fault Refusal :=
  match nget (getCore s core).fifo entry with
  | some x => .next (if resumable x then cmdResume s core entry else s)
  | none => .next s

/-- ABT. -/
def execAbt (core entry : Nat) (s : State) : Host.Outcome State Fault Refusal :=
  match nget (getCore s core).fifo entry with
  | some x => .next (if x.st == .stopped then cmdAbort s core entry else s)
  | none => .next s

/-! ## Start, stop, retirement (12 R290, R298, R300, R301; 14 R347, R348) -/

/-- A command that waits for one of the started places: a resumed one first, then the oldest pushed. -/
def startNext (k : Core) : Option (Nat × Cmd) :=
  let resumed := k.fifo.filter fun x => x.2.st == .running && !x.2.started
  match leastBy (fun x => x.2.seqNo) resumed with
  | some x => some x
  | none => leastBy (fun x => x.2.seqNo) (k.fifo.filter fun x => x.2.st == .queued)

/-- Commands that hold a started place. -/
def startedCount (k : Core) : Nat := (k.fifo.filter fun x => x.2.started).length

/-- Whether a store of the core to a scratchpad that stands before a push is still on its way: the engine of a dense
core sees the pusher's stores, and those of other fibres that happen before its push (09 R226, R227). -/
def pushWaits (k : Core) (x : Cmd) : Bool :=
  k.q.sb.any fun e => e.1 < x.seqNo &&
    match e.2.loc with
    | .scratch _ => true
    | _ => false

/-- COMMAND_START. On a core that is frozen, or stopped for a pre-emption, only a command that already runs takes a
place (12 R314, R318; 15 R378). -/
def execCommandStart (core : Nat) (s : State) : Host.Outcome State Fault Refusal :=
  let k := getCore s core
  match startNext k with
  | some (e, x) =>
      let may := x.st == .running || (k.frozen.isNone && !k.stopped)
      if startedCount k < 4 && may && !(kindOf core == .dense && pushWaits k x) then
        .next (modCmd s core e fun y => { y with st := .running, started := true })
      else .next s
  | none => .next s

/-- Whether a command has performed all that it does. -/
def cmdFinished (x : Cmd) : Bool :=
  let n := cmdN x.w
  x.st == .running && x.started && x.fault.isNone && x.flight.isEmpty &&
    (if cmdCode x.w == cDedup || cmdCode x.w == cReduce then x.sent
     else if cmdCode x.w == cColl then n == 0 || (x.back && x.prog == n)
     else x.prog == n)

/-- COMMAND_RETIRE: a REDUCE writes its rows; the increment is added, and the entry is DONE. -/
def execCommandRetire (core entry : Nat) (s : State) : Host.Outcome State Fault Refusal :=
  match nget (getCore s core).fifo entry with
  | some x =>
      if cmdFinished x then
        let s := if cmdCode x.w == cReduce then
            (match x.range with
             | some (lo, hi) => writeBlock s core lo (hi - lo) x.buf
             | none => s)
          else s
        let dc : Fin 8 := Fin.ofNat 8 (bf x.w[0] 4 3)
        let s := modCtr s core fun t => { t with d := t.d.set dc (t.d[dc] + BitVec.ofNat 32 (bf x.w[0] 7 16)) }
        .next (modCmd s core entry fun y => { y with st := .done, started := false, buf := [] })
      else .next s
  | none => .next s

/-- An engine interrupt enters the inbox before the requests that have come in the same cycle (11 R284). -/
def inboxFirst (cycle : Nat) (m : InMsg) (xs : List InMsg) : List InMsg :=
  let late (x : InMsg) : Bool := x.cycle == cycle && x.engine.isNone
  xs.filter (!late ·) ++ [m] ++ xs.filter late

/-- The record of a copy engine's stopped command, with the address of its fault, unless the fault is a violation,
which has its record; or the engine interrupt of a row engine's, which a frozen core does not get (12 R301; 15 R372,
R374, R378). -/
def reportStop (s : State) (c e : Nat) (x : Cmd) (er : Err) (g3 : Nat) : State :=
  let k := getCore s c
  if kindOf c != .lookup then
    if codeCls er.1 = 1 then s else appendRec s (dieOf c) (srcEntry c e) (entryRec s c e er.1 0 er.2.1 er.2.2 0)
  else if k.frozen.isSome then s
  else
    let handler := match k.crew with
      | some w => w.ehandler
      | none => 0
    if handler = 0 then entryViolates s c e .engineFormat .none 0 0
    else
      let m : InMsg :=
        { words := [handler, cmdStatus x, BitVec.ofNat 64 e, BitVec.ofNat 64 g3], sender := x.fid,
          credit := none, engine := some e, cycle := k.seq.cycle + 1 }
      modQ s c fun q => { q with inbox := inboxFirst (k.seq.cycle + 1) m q.inbox }

/-- COMMAND_STOP: a command whose element met a fault has nothing in flight any more. -/
def execCommandStop (core entry : Nat) (s : State) : Host.Outcome State Fault Refusal :=
  match nget (getCore s core).fifo entry with
  | some x =>
      (match x.fault with
       | some (_, er, g3) =>
           if x.st == .running && x.flight.isEmpty && !entryWalks s core entry then
             let y : Cmd :=
               { x with st := .stopped, started := false, fcode := codeNum er.1,
                        prog := if collReads x then 0 else x.prog,
                        performed := if collReads x then [] else x.performed }
             let s := modCmd s core entry fun _ => y
             .next (reportStop s core entry y er g3)
           else .next s
       | none => .next s)
  | none => .next s

end Sys2Proof.Machine
end

