-- ==== Sys2Proof/Machine/Reply.lean ====
section
/-! DEFINITION. Accesses performed outside DRAM, and the way back: replies, acknowledgements, cache fills,
translations (02 R22, 08 R181-R209, R453; 11 R271, R275, R283; 13 R326, R327). -/

namespace Sys2Proof.Machine

/-! ## Accesses performed at a scratchpad, in host memory, at a register, at a peer -/

/-- The fault codes that a peer's answer may carry (16 R400, R402). -/
def peerCode (n : Nat) : Option FCode :=
  match n with
  | 0 => some .fabricProtection
  | 1 => some .pageAbsent
  | 2 => some .pageRights
  | 3 => some .busError
  | 4 => some .memEcc
  | 5 => some .graphConfig
  | 6 => some .graphTimeout
  | 7 => some .classMisuse
  | _ => none

/-- Whether the port toward a device is fenced (16 R397). -/
def fencedTo (s : State) (dev : Nat) : Bool := s.fab.fenced.contains (Config.portOf dev).toNat

/-- The fabric timeout, in ns (16 R397). -/
def fabricLimit : Nat := 50000

/-- Whether a request has waited for the fabric timeout, or cannot be answered (16 R397). -/
def fabricLate (s : State) (r : Req) : Bool :=
  r.answer.isNone && match r.place with
    | .peer dev _ | .row dev _ _ _ _ => decide (r.sentAt + fabricLimit ≤ s.time.toNat) || fencedTo s dev
    | _ => false

/-- A request to another device ends with FABRIC_TIMEOUT. -/
def endFabric (s : State) (id : Nat) : State :=
  let s := answerReq s id (.err .fabricTimeout)
  { s with fab := { s.fab with sentRows := ndel s.fab.sentRows id, merge := ndel s.fab.merge id } }

/-- MERGE reads outstanding in a switch (16 R401). -/
def mergeCap : Nat := 2048

/-- Whether a read with MERGE is still to pass the switch, which merges it or forwards it (16 R401). -/
def atSwitch (s : State) (id : Nat) (merge : Bool) : Bool :=
  merge && (nget s.fab.merge id).isNone && s.fab.merge.length < mergeCap

/-- Whether the partition map of the switch gives a row to another device than the one addressed (16 R399). -/
def wrongOwner (s : State) (dev table row : Nat) : Bool :=
  match nget s.fab.maps table with
  | some (nd, nch, dev0, pk, seed) => pk != 0 && dev0 + partV (nd * nch) pk seed row % nd != dev
  | none => false

/-- Eight fresh free dwords. -/
def freeBits (s : State) : W512 × State :=
  (upto 8).foldl (fun (x : W512 × State) j =>
    let (v, s) := freeVal x.2
    (x.1 ||| (v.setWidth 512 <<< (64 * j)), s)) (0, s)

/-- Whether a merged read still takes an answer: it has none, and is not one that only the fabric timeout answers. -/
def mergeOpen (s : State) (id : Nat) : Bool :=
  match getReq s id with
  | some r => r.answer.isNone && !fabricLate s r
  | none => false

/-- The reads that the switch has merged with a request receive its answer (16 R397, R401); its bytes have arrived. -/
def answerMerged (s : State) (id : Nat) (a : Answer) : State :=
  let ids := match nget s.fab.merge id with
    | some x => id :: x.2.filter (mergeOpen s)
    | none => [id]
  let s := ids.foldl (fun s i => answerReq s i a) s
  { s with fab := { s.fab with merge := ndel s.fab.merge id, sentRows := ndel s.fab.sentRows id } }

/-- Another device answers: what it answers is not determined by this device. A row's answer names the free
values of its dwords. A request that is late, or goes through a fenced port, only the fabric timeout answers. -/
def askPeer (s : State) (id : Nat) (r : Req) (row : Option Nat) : State :=
  if fabricLate s r then s
  else
    let (n, s) := freeVal s
    match peerCode (bf n 0 4), row with
    | some code, _ => answerMerged s id (.err code)
    | none, some size =>
        answerMerged { s with fresh := s.fresh + size / 8 } id (.ok (BitVec.ofNat 512 s.fresh) s.time.toNat true)
    | none, none =>
        let (v, s) := freeBits s
        answerMerged s id (.ok v s.time.toNat true)

/-- A request performed at a place that is neither DRAM nor a tile, as far as it can be now. -/
def performPlain (s : State) (id : Nat) : State :=
  match reqFree s id with
  | none => s
  | some r =>
      match r.place with
      | .scratch a =>
          let (s, v) := scratchDo s a r.acc
          answerReq s id (.ok (BitVec.ofNat 512 v) s.time.toNat true)
      | .host a cached =>
          (match hostTry s.host a cached r.acc with
           | .done h v => answerReq { s with host := h } id (.ok (BitVec.ofNat 512 v) s.time.toNat true)
           | .waits h => deferReq { s with host := h } id
           | .blocked => s
           | .down => answerReq s id (.err .busError))
      | .regs a => performReg s id r a
      | .peer _ _ => askPeer s id r none
      | .row dev table row _ merge =>
          if wrongOwner s dev table row && !fabricLate s r then answerMerged s id (.err .fabricProtection)
          else if atSwitch s id merge then s
          else askPeer s id r (some r.acc.size)
      | .dram _ | .tile _ _ => s

/-- Taking an answered request out of the net. -/
def takeReq (s : State) (id : Nat) : State :=
  let s := modReqs s fun m => ndel m id
  { s with net := { s.net with answered := s.net.answered.erase id } }

/-- Whether a reply is one of the access class: not the acknowledgement of a buffered store (11 R278). -/
def isReply (r : Req) : Bool :=
  match r.origin with
  | .store _ _ => false
  | .txn _ _ | .pool _ _ | .engine _ _ _ _ | .icache _ _ _ | .prefetch _ _ => true

/-- Whether an earlier access reply from the same tile port to the same core has not arrived (11 R278). -/
def replyBehind (s : State) (id : Nat) (r : Req) : Bool :=
  (portCore r).isSome && (s.net.answered.takeWhile (· != id)).any fun j => match getReq s j with
    | some x => x.answer.isSome && isReply x && portCore x == portCore r && x.via == r.via
    | none => false

/-! ## Transactions (02 R22; 08 R199, R209) -/

/-- The transaction is over; the fibre's wait has ended. -/
def closeTxn (s : State) (id : Nat) (t : Txn) : State :=
  let s := modTxns s fun m => ndel m id
  let s := modQ s t.who.core fun q =>
    { q with feSlot := match t.dst with
        | .fe _ => if q.feSlot = some t.who.slot then none else q.feSlot
        | _ => q.feSlot }
  modFib s t.who.core t.who.slot fun f => { f with sch := { f.sch with t0 := none, late := false } }

/-- The answer to a packet of another device: its fault code or 0, and its data (16 R400, R402). -/
def answerPacket (s : State) (dev : Nat) (tag : BitVec 16) (code : Nat) (data : List Byte) : State :=
  { s with fab := { s.fab with answers := s.fab.answers ++ [(dev * 2 ^ 16 + tag.toNat, code, data)] } }

/-- A transaction ends with a fault. -/
def failTxn (s : State) (id : Nat) (t : Txn) (e : Err) : State :=
  match t.dst with
  | .packet dev tag => answerPacket (modTxns s fun m => ndel m id) dev tag (codeNum e.1) []
  | _ => faultBack (closeTxn s id t) t.who e.1 e.2.1 e.2.2

/-- A transaction ends with a change of its fibre, which becomes READY. -/
def doneTxn (s : State) (id : Nat) (t : Txn) (f : Fibre → Fibre) : State :=
  makeReady (modFib (closeTxn s id t) t.who.core t.who.slot f) t.who.core t.who.slot

/-- The place that a table was loaded from. -/
def planLoc (t : Txn) : Loc :=
  match t.plan with
  | p :: _ => p.loc
  | [] => .scratch 0

/-- The rest of fwalk whose record has come. -/
def fwalkNext (s : State) (id : Nat) (t : Txn) (d : Reg) (roff : Nat) (b : W64) : State :=
  let c := t.who.core
  let rec_ := Mem.rdN t.got 0 32
  match levelStep rec_ b.toNat with
  | .bad code => failTxn s id t (recordErr (getCore s c) rec_ roff b.toNat code)
  | .range lo hi => doneTxn s id t fun f => fwalkApply f d (lo, hi)
  | .reads sg kind p0 p1 offs =>
      let (s', ps) := levelPieces s c t.who.slot sg offs
      match headError ps with
      | some e => failTxn s id t e
      | none =>
          match piecesBusy s c ps with
          | some p =>
              setWait (reissue (closeTxn s id t) t.who) c t.who.slot .resource
                (.resource (.tileRange p.loc.tileOff p.acc.size))
          | none =>
              let t' := { t with dst := .fwalk d kind p0 p1, plan := ps, got := [], left := 0 }
              advanceTxn (modTxns s' fun m => nput m id t') id

/-- All replies of a transaction have come without an error. -/
def finishTxn (s : State) (id : Nat) (t : Txn) : State :=
  let c := t.who.core
  let slot := t.who.slot
  let v := Mem.rdN t.got 0 t.size
  match t.dst with
  | .reg r size sx => doneTxn s id t fun f => putReg f r (extend sx size v)
  | .pair r => doneTxn s id t fun f => putPair f r v
  | .fe r =>
      doneTxn s id t fun f =>
        let f := match r with
          | some r => if t.full then putReg f r (BitVec.ofNat 64 v) else f
          | none => f
        putP f 7 t.full
  | .vec v' => doneTxn s id t fun f => { f with v := f.v.set v' (BitVec.ofNat 512 v) }
  | .latch f =>
      if (getCore s c).mx.rotating then
        modMx s c fun m => { m with latchWaits := addTo m.latchWaits id }
      else doneTxn (modMx s c fun m => latchLoad m f t.got) id t fun f => f
  | .fwalk d kind p0 p1 => doneTxn s id t fun f => fwalkApply f d (levelRange t.got kind p0 p1)
  | .fwalkRec d roff b => fwalkNext s id t d roff b
  | .madv d a b peq plt n =>
      let reg (r : Reg) : W64 := match getFib s c slot with
        | some f => rd { s with issue := { Issue.blank with core := c, slot := slot, snap := some f } } r
        | none => 0
      doneTxn s id t fun f =>
        madvApply f d a b peq plt n (Mem.rdN t.got 0 n) (Mem.rdN t.got 8 n) (reg a) (reg b)
  | .brank d pd j => doneTxn s id t fun f => brankApply f d pd j (Mem.rdN t.got 0 64)
  | .dtab => doneTxn (loadDtab s c v (planLoc t)) id t fun f => f
  | .tabSlot n =>
      (match loadSlot (getCore s c) n v (planLoc t) with
       | some (k, ok) => doneTxn (setCore s c k) id t fun f => putP f 7 ok
       | none => failTxn s id t (.tableFormat, .none, 0))
  | .xtab => doneTxn (loadXtab s c v (planLoc t)) id t fun f => f
  | .gk a tag ctx lo hi =>
      let im : BitVec 4096 := BitVec.ofNat 4096 v
      doneTxn (gkBind s tag ctx lo hi im) id t fun f => putReg f a (BitVec.ofNat 64 (gkValidate im))
  | .gkUnbind a tag => doneTxn (gkUnbind s tag) id t fun f => putReg f a 0
  | .launch d sg off stage => launchStep 8 s id t d sg off stage
  | .discard => doneTxn s id t fun f => f
  | .node _ => s
  | .packet dev tag => answerPacket (modTxns s fun m => ndel m id) dev tag 0 (bytesOf t.size v)

/-! ## Frames of the control node (16 R394) -/

/-- The number of the Chaez port among the agents that send requests. -/
def nodeAgent : Nat := 4120

/-- A NOTICE of a dword of a WRITE that was not performed. Its record is never appended, so its SEQ is free; so are
the die and the controller where the address has none (log 29). -/
def nodeNotice (s : State) (code : FCode) (pa : Nat) : State :=
  let (v, s) := freeVal s
  let ctrl := if pa < 2 ^ 39 then ctrlOf pa else bf v 16 11
  postNotice s (ctrl / 1024) (BitVec.ofNat 256 (recBits
    { code := code, cls := 3, src := 3, restored := false, akind := .physical, entry := 0, count := 0, fid := ctrl,
      pc := 0, addr := pa, info := 0, tid := 0 } (bf v 0 16)))

/-- The physical address of a dword of a frame. -/
def nodeAddr (t : Txn) (p : Piece) : Nat := t.who.word + p.off

/-- The next dword of a frame has its answer; a READ ends with the first that fails. -/
def nodeStep (s : State) (id : Nat) (t : Txn) (p : Piece) (rest : List Piece) (a : Answer) : State :=
  match a, t.dst with
  | .ok v _ _, _ => modTxns s fun m => nput m id { t with plan := rest, got := Mem.wrN t.got p.off v.toNat 8 }
  | .err code, .node false =>
      sendFrame (modTxns s fun m => ndel m id) (.reply (codeNum code) [])
  | .err code, _ => nodeNotice (modTxns s fun m => nput m id { t with plan := rest }) code (nodeAddr t p)

/-- The dwords of a frame in address order, up to one that has to wait for the host. -/
def nodeRun : Nat → State → Nat → State
  | 0, s, _ => s
  | n + 1, s, id =>
      match getTxn s id with
      | none => s
      | some t =>
          match t.plan with
          | [] =>
              let s := modTxns s fun m => ndel m id
              (match t.dst with
               | .node false => sendFrame s (.reply 0 ((upto (t.size / 8)).map fun j => Mem.rd64 t.got (8 * j)))
               | _ => s)
          | p :: rest =>
              let go (s : State) (a : Answer) : State := nodeRun n (nodeStep s id t p rest a) id
              match placeAt (nodeAddr t p) true with
              | some (.dram a) => let (s, x) := dramAccess s p.acc a false 0
                                  go s x
              | some (.regs a) =>
                  let wr := match p.acc.op with
                    | .store => some (p.acc.data.setWidth 64)
                    | _ => none
                  (match regAccess s a 8 wr true with
                   | (s, .ok v) => go s (.ok (v.setWidth 512) 0 true)
                   | (s, .error code) => go s (.err code))
              | some (.host a _) =>
                  let q : Req := { pieceReq t.who (.txn id p.off) p with place := .host a true }
                  (match hostTry s.host a true p.acc with
                   | .done h v => go { s with host := h } (.ok (BitVec.ofNat 512 v) 0 true)
                   | .down => go s (.err .busError)
                   | .waits h => addReq { s with host := h } { q with deferred := true }
                   | .blocked => addReq s q)
              | _ => go s (.err .busError)

/-- The host's answer to a dword of a frame. -/
def nodeReply (s : State) (id : Nat) (t : Txn) (a : Answer) : State :=
  match t.plan with
  | p :: rest => nodeRun (t.plan.length + 1) (nodeStep s id t p rest a) id
  | [] => s

/-- An answer reaches its transaction; with the last one the transaction ends, an acquire at .sys once the snoops that
stand in the queue have been applied (09 R225). The error of the lowest piece that met one stands. -/
def txnReply (s : State) (r : Req) (id off : Nat) (a : Answer) : State :=
  match getTxn s id with
  | none => s
  | some t =>
      if r.who.core = nodeAgent then nodeReply s id t a
      else
      let t := { t with left := t.left - 1 }
      let t := match a with
        | .ok v _ done =>
            { t with got := Mem.wrN t.got off v.toNat (if readsBytes r.acc.op then r.acc.size else 0),
                     full := t.full && done }
        | .err code =>
            let (ak, addr) := answerAddr r code
            let lower := match t.err with
              | some (o, _) => decide (off < o)
              | none => true
            { t with err := if lower then some (off, code, ak, addr) else t.err }
      let s := modTxns s fun m => nput m id t
      if t.left != 0 then s
      else
        match t.err with
        | some (_, code, ak, addr) => failTxn s id t (code, ak, addr)
        | none =>
            if t.acq && !s.host.snoops.isEmpty then
              modTxns s fun m => nput m id { t with snoops := s.host.snoops.length }
            else finishTxn s id t

/-! ## Pool entries (02 R23; 11 R275) -/

/-- An answer reaches its pool entry. A violation that it carries freezes the core then (04 R75, 07 R164,
15 R378), and the fibre has left the access behind (DEDUCED, log 57). -/
def poolReply (s : State) (r : Req) (c e : Nat) (a : Answer) : State :=
  match nget (getCore s c).q.pool e with
  | some x =>
      let bad (s : State) : State := match a with
        | .err code =>
            if codeCls code = 0 then s
            else violate s c r.who.slot code r.who.pc (answerAddr r code).1 (answerAddr r code).2 r.who.word true
        | .ok _ _ _ => s
      if !x.owned then bad (modQ s c fun q => { q with pool := ndel q.pool e })
      else
        let st : PoolState := match a with
          | .ok v _ _ => .ready (v.setWidth 64)
          | .err code => let (ak, addr) := answerAddr r code
                         .error code ak addr
        bad (modQ s c fun q => { q with pool := nput q.pool e { x with st := st } })
  | none => s

/-! ## Row cache and instruction cache (08 R181, R205, R453; 09 R232) -/

/-- A fill replaces the entry of its set that was filled longest ago. -/
def rowPut (k : Core) (x : RowEnt) : Core :=
  match k.crew with
  | none => k
  | some w =>
      let sets := w.cache / 128
      if sets = 0 then k
      else
        let rest := k.caches.row.filter fun e => e.atom != x.atom && e.phys != x.phys
        let inSet := rest.filter fun e => e.atom % sets == x.atom % sets
        let rest := match inSet with
          | v :: _ => if 4 ≤ inSet.length then rest.filter fun e => e.atom != v.atom else rest
          | [] => rest
        { k with caches := { k.caches with row := rest ++ [x] } }

/-- The requests that have been performed before one whose answer is on its way. -/
def performedBefore (s : State) (id : Nat) : List Nat :=
  if s.net.answered.contains id then s.net.answered.takeWhile (· != id) else []

/-- The fibres of a core whose reads of an atom of DRAM are on their way and have not been performed before a read. -/
def readersAfter (s : State) (c atom : Nat) (before : List Nat) : List Nat :=
  (s.net.reqs.filter fun x => fibreRead s x.2 && x.2.who.core == c && x.2.place.inAtom atom && !before.contains x.1).map
    (·.2.who.slot)

/-- The fills of an atom whose reads have been performed before one are older than what it has returned, and are
discarded (09 R221, R232). -/
def dropOlder (s : State) (c atom : Nat) (before : List Nat) : State :=
  let ids := (s.net.reqs.filter fun x =>
    before.contains x.1 && mayFill x.2 && x.2.who.core == c && x.2.place.inAtom atom).map (·.1)
  modCore s c fun k => { k with caches := { k.caches with missed := ids.foldl addTo k.caches.missed } }

/-- A fill whose atom was written, missed on or discarded since its read was sent, or that a newer read has made stale,
fills nothing. Fibres whose reads of the atom are performed after it do not hit it (09 R221; log 53). -/
def fillRow (s : State) (id : Nat) (r : Req) (v : W512) (stamp : Nat) : State :=
  let c := r.who.core
  match r.place with
  | .dram a =>
      if (getCore s c).caches.missed.contains id then s
      else
        let before := performedBefore s id
        let x : RowEnt :=
          { atom := r.va / 32, data := v.setWidth 256, stamp := stamp, cls := r.stale, bits := r.bits, phys := a / 32,
            past := (readersAfter s c (a / 32) before).foldl addTo [] }
        modCore (dropOlder s c (a / 32) before) c fun k => rowPut k x
  | _ => s

/-- What a fibre's read has returned makes the fills of its atom stale that have been performed before it. -/
def readReturns (s : State) (id : Nat) (r : Req) : State :=
  match r.place with
  | .dram a => if fibreRead s r then dropOlder s r.who.core (a / 32) (performedBefore s id) else s
  | _ => s

/-- A number leaves the list of fills that fill nothing. -/
def forgetFill (s : State) (c id : Nat) : State :=
  modCore s c fun k => { k with caches := { k.caches with missed := k.caches.missed.erase id } }

/-- A prefetch ends: its atom is in the row cache, and its place in the queue is free. -/
def prefetchReply (s : State) (id : Nat) (r : Req) (c va : Nat) (a : Answer) : State :=
  let held := (getCore s c).caches.prefetch.contains (va / 32)
  let s := match a with
    | .ok v stamp _ => if held then fillRow s id r v stamp else s
    | .err _ => s
  modPf s c fun q => q.erase (va / 32)

/-- Whether the reads of an element fill the row cache (12 R292). -/
def gatherFills (s : State) (r : Req) (c e : Nat) : Bool :=
  let flag := match nget (getCore s c).fifo e with
    | some x => cmdCode x.w == cGather && bitAt x.w[0] 23
    | none => false
  flag && r.tag.isNone && r.stale != 0 && r.acc.size == 32 && kindOf c == .lookup &&
    match r.place with
    | .dram _ => true
    | _ => false

/-- A line takes the way of its set that was filled longest ago. -/
def linePut (k : Core) (x : ILine) : Core :=
  let rest := k.caches.icache.filter fun l => l.line != x.line
  let inSet := rest.filter fun l => l.line % 64 == x.line % 64
  let rest := match inSet with
    | v :: _ => if 4 ≤ inSet.length then rest.filter fun l => l.line != v.line else rest
    | [] => rest
  { k with caches := { k.caches with icache := rest ++ [x] } }

/-- A fibre that waited for its line issues again. -/
def fetchReady (s : State) (c slot : Nat) : State :=
  match getFib s c slot with
  | some f =>
      if f.sch.wait != .icache then s
      else if slot = handlerSlot then modFib s c slot fun f => { f with sch := { f.sch with wait := .none } }
      else makeReady s c slot
  | none => s

/-- A fetch ends with a fault. -/
def fetchFault (s : State) (who : Issuer) (e : Err) : State :=
  takeFault (dropOnce s who.core who.slot) who.core who.slot (fetchCode who.slot e.1) who.pc e.2.1 e.2.2 0

/-- ICACHE_FILL (08 R453). A line whose translation has been discarded meanwhile is not kept: its fibre alone issues
from it, once (13 R344). -/
def execIcacheFill (id : Nat) (s : State) : Host.Outcome State Fault Refusal :=
  match getReq s id with
  | some r =>
      (match r.origin with
       | .icache c slot va =>
           let s := performPlain s id
           (match (getReq s id).bind (·.answer) with
            | some (.ok v _ _) =>
                let miss := (getCore s c).caches.missed.contains id
                let s := forgetFill (takeReq s id) c id
                let line : ILine := ⟨va / 64, v, r.bits⟩
                let s := modCore s c fun k =>
                  if miss then { k with caches := { k.caches with once := k.caches.once ++ [(slot, line)] } }
                  else linePut k line
                .next (fetchReady s c slot)
            | some (.err code) =>
                let (ak, addr) := answerAddr r code
                .next (fetchFault (forgetFill (takeReq s id) c id) r.who (code, ak, addr))
            | none => .next s)
       | _ => .next s)
  | none => .next s

/-! ## ACCESS_REPLY, REPLY_FORWARD -/

/-- Whether a core is one of a task that is being ended (15 R382). -/
def endedCore (s : State) (c : Nat) : Bool := (getCore s c).frozen.isSome && (getCore s c).stopped

/-- Whether a request to another device is one of a task that is being ended: its reply is discarded (16 R412). -/
def replyDropped (s : State) (r : Req) : Bool :=
  decide (r.who.core < 4120) && endedCore s r.who.core &&
    match r.place with
    | .peer _ _ | .row _ _ _ _ _ => true
    | .dram _ | .host _ _ | .tile _ _ | .scratch _ | .regs _ => false

/-- A reply is discarded; the pool entry of a fibre that has gone is free. -/
def dropReply (s : State) (id : Nat) (r : Req) : State :=
  let s := takeReq s id
  match r.origin with
  | .pool c e =>
      (match nget (getCore s c).q.pool e with
       | some x => if x.owned then s else modQ s c fun q => { q with pool := ndel q.pool e }
       | none => s)
  | .txn _ _ | .store _ _ | .engine _ _ _ _ | .icache _ _ _ | .prefetch _ _ => s

/-- An answer reaches what its request served. -/
def deliver (s : State) (id : Nat) (r : Req) (a : Answer) : State :=
  if replyDropped s r then dropReply s id r
  else
  match r.origin with
  | .txn t off => txnReply (takeReq (readReturns s id r) id) r t off a
  | .pool c e =>
      (match nget (getCore s c).q.pool e with
       | some x => (match x.st with
           | .forwarded _ _ => s
           | .held | .pending | .ready _ | .error _ _ _ => poolReply (takeReq (readReturns s id r) id) r c e a)
       | none => takeReq s id)
  | .prefetch c va => forgetFill (takeReq (prefetchReply s id r c va a) id) c id
  | .engine c e elem dst =>
      let s := match a with
        | .ok v stamp _ => if gatherFills s r c e then fillRow s id r v stamp else s
        | .err _ => s
      forgetFill (elemReply (takeReq s id) r c e elem dst a) c id
  | .store _ _ | .icache _ _ _ => s

/-- ACCESS_REPLY (02 R22): an answer reaches its core. -/
def execAccessReply (id : Nat) (s : State) : Host.Outcome State Fault Refusal :=
  match getReq s id with
  | some r =>
      (match r.origin with
       | .store _ _ | .icache _ _ _ => .next s
       | .txn _ _ | .pool _ _ | .engine _ _ _ _ | .prefetch _ _ =>
           let s := performPlain s id
           (match (getReq s id).bind (·.answer) with
            | some a => .next (if replyBehind s id r then s else deliver s id r a)
            | none => .next s))
  | none => .next s

/-- The way of a message: its class, the core or controller that sent it, and the core that it goes to
(11 R278). -/
def msgWay : Msg → Nat × Nat × Nat
  | .send who dest _ _ _ _ _ => (0, who.core, dest)
  | .reserve who dest _ => (1, who.core, dest)
  | .migrate who dest _ _ => (2, who.core, dest)
  | .reply src dest _ _ => (3, src, dest)
  | .wake who target _ _ => (4, who.core, fld target 8 14)
  | .redFail who a => (5, ctrlOf a, who.core)
  | .withdraw req => (6, req, 0)

/-- Whether no message stands before one on its way: messages of one class from one core to another arrive in the
order sent (11 R278). -/
def inOrder (s : State) (id : Nat) (m : Msg) : Bool :=
  !s.net.msgs.any fun x => decide (x.1 < id) && msgWay x.2 == msgWay m

/-- An old pool entry is freed, and its forwarding entry with the last of them (11 R283). -/
def freeForward (s : State) (c e : Nat) : State :=
  modQ s c fun q =>
    { q with pool := ndel q.pool e, fwd := (q.fwd.map fun xs => xs.erase e).filter (· != []) }

/-- Where a pool entry forwards its reply. -/
def forwardTo (s : State) (c e : Nat) : Option (Nat × Nat) :=
  match nget (getCore s c).q.pool e with
  | some x => (match x.st with
      | .forwarded d n => some (d, n)
      | .held | .pending | .ready _ | .error _ _ _ => none)
  | none => none

/-- REPLY_FORWARD (11 R283): a reply that has reached the old core goes on to the new entry, where a violation that it
carries freezes the new core (DEDUCED, log 57). -/
def execReplyForward (id : Nat) (s : State) : Host.Outcome State Fault Refusal :=
  match getReq s id, nget s.net.msgs id with
  | some r, _ =>
      (match r.origin with
       | .pool c e =>
           (match forwardTo s c e with
            | some (d, n) =>
                let s := performPlain s id
                if ((getReq s id).bind (·.answer)).isSome && !replyBehind s id r then
                  let s := readReturns s id r
                  let s := { s with net := { s.net with answered := s.net.answered.erase id } }
                  .next (freeForward (modReqs s fun m => nmod m id fun q => { q with origin := .pool d n }) c e)
                else .next s
            | none => .next s)
       | _ => .next s)
  | none, some (.reply src c e v) =>
      if !inOrder s id (.reply src c e v) then .next s else
      (match forwardTo s c e with
       | some (d, n) =>
           let s := { s with net := { s.net with msgs := nput s.net.msgs id (.reply c d n v) } }
           .next (freeForward s c e)
       | none => .next s)
  | none, _ => .next s

/-! ## Store buffer (08 R189, R200; 09 R241; 10 R264; 15 R378) -/

/-- STORE_BUFFER_SEND: an entry whose instruction has been translated whole, behind the older entries that
overlap it, at the place that their segments or their pages name (08 R200; 09 R219). -/
def execStoreBufferSend (core id : Nat) (s : State) : Host.Outcome State Fault Refusal :=
  let k := getCore s core
  match nget k.q.sb id with
  | some e =>
      (match e.place with
       | some (p, rbit, stale) =>
           let older := k.q.sb.any fun x => x.1 < id && !x.2.sent &&
             (x.2.loc.meets x.2.acc.size e.loc e.acc.size || match x.2.place with
               | some (q, _) => q.meets x.2.acc.size p e.acc.size
               | none => false)
           if e.sent || k.frozen.isSome || older || (sbGroup k e.grp).any (·.2.place.isNone) then .next s
           else
             let s := modSb s core fun m => nput m id { e with sent := true }
             .next (addReq s
               { who := e.who, origin := .store core id, place := p, acc := e.acc, va := e.loc.va?.1,
                 tag := e.loc.va?.2, rbit := rbit, stale := stale, deferred := false, answer := none })
       | none => .next s)
  | none => .next s

/-- The physical address of a place. -/
def physOf : Place → Nat
  | .dram a => a
  | .host a _ => 2 ^ 47 + a
  | .regs a => 2 ^ 40 + a
  | .peer _ a => a
  | .scratch a => a
  | .tile c o => c * 2 ^ 16 + o
  | .row _ _ _ off _ => off

/-- Which write a request is, for the fence that raises its failure (08 R215; 09 R239). -/
def failKind (r : Req) : FailKind :=
  match r.place, r.acc.op with
  | .peer _ _, _ => .peer
  | _, .red _ => .red
  | _, _ => .write

/-- What a failed write leaves: a failure held against its fibre, a notice when the fibre has gone, or a
freeze of the core. -/
def storeFailed (s : State) (r : Req) (who : Issuer) (code : FCode) : State :=
  let (ak, addr) := answerAddr r code
  if codeCls code != 0 then violate s who.core (slotOf who.slot) code who.pc ak addr who.word true
  else if (getFib s who.core who.slot).isSome then
    modFib s who.core who.slot fun f =>
      { f with sch := { f.sch with failed := f.sch.failed ++ [(code, physOf r.place, failKind r)] } }
  else
    let g := ctrlOf (physOf r.place)
    appendRec s (dieOf who.core) (srcCtrl g)
      { code := code, cls := 3, src := 3, restored := false, akind := .physical, entry := 0, count := 0,
        fid := coreFid who.core, pc := 0, addr := physOf r.place, info := 0, tid := 0 }

/-- STORE_ACK: the entry is free. -/
def execStoreAck (id : Nat) (s : State) : Host.Outcome State Fault Refusal :=
  match getReq s id with
  | some r =>
      (match r.origin with
       | .store c e =>
           let s := performPlain s id
           (match (getReq s id).bind (·.answer) with
            | some a =>
                let who := whoNow s r
                let s := takeReq s id
                if 4120 ≤ c then .next (if c = taskAgent then recordDone s r.who.tid else s)
                else
                let s := addUnack (modSb s c fun m => ndel m e) c who.slot (· - sbUnits r.acc)
                (match a with
                 | .ok _ _ _ => .next s
                 | .err code => .next (if replyDropped s r then s else storeFailed s r who code))
            | none => .next s)
       | _ => .next s)
  | none => .next s

/-! ## Remote tile accesses (08 R182, R208, R209) -/

/-- REMOTE_TILE_ACCESS. -/
def execRemoteTileAccess (id : Nat) (s : State) : Host.Outcome State Fault Refusal :=
  match reqFree s id with
  | some r =>
      (match r.place with
       | .tile c off => .next (tileRemote s id r c off)
       | _ => .next s)
  | none => .next s

/-- FE_WITHDRAWAL: the owner removes a waiting operation, unless it has performed it. -/
def execFeWithdrawal (id : Nat) (s : State) : Host.Outcome State Fault Refusal :=
  match nget s.net.msgs id with
  | some (.withdraw q) =>
      let gone := { s with net := { s.net with msgs := ndel s.net.msgs id } }
      (match getReq s q with
       | some r =>
           if r.answer.isSome then .next gone
           else if !r.deferred then .next s
           else
             match r.place with
             | .tile c off =>
                 let s := modTile gone c fun t => { t with waiters := t.waiters.erase (off / 8, .remote q) }
                 .next (serveWord (answerReq s q (.ok 0 0 false)) c (off / 8))
             | _ => .next gone
       | none => .next gone)
  | _ => .next s

/-! ## Resending the reads of a dq.pop (11 R275) -/

/-- The ERROR entries of a list are sent again, up to the first whose translation misses or faults. One that a send.q
owns has no read to send: it stays in ERROR, and the dq.pop faults at it again (DESIGN CHOICE: R275 names reads only;
log 61). -/
def resendList (s : State) (who : Issuer) : List Nat → State × Option (Nat × Loc × Nat × Option Err)
  | [] => (s, none)
  | e :: es =>
      let c := who.core
      match nget (getCore s c).q.pool e with
      | some x =>
          (match x.st, x.loc with
           | .error _ _ _, some loc =>
               let put (s : State) (st : PoolState) : State :=
                 modQ s c fun q => { q with pool := nput q.pool e { x with st := st } }
               (match dqValue s c who.slot loc x.size with
                | (s, some v) => resendList (put s (.ready (BitVec.ofNat 64 v))) who es
                | (s, none) =>
                    match resolve s c who.slot (dqPiece loc x.size) with
                    | (s, .tgt t) =>
                        let p := { dqPiece loc x.size with tgt := some t }
                        resendList (addReq (put s .pending) (pieceReq who (.pool c e) p)) who es
                    | (s, .miss) => (s, some (e, loc, x.size, none))
                    | (s, .bad er) => (s, some (e, loc, x.size, some er)))
           | _, _ => resendList s who es)
      | none => resendList s who es

/-- A fibre parks again at its dq.pop with the fault that the resending of an entry has met. -/
def resendFault (s : State) (who : Issuer) (k e : Nat) (er : Err) : State :=
  let s := modQ s who.core fun q =>
    { q with pool := nmod q.pool e fun x => { x with st := .error er.1 er.2.1 er.2.2 } }
  let s := takeFault s who.core who.slot er.1 who.pc er.2.1 er.2.2 who.word
  if codeCls er.1 = 0 then
    modFib s who.core who.slot fun f => { f with sch := { f.sch with wait := .dqFault k } }
  else s

/-- The first k entries of a fibre's queue are sent again where they are in ERROR; then the fibre reissues
its dq.pop. -/
def resendHeads (s : State) (who : Issuer) (k : Nat) : State :=
  match getFib s who.core who.slot with
  | none => s
  | some f =>
      match resendList s who (f.sch.dq.take k) with
      | (s, none) => makeReady s who.core who.slot
      | (s, some (_, loc, n, none)) =>
          setWait (startWalk s who loc.va?.1 (.resend k) ⟨.load, n, 0, 0⟩ loc.va?.2 []) who.core who.slot .xlate .walk
      | (s, some (e, _, _, some er)) => resendFault s who k e er

/-! ## Translation (13 R326-R328) -/

/-- A translation is over. -/
def takeWalk (s : State) (id : Nat) : State :=
  { s with net := { s.net with walks := ndel s.net.walks id } }

/-- The entry that a translation for the resending of a queue serves: the first of the first k in ERROR that reads
its address. -/
def resentEntry (k : Core) (dq : List Nat) (va : Nat) : Nat :=
  (dq.find? fun e => match nget k.q.pool e with
    | some x => (match x.st, x.loc with
        | .error _ _ _, some (.va a _) => a == va
        | _, _ => false)
    | none => false).getD 0

/-- A translation ends with a fault of the access that it served. -/
def walkFault (s : State) (w : WalkReq) (e : Err) : State :=
  let c := w.who.core
  let slot := w.who.slot
  match w.wants with
  | .txn id _ => (match getTxn s id with
      | some t => failTxn s id t e
      | none => s)
  | .store grp => faultBack (sbWithdraw s c slot grp) w.who e.1 e.2.1 e.2.2
  | .reissue => takeFault (dropHeld s c slot) c slot e.1 w.who.pc e.2.1 e.2.2 w.who.word
  | .resend k => (match getFib s c slot with
      | some f => resendFault s w.who k (resentEntry (getCore s c) (f.sch.dq.take k) w.va) e
      | none => s)
  | .fetch => fetchFault s w.who e
  | .prefetch => dropPf (modPf s c fun q => q.erase (w.va / 32)) c
  | .ahead _ => s
  | .engine en => (match nget (getCore s c).fifo en with
      | some x =>
          let elem := progFrom x.performed (x.performed.length + 1) (max x.next x.prog)
          elemFault (dropHeld s c (engineSlot en)) c en elem e (elemOffset s c en elem)
      | none => s)

/-- The next of the further addresses that a queue instruction needs, or its reissue. -/
def reissueNext (s : State) (w : WalkReq) : State :=
  let k := getCore s w.who.core
  match w.more.find? fun va => (heldOr k w.who.slot w.asid va).isNone with
  | some va => startWalk s w.who va .reissue w.acc w.tag (w.more.filter (· != va))
  | none => makeReady s w.who.core w.who.slot

/-- For whom the core holds the leaf of a translation: a fibre, or a command. -/
def keeperOf (w : WalkReq) : Nat :=
  match w.wants with
  | .engine e => engineSlot e
  | .txn _ _ | .store _ | .reissue | .resend _ | .fetch | .prefetch | .ahead _ => w.who.slot

/-- A translation ends with a leaf: the access goes on with it, one of an element at once when nothing else keeps a leaf
that it needs, and a line whose translation was discarded is not kept (13 R344). The core holds the leaf for the step
that uses it: until the element is sent, and until the tlaunch whose completion record it serves ends. -/
def walkDone (s : State) (w : WalkReq) (x : Xlate) : State :=
  let c := w.who.core
  let slot := w.who.slot
  let s := modCore s c fun k => { k with caches := { k.caches with held := k.caches.held ++ [(keeperOf w, x)] } }
  match w.wants with
  | .txn id _ =>
      let last := match getTxn s id with
        | some t => launchWalks t
        | none => false
      if last then advanceTxn s id else dropHeld (advanceTxn s id) c slot
  | .store grp => dropHeld (advanceStore s w.who grp) c slot
  | .reissue => reissueNext s w
  | .resend k => dropHeld (resendHeads s w.who k) c slot
  | .fetch =>
      let s := dropHeld s c slot
      (match leafFetch s x w.va with
       | .ok p =>
           let n := s.net.next
           let s := sendFill s w.who p w.va x.bits
           let s := if w.dropped then
               modCore s c fun k => { k with caches := { k.caches with missed := addTo k.caches.missed n } }
             else s
           if slot = handlerSlot then s else setWait s c slot .reply .icache
       | .error code => fetchFault s w.who (code, .virtual, w.va))
  | .prefetch =>
      let s := dropHeld s c slot
      if !(getCore s c).caches.prefetch.contains (w.va / 32) then s
      else if w.dropped then dropPf (modPf s c fun q => q.erase (w.va / 32)) c
      else if cacheable s x w.va then sendPf s w.who x w.va
      else dropPf (modPf s c fun q => q.erase (w.va / 32)) c
  | .engine e =>
      let now := w.dropped || 1 < ((getCore s c).caches.held.filter fun h => h.1 == engineSlot e).length
      let s := match if now then elemReady s c e else none with
        | some (y, elem) => elemStep s c e y elem
        | none => s
      if now && entryWalks s c e then s else dropHeld s c (engineSlot e)
  | .ahead _ => dropHeld s c slot

/-- The checks of a leaf for what a translation serves. -/
def walkCheck (s : State) (w : WalkReq) (x : Xlate) : Option FCode :=
  match w.wants with
  | .prefetch | .ahead _ => none
  | .fetch => (match leafFetch s x w.va with
      | .error code => some code
      | .ok _ => none)
  | .txn _ _ | .store _ | .reissue | .resend _ | .engine _ =>
      (match leafCheck s x w.va w.acc w.tag.isSome with
       | .error code => some code
       | .ok _ => none)

/-- Whether a translation serves an access that is not performed for its own sake. -/
def speculative (w : WalkReq) : Bool :=
  match w.wants with
  | .prefetch | .ahead _ => true
  | .txn _ _ | .store _ | .reissue | .resend _ | .fetch | .engine _ => false

/-- Whether an older lookup of the unit stands before one at the port (13 R326). -/
def behindLookup (s : State) (id : Nat) (w : WalkReq) : Bool :=
  s.net.walks.any fun y =>
    y.1 < id && !y.2.missed && !y.2.walking && unitOf y.2.who.core == unitOf w.who.core

/-- TLB_LOOKUP (13 R326): a hit whose bits need no change goes on at once; a miss takes a walker. -/
def execTlbLookup (id : Nat) (s : State) : Host.Outcome State Fault Refusal :=
  match nget s.net.walks id with
  | some w =>
      if w.walking || w.missed || behindLookup s id w then .next s
      else
        let u := unitOf w.who.core
        match xfind (getUnit s u).tlb w.asid w.va with
        | some x =>
            let s := modUnit s u fun t =>
              { t with hits := t.hits + 1, tlb := (t.tlb.filter fun y => !y.same x) ++ [x] }
            let s := tcPut s w.who.core x
            (match walkCheck s w x with
             | some code => .next (walkFault (takeWalk s id) w (code, .virtual, w.va))
             | none =>
                 if speculative w || usable x w.write then .next (walkDone (takeWalk s id) w x)
                 else .next (modWalk s id fun w => { w with walking := true, hit := some x }))
        | none =>
            let s := modUnit s u fun t => { t with misses := t.misses + 1 }
            let s := modWalk s id fun w => { w with missed := true }
            .next (takeWalkers s (dieOf w.who.core) s.net.walks)
  | none => .next s

/-- The misses of a unit that share a walk take its leaf (13 R327). -/
def shareLeaf (s : State) (u : Nat) (x : Xlate) : State :=
  { s with net := { s.net with walks := s.net.walks.map fun y =>
      if y.2.walking && y.2.hit.isNone && unitOf y.2.who.core == u && x.has y.2.asid y.2.va then
        (y.1, { y.2 with hit := some x })
      else y } }

/-- A leaf enters the unit's TLB and the core's translation cache, unless a ptinv has come meanwhile. -/
def installLeaf (s : State) (w : WalkReq) (x : Xlate) : State :=
  if w.dropped then s else tcPut (tlbPut s (unitOf w.who.core) x) w.who.core x

/-- The fault of an access that shares a failed walk: at its own address where it is one of an address. -/
def errFor (e : Err) (w : WalkReq) : Err :=
  match e with
  | (code, .virtual, _) => (code, .virtual, w.va)
  | _ => e

/-- Accesses whose walk has failed fault, in ascending order of their cores (15 R385). -/
def failWalks (s : State) (ws : List WalkReq) (e : Err) : State :=
  (sortBy (fun w => w.who.core) ws).foldl (fun s w => walkFault s w (errFor e w)) s

/-- The walks that a test picks leave the list of those under way. -/
def takeWalks (s : State) (p : Nat → WalkReq → Bool) : State × List WalkReq :=
  ({ s with net := { s.net with walks := s.net.walks.filter fun y => !p y.1 y.2 } },
    (s.net.walks.filter fun y => p y.1 y.2).map (·.2))

/-- A walk has failed: the access that it serves faults, and those of the misses that share it. -/
def walkFails (s : State) (id : Nat) (w : WalkReq) (e : Err) : State :=
  let x := takeWalks s fun n y => n == id || (walks y && walks w && sharesWalk s w y)
  failWalks x.1 x.2 e

/-- A leaf cannot be used, since its entry has gone: no structure holds it any more, and the access faults, with those
of the misses that share its walk, each of which walks afresh on reissue (13 R325, R327). -/
def leafFails (s : State) (w : WalkReq) (x : Xlate) (e : Err) : State :=
  let u := unitOf w.who.core
  let y := takeWalks (xlateDrop s w.who.core u x) fun _ y => y.missed && y.hit == some x && unitOf y.who.core == u
  failWalks y.1 (w :: y.2) e

/-- The end of a walk for the access that it serves: the leaf is checked; A, and D for a write, are set in memory
where the entry lacks them. -/
def walkLeaf (s : State) (w : WalkReq) (x : Xlate) : State :=
  match walkCheck s w x with
  | some code => walkFault (installLeaf s w x) w (code, .virtual, w.va)
  | none =>
      if speculative w || usable x w.write then walkDone (installLeaf s w x) w x
      else
        match orLeaf s x w.write w.va with
        | (s, .error e) => leafFails s w x e
        | (s, .ok x) => walkDone (installLeaf s w x) w x

/-- WALK_END (13 R327): a walk ends with its leaf or its fault, and its walker serves the next miss. -/
def execWalkEnd (id : Nat) (s : State) : Host.Outcome State Fault Refusal :=
  match nget s.net.walks id with
  | some w =>
      if !w.walking then .next s
      else
        let s := match w.hit with
          | some x => walkLeaf (takeWalk s id) w x
          | none =>
              match walkTables s w.asid w.va with
              | (s, .error e) => walkFails s id w e
              | (s, .ok x) => walkLeaf (shareLeaf (takeWalk s id) (unitOf w.who.core) x) w x
        .next (takeWalkers s (dieOf w.who.core) s.net.walks)
  | none => .next s

end Sys2Proof.Machine
end

