-- ==== Sys2Proof/Machine/Messages.lean ====
section
/-! DEFINITION. Messages between cores: send reservations and writes, handlers, migration, wake (02 R31;
07 R173; 11 R266, R278-R283; 15 R375, R379, R388). -/

namespace Sys2Proof.Machine

/-- A message has been served. -/
def takeMsg (s : State) (id : Nat) : State := { s with net := { s.net with msgs := ndel s.net.msgs id } }

/-- Replacing a message. -/
def putMsg (s : State) (id : Nat) (m : Msg) : State := { s with net := { s.net with msgs := nput s.net.msgs id m } }

/-- A fibre that waits for the outcome of a message receives its code and is READY. -/
def codeTo (s : State) (who : Issuer) (d : Reg) (v : W64) : State :=
  makeReady (modFib s who.core who.slot fun f => putReg f d v) who.core who.slot

/-! ## send (11 R279, R280) -/

/-- Whether an inbox has a free slot; those kept for engine interrupts are apart. -/
def inboxFree (q : Queues) : Bool := (q.inbox.filter fun m => m.engine.isNone).length + q.inResv < 64

/-- The outbound slot of a core is given up. -/
def dropSendSlot (s : State) (c : Nat) : State := modQ s c fun q => { q with sendSlot := none }

/-- A refused request: its reply entry is freed, and the sender reads 1. -/
def refuseSend (s : State) (id : Nat) (who : Issuer) (credit : Option Nat) (d : Reg) : State :=
  let s := dropSendSlot (takeMsg s id) who.core
  let s := match credit with
    | some e =>
        modFib (modQ s who.core fun q => { q with pool := ndel q.pool e }) who.core who.slot fun f =>
          { f with sch := { f.sch with dq := f.sch.dq.filter (· != e) } }
    | none => s
  codeTo s who d 1

/-- The message of a core that waits for a slot of a destination. -/
def askedBy (s : State) (dest c : Nat) : Option (Nat × Msg) :=
  s.net.msgs.find? fun x =>
    match x.2 with
    | .send who t _ _ granted asked _ => who.core == c && t == dest && asked && !granted
    | _ => false

/-- A request that is granted a slot takes the pool entry for its reply: it stands in the sender's data queue from
now on (11 R280). -/
def takeCredit (s : State) (who : Issuer) : Option Nat → State
  | some e =>
      modFib (modQ s who.core fun q => { q with pool := nmod q.pool e fun x => { x with st := .pending } })
        who.core who.slot fun f => { f with sch := { f.sch with dq := f.sch.dq ++ [e] } }
  | none => s

/-- A message is granted a slot: the core of its sender is the one granted last (11 R279). -/
def grantSlot (s : State) (id : Nat) (who : Issuer) (dest : Nat) (words : List W64) (credit : Option Nat) (asked : Bool)
    (d : Reg) : State :=
  modQ (putMsg (takeCredit s who credit) id (.send who dest words credit true asked d)) dest fun q =>
    { q with inResv := q.inResv + 1, lastGrant := who.core }

/-- A freed slot goes to the next set bit of the mask, cyclically after the core granted last. -/
def grantNext (s : State) (dest : Nat) : State :=
  let q := (getCore s dest).q
  let after := q.pending.filter (q.lastGrant < ·)
  match if inboxFree q then (after ++ q.pending).head? else none with
  | some c =>
      let s := modQ s dest fun q => { q with pending := q.pending.erase c, lastGrant := c }
      (match askedBy s dest c with
       | some (id, .send who t words credit _ asked d) => grantSlot s id who t words credit asked d
       | _ => s)
  | none => s

/-- INBOX_RESERVATION: a slot is granted at once, or the sender's bit is set in the mask. -/
def execInboxReservation (id : Nat) (s : State) : Host.Outcome State Fault Refusal :=
  match nget s.net.msgs id with
  | some (.send who dest words credit granted asked d) =>
      if granted || (getCore s who.core).stopped then .next s
      else if (getCore s dest).frozen.isSome then
        .next (refuseSend (modQ s dest fun q => { q with pending := q.pending.erase who.core }) id who credit d)
      else if asked then .next s
      else if inboxFree (getCore s dest).q && (getCore s dest).q.pending.isEmpty then
        .next (grantSlot s id who dest words credit false d)
      else
        .next (modQ (putMsg s id (.send who dest words credit false true d)) dest fun q =>
          { q with pending := addTo q.pending who.core })
  | _ => .next s

/-- A reply reaches its pool entry: a value, or BUS_ERROR. -/
def replyTo (s : State) (c e : Nat) (v : Option W64) : State :=
  match nget (getCore s c).q.pool e with
  | some x =>
      if !x.owned then modQ s c fun q => { q with pool := ndel q.pool e }
      else
        let st : PoolState := match v with
          | some v => .ready v
          | none => .error .busError .none 0
        modQ s c fun q => { q with pool := nput q.pool e { x with st := st } }
  | none => s

/-- MESSAGE_WRITE: a granted message is written into its slot, unless the destination has frozen; a reply is
written into its entry; a controller's report reaches the core of the red that failed (10 R264). -/
def execMessageWrite (id : Nat) (s : State) : Host.Outcome State Fault Refusal :=
  match nget s.net.msgs id with
  | some (.send who dest words credit true _ d) =>
      let s := modQ s dest fun q => { q with inResv := q.inResv - 1 }
      if (getCore s dest).frozen.isSome then .next (grantNext (refuseSend s id who credit d) dest)
      else
        let m : InMsg :=
          { words := words, sender := fidWord who.core who.slot, credit := credit, engine := none,
            cycle := (getCore s dest).seq.cycle + 1 }
        let s := modQ (takeMsg s id) dest fun q => { q with inbox := q.inbox ++ [m] }
        .next (codeTo (dropSendSlot s who.core) who d 0)
  | some (.redFail who a) =>
      .next (if inOrder s id (.redFail who a) then redArrives (takeMsg s id) who a else s)
  | some (.reply src c e v) =>
      .next (if inOrder s id (.reply src c e v) && (forwardTo s c e).isNone then replyTo (takeMsg s id) c e v else s)
  | _ => .next s

/-! ## Handlers (02 R31) -/

/-- The context of a handler. -/
def handlerFibre (w : Crew) (m : InMsg) : Fibre :=
  let g (j : Nat) : W64 := m.words.getD j 0
  { Fibre.blank with
    pc := g 0,
    g := (((Fibre.blank.g.set 0 (BitVec.ofNat 64 (m.sender % 2 ^ 20))).set 1 (g 1)).set 2 (g 2)).set 3 (g 3),
    ctl := { Ctl.blank with priv := w.priv, rm := w.rm, fz := w.fz, seed := w.seed0 },
    sch := { Sched.blank with run := .running 15 } }

/-- HANDLER_START: the oldest message of the inbox, which has come in an earlier cycle (11 R284), starts its handler on
strand 15, and its slot frees. -/
def execHandlerStart (core : Nat) (s : State) : Host.Outcome State Fault Refusal :=
  let k := getCore s core
  match k.q.inbox, k.crew with
  | m :: rest, some w =>
      if kindOf core != .lookup || k.frozen.isSome || k.stopped || k.handler.isSome || k.seq.cycle < m.cycle then
        .next s
      else
        let s := modQ (putFib s core handlerSlot (handlerFibre w m)) core fun q => { q with inbox := rest }
        let s := modCore s core fun k =>
          { modStrand k 15 (fun t => { t with occ := some handlerSlot, h0 := 0, h1 := 0 }) with
            handler := some ⟨m.sender, m.credit, false, 0⟩ }
        .next (if m.engine.isNone then grantNext s core else s)
  | _, _ => .next s

/-! ## Migration (11 R282, R283) -/

/-- Moving the entries of a data queue to the pool of another core, in queue order: the new numbers. Entries
whose reply is to come stay behind as forwarders. -/
def moveEntries (s : State) (c dest : Nat) : List Nat → State × List Nat
  | [] => (s, [])
  | e :: es =>
      match nget (getCore s c).q.pool e with
      | none => moveEntries s c dest es
      | some x =>
          let i := (lowestFree (getCore s dest).q.pool (nPool (kindOf dest))).getD 0
          let s := modQ s dest fun q => { q with pool := nput q.pool i x }
          let stay (p : NMap PoolEntry) : NMap PoolEntry :=
            if isWaiting x.st then nput p e { x with st := .forwarded dest i } else ndel p e
          let s := modQ s c fun q => { q with pool := stay q.pool }
          let (s, js) := moveEntries s c dest es
          (s, i :: js)

/-- Reads of a migrating fibre's queue that are in flight are its own still: they keep their order among its
accesses from its new place (09 R238), and among those of the core that sent them at a tile port (11 R278). -/
def moveReads (s : State) (c slot dest slot' : Nat) : State :=
  { s with net := { s.net with reqs := s.net.reqs.map fun x =>
    match x.2.origin with
    | .pool a e =>
        let owned := match nget (getCore s a).q.pool e with
          | some y => y.owned
          | none => false
        if x.2.who.core == c && x.2.who.slot == slot && owned then
          (x.1, { x.2 with who := { x.2.who with core := dest, slot := slot' } })
        else x
    | _ => x } }

/-- Pool entries that are due to fibres parked for them (11 R268). -/
def poolDue (k : Core) : Nat :=
  k.fibres.foldl (fun n x => match waitsFor x.2 with
    | some r => if resClass r = 0 && ownRoom x.2 r then n + resUnits r else n
    | none => n) 0

/-- Whether a core cannot reserve so many entries: those free are first of all its own waiters'. -/
def poolShort (c : Nat) (k : Core) (n : Nat) : Bool :=
  n != 0 && decide (nPool (kindOf c) < k.q.pool.length + resHeld k 0 goneSlot + poolDue k + n)

/-- MIGRATION_RESERVE: the destination reserves a slot and entries, none of them due to its own fibres (11 R268), and
the fibre leaves, unless its core is frozen or stopped meanwhile (15 R378; log 57); or it refuses. A fibre that finds no
entry of the forwarding table left, with replies to come, stays and reads 4 (11 R266, R282). -/
def execMigrationReserve (id : Nat) (s : State) : Host.Outcome State Fault Refusal :=
  match nget s.net.msgs id with
  | some (.reserve who dest d) =>
      let c := who.core
      let k := getCore s dest
      (match freeSlot k (nSlots (kindOf dest)), getFib s c who.slot with
       | some slot, some f =>
           if (getCore s c).stopped || (getCore s c).frozen.isSome || !inOrder s id (.reserve who dest d) then .next s
           else if poolShort dest k f.sch.dq.length then
             .next (codeTo (takeMsg s id) who d 1)
           else
             let waits := f.sch.dq.filter fun e => match nget (getCore s c).q.pool e with
               | some x => isWaiting x.st
               | none => false
             if !waits.isEmpty && fwdFull (getCore s c).q then .next (codeTo (takeMsg s id) who d 4)
             else
             let s := moveReads (flushFailed s c who.slot) c who.slot dest slot
             let (s, dq) := moveEntries s c dest f.sch.dq
             let s := if waits.isEmpty then s else modQ s c fun q => { q with fwd := q.fwd.filter (· != []) ++ [waits] }
             let s := modQ s dest fun q => { q with slotResv := addTo q.slotResv slot }
             let f' : Fibre := { putReg f d 0 with sch := { Sched.blank with dq := dq, seen := f.sch.seen } }
             let s := bindBarriers (bumpEv (disown (delFib s c who.slot) c who.slot) c 0x10E) c
             .next (putMsg s id (.migrate who dest slot f'))
       | none, some _ => .next (if inOrder s id (.reserve who dest d) then codeTo (takeMsg s id) who d 1 else s)
       | _, none => .next (takeMsg s id))
  | _ => .next s

/-- The row cache of the core that a fibre reaches may hold less than the fibre has written or read: its entries are no
hits for the fibre, and the fills under way whose reads have been performed are discarded (09 R221, for which the spec
names no means; log 50). -/
def freshRows (s : State) (c slot : Nat) : State :=
  let s := modCore s c fun k => { k with caches := { k.caches with
    row := k.caches.row.map fun e => { e with past := addTo e.past slot } } }
  missFills s c fun r => r.answer.isSome

/-- MIGRATION_ARRIVAL: the fibre is READY in its reserved slot. -/
def execMigrationArrival (id : Nat) (s : State) : Host.Outcome State Fault Refusal :=
  match nget s.net.msgs id with
  | some (.migrate who dest slot f) =>
      if !inOrder s id (.migrate who dest slot f) then .next s
      else
        let s := modQ (putFib (takeMsg s id) dest slot f) dest fun q => { q with slotResv := q.slotResv.erase slot }
        .next (makeReady (freshRows s dest slot) dest slot)
  | _ => .next s

/-! ## wake (07 R173; 11 R275; 15 R375, R388) -/

/-- A word of the code segment of a core, from its instruction cache or from memory. -/
def peekWord (s : State) (k : Core) (pc : W64) : Option Nat :=
  match fetchAt { k with caches := { k.caches with once := [] } } 0 pc with
  | .word w => some w
  | .bad _ => none
  | .miss (.va va _) =>
      (match (walkTables s (asidOf k) va).2 with
       | .ok x =>
           if bitAt x.leaf 56 then none
           else
             match placeAt (leafPa x.leaf x.bits va) true with
             | some (.dram a) => if s.mem.bad.contains (a / 32) then none else some (rdPhys s a 4)
             | some (.host a _) => (hostLine s.host (a / 64)).map fun l => bf l.data (8 * (a % 64)) 32
             | _ => none
       | .error _ => none)
  | .miss (.scratch a) => some (Mem.rdN s.mem.scratch (a % 2 ^ 25) 4)
  | .miss (.tile _ _) => none

/-- How many words a skip passes: two when the word at the PC has L = 0 and K = 0. -/
def skipWords (s : State) (k : Core) (f : Fibre) : Nat :=
  match peekWord s k f.pc with
  | some w => if fld w 30 2 = 0 then 2 else 1
  | none =>
      match f.sch.frec with
      | some r => if r.info != 0 && fld r.info 30 2 = 0 then 2 else 1
      | none => 1

/-- A fibre moved past its lone word or pair. -/
def skipFibre (s : State) (k : Core) (f : Fibre) : Fibre :=
  { f with pc := f.pc + BitVec.ofNat 64 (4 * skipWords s k f),
           ctl := { f.ctl with pp := false, pfxv := 0, adone := false } }

/-- The word at which a fibre parked with a fault, as the issuer of its accesses. -/
def faulted (s : State) (c slot : Nat) (f : Fibre) : Issuer :=
  { core := c, slot := slot, pc := f.pc, word := (f.sch.frec.map (·.info)).getD 0, pair := f.ctl.adone,
    pp := f.ctl.pp, tid := tidOf (getCore s c) }

/-- A fibre parked with reason 6 whose record has been appended is woken. -/
def wakeFault (s : State) (c slot : Nat) (f : Fibre) (skip : Bool) : State :=
  let skipped (s : State) : State :=
    makeReady (modFib (settleGroup s c slot) c slot fun f => skipFibre s (getCore s c) f) c slot
  match f.sch.wait, skip with
  | .dqFault n, false => resendHeads s (faulted s c slot f) n
  | .dqFault n, true => skipped (dqFree s c slot n)
  | _, true => skipped s
  | _, false => makeReady s c slot

/-- The bits of a mask of dword j of a saved block are written in the save area. Those in an uncorrectable atom are not,
and the write is reported as every other (01 R12). -/
def savedPoke (s : State) (t : Task) (place j : Nat) (mask v : W64) : State :=
  let loc := blockLoc t place j
  if mask = BitVec.allOnes 64 then locWrite s runtimeAsid loc 8 v.toNat
  else
    match locRead s runtimeAsid loc 8 with
    | (s, .ok old) => locWrite s runtimeAsid loc 8 (blend (BitVec.ofNat 64 old) v mask).toNat
    | (s, .error .memEcc) => locWrite s runtimeAsid loc 8 v.toNat
    | (s, .error _) => s

/-- The entries at the head of a saved fibre's data queue are freed. -/
def dropHeads (k : Core) (f : Fibre) (n : Nat) : Core × Fibre :=
  ({ k with q := { k.q with pool := (f.sch.dq.take n).foldl ndel k.q.pool } },
    { f with sch := { f.sch with dq := f.sch.dq.drop n } })

/-- The core as it is saved, with a fibre of it woken, and the pool entries that this frees: a skip moves the fibre past
its word and lets it stand with its group again (06 R146), and frees the entries of a dq.pop. -/
def wokenCore (k : Core) (dense : Bool) (slot : Nat) (f : Fibre) (skip : Bool) (past : Fibre → Fibre) : Core × List Nat :=
  let gone := match f.sch.wait, skip with
    | .dqFault n, true => f.sch.dq.take n
    | _, _ => []
  let (k, f) := if skip then dropHeads k (past f) gone.length else (k, f)
  let wait : Wait := match f.sch.wait, skip with
    | .dqFault n, false => .dqFault n
    | _, _ => .none
  let f := { f with sch := { f.sch with run := .ready, wait := wait, frec := none } }
  let k := { k with fibres := nput k.fibres slot f }
  (if skip && dense then modStrand k slot fun t => { t with alone := false } else k, gone)

/-- A wake reaches a fibre that is saved: its reason is cleared in the saved context, and with it what the save area
holds of the fibre (15 R388). The reads of a dq.pop are sent again when it is restored, or with a skip its entries are
freed (11 R275). -/
def wakeSaved (s : State) (o : OldFid) (skip : Bool) : State :=
  match taskOf s o.tid with
  | none => s
  | some (a, t) =>
      match t.saved[o.place]? with
      | none => s
      | some k =>
          match nget k.fibres o.slot with
          | none => s
          | some f =>
              if f.sch.run != .parked .fault then s
              else
                let dense := fld o.fid 20 2 == kindCode .dense
                let c := if dense then 4096 else 0
                let (k, gone) := wokenCore k dense o.slot f skip (skipFibre s k)
                let s := modTask s a fun t => { t with saved := t.saved.set o.place k }
                let whole (s : State) (j : Nat) : State := savedPoke s t o.place j (BitVec.allOnes 64) (blockGet c k j)
                let s := whole (whole s (ctxDword c o.slot 0)) (ctxDword c o.slot 9)
                let s := gone.foldl (fun s e => whole (whole s (poolDword c e 0)) (poolDword c e 1)) s
                if dense then
                  if skip then savedPoke s t o.place lockDword (1 <<< (40 + o.slot)) 0 else s
                else savedPoke s t o.place (slotDword o.slot) (7 <<< (32 * (o.slot % 2))) (1 <<< (32 * (o.slot % 2)))

/-- The code that a wake returns, with its effect: 3 for a fibre whose task is being pre-empted or is saved, 2 for one
whose task is being ended, whose cores are frozen and stopped (07 R173, 15 R389); 2 also for a free slot of a frozen
core (DEDUCED, log 57). -/
def wakeCode (s : State) (target : Nat) (skip : Bool) : State × Nat :=
  match s.tasks.oldFids.find? fun o => o.fid == target with
  | some o =>
      (wakeSaved s o skip, 3)
  | none =>
      match fidCore target with
      | none => (s, 2)
      | some c =>
          let slot := target % 256
          match getFib s c slot with
          | none => (s, 2)
          | some f =>
              let k := getCore s c
              if k.frozen.isSome then (s, if k.stopped then 2 else 4)
              else if f.sch.run == .parked .fault
                  && !(getDie s (dieOf c)).held.any (fun h => h.1 == srcFibre c slot) then
                (wakeFault s c slot f skip, if k.stopped then 3 else 0)
              else (s, 1)

/-- WAKE_DELIVERY: the wake reaches its target, and its code the fibre that issued it. -/
def execWakeDelivery (id : Nat) (s : State) : Host.Outcome State Fault Refusal :=
  match nget s.net.msgs id with
  | some (.wake who target skip d) =>
      if !inOrder s id (.wake who target skip d) then .next s
      else
        let (s, code) := wakeCode (takeMsg s id) target skip
        .next (codeTo s who d (BitVec.ofNat 64 code))
  | _ => .next s

end Sys2Proof.Machine
end

