-- ==== Sys2Proof/Machine/HostPort.lean ====
section
/-! DEFINITION. What the host does through the CXL port: snoops, answers, the link (08 R193, R194; 16 R396). -/

namespace Sys2Proof.Machine

/-- Whether a write of the device waits for the host to grant it a line. -/
def writeUnderWay (s : State) (line : Nat) : Bool :=
  s.net.reqs.any fun x => x.2.deferred && x.2.answer.isNone && needsWrite x.2.acc.op &&
    match x.2.place with
    | .host a true => a / 64 == line
    | _ => false

/-- HOST_SNOOP: a snoop enters the queue of 32 and is answered; from a write that the host has still to grant its line
it takes the line afterwards. -/
def execHostSnoop (line : Nat) (own : Bool) (s : State) : Host.Outcome State Fault Refusal :=
  .next (if s.host.up && s.host.snoops.length < 32 then
      modHost s fun h => snoopIn (if writeUnderWay s line then snoopTakes h line own else h) line own
    else s)

/-- The transactions of a list end. -/
def finishTxns (s : State) (ids : List Nat) : State :=
  ids.foldl (fun s id => match getTxn s id with
    | some t => finishTxn s id t
    | none => s) s

/-- The acquires that wait for the snoop queue wait for one snoop fewer; those that wait for no other complete
(09 R225). -/
def acquiresGoOn (s : State) : State :=
  finishTxns (modTxns s fun m => m.map fun x => (x.1, { x.2 with snoops := x.2.snoops - 1 }))
    ((s.net.txns.filter fun x => x.2.snoops == 1).map (·.1))

/-- SNOOP_APPLY: the oldest snoop of the queue is applied. -/
def execSnoopApply (s : State) : Host.Outcome State Fault Refusal := .next (acquiresGoOn (modHost s snoopOne))

/-- A request ends with the host's answer: the line, or none for a CXL error, which is a BUS_ERROR (08 R194). A
snoop that took the line while the request was on its way takes it once the write stands there (08 R216). -/
def hostReply (s : State) (id : Nat) (r : Req) (ha : Nat) (cached grantE : Bool) : Option W512 → State
  | none => answerReq s id (.err .busError)
  | some line =>
      let (h, v) := hostAnswer s.host ha cached r.acc grantE line
      let h := if cached && needsWrite r.acc.op then giveTaken h (ha / 64) else h
      answerReq { s with host := h } id (.ok (BitVec.ofNat 512 v) s.time.toNat true)

/-- HOST_RESPONSE: the host answers a request that waits for it. -/
def execHostResponse (id : Nat) (grantE : Bool) (line : Option W512) (s : State) : Host.Outcome State Fault Refusal :=
  match getReq s id with
  | some r =>
      (match r.place with
       | .host a cached =>
           .next (if !r.deferred || r.answer.isSome || !s.host.up then s else hostReply s id r a cached grantE line)
       | _ => .next s)
  | none => .next s

/-- Whether a request is the reply, not yet come, of an acquire at .sys, which waits on the snoop queue (09 R225). -/
def acquiring (s : State) (r : Req) : Bool :=
  match r.origin with
  | .txn id _ => (getTxn s id).any (·.acq)
  | _ => false

/-- What the loss of the link makes of a request: one to host memory ends with BUS_ERROR, and so does, while snoops
are queued, an acquire that waits on their queue (16 R396, R412). -/
def lostReq (s : State) (r : Req) : Req :=
  let down : Req := { r with answer := some (.err .busError), deferred := false }
  match r.place, r.answer with
  | .host _ _, none => down
  | _, some _ => if acquiring s r && !s.host.snoops.isEmpty then down else r
  | _, none => r

/-- The link is lost: with it every line, and every outstanding request to host memory ends with BUS_ERROR. -/
def linkLost (s : State) : State :=
  let t := modReqs s fun m => m.map fun x => (x.1, lostReq s x.2)
  modHost t fun h => { h with lines := [], snoops := [], taken := [], up := false }

/-- The acquires that wait for the snoop queue complete with BUS_ERROR (16 R412). -/
def acquiresFail (s : State) : State :=
  ((s.net.txns.filter fun x => x.2.snoops != 0).map (·.1)).foldl (fun s id => match getTxn s id with
    | some t => failTxn s id t (.busError, (planLoc t).kind, (planLoc t).addr)
    | none => s) s

/-- CXL_LINK_DOWN (16 R396, R412). -/
def execCxlLinkDown (s : State) : Host.Outcome State Fault Refusal := .next (acquiresFail (linkLost s))

/-- CXL_LINK_RETRAIN: the link is up again. -/
def execCxlLinkRetrain (s : State) : Host.Outcome State Fault Refusal := .next (modHost s fun h => { h with up := true })

end Sys2Proof.Machine
end

