-- ==== Sys2Proof/Machine/MatrixEvents.lean ====
section
/-! DEFINITION. The steps of the matrix engine, the ends of ring operations, and the fusion line (06 R139,
R140, R143-R148). -/

namespace Sys2Proof.Machine

/-! ## mma (06 R139, R140) -/

/-- MMA_STEP: the turn of a strand whose fibre waits for the matrix engine: one row of its mma, or half of
one; a turn passes without a step while the latch rotates or the accumulator is exchanged. A step of Kt 128
reads its A row, the latch, the scales and the decode table whole in its second turn (DESIGN CHOICE: 06 R137 and
R140 give the table's reading to the step and do not divide it; log 45). -/
def execMmaStep (core strand : Nat) (s : State) : Host.Outcome State Fault Refusal :=
  let k := getCore s core
  match onStrand k strand with
  | some (slot, f) =>
      (match turnOf s core strand, f.sch.wait with
       | .step, .mma acc va fa fb n cnt half flags =>
           if cycleUsed k then .next s
           else if k.mx.rotating || k.mx.busy.contains acc then .next (passTurn s core strand)
           else if stepK fa = 128 && !half then
             .next (setWait (takeTurn s core strand) core slot .matrix (.mma acc va fa fb n cnt true flags))
           else
             let (k, fl) := mmaRow (getCore (takeTurn s core strand) core) f (Fin.ofNat 4 acc) va fa fb n
             let s := setCore s core k
             let flags := flags ||| fl
             if cnt ≤ n + 1 then .next (makeReady (modFib s core slot fun f => orFlags f flags) core slot)
             else .next (setWait s core slot .matrix (.mma acc va fa fb (n + 1) cnt false flags))
       | .step, _ => .next (passTurn s core strand)
       | _, _ => .next s)
  | none => .next s

/-! ## The ring (06 R143-R145) -/

/-- The member at an index of a ring operation's group. -/
def ringCore (r : RingOp) (m : Nat) : Nat := r.cores.getD (m % r.cores.length) 0

/-- Latches and scales move on by the hops of a rotation. -/
def rotateLatches (s : State) (r : RingOp) : State :=
  let n := r.cores.length
  (upto n).foldl (fun t m =>
    let from_ := (getCore s (ringCore r m)).mx
    modMx t (ringCore r (m + r.hops)) fun x =>
      { x with latch := from_.latch, scales := from_.scales, rotating := false }) s

/-- The transpose of an accumulator's elements. -/
def transposeAcc (els : NMap W32) : NMap W32 :=
  els.foldl (fun m x => nput m (x.1 % 64 * 64 + x.1 % 4096 / 64) x.2) []

/-- The elements of one accumulator, keyed by 64·row + column. -/
def accRows (m : NMap W32) (a : Nat) : NMap W32 := (accOf m a).map fun x => (x.1 % 4096, x.2)

/-- Accumulators are exchanged by a permutation entry. -/
def exchangeAccs (s : State) (r : RingOp) (a : Nat) (e : BitVec 32) : State :=
  let n := r.cores.length
  (upto n).foldl (fun t m =>
    let els := accRows (getCore s (ringCore r (bf e (4 * m) 3))).mx.acc a
    let els := if bitAt e (4 * m + 3) then transposeAcc els else els
    modMx t (ringCore r m) fun x => { x with acc := accSet x.acc a els, busy := x.busy.erase a }) s

/-- The fibres that wait for a ring operation are READY. -/
def ringReady (s : State) (id : Nat) (r : RingOp) : State :=
  r.cores.foldl (fun s c =>
    match onStrand (getCore s c) r.strand with
    | some (slot, f) => if f.sch.wait == .ring id then makeReady s c slot else s
    | none => s) s

/-- mldb writes that waited for a latch land, in issue order. -/
def landLatches (s : State) (c : Nat) : State :=
  let waits := (getCore s c).mx.latchWaits
  waits.foldl (fun s id =>
    match getTxn s id with
    | some t => finishTxn s id t
    | none => s) (modMx s c fun m => { m with latchWaits := [] })

/-- A ring operation is over. -/
def ringEnd (s : State) (id : Nat) (r : RingOp) : State :=
  let s := { s with net := { s.net with rings := ndel s.net.rings id } }
  ringsStart (r.cores.foldl landLatches (ringReady s id r))

/-- MROT_COMPLETE. -/
def execMrotComplete (id : Nat) (s : State) : Host.Outcome State Fault Refusal :=
  match nget s.net.rings id with
  | some r =>
      (match r.started, r.exch with
       | true, none => .next (ringEnd (rotateLatches s r) id r)
       | _, _ => .next s)
  | none => .next s

/-- MXCH_COMPLETE. -/
def execMxchComplete (id : Nat) (s : State) : Host.Outcome State Fault Refusal :=
  match nget s.net.rings id with
  | some r =>
      (match r.started, r.exch with
       | true, some (a, e) => .next (ringEnd (exchangeAccs s r a e) id r)
       | _, _ => .next s)
  | none => .next s

/-! ## The wired-AND line (06 R148) -/

/-- The fibre on a strand, if it waits in rejoin and its limit has not passed (15 R378): its slot, its PC and the
words of its issue. -/
def rejoining (s : State) (c st : Nat) : Option (Nat × W64 × Nat) :=
  match onStrand (getCore s c) st with
  | some (slot, f) => (match f.sch.wait with
      | .rejoin words => if f.sch.late then none else some (slot, f.pc, words)
      | _ => none)
  | none => none

/-- A member's rejoin completes: it is in lock-step, at the word after the leader's rejoin, or at the
leader's pair, which the group then issues together. -/
def joinMember (s : State) (st : Nat) (pc : W64) (m : Nat) : State :=
  match rejoining s m st with
  | some (slot, _, _) =>
      let s := modCore s m fun k => modStrand k st fun t => { t with lock := true, line := false, alone := false }
      let s := modFib s m slot fun f => { putP f 7 true with pc := pc }
      let s := modFib s m slot fun f => { f with sch := { f.sch with t0 := none } }
      makeReady s m slot
  | none => s

/-- REJOIN_LINE_HIGH. -/
def execRejoinLineHigh (core strand : Nat) (s : State) : Host.Outcome State Fault Refusal :=
  let size := (strandAt (getCore s core) strand).fuse
  let group := groupCores core size
  if kindOf core != .dense || size = 0 || !lineHigh s core strand size
      || !group.all (fun m => (rejoining s m strand).isSome) then .next s
  else
    match rejoining s (group.headD core) strand with
    | some (_, pc, words) =>
        .next (group.foldl (fun s m => joinMember s strand (if words = 1 then pc + 4 else pc) m) s)
    | none => .next s

end Sys2Proof.Machine
end

