-- ==== Sys2Proof/Machine/Barriers.lean ====
section
/-! DEFINITION. Barriers as their wires and trees complete them, and the ends of waits by TIMEOUT
(07 R160; 08 R209; 14 R354-R357, R370). -/

namespace Sys2Proof.Machine

/-! ## Completion (14 R355) -/

/-- BARRIER_COMPLETE (14 R355): a barrier whose last party has contributed completes, whatever its parties have
become since. -/
def execBarrierComplete (core : Nat) (kind : BarKind) (s : State) : Host.Outcome State Fault Refusal :=
  if barDone s core kind then
    let i := barInstance s core kind
    let ps := parties s core kind
    let s := { s with shared := { s.shared with
      phases := nmodD s.shared.phases i false (!·), bound := s.shared.bound.filter (· != i) } }
    .next (ps.foldl (fun s x =>
      let s := (inBarrier x.2 kind).foldl (fun s y => leaveBarrier s x.1 y.1 y.2.1 y.2.2 0 true) s
      modBar s x.1 kind fun _ => 0) s)
  else .next s

/-! ## TIMEOUT (07 R160) -/

/-- A wait that ends by TIMEOUT completes its instruction: p7 is false, or, for twait, the destination reads -1;
the PC goes on, and a member owes its group no word any more (06 R146). The C half of a pair whose A half has not been performed is issued again to say so (log 46). -/
def expire (s : State) (c slot : Nat) : State :=
  match getFib s c slot with
  | none => s
  | some f =>
      if f.sch.pass = 0 then makeReady (modFib s c slot fun f => { f with sch := { f.sch with late := true } }) c slot
      else
        let s := settleGroup s c slot
        let s := match f.sch.wait with
          | .rejoin _ => modCore s c fun k => modStrand k slot fun t => { t with fuse := 0, line := false }
          | _ => s
        makeReady (modFib s c slot fun f =>
          let f := match f.sch.wait with
            | .task _ d => putReg f d (-1)
            | _ => putP f 7 false
          { f with pc := f.pc + BitVec.ofNat 64 f.sch.pass, ctl := { f.ctl with adone := false, pp := false },
                   sch := { f.sch with t0 := none, late := false } }) c slot

/-- WAIT_TIMEOUT: the limit of a wait has passed and its condition does not hold, or did not when the core was
frozen (15 R378). -/
def execWaitTimeout (core slot : Nat) (s : State) : Host.Outcome State Fault Refusal :=
  let k := getCore s core
  match getFib s core slot with
  | none => .next s
  | some f =>
      if k.frozen.isSome || k.stopped || !(f.sch.late || limitPassed s core slot f) then .next s
      else
        match f.sch.run, f.sch.wait with
        | .parked _, .fullEmpty w => .next (expire (feLeave s core slot w) core slot)
        | .parked _, .bar kind d pd _ => .next (expireBar s core slot kind d pd)
        | .parked _, .txn id => .next (withdrawFe s core slot id)
        | .parked _, _ => .next (expire s core slot)
        | _, _ => .next s

/-- Whether a wait of a core has to end by TIMEOUT before time goes on. -/
def limitsDue (s : State) : Bool :=
  s.cores.any fun x => x.2.frozen.isNone && !x.2.stopped && x.2.fibres.any fun y =>
    limitPassed s x.1 y.1 y.2 ||
      (y.2.sch.late && match y.2.sch.run with
        | .parked _ => true
        | .ready | .running _ => false)

/-- The waits of a core that have passed their limits are marked. -/
def lateCore (s : State) (c : Nat) (k : Core) : Core :=
  { k with fibres := k.fibres.map fun y =>
      if limitPassed s c y.1 y.2 then (y.1, { y.2 with sch := { y.2.sch with late := true } }) else y }

/-- The waits of frozen cores whose limits have passed end by TIMEOUT when they are next evaluated (15 R378). -/
def lateWaits (s : State) : State :=
  { s with cores := s.cores.map fun x => if x.2.frozen.isSome then (x.1, lateCore s x.1 x.2) else x }

end Sys2Proof.Machine
end

