-- ==== Sys2Proof/Machine/Governor.lean ====
section
/-! DEFINITION. The time base, the governor of the energy allowance, the voltage-frequency loops, the
temperature rules and lane equalisation (14 R358-R363; 08 R192; 16 R394, R411). The measured energies and
temperatures come with the step. -/

namespace Sys2Proof.Machine

/-- Whether a combining-buffer entry has to drain before time goes on (09 R231, 10 R260). -/
def overdue (s : State) : Bool :=
  s.geckos.any fun g => g.2.cb.any fun e =>
    match e.2.oldest with
    | some t => decide (t + staleNs (max e.2.cls 1) ≤ s.time.toNat)
    | none => false

/-- A cell of DRAM is disturbed: the outside world may leave an atom correctable or uncorrectable (01 R12;
08 R189, R190). -/
def upset (s : State) : State :=
  let t := { s with fresh := s.fresh + 1 }
  match Config.upset s.fresh with
  | some (atom, true) => { t with mem := { t.mem with bad := addTo t.mem.bad (atom % 2 ^ 34) } }
  | some (atom, false) => { t with mem := { t.mem with weak := addTo t.mem.weak (atom % 2 ^ 34) } }
  | none => t

/-- Whether a request to another device has to end before time goes on (16 R397). -/
def fabricDue (s : State) : Bool := s.net.reqs.any fun x => fabricLate s x.2

/-- The COLL commands that have no outcome after the fabric timeout stop with it (12 R297, 16 R397); that of a task
that is being ended is discarded (16 R412). -/
def lateColls (s : State) : State :=
  let late := s.fab.colls.filter fun x => decide (x.2.2 + fabricLimit ≤ s.time.toNat)
  late.foldl (fun s x => match nget (getCore s x.1).fifo x.2.1 with
      | some y => if endedCore s x.1 then s
          else elemFault s x.1 x.2.1 0 (.fabricTimeout, .none, 0) y.w[2].toNat
      | none => s)
    { s with fab := { s.fab with colls := s.fab.colls.filter fun x => !decide (x.2.2 + fabricLimit ≤ s.time.toNat) } }

/-- The reference of the domain sends a time beacon every 10 µs (16 R406). -/
def sendBeacon (s : State) : State :=
  if s.regs.timeRef = s.regs.domid.toNat && s.time.toNat % 10000 = 0 then
    { s with fab := { s.fab with beacons := s.time :: s.fab.beacons } }
  else s

/-! ## Domains (14 R361): valleys 0-15, clusters 16 and 17 -/

/-- A domain. -/
def getDom (s : State) (d : Nat) : Domain := ngetD s.doms d Domain.blank

/-- Changing a domain. -/
def modDom (s : State) (d : Nat) (f : Domain → Domain) : State :=
  { s with doms := nput s.doms d (f (getDom s d)) }

/-- PK and F of a domain, in µJ. -/
def peakOf (d : Nat) : Nat := if d < 16 then 1281 else 8750
def floorOf (d : Nat) : Nat := if d < 16 then 160 else 1094

/-- The length of a window, in ns (14 R360). -/
def windowNs : Nat := 50000

/-- The whole µs since the window began. -/
def windowAge (s : State) : Nat := (s.time.toNat - s.gov.start) / 1000

/-- Whether the window has lasted its 50 µs (14 R360). -/
def windowDue (s : State) : Bool := s.gov.win != 0 && decide (s.gov.start + windowNs ≤ s.time.toNat)

/-- Whether the loop of a domain has not evaluated in this µs of the window (14 R362). -/
def evalDue (s : State) (dom : Nat) : Bool := s.gov.win != 0 && decide ((getDom s dom).evalAt < windowAge s)

/-- What has to happen before TIME goes on: a drain that is due (09 R231), the end of a wait whose limit has passed
(07 R160), that of a request to another device (16 R397), the next window (14 R360), the evaluation of a domain's loop
(14 R362). -/
def tickWaits (s : State) : Bool :=
  overdue s || limitsDue s || fabricDue s || windowDue s || (upto 18).any (evalDue s)

/-- TIME_TICK: TIME counts nanoseconds (14 R358), once all that is due at this TIME has happened. One notice goes out
(16 R394). -/
def execTimeTick (s : State) : Host.Outcome State Fault Refusal :=
  if tickWaits s then .next s
  else
    let t := sendBeacon <| sendNotice (upset (lateColls (lateWaits s)))
    .next { t with time := t.time + 1 }

/-- The sums of PK and F over all domains. -/
def peakSum : Nat := 37996
def floorSum : Nat := 4748

/-- The demand of a domain from its spend in the window that ends; PK / 8 is F. -/
def demandOf (d : Nat) (x : Domain) : Nat :=
  if x.stepped then max (floorOf d) (min (peakOf d) (x.spend + floorOf d)) else max (floorOf d) x.spend

/-- The allowance of a domain with demand r, out of a pool p, when the demands add up to sum. -/
def allowance (p sum d r : Nat) : Nat :=
  if sum ≤ p then min (peakOf d) (r + (p - sum) * peakOf d / peakSum)
  else floorOf d + (r - floorOf d) * (p - floorSum) / (sum - floorSum)

/-- The governor state of the next window (14 R360); demand is the total demand plus U, n the windows
spent in this state. -/
def govNext (st demand n : Nat) : Nat :=
  if st = 0 then (if 100000 < demand then 1 else 0)
  else if st = 1 then (if 200 ≤ n || demand ≤ 100000 then 2 else 1)
  else if 800 ≤ n then 0 else 2

/-- The limit of a window in a governor state. -/
def govLimit (st : Nat) : Nat := if st = 1 then 120000 else 100000

/-- What the domains of a list have spent in the window. -/
def spentBy (s : State) (ds : List Nat) : Nat := ds.foldl (fun n d => n + (getDom s d).spend) 0

/-- The energy that the parts outside the domains never exceed in a window (14 R360). -/
def measuredMax : Nat := 70000

/-- The energy measured outside the domains, within what a window of the governor's state may draw (01 R18). -/
def measured (s : State) (u : Nat) : Nat := min (min u measuredMax) (govLimit s.gov.st - spentBy s (upto 18))

/-- GOVERNOR_WINDOW: 50 µs after the last window began, and once every domain has evaluated for the last time in it,
the next begins, with the energy u measured outside the domains in the one that ends (14 R360, R361). -/
def execGovernorWindow (u : Nat) (s : State) : Host.Outcome State Fault Refusal :=
  if s.gov.win != 0 && (!windowDue s || (upto 18).any (evalDue s)) then .next s
  else
  let ds := upto 18
  let u' := measured s u + ds.foldl (fun n d => n + (getDom s d).floorUse) 0 + s.gov.extra
  let sum := ds.foldl (fun n d => n + demandOf d (getDom s d)) 0
  let st := govNext s.gov.st (sum + u') s.gov.inState
  let p := max (govLimit st - u') floorSum
  let gov : Gov :=
    { st := st, win := s.gov.win + 1, inState := if st = s.gov.st then s.gov.inState + 1 else 1,
      mdraw := measured s u + spentBy s ds, start := s.time.toNat, extra := p + u' - govLimit st }
  let next (s : State) (d : Nat) : State := modDom s d fun x =>
    let b := allowance p sum d (demandOf d x)
    { x with gated := false, bud := b, res := b, prev := x.spend, spend := 0, floorUse := 0, stepped := false,
             evalAt := 0 }
  .next (ds.foldl next { s with gov := gov })

/-- The cap of a domain's voltage-frequency point. -/
def capOf (x : Domain) : Nat := min x.capStack x.capDie

/-- What a domain may have spent at most: its allowance and its floor (14 R361), within what the device may draw in
the window (01 R18). -/
def spendMax (s : State) (dom : Nat) : Nat :=
  min ((getDom s dom).bud + floorOf dom) (govLimit s.gov.st - spentBy s ((upto 18).filter (· != dom)))

/-- A domain whose RES has reached 0 is gated for the rest of the window (14 R362). -/
def gateDom (s : State) (dom : Nat) : State :=
  bumpDev (modDom s dom fun x => { x with vfp := 0, gated := true, stepped := true }) 0x305

/-- VF_EVALUATE: once in a µs of the window, the loop of a domain looks at what it has spent so far, e µs after the
window's start (14 R361, R362). -/
def execVfEvaluate (dom spend : Nat) (s : State) : Host.Outcome State Fault Refusal :=
  if 18 ≤ dom || !evalDue s dom then .next s
  else
    let e := windowAge s
    let spend := max (getDom s dom).spend (min spend (spendMax s dom))
    let s := modDom s dom fun x =>
      { x with spend := spend, res := x.bud - spend, floorUse := spend - x.bud, evalAt := e }
    if (getDom s dom).res = 0 then .next (if (getDom s dom).gated then s else gateDom s dom)
    else .next (modDom s dom fun x =>
      if x.bud * e < spend * 50 then
        (if 0 < x.vfp then { x with vfp := x.vfp - 1, stepped := true } else x)
      else if 5 * (spend * 50) < 4 * (x.bud * e) && x.vfp < capOf x && !x.gated then { x with vfp := x.vfp + 1 }
      else x)

/-- ENERGY_EXHAUSTED: RES of a domain has reached 0 (14 R362). -/
def execEnergyExhausted (dom : Nat) (s : State) : Host.Outcome State Fault Refusal :=
  let x := getDom s dom
  if 18 ≤ dom || x.res != 0 || x.gated || s.gov.win = 0 then .next s
  else .next (gateDom s dom)

/-- EQUALISATION: each lane that is retrained counts; nothing else changes (14 R363). -/
def execEqualisation (lanes : List Nat) (s : State) : Host.Outcome State Fault Refusal :=
  .next (lanes.foldl (fun s _ => bumpDev s 0x304) s)

/-! ## Temperatures, in 1/16 °C (14 R362, 16 R391) -/

/-- What a report of a temperature does to a cap: it falls at the threshold and lifts 5 °C below it. -/
def capAfter (temp limit : Int) (low old : Nat) : Nat :=
  if limit * 16 ≤ temp then low else if temp ≤ (limit - 5) * 16 then 12 else old

/-- A sensor's value; a sensor that reads 0 is not listed. -/
def setTemp (s : State) (sensor : Nat) (t : Int) : State :=
  let temps := if t = 0 then ndel s.regs.temps sensor else nput s.regs.temps sensor t
  { s with regs := { s.regs with temps := temps } }

/-- A domain that stands above its cap is stepped down to it. -/
def underCap (x : Domain) : Domain :=
  if capOf x < x.vfp then { x with vfp := capOf x, stepped := true } else x

/-- STACK_TEMPERATURE_REPORT: the two valleys of the stack are capped at point 8 from 95 °C (08 R192). -/
def execStackTemperatureReport (stack : Nat) (temp : Int) (s : State) : Host.Outcome State Fault Refusal :=
  if 8 ≤ stack then .next s
  else
    let one (s : State) (d : Nat) : State :=
      modDom s d fun x => underCap { x with capStack := capAfter temp 95 8 x.capStack }
    .next ([2 * stack, 2 * stack + 1].foldl one (setTemp s stack temp))

/-- The domains of a die: its eight valleys and its cluster. -/
def domsOf (die : Nat) : List Nat := (upto 8).map (8 * die + ·) ++ [16 + die]

/-- COMPUTE_DIE_TEMPERATURE: every domain of the die is capped at point 0 from 105 °C. -/
def execComputeDieTemperature (die : Nat) (temp : Int) (s : State) : Host.Outcome State Fault Refusal :=
  if 2 ≤ die then .next s
  else
    let one (s : State) (d : Nat) : State :=
      modDom s d fun x => underCap { x with capDie := capAfter temp 105 0 x.capDie }
    .next ((domsOf die).foldl one (setTemp s (8 + die) temp))

/-- The STATUS frame (16 R394). -/
def sendStatus (s : State) : State :=
  sendFrame s (.status ((upto 12).map fun j => ngetD s.regs.temps j 0) s.gov.mdraw s.gov.st)

/-- The clocks stop until a RESET (16 R411); a checkpoint in progress ends (16 R412). -/
def tripDevice (s : State) : State :=
  { s with boot := { s.boot with stage := .tripped },
           chaez := { s.chaez with held := [], acts := [], stream := none }, agenda := [] }

/-- The module's temperature is measured: the device trips from 115 °C (14 R362, 16 R411). -/
def moduleTemp (s : State) (temp : Int) : State :=
  let s := setTemp s 11 temp
  if temp < 115 * 16 then s else tripDevice s

/-- STATUS_REPORT, with the temperatures of the I/O die and of the module. -/
def execStatusReport (io modl : Int) (s : State) : Host.Outcome State Fault Refusal :=
  .next (sendStatus (moduleTemp (setTemp s 10 io) modl))

/-- THERMAL_TRIP: from a module temperature of 115 °C the clocks stop until a RESET (16 R411). -/
def execThermalTrip (temp : Int) (s : State) : Host.Outcome State Fault Refusal :=
  .next (if temp < 115 * 16 then s else sendStatus (moduleTemp s temp))

end Sys2Proof.Machine
end

