-- ==== Sys2Proof/Machine/Placement.lean ====
section
/-! DEFINITION. The order of tasks, the mapping of a task on free cores and scratchpad, its admission, and the
candidates for pre-emption (02 R33, R35; 12 R308, R309, R311, R312; 13 R330; 14 R355). -/

namespace Sys2Proof.Machine

/-! ## Seats: the positions of a placement map with their crews (13 R329) -/

abbrev Seat := PosRec × CrewRec

def seatsOf (t : Task) : List Seat :=
  let cs := crewsOf t.head t.base
  (placesOf t.head t.base).map fun p => (p, crewAt cs p.crew)

/-- The relative valleys (kind 0) or clusters (kind 1) that a task uses, ascending. -/
def relsOf (t : Task) (kind : Nat) : List Nat :=
  (upto 16).filter fun r => (seatsOf t).any fun x => x.2.kind == kind && x.1.rel == r

/-- What a list gives a relative number, by its place among those used. -/
def atRel (rels vals : List Nat) (r : Nat) : Nat :=
  match (rels.zip vals).find? fun x => x.1 == r with
  | some x => x.2
  | none => 0

/-- The core of a seat when its valley or cluster is a physical one. -/
def seatOn (x : Seat) (v : Nat) : Nat :=
  if x.2.kind = 0 then v * 256 + x.1.at_ else 4096 + v * 8 + x.1.at_

/-- The task image's TFEAT holds MATRIX. -/
def usesMatrix (tfeat : W64) : Bool := bitAt tfeat 3

/-- The task whose crew holds a core, when the tasks of a list are gone. -/
def heldBy (s : State) (gone : List Nat) (c : Nat) : Option Crew :=
  match (getCore s c).crew with
  | some w => if gone.contains w.tid then none else some w
  | none => none

/-- The crews on a range of cores. -/
def crewsOn (s : State) (gone : List Nat) (lo n : Nat) : List Crew :=
  s.cores.filterMap fun x => if lo ≤ x.1 && x.1 < lo + n then heldBy s gone x.1 else none

/-- How many tasks some crews belong to. -/
def tasksIn (ws : List Crew) : Nat :=
  (ws.foldl (fun (ts : List Nat) w => if ts.contains w.tid then ts else w.tid :: ts) []).length

/-- Whether a physical valley takes a relative one: the fixed mark, fewer than four tasks, every position
free. -/
def valleyOk (s : State) (gone : List Nat) (t : Task) (r v : Nat) : Bool :=
  let here := (seatsOf t).filter fun x => x.2.kind == 0 && x.1.rel == r
  here.all (fun x => !x.1.fixed || x.1.valley == v)
    && tasksIn (crewsOn s gone (256 * v) 256) < 4
    && here.all fun x => (heldBy s gone (seatOn x v)).isNone

/-- The scratchpad ranges of a physical cluster that resident tasks hold, as start and size. -/
def regionsIn (s : State) (gone : List Nat) (v : Nat) : List (Nat × Nat) :=
  s.tasks.table.filterMap fun e =>
    let t := e.2
    if t.st == .resident && !gone.contains t.tid then
      match ((relsOf t 1).zip (t.clusters.zip t.regions)).find? fun x => x.2.1 == v with
      | some (r, _, a) => some (a, regionSize t.head t.base r)
      | none => none
    else none

/-- Whether a range of a cluster's scratchpad is free for a region. -/
def rangeFree (taken : List (Nat × Nat)) (a n : Nat) : Bool :=
  a % 65536 == 0 && a + n ≤ 2 ^ 24 && taken.all fun x => !overlap a n x.1 x.2

/-- Whether some range is free: at the start, or behind a region. -/
def someRange (taken : List (Nat × Nat)) (n : Nat) : Bool :=
  rangeFree taken 0 n || taken.any fun x => rangeFree taken (x.1 + x.2) n

/-- Whether a physical cluster takes a relative one: fewer than four tasks, every core free, no sharing with or
by a task that uses MATRIX, a range for the region. -/
def clusterOk (s : State) (gone : List Nat) (t : Task) (r v : Nat) : Bool :=
  let here := (seatsOf t).filter fun x => x.2.kind == 1 && x.1.rel == r
  let others := crewsOn s gone (4096 + 8 * v) 8
  tasksIn others < 4
    && (others.isEmpty || !usesMatrix (BitVec.ofNat 64 (imageTfeat t.head t.base)))
    && others.all (fun w => !usesMatrix w.tfeat)
    && (here.all fun x => (heldBy s gone (seatOn x v)).isNone)
    && someRange (regionsIn s gone v) (regionSize t.head t.base r)

/-- The first one-to-one assignment, by the lowest physical numbers in relative order. -/
def assign (ok : Nat → Nat → Bool) (n : Nat) : List Nat → List Nat → Option (List Nat)
  | [], _ => some []
  | r :: rs, used =>
      (upto n).findSome? fun v =>
        if used.contains v || !ok r v then none else (assign ok n rs (v :: used)).map fun vs => v :: vs

/-- The mapping of a task: the physical valleys and clusters of its relative ones. -/
def mapTask (s : State) (gone : List Nat) (t : Task) : Option (List Nat × List Nat) :=
  match assign (valleyOk s gone t) 16 (relsOf t 0) [], assign (clusterOk s gone t) 2 (relsOf t 1) [] with
  | some vs, some cs => some (vs, cs)
  | _, _ => none

/-- Energy admission (12 R311). -/
def admitted (s : State) (gone : List Nat) (t : Task) : Bool :=
  s.tasks.table.foldl (fun n e =>
    if e.2.st == .resident && !gone.contains e.2.tid then n + e.2.estimate else n) t.estimate ≤ 100000

/-- Whether a task could be dispatched if some tasks were gone. -/
def fits (s : State) (gone : List Nat) (t : Task) : Bool := admitted s gone t && (mapTask s gone t).isSome

/-! ## The order (12 R308) -/

/-- The effective priority of an ELIGIBLE task. -/
def epriNow (s : State) (t : Task) : Nat := min t.ceil (t.pri + (s.time.toNat - t.since) / 10000000)

/-- H, the first ELIGIBLE task, with its ASID. -/
def firstTask (s : State) : Option (Nat × Task) :=
  leastBy (fun e => (15 - epriNow s e.2) * 2 ^ 64 + e.2.launched) (s.tasks.table.filter fun e => e.2.st == .eligible)

/-- Whether a task has a core in a state. -/
def anyCore (s : State) (t : Task) (p : Core → Bool) : Bool := t.cores.any fun c => p (getCore s c)

/-- Whether the dispatcher has begun to pre-empt a task. -/
def halting (s : State) (t : Task) : Bool := t.st == .resident && anyCore s t (·.stopped)

/-- The candidates for H in the order in which they are taken: lowest priority first, then the most recently
dispatched. -/
def candidates (s : State) (h : Task) : List Task :=
  let ts := (s.tasks.table.map (·.2)).filter fun t =>
    t.st == .resident && t.epri < epriNow s h && !anyCore s t (·.frozen.isSome)
  sortBy (fun t => t.epri * 2 ^ 64 + (2 ^ 64 - 1 - t.order)) ts

/-- The shortest run of candidates whose going lets H in. -/
def victimsFrom (s : State) (h : Task) (gone : List Nat) : List Task → Option (List Nat)
  | [] => none
  | t :: ts =>
      let gone := t.tid :: gone
      if fits s gone h then some gone else victimsFrom s h gone ts

/-- The TIDs that the dispatcher pre-empts for H. -/
def victims (s : State) : List Nat :=
  match firstTask s with
  | some (_, h) => if fits s [] h then [] else (victimsFrom s h [] (candidates s h)).getD []
  | none => []

end Sys2Proof.Machine
end

