-- ==== Sys2Proof/Machine/Preempt.lean ====
section
/-! DEFINITION. Pre-emption of a task: its cores are stopped, what is in flight completes or is withdrawn, and
its state is written to its save area (02 R36, R37; 09 R241; 11 R284; 12 R312-R314; 15 R386-R388). -/

namespace Sys2Proof.Machine

/-- The dispatcher stops a task's cores, or lets them go on. -/
def setStopped (s : State) (t : Task) (b : Bool) : State :=
  t.cores.foldl (fun s c => modCore s c fun k => { k with stopped := b }) s

/-! ## Whether everything in flight has completed -/

/-- A remote full/empty operation that waits at its owner: it is withdrawn. -/
def feWaits (r : Req) : Bool :=
  r.deferred && match r.acc.op with
    | .ldf | .ldfe | .stfw => true
    | _ => false

/-- Whether a request holds up the end of its core's work. -/
def reqBusy (r : Req) : Bool :=
  !feWaits r && match r.origin with
    | .prefetch _ _ => false
    | _ => true

/-- Whether a message in flight of some cores, or to them, completes before they are saved. -/
def msgBusy (cs : List Nat) : Msg → Bool
  | .send who dest _ _ granted _ _ => granted && (cs.contains who.core || cs.contains dest)
  | .migrate who dest _ _ => cs.contains who.core || cs.contains dest
  | .reply _ dest _ _ => cs.contains dest
  | .redFail who _ => cs.contains who.core
  | .reserve _ _ _ | .wake _ _ _ _ | .withdraw _ => false

/-- Whether a command of a core is still to reach an element boundary; COLL and REDUCE run to their end. -/
def cmdBusy (x : Cmd) : Bool :=
  x.st == .running && (!x.flight.isEmpty || x.fault.isSome || cmdCode x.w == cColl || cmdCode x.w == cReduce)

/-- Whether a fibre's wait completes before the save; an acquire whose replies have come is not performed again. -/
def waitBusy (s : State) (c slot : Nat) (f : Fibre) : Bool :=
  match f.sch.run, f.sch.wait with
  | .parked .matrix, _ => true
  | .parked _, .drain _ (.migr _ _) _ _ => false
  | .parked _, .drain _ _ _ _ => true
  | .parked _, .walks _ | .parked _, .stores _ => true
  | .parked _, .txn id => (match getTxn s id with
      | some t => t.snoops != 0
      | none => false)
  | .parked _, .rejoin _ => lineHigh s c slot (strandAt (getCore s c) slot).fuse
  | .parked _, .bar kind _ _ _ => barDone s c kind
  | _, _ => false

/-- Whether a core still has work in flight. -/
def coreBusy (s : State) (c : Nat) : Bool :=
  let k := getCore s c
  k.handler.isSome || !k.q.sb.isEmpty || k.fifo.any (fun e => cmdBusy e.2) || k.fibres.any (fun x => waitBusy s c x.1 x.2)
    || !k.mx.busy.isEmpty || k.mx.rotating

/-- Whether the cores of a task have nothing in flight. -/
def drainedTask (s : State) (cs : List Nat) : Bool :=
  !cs.any (coreBusy s)
    && !s.net.reqs.any (fun r => cs.contains r.2.who.core && reqBusy r.2)
    && !s.net.walks.any (fun w => cs.contains w.2.who.core && !speculative w.2)
    && !s.net.msgs.any (fun m => msgBusy cs m.2)
    && !s.net.rings.any (fun r => r.2.cores.any cs.contains)

/-! ## What is withdrawn -/

/-- A fibre stands at its word again. -/
def standAt (s : State) (w : Issuer) : State := reissue s w

/-- A send whose reservation has not been granted, or a migration that has not, is withdrawn. -/
def withdrawMsg (s : State) (id : Nat) : State :=
  match nget s.net.msgs id with
  | some (.send who dest _ credit _ _ _) =>
      let s := dropSendSlot (takeMsg s id) who.core
      let s := modQ s dest fun q => { q with pending := q.pending.erase who.core }
      let s := match credit with
        | some e =>
            modFib (modQ s who.core fun q => { q with pool := ndel q.pool e }) who.core who.slot fun f =>
              { f with sch := { f.sch with dq := f.sch.dq.filter (· != e) } }
        | none => s
      standAt s who
  | some (.reserve who _ _) => standAt (takeMsg s id) who
  | _ => s

/-- A remote full/empty operation that waits at its owner is withdrawn. -/
def withdrawReq (s : State) (id : Nat) (r : Req) : State :=
  match r.place with
  | .tile c off =>
      let s := modTile (takeReq s id) c fun t => { t with waiters := t.waiters.erase (off / 8, .remote id) }
      serveWord s c (off / 8)
  | _ => takeReq s id

/-- A fibre's transaction of such an operation is withdrawn with it. -/
def withdrawTxn (s : State) (id : Nat) : State :=
  match getTxn s id with
  | some t =>
      let s := s.net.reqs.foldl (fun s x =>
        match x.2.origin with
        | .txn j _ => if j = id then withdrawReq s x.1 x.2 else s
        | _ => s) s
      let s := modTxns s fun m => ndel m id
      let s := modQ s t.who.core fun q => { q with feSlot := if q.feSlot = some t.who.slot then none else q.feSlot }
      standAt s t.who
  | none => s

/-- A parked fibre whose wait does not complete is put back to its word (02 R37; 11 R284; 15 R386). -/
def unpark (s : State) (c slot : Nat) : State :=
  match getFib s c slot with
  | none => s
  | some f =>
      match f.sch.run, f.sch.wait with
      | .parked _, .bar kind _ _ who => standAt (modBar s c kind (· - 1)) who
      | .parked _, .drain _ _ who _ => standAt s who
      | .parked _, .msg id => withdrawMsg s id
      | .parked _, .txn id => withdrawTxn s id
      | .parked _, .fullEmpty w => feLeave s c slot w
      | _, _ => s

/-- A fibre as it is saved: READY, or PARKED with reason 6. -/
def savedFibre (f : Fibre) : Fibre :=
  match f.sch.run with
  | .parked .fault => f
  | .ready | .running _ | .parked _ =>
      { f with sch := { Sched.blank with since := f.sch.since, dq := f.sch.dq, failed := f.sch.failed } }

/-- Senders of other cores that wait for an inbox slot of a core are withdrawn (11 R266). -/
def withdrawSenders (s : State) (c : Nat) : State :=
  s.net.msgs.foldl (fun s x =>
    match x.2 with
    | .send _ dest _ _ _ asked _ => if dest == c && asked then withdrawMsg s x.1 else s
    | _ => s) s

/-- Waiting operations of other cores at a core's tile end: each sender receives p7 := false, as after a withdrawal
(08 R216). -/
def endRemote (s : State) (c : Nat) : State :=
  (getCore s c).tile.waiters.foldl (fun s x =>
    match x.2 with
    | .remote id => answerReq s id (.ok 0 0 false)
    | .fibre _ _ => s) s

/-- Everything of a core that does not complete is withdrawn. -/
def withdrawCore (s : State) (c : Nat) : State :=
  let s := (getCore s c).fibres.foldl (fun s x => unpark s c x.1) s
  endRemote (withdrawSenders s c) c

/-! ## The save -/

/-- The place in the placement map of a core of the task. -/
def placeOf (t : Task) (c : Nat) : Nat := (t.cores.findIdx? (· == c)).getD c

/-- A place of the segments of a task as it stands in its save area: cores by their place in the placement
map, scratchpad by relative cluster and offset in the region. -/
def saveLoc (t : Task) : Loc → Loc
  | .tile c o => .tile (placeOf t c) o
  | .va a g => .va a g
  | .scratch a =>
      match ((relsOf t 1).zip (t.clusters.zip t.regions)).find? fun x => x.2.1 == fld a 24 1 with
      | some (r, _, st) => .scratch (r * 2 ^ 24 + (a % 2 ^ 24 - st))
      | none => .scratch a

/-- A table's source as it is saved; one in the launching segment stays. -/
def saveSrc (t : Task) (x : Nat × Loc) : Nat × Loc := if x.1 = runtimeAsid then x else (x.1, saveLoc t x.2)

/-- A pool entry as it is saved. -/
def saveEntry (t : Task) (e : PoolEntry) : PoolEntry :=
  { e with
    loc := e.loc.map (saveLoc t),
    st := match e.st with
      | .forwarded c i => .forwarded (placeOf t c) i
      | st => st }

/-- A core as it is saved: without its caches, its strands' places and what a mapping gives it. -/
def savedCore (t : Task) (k : Core) : Core :=
  let blank := Core.blank 0
  { k with
    fibres := k.fibres.map fun x => (x.1, savedFibre x.2),
    seq := { k.seq with strands := k.seq.strands.map fun x => { Strand.blank with fuse := x.fuse, lock := x.lock, alone := x.alone } },
    stopped := false,
    caches := blank.caches,
    tile := { k.tile with waiters := [], resv := [] },
    q := { k.q with
      pool := (k.q.pool.filter fun e => e.2.owned).map fun e => (e.1, saveEntry t e.2),
      inbox := k.q.inbox.map fun m => { m with cycle := 0 },
      sendSlot := none, feSlot := none, inResv := 0, pending := [], slotResv := [] },
    ctr := { k.ctr with bar := Vector.replicate 4 0, ev := [] },
    tabs := { k.tabs with
      dtabFrom := k.tabs.dtabFrom.map (saveSrc t), slotFrom := k.tabs.slotFrom.map fun x => (x.1, saveSrc t x.2) } }

/-- What a core brings into a residency: the counts of its events, and pool entries of retired fibres whose replies are
to come. Everything else is reset or loaded then (08 R175; 12 R286, R310; 14 R346). -/
def bareCore (c : Nat) (k : Core) : Core :=
  let b := Core.blank c
  { b with ctr := { b.ctr with ev := k.ctr.ev },
           q := { b.q with pool := k.q.pool.filter fun e => !e.2.owned && isWaiting e.2.st } }

/-- A core that its crew has left: its memory, counters, ended commands and registers stay as they are until the next
residency (18 R421, 20 R435, 22 R450). -/
def vacant (c : Nat) (k : Core) : Core :=
  { bareCore c k with
    segs := k.segs, resSegs := k.resSegs, trap := k.trap, tile := { k.tile with waiters := [], resv := [] },
    fifo := k.fifo.filter fun e => !inFlight e.2.st, ctr := k.ctr, tabs := k.tabs, mx := k.mx }

/-- Freeing a core: a prefetch on its way brings nothing any more. -/
def vacate (s : State) (c : Nat) : State :=
  let k := getCore s c
  let gone (o : Origin) : Bool := match o with
    | .prefetch d _ => d == c
    | _ => false
  let s := { s with net := { s.net with
    reqs := s.net.reqs.filter fun r => !gone r.2.origin,
    walks := s.net.walks.filter fun w => !(w.2.who.core == c && w.2.wants == .prefetch) } }
  setCore s c (vacant c k)

/-- The phases of a task's barriers are low again, and none is bound to complete (02 R37; 14 R346, R355). -/
def dropPhases (s : State) (tid : Nat) : State :=
  { s with shared := { s.shared with
      phases := s.shared.phases.filter fun x => x.1 / 16384 != tid,
      bound := s.shared.bound.filter fun x => x / 16384 != tid } }

/-- The fault entries that the dispatcher keeps for a saved core (15 R388). -/
def oldFidsOf (s : State) (t : Task) (place c : Nat) : List OldFid :=
  (getCore s c).fibres.filterMap fun x =>
    match x.2.sch.run, x.2.sch.frec with
    | .parked .fault, some r => some ⟨fidWord c x.1, t.tid, place, x.1, r⟩
    | _, _ => none

/-- One block of the save area. -/
def writeBlockOf (s : State) (t : Task) (place c : Nat) (k : Core) : State :=
  iter blockDwords (fun j s =>
    locWrite s runtimeAsid (blockLoc t place j) 8 (blockGet c k j).toNat) s

/-- The header of the save area. -/
def saveHeader (t : Task) : Mem :=
  let m := Mem.wrN (Mem.wrN [] 0 t.tid 8) 8 t.cores.length 8
  (upto t.cores.length).foldl (fun m j => Mem.wrN m (0x10 + 2 * j) (t.cores.getD j 0) 2) m

/-- The parts of the scratchpads: relative cluster, place in the region, size, in the order of the save area. -/
def scratchParts (t : Task) : List (Nat × Nat × Nat) :=
  let one (r : Nat) : List (Nat × Nat × Nat) :=
    let here := (seatsOf t).filter fun x => x.2.kind == 1 && x.1.rel == r
    (here.foldl (fun (a : Nat × List (Nat × Nat × Nat)) x =>
      let o := (a.1 + 63) / 64 * 64
      (o + x.2.scratch, a.2 ++ [(r, o, x.2.scratch)])) (0, [])).2
  (relsOf t 1).flatMap one

/-- Where the parts stand in the save area: each with its offset there. -/
def scratchOffsets (t : Task) : List (Nat × Nat × Nat × Nat) :=
  ((scratchParts t).foldl (fun (a : Nat × List (Nat × Nat × Nat × Nat)) p =>
    (a.1 + p.2.2, a.2 ++ [(a.1, p)])) (t.save + 4096 + 131072 * (seatsOf t).length, [])).2

/-- The address of a place in a relative cluster's region. -/
def regionAt (t : Task) (r o : Nat) : Nat :=
  atRel (relsOf t 1) t.clusters r * 2 ^ 24 + atRel (relsOf t 1) t.regions r + o

/-- The scratchpad of a task as it is saved. -/
def scratchOf (s : State) (t : Task) : List Mem :=
  (scratchParts t).map fun p => Mem.cut s.mem.scratch (regionAt t p.1 p.2.1) p.2.2

/-- The exchange-table sources of a task's clusters, by relative cluster. -/
def xtabsOf (s : State) (t : Task) : NMap (Nat × Loc) :=
  (relsOf t 1).filterMap fun r =>
    match nget s.shared.xtabFrom (atRel (relsOf t 1) t.clusters r) with
    | some x => some (r, saveSrc t x)
    | none => none

/-- A task whose cores have nothing in flight is saved, and its cores are free. -/
def saveTask (s : State) (a : Nat) (t : Task) : State :=
  let s := t.cores.foldl withdrawCore s
  let places := upto t.cores.length
  let olds := places.flatMap fun j => oldFidsOf s t j (t.cores.getD j 0)
  let saved := t.cores.map fun c => savedCore t (getCore s c)
  let t' : Task :=
    { t with st := .eligible, since := s.time.toNat, flags := t.flags ||| 2, saved := saved,
             scratch := scratchOf s t, xtabs := xtabsOf s t }
  let s := rangeWrite s runtimeAsid (taskLoc t t.save) 4096 (saveHeader t)
  let s := places.foldl (fun s j => writeBlockOf s t j (t.cores.getD j 0) (saved.getD j (Core.blank 0))) s
  let s := (scratchOffsets t).zip t'.scratch |>.foldl (fun s p =>
    rangeWrite s runtimeAsid (taskLoc t p.1.1) p.1.2.2.2 p.2) s
  let s := dropPhases (t.cores.foldl vacate s) t.tid
  modTask { s with tasks := { s.tasks with oldFids := s.tasks.oldFids ++ olds } } a fun _ => t'

/-- PREEMPT: the dispatcher stops the cores of a task that has to go; once nothing is in flight any more the
task is saved. -/
def execPreempt (tid : Nat) (s : State) : Host.Outcome State Fault Refusal :=
  match taskOf s tid with
  | some (a, t) =>
      if t.st != .resident then .next s
      else if anyCore s t (·.frozen.isSome) then .next s
      else if halting s t then .next (if drainedTask s t.cores then saveTask s a t else s)
      else if s.tasks.stopped || (victims s).contains tid then .next (setStopped s t true)
      else .next s
  | none => .next s

end Sys2Proof.Machine
end

