-- ==== Sys2Proof/Machine/Dispatcher.lean ====
section
/-! DEFINITION. Dispatch of a task: its segments are mapped and its crews loaded, or its saved cores restored;
and the completion of a task (02 R24, R33, R35; 07 R159, R164; 12 R306-R311, R313; 13 R321, R322, R331, R337;
15 R388). -/

namespace Sys2Proof.Machine

/-! ## Segments (13 R321, R322) -/

/-- The size in bits of a page of a segment. -/
def pageBits (g : SegRec) : Nat := if g.page = 0 then 16 else if g.page = 1 then 29 else 42

/-- The register of declared segment n; base is the runtime's choice for a KIND 2 one. R322 gives BASE, LIMIT and the
rights of a KIND 3 segment's register; its TAG is the entry's (DEDUCED, log 63). -/
def segReg (t : Task) (n base : Nat) : W128 :=
  let g := segRecOf t.head t.base n
  if g.limit = 0 then 0
  else if g.kind = 3 then segWord (regionAt t g.cluster g.off) g.tag g.limit g.rights 3
  else segWord base g.tag g.limit g.rights 2

/-- Whether leaves of a page size can give each channel, from CH0 on, STRIDE bytes of its own (log 51). -/
def strideFits (bits stride ch0 : Nat) : Bool :=
  if bits == 16 then stride != 0 && stride ≤ 2 ^ 27 && stride % 2 ^ 16 == 0
  else stride == 2 ^ 27 && ch0 % 2 ^ (bits - 27) == 0

/-- Whether bytes [k·STRIDE, (k + 1)·STRIDE) of segment n go to channel CH0 + k, for each table descriptor that
partitions the segment (13 R332); they are looked at every 64 KB. -/
def chansMapped (s : State) (a : Nat) (t : Task) (n base : Nat) : Bool :=
  let g := segRecOf t.head t.base n
  (descsOf t.head t.base).all fun d =>
    let stride := bf d 192 32
    bf d 34 2 == 0 || bf d 36 3 != n || !strideFits (pageBits g) stride (bf d 64 12) ||
      (upto (bf d 48 12 + 1)).all fun k =>
        (upto (stride / 2 ^ 16)).all fun j =>
          let o := k * stride + j * 2 ^ 16
          decide (g.limit ≤ o) ||
            match (walkTables s a (base + o)).2 with
            | .ok x => chanOf (leafPa x.leaf x.bits (base + o)) == bf d 64 12 + k
            | .error _ => false

/-- Whether the runtime has mapped a segment: each page by a leaf of its size, DC, of the declared staleness
class, R as REP says, A and D clear, and the parts of a partitioned table in their channels. -/
def segMapped (s : State) (a : Nat) (t : Task) (n base : Nat) : Bool :=
  let g := segRecOf t.head t.base n
  g.limit == 0 || g.kind == 3 ||
    (base % 2 ^ pageBits g == 0 && base + g.limit ≤ 2 ^ 55 && chansMapped s a t n base &&
      (upto ((g.limit + 2 ^ pageBits g - 1) / 2 ^ pageBits g)).all fun j =>
        match (walkTables s a (base + j * 2 ^ pageBits g)).2 with
        | .ok x =>
            x.bits == pageBits g && leafCls x.leaf == 1 && leafStale x.leaf == staleOf t.head t.base n
              && bitAt x.leaf 7 == g.rep && !bitAt x.leaf 5 && !bitAt x.leaf 6
        | .error _ => false)

/-- A segment of the task has REP. -/
def replicated (t : Task) : Bool :=
  [2, 3, 4, 5, 6, 7].any fun n => (segRecOf t.head t.base n).limit != 0 && (segRecOf t.head t.base n).rep

/-! ## The image's sections (04 R92) -/

/-- The place of a section. -/
def secLoc (t : Task) (x : Sec) : Loc := taskLoc t (t.base + x.off)

/-- The sections that the dispatcher loads: code, initial segment contents, tile images, empty ranges. -/
def loadedKinds : List Nat := [1, 2, 3, 8]

/-- The sections, read in table order; none when one cannot be read. -/
def readSecs (s : State) (t : Task) : State × Option (List (Sec × Mem)) :=
  ((secsOf t.head t.base).filter fun x => loadedKinds.contains x.kind).foldl
    (fun (a : State × Option (List (Sec × Mem))) x =>
      match a.2 with
      | none => a
      | some l =>
          match rangeRead a.1 runtimeAsid (secLoc t x) x.size with
          | (s, .ok m) => (s, some (l ++ [(x, m)]))
          | (s, .error _) => (s, none)) (s, some [])

/-- The initial contents are written through the segments' own translations; the code section last, over the
initial image of the code segment. -/
def writeImages (s : State) (a : Nat) (t : Task) (bases : List Nat) (l : List (Sec × Mem)) : State :=
  let put (s : State) (n : Nat) (x : Sec × Mem) : State :=
    let loc : Loc := if (segRecOf t.head t.base n).kind = 3
      then .scratch (regionAt t (segRecOf t.head t.base n).cluster (segRecOf t.head t.base n).off)
      else .va (bases.getD (n - 2) 0) none
    rangeWrite s a loc x.1.size x.2
  let s := (l.filter fun x => x.1.kind == 2).foldl (fun s x => put s x.1.idx x) s
  match codeSegRec t.head t.base with
  | some n => (l.filter fun x => x.1.kind == 1).foldl (fun s x => put s n x) s
  | none => s

/-! ## Crews (02 R24; 07 R159, R164; 12 R309, R310) -/

/-- The relative core number (02 R24). -/
def relCore (x : Seat) : Nat := if x.2.kind = 0 then x.1.rel * 256 + x.1.at_ else 4096 + x.1.rel * 8 + x.1.at_

/-- SEED of fibre i. -/
def seedOf (t : Task) (x : Seat) (i : Nat) : W16 :=
  (hash64 (Mem.rd64 t.head (t.base + 0x18)) (BitVec.ofNat 64 (relCore x * 256 + i))).setWidth 16

/-- RM, FZ and PRIV of the descriptor's MODE. -/
def modeRm (t : Task) : BitVec 3 := t.mode.setWidth 3
def modeFz (t : Task) : Bool := bitAt t.mode 3
def modePriv (t : Task) : Bool := bitAt t.mode 7

/-- Fibre i of a crew. -/
def firstFibre (t : Task) (x : Seat) (i : Nat) : Fibre :=
  { Fibre.blank with
    pc := BitVec.ofNat 64 x.2.entry,
    g := ((Fibre.blank.g.set 0 (BitVec.ofNat 64 i)).set 1 (BitVec.ofNat 64 x.2.fibres)).set 2 t.arg,
    ctl := { Ctl.blank with priv := modePriv t, rm := modeRm t, fz := modeFz t, seed := seedOf t x i } }

/-- The crew that a core holds. -/
def crewOf (t : Task) (a : Nat) (x : Seat) : Crew :=
  { tid := t.tid, asid := a, crew := x.1.crew, rel := x.1.rel, place := x.1.at_, tile := x.2.tile,
    cache := x.2.cache, tfeat := BitVec.ofNat 64 (imageTfeat t.head t.base),
    taskReg := BitVec.ofNat 64 (t.tid + t.pri * 2 ^ 16 + t.epri * 2 ^ 20 + x.1.rel * 2 ^ 24),
    ehandler := BitVec.ofNat 64 x.2.handler, rm := modeRm t, fz := modeFz t, priv := modePriv t,
    seed0 := seedOf t x 0 }

/-- Where the part of the seat at a place of the placement map starts in its region. -/
def partAt (seats : List Seat) (j r : Nat) : Nat :=
  let n := (seats.take j).foldl (fun n x =>
    if x.2.kind = 1 && x.1.rel = r then (n + 63) / 64 * 64 + x.2.scratch else n) 0
  (n + 63) / 64 * 64

/-- sg0 and sg1 of a seat. -/
def ownSegs (t : Task) (j : Nat) (x : Seat) : W128 × W128 :=
  if x.2.kind = 0 then (segWord 0 0 x.2.tile 11 0, segWord 0 0 (2 ^ 28) 11 1)
  else (segWord (regionAt t x.1.rel (partAt (seatsOf t) j x.1.rel)) 0 x.2.scratch 11 3, segWord 0 0 0 0 1)

/-- The eight segment registers of a seat. -/
def seatSegs (t : Task) (bases : List Nat) (j : Nat) (x : Seat) : Vector W128 8 :=
  let own := ownSegs t j x
  let v := (([2, 3, 4, 5, 6, 7] : List (Fin 8)).foldl (fun (v : Vector W128 8) (n : Fin 8) =>
    v.set n (segReg t n.val (bases.getD (n.val - 2) 0))) (Vector.replicate 8 0))
  (v.set 0 own.1).set 1 own.2

/-- TVEC (12 R310). -/
def tvecOf (t : Task) : W64 :=
  match secOf t.head t.base 9 with
  | some x => BitVec.ofNat 64 (Mem.rdN t.head (t.base + x.off) 8) ||| 1
  | none => 0

/-- The words of the empty ranges of a crew (04 R90, R92). -/
def emptyWords (l : List (Sec × Mem)) (crew : Nat) : List Nat :=
  (l.filter fun x => x.1.kind == 8 && x.1.idx == crew).foldl (fun ws x =>
    (upto (x.1.size / 8)).foldl (fun ws e =>
      (upto (Mem.rdN x.2 (8 * e + 4) 4)).foldl (fun ws w => addTo ws (Mem.rdN x.2 (8 * e) 4 / 8 + w)) ws) ws) []

/-- The tile image of a crew. -/
def tileImage (l : List (Sec × Mem)) (crew : Nat) : Mem :=
  match l.find? fun x => x.1.kind == 3 && x.1.idx == crew with
  | some x => Mem.paste [] 0 x.2
  | none => []

/-- The table descriptors in their slots, each with the place it was loaded from. -/
def descSlots (t : Task) : NMap (BitVec 256) × NMap (Nat × Loc) :=
  match secOf t.head t.base 5 with
  | none => ([], [])
  | some x =>
      let ds := descsOf t.head t.base
      (((upto ds.length).zip ds),
        (upto ds.length).map fun j => (j, (runtimeAsid, (secLoc t x).plus (32 * j))))

/-- A core with a crew, as it stands before the crew's first issue. -/
def freshCore (t : Task) (a : Nat) (bases : List Nat) (l : List (Sec × Mem)) (j : Nat) (x : Seat) (c : Nat)
    (old : Core) : Core :=
  let b := bareCore c old
  let segs := seatSegs t bases j x
  let ds := if x.2.kind = 0 then descSlots t else ([], [])
  { b with
    crew := some (crewOf t a x),
    fibres := (upto x.2.fibres).map fun i => (i, firstFibre t x i),
    segs := segs, resSegs := segs,
    trap := ⟨tvecOf t, 0, 0, 0, 0, 1000000000⟩,
    tile := if x.2.kind = 0 then ⟨tileImage l x.1.crew, emptyWords l x.1.crew, [], []⟩ else b.tile,
    tabs := { b.tabs with slots := ds.1, slotFrom := ds.2 } }

/-- The exchange permutation table of a cluster is the reset table. -/
def resetXtab (s : State) (cl : Nat) : State :=
  { s with shared := { s.shared with
      xtab := s.shared.xtab.filter fun e => e.1 / 256 != cl, xtabFrom := ndel s.shared.xtabFrom cl } }

/-- The core of each seat under a task's mapping. -/
def mappedCores (t : Task) : List Nat :=
  (seatsOf t).map fun x => seatOn x (if x.2.kind = 0 then atRel (relsOf t 0) t.valleys x.1.rel
    else atRel (relsOf t 1) t.clusters x.1.rel)

/-- All crews of a task are loaded in one step. -/
def loadCrews (s : State) (a : Nat) (t : Task) (bases : List Nat) (l : List (Sec × Mem)) : State :=
  let s := t.clusters.foldl resetXtab s
  ((upto t.cores.length).zip (t.cores.zip (seatsOf t))).foldl (fun s y =>
    setCore s y.2.1 (freshCore t a bases l y.1 y.2.2 y.2.1 (getCore s y.2.1))) s

/-! ## Restore (12 R313, R314; 13 R337; 15 R388) -/

/-- A saved place under the new mapping. -/
def restLoc (t : Task) : Loc → Loc
  | .tile c o => .tile (t.cores.getD c c) o
  | .va a g => .va a g
  | .scratch a => .scratch (regionAt t (a / 2 ^ 24 % 2) (a % 2 ^ 24))

def restSrc (t : Task) (x : Nat × Loc) : Nat × Loc := if x.1 = runtimeAsid then x else (x.1, restLoc t x.2)

/-- A KIND 3 register of sg2 to sg7 follows its region from the mapping of old to that of t. -/
def rebase (old t : Task) (v : W128) : W128 :=
  if segKind v = 3 && segLimit v != 0 then
    match saveLoc old (.scratch (segBase v)) with
    | .scratch a => setBf v 0 55 (regionAt t (a / 2 ^ 24 % 2) (a % 2 ^ 24))
    | _ => v
  else v

/-- A sender that was a core of the task is the core that now holds its place. -/
def newFid (old t : Task) (fid : Nat) : Nat :=
  match fidCore fid with
  | some c =>
      (match old.cores.findIdx? (· == c) with
       | some j => fidWord (t.cores.getD j c) (fid % 256)
       | none => fid)
  | none => fid

/-- What the save area holds of a core now, its whole tile among it; false when a dword of it cannot be read
(log 55). -/
def readBlockOf (s : State) (t : Task) (j c : Nat) (k : Core) : State × Core × Bool :=
  iter blockDwords (fun i (x : State × Core × Bool) =>
    match locRead x.1 runtimeAsid (blockLoc t j i) 8 with
    | (s, .ok v) => (s, blockPut c x.2.1 i (BitVec.ofNat 64 v), x.2.2)
    | (s, .error _) => (s, x.2.1, false)) (s, { k with tile := { k.tile with mem := [] } }, true)

/-- A saved core under the new mapping. -/
def restCore (old t : Task) (a j : Nat) (x : Seat) (c : Nat) (k : Core) : Core :=
  let own := ownSegs t j x
  let segs := ((k.segs.map (rebase old t)).set 0 own.1).set 1 own.2
  let entry (e : PoolEntry) : PoolEntry :=
    { e with loc := e.loc.map (restLoc t),
             st := match e.st with
               | .forwarded p i => .forwarded (t.cores.getD p p) i
               | st => st }
  { k with
    crew := some (crewOf t a x), segs := segs, resSegs := k.resSegs.map (rebase old t),
    fifo := k.fifo.map fun e => (e.1, { e.2 with who := { e.2.who with core := c } }),
    q := { k.q with
      pool := k.q.pool.map fun e => (e.1, entry e.2),
      inbox := k.q.inbox.map fun m => { m with sender := newFid old t m.sender } } }

/-- Loading a core's tables again from where they came; false when a load fails. -/
def reloadTabs (s : State) (t : Task) (c : Nat) : State × Bool :=
  let k := getCore s c
  let k0 : Core := { k with tabs := ⟨[], [], none, []⟩ }
  let (s, k0, ok) := match k.tabs.dtabFrom with
    | none => (s, k0, true)
    | some x =>
        let x := restSrc t x
        match rangeRead s x.1 x.2 512 with
        | (s, .ok m) => (s, { k0 with tabs := { k0.tabs with dtab := dtabFromBytes (Mem.rdN m 0 512), dtabFrom := some x } }, true)
        | (s, .error _) => (s, k0, false)
  let (s, k0, ok) := k.tabs.slotFrom.foldl (fun (y : State × Core × Bool) e =>
    let x := restSrc t e.2
    match rangeRead y.1 x.1 x.2 32 with
    | (s, .ok m) =>
        let d : BitVec 256 := BitVec.ofNat 256 (Mem.rdN m 0 32)
        (s, { y.2.1 with tabs := { y.2.1.tabs with
                slots := nput y.2.1.tabs.slots e.1 d, slotFrom := nput y.2.1.tabs.slotFrom e.1 x } }, y.2.2 && tblGood d)
    | (s, .error _) => (s, y.2.1, false)) (s, k0, ok)
  (setCore s c k0, ok)

/-- Loading the exchange tables of a task's clusters again. -/
def reloadXtabs (s : State) (t : Task) : State × Bool :=
  t.xtabs.foldl (fun (y : State × Bool) e =>
    let x := restSrc t e.2
    let cl := atRel (relsOf t 1) t.clusters e.1
    match rangeRead y.1 x.1 x.2 1024 with
    | (s, .ok m) =>
        let s := loadXtab s (4096 + 8 * cl) (Mem.rdN m 0 1024) x.2
        ({ s with shared := { s.shared with xtabFrom := nput s.shared.xtabFrom cl x } }, y.2)
    | (s, .error _) => (s, false)) (t.clusters.foldl resetXtab s, true)

/-- The fibres of a restored core that are still parked with reason 6 report again from their new places. -/
def reportAgain (s : State) (c : Nat) : State :=
  (getCore s c).fibres.foldl (fun s x =>
    match x.2.sch.run, x.2.sch.frec with
    | .parked .fault, some r =>
        let r : FaultRec := { r with src := 5, restored := true, fid := fidWord c x.1, pc := 0 }
        appendRec (modFib s c x.1 fun f => { f with sch := { f.sch with frec := some r } }) (dieOf c) (srcFibre c x.1) r
    | _, _ => s) s

/-- The reads of a dq.pop whose fibre was woken while it was saved are sent again (11 R275). -/
def resendSaved (s : State) (c : Nat) : State :=
  (getCore s c).fibres.foldl (fun s x =>
    match x.2.sch.run, x.2.sch.wait with
    | .ready, .dqFault n => resendHeads s (faulted s c x.1 x.2) n
    | _, _ => s) s

/-- A core takes what has been read back from the save area for it; only the counts of events there stay. -/
def putBack (s : State) (old t : Task) (a j : Nat) (x : Seat) (c : Nat) (k : Core) : State :=
  let k := restCore old t a j x c k
  let b := bareCore c (getCore s c)
  setCore s c { k with ctr := { k.ctr with ev := b.ctr.ev },
                       q := { k.q with pool := b.q.pool.foldl (fun p e => if (nget p e.1).isNone then nput p e.1 e.2 else p) k.q.pool } }

/-- One saved core is read back from the save area onto its new core; false when it cannot be read. -/
def restoreCore (s : State) (old t : Task) (a j : Nat) (x : Seat) (c : Nat) (k : Core) : State × Bool :=
  let p := readBlockOf s t j c k
  (putBack p.1 old t a j x c p.2.1, p.2.2)

/-- The scratchpad parts are read back into the new regions; false when one cannot be read. -/
def restoreScratch (s : State) (t : Task) : State × Bool :=
  (scratchOffsets t).foldl (fun (y : State × Bool) p =>
    let a := regionAt t p.2.1 p.2.2.1
    let n := p.2.2.2
    match rangeRead y.1 runtimeAsid (taskLoc t p.1) n with
    | (s, .ok m) =>
        ({ s with mem := { s.mem with
            scratch := Mem.paste (Mem.clear s.mem.scratch a n) a m } }, y.2)
    | (s, .error _) => (s, false)) (s, true)

/-- A further part of a restore, which has failed when any part of it has. -/
def alsoDo (p : State × Bool) (go : State → State × Bool) : State × Bool := ((go p.1).1, (go p.1).2 && p.2)

/-- The saved cores of a task are restored; false when the save area or a table's source cannot be read. -/
def restoreCrews (s : State) (old t : Task) (a : Nat) : State × Bool :=
  let js := (upto t.cores.length).zip ((t.cores.zip (seatsOf t)).zip old.saved)
  let p := js.foldl (fun p y => alsoDo p fun s => restoreCore s old t a y.1 y.2.1.2 y.2.1.1 y.2.2) (restoreScratch s t)
  let p := alsoDo p fun s => reloadXtabs s t
  let p := t.cores.foldl (fun p c => alsoDo p fun s => reloadTabs s t c) p
  let s := { p.1 with tasks := { p.1.tasks with oldFids := p.1.tasks.oldFids.filter fun o => o.tid != t.tid } }
  (if p.2 then t.cores.foldl resendSaved (t.cores.foldl reportAgain s) else s, p.2)

/-! ## DISPATCH (12 R308) -/

/-- Whether the plan's regions lie in free ranges of their clusters. -/
def regionsOk (s : State) (t : Task) (cs : List Nat) (starts : List Nat) : Bool :=
  starts.length == (relsOf t 1).length &&
    ((relsOf t 1).zip (cs.zip starts)).all fun x =>
      rangeFree (regionsIn s [] x.2.1) x.2.2 (regionSize t.head t.base x.1)

/-- The task as it becomes resident under a mapping. -/
def residentTask (s : State) (t : Task) (vs cs starts : List Nat) : Task :=
  let t := { t with st := .resident, valleys := vs, clusters := cs, regions := starts, epri := epriNow s t,
                    first := some (t.first.getD s.time.toNat), order := s.tasks.dispatched + 1 }
  { t with cores := mappedCores t }

/-- A task that ends at its dispatch: its cores are free, and its record has the TIME of the failure (12 R306). -/
def endAtDispatch (s : State) (a : Nat) (t : Task) : State :=
  completeTask (modTask (t.cores.foldl vacate s) a fun t => { t with first := some s.time.toNat }) a 2 0

/-- Whether an action waits that keeps replicated tasks from being dispatched (14 R367). -/
def digestHeld (s : State) : Bool := s.chaez.acts.any fun i => match i with
  | .digestReset _ => true
  | _ => false

/-- The dispatch of H under a mapping, with the runtime's plan. -/
def dispatchOn (s : State) (a : Nat) (old : Task) (plan : Plan) (vs cs : List Nat) : State :=
  let t := residentTask s old vs cs plan.regions
  let count (s : State) : State := { s with tasks := { s.tasks with dispatched := s.tasks.dispatched + 1 } }
  let put (s : State) (t : Task) : State := modTask (count s) a fun _ => t
  if old.saved.isEmpty then
    let s1 := plan.stores.foldl (fun s x => physStore s x.1 x.2) s
    if [2, 3, 4, 5, 6, 7].all fun n => segMapped s1 a t n (plan.bases.getD (n - 2) 0) then
      match readSecs s1 t with
      | (s, none) => endAtDispatch (put s { t with cores := [] }) a { t with cores := [] }
      | (s, some l) => snoopAll (loadCrews (writeImages (put s t) a t plan.bases l) a t plan.bases l)
    else s
  else
    let t' := { t with saved := [], scratch := [], xtabs := [] }
    match restoreCrews (put s t') old { t' with xtabs := old.xtabs, scratch := old.scratch } a with
    | (s, true) => snoopAll s
    | (s, false) => endAtDispatch s a t'

/-- DISPATCH: H becomes resident when it fits and the plan is one for it. -/
def execDispatch (plan : Plan) (s : State) : Host.Outcome State Fault Refusal :=
  match firstTask s with
  | some (a, t) =>
      if t.tid != plan.tid || s.tasks.stopped || s.tasks.table.any (fun e => halting s e.2)
          || (digestHeld s && replicated t) || !admitted s [] t then .next s
      else
        match mapTask s [] t with
        | some (vs, cs) => .next (if regionsOk s t cs plan.regions then dispatchOn s a t plan vs cs else s)
        | none => .next s
  | none => .next s

/-! ## TASK_COMPLETE (12 R307) -/

/-- Whether a core's part of its task is done. -/
def coreDone (k : Core) : Bool :=
  k.fibres.isEmpty && k.handler.isNone && k.q.inbox.isEmpty && k.q.sb.isEmpty && k.frozen.isNone && !k.stopped
    && k.fifo.all fun e => match e.2.st with
      | .done | .aborted => true
      | .queued | .running | .stopped => false

/-- Whether nothing that a task has sent is still to run on its cores. -/
def taskDone (s : State) (t : Task) : Bool :=
  t.st == .resident && t.cores.all (fun c => coreDone (getCore s c))
    && !s.net.msgs.any fun m => match m.2 with
      | .send who dest _ _ _ _ _ => t.cores.contains who.core || t.cores.contains dest
      | .migrate who _ _ _ | .reserve who _ _ => t.cores.contains who.core
      | .redFail who _ => t.cores.contains who.core
      | .reply _ _ _ _ | .wake _ _ _ _ | .withdraw _ => false

/-- TASK_COMPLETE: the task's cores are free, and its record is written with the energy that it spent. -/
def execTaskComplete (tid energy : Nat) (s : State) : Host.Outcome State Fault Refusal :=
  match taskOf s tid with
  | some (a, t) =>
      .next (if taskDone s t then completeTask (dropPhases (t.cores.foldl vacate s) tid) a 0 energy else s)
  | none => .next s

end Sys2Proof.Machine
end

