-- ==== Sys2Proof/Machine/Chaez.lean ====
section
/-! DEFINITION. What the control node does over the Chaez port: WRITE and READ frames, the release and the end of
frozen cores, digest reset, UNFENCE, TIMEREF, checkpoints (14 R367; 15 R381, R382, R384; 16 R394, R397, R406,
R407, R412). A frame that an earlier one keeps back waits in Chaez.held; an action that has begun and cannot complete
yet stands in Chaez.acts. -/

namespace Sys2Proof.Machine

/-- A REPLY of an action: status 0, or 1 when it is refused. -/
def replyStatus (s : State) (st : Nat) : State := sendFrame s (.reply st [])

/-- A frame waits behind those that have come before it: each is performed once and in order (16 R394). -/
def hold (s : State) (i : Instr) : State := { s with chaez := { s.chaez with held := s.chaez.held ++ [i] } }

/-- An action that has begun and cannot complete yet. -/
def pend (s : State) (i : Instr) : State :=
  if s.chaez.acts.contains i then s else { s with chaez := { s.chaez with acts := s.chaez.acts ++ [i] } }

/-- An action completes: every frame that has asked for it has its REPLY. -/
def complete (s : State) (i : Instr) (st : Nat) : State :=
  let n := (s.chaez.acts.filter (· == i)).length
  iter (max n 1) (fun _ s => replyStatus s st)
    { s with chaez := { s.chaez with acts := s.chaez.acts.filter (· != i) } }

/-! ## WRITE and READ -/

/-- Whether an earlier frame has dwords that are not performed. -/
def nodeBusy (s : State) : Bool := s.net.txns.any fun t => t.2.who.core == nodeAgent

/-- A frame's dwords; the word of its issuer is the physical address. -/
def nodeFrame (s : State) (write : Bool) (pa : Nat) (accs : List Acc1) : State :=
  let who : Issuer := ⟨nodeAgent, goneSlot, 0, pa, false, false, 0⟩
  let ps : List Piece := (upto accs.length).map fun j => ⟨8 * j, .scratch 0, accs.getD j ⟨.load, 8, 0, 0⟩, none⟩
  let (id, s) := newTxn s who (.node write) (8 * accs.length) false ps
  nodeRun (ps.length + 1) s id

/-- CHAEZ_WRITE: 8-byte writes in address order, after every earlier frame. -/
def execChaezWrite (pa : Nat) (data : List W64) (s : State) : Host.Outcome State Fault Refusal :=
  if nodeBusy s then .next (hold s (.chaezWrite pa data))
  else
    .next (nodeFrame s true (pa / 8 * 8) ((data.take 512).map fun v => ⟨.store, 8, v.setWidth 512, 0⟩))

/-- CHAEZ_READ: class-0 untagged reads; the REPLY brings the data or the code of the first fault. -/
def execChaezRead (pa dwords : Nat) (s : State) : Host.Outcome State Fault Refusal :=
  if nodeBusy s then .next (hold s (.chaezRead pa dwords))
  else .next (nodeFrame s false (pa / 8 * 8) ((upto (min dwords 512)).map fun _ => ⟨.load, 8, 0, 0⟩))

/-! ## RELEASE and RELEASE_SKIP (15 R381, R384) -/

/-- The frozen fibre moves past its word, unless it has left the access behind. -/
def skipFrozen (s : State) (c slot : Nat) : State :=
  modFib s c slot fun f => skipFibre s (getCore s c) f

/-- A core issues again: h0 and h1 of its strands are lost (05 R96), and a member of a lock-step group stays out of
lock-step, its own bit cleared too (06 R146; DEDUCED, log 58). -/
def thaw (s : State) (c : Nat) : State :=
  let strand (t : Strand) : Strand :=
    if kindOf c == .dense then { t with lock := false } else { t with h0 := 0, h1 := 0 }
  modCore s c fun k => { k with frozen := none, seq := { k.seq with strands := k.seq.strands.map strand } }

/-- Whether an entry stands at a divergence (15 R384). -/
def diverged (x : Cmd) : Bool := x.st == .stopped && (x.fcode == 16 || x.fcode == 17)

/-- The entries of a core that stand at a divergence are aborted, with no increment. -/
def abortDiverged (s : State) (c : Nat) : State :=
  (getCore s c).fifo.foldl (fun s e => if diverged e.2 then cmdAbort s c e.1 else s) s

/-- One core resumes. -/
def releaseCore (s : State) (skip : Bool) (c : Nat) : State :=
  let s := if (getCore s c).frozen.isSome then abortDiverged s c else s
  let k := getCore s c
  let thaw (s : State) : State := thaw s c
  match k.frozen with
  | none => s
  | some (.fibre slot behind) =>
      if slot = handlerSlot then endHandler (thaw s) c none
      else if skip && !behind then thaw (skipFrozen s c slot)
      else thaw s
  | some (.entry e) =>
      let s := thaw s
      (match nget k.fifo e with
       | some x =>
           (match x.fault with
            | some (_, er, g3) => if kindOf c == .lookup && x.st == .stopped then reportStop s c e x er g3 else s
            | none => s)
       | none => s)
  | some .task => thaw s

/-- The cores of a list resume, and with them the barriers whose last party one of them is (14 R355). -/
def releaseCores (s : State) (skip : Bool) (cs : List Nat) : State :=
  cs.foldl bindBarriers (cs.foldl (fun s c => releaseCore s skip c) s)

/-- The cores that an action names: those of a task, or one core; a core frozen with its task, or in a task that
stands at a divergence, resumes with it. -/
def targetCores (s : State) : CtlTarget → List Nat
  | .core c =>
      let k := getCore s c
      (match taskOf s (tidOf k) with
       | some (_, t) =>
           if k.frozen == some .task || anyCore s t (fun k => k.fifo.any fun e => diverged e.2) then t.cores else [c]
       | none => [c])
  | .task tid =>
      match taskOf s tid with
      | some (_, t) => if t.st == .resident then t.cores else []
      | none => []

/-- A release is refused when nothing that it names is frozen. -/
def releaseAll (s : State) (skip : Bool) (target : CtlTarget) : State :=
  let cs := (targetCores s target).filter fun c => (getCore s c).frozen.isSome
  if cs.isEmpty then replyStatus s 1 else replyStatus (releaseCores s skip cs) 0

/-- RELEASE. -/
def execRelease (target : CtlTarget) (s : State) : Host.Outcome State Fault Refusal :=
  .next (if nodeBusy s then hold s (.release target) else releaseAll s false target)

/-- RELEASE_SKIP. -/
def execReleaseSkip (target : CtlTarget) (s : State) : Host.Outcome State Fault Refusal :=
  .next (if nodeBusy s then hold s (.releaseSkip target) else releaseAll s true target)

/-! ## END (15 R382) -/

/-- The task that an action names. -/
def targetTask (s : State) : CtlTarget → Option (Nat × Task)
  | .core c => taskOf s (tidOf (getCore s c))
  | .task tid => taskOf s tid

/-- A core of a task that is ended stops: unsent stores are discarded, waiting commands aborted, running ones
send nothing more. -/
def stopCore (s : State) (c : Nat) : State :=
  modCore (freezeCore s c .task) c fun k =>
    { k with
      stopped := true,
      q := { k.q with sb := k.q.sb.filter fun e => e.2.sent },
      fifo := k.fifo.map fun e => (e.1, match e.2.st with
        | .queued | .stopped => { e.2 with st := .aborted, started := false }
        | .running | .done | .aborted => e.2) }

/-- Whether what a stopped core has sent, a COLL among it, has been performed. -/
def endBusy (s : State) (t : Task) : Bool :=
  (s.net.reqs.any fun r => t.cores.contains r.2.who.core && reqBusy r.2)
    || s.fab.colls.any fun x => t.cores.contains x.1

/-- A sender outside the task whose request a core of it will not serve reads 1; a request in its inbox that
asked for a reply is answered with BUS_ERROR. -/
def turnAway (s : State) (c : Nat) : State :=
  let s := s.net.msgs.foldl (fun s x =>
    match x.2 with
    | .send who dest _ credit _ _ d => if dest == c then refuseSend s x.1 who credit d else s
    | _ => s) s
  (getCore s c).q.inbox.foldl (fun s m =>
    match m.credit, fidCore m.sender with
    | some e, some d => postMsg s (.reply c d e none)
    | _, _ => s) s

/-- What a task that ends leaves in flight is dropped: inbox slots that its senders held go to the next senders
(11 R279), and its walkers to the misses that wait (13 R327). -/
def dropFlight (s : State) (cs : List Nat) : State :=
  let mine (w : Issuer) : Bool := cs.contains w.core
  let s := s.net.reqs.foldl (fun s x => if mine x.2.who then withdrawReq s x.1 x.2 else s) s
  let keep : Msg → Bool
    | .send who _ _ _ _ _ _ | .reserve who _ _ | .migrate who _ _ _ => !mine who
    | .reply _ _ _ _ | .redFail _ _ | .wake _ _ _ _ | .withdraw _ => true
  let sends : Msg → List (Nat × Nat × Bool)
    | .send who dest _ _ granted _ _ => if mine who && !cs.contains dest then [(who.core, dest, granted)] else []
    | _ => []
  let gone := s.net.msgs.flatMap fun x => sends x.2
  let s := gone.foldl (fun s x => modQ s x.2.1 fun q =>
    if x.2.2 then { q with inResv := q.inResv - 1 } else { q with pending := q.pending.erase x.1 }) s
  let s := { s with
    net := { s.net with
      txns := s.net.txns.filter fun t => !mine t.2.who, walks := s.net.walks.filter fun w => !mine w.2.who,
      msgs := s.net.msgs.filter fun m => keep m.2, rings := s.net.rings.filter fun r => !r.2.cores.any cs.contains },
    fab := { s.fab with colls := s.fab.colls.filter fun x => !cs.contains x.1 } }
  let s := gone.foldl (fun s x => if x.2.2 then grantNext s x.2.1 else s) s
  (upto 2).foldl (fun s die => takeWalkers s die s.net.walks) s

/-- The failures held against the fibres of a core are appended (08 R189); those that are still to arrive find their
fibres gone (10 R264). -/
def flushCore (s : State) (c : Nat) : State :=
  (getCore s c).fibres.foldl (fun s x => disown (flushFailed s c x.1) c x.1) s

/-- The end of a task whose cores have nothing in flight any more. -/
def finishEnd (s : State) (a : Nat) (t : Task) : State :=
  let live := t.st == .resident
  let s := if live then
      let s := t.cores.foldl (fun s c => flushCore (endRemote s c) c) s
      let s := dropFlight (t.cores.foldl turnAway s) t.cores
      dropPhases (t.cores.foldl vacate s) t.tid
    else s
  let (e, s) := freeVal s
  let s := { s with tasks := { s.tasks with oldFids := s.tasks.oldFids.filter fun o => o.tid != t.tid } }
  completeTask s a 3 e.toNat

/-- END, carried as far as it can be now: the cores of the task stop; once their sent accesses are performed the task
ends with STATUS 3. Refused for a task that is not there. -/
def endTaskNow (s : State) (target : CtlTarget) : State :=
  match targetTask s target with
  | some (a, t) =>
      let i := Instr.endTask (.task t.tid)
      if t.st == .complete || t.st == .recording then complete s i 1
      else
        let s := if t.st == .resident then t.cores.foldl stopCore s else s
        if t.st == .resident && endBusy s t then pend s i
        else complete (finishEnd s a t) i 0
  | none => replyStatus s 1

/-- END. -/
def execEndTask (target : CtlTarget) (s : State) : Host.Outcome State Fault Refusal :=
  .next (if nodeBusy s && !s.chaez.acts.contains (.endTask target) then hold s (.endTask target)
    else endTaskNow s target)

/-! ## DIGEST_RESET, UNFENCE, TIMEREF -/

/-- Whether a digest reset has to wait: for resident replicated tasks, and for a COLL with DG that runs
(14 R367, R370). -/
def digestWaits (s : State) : Bool :=
  s.tasks.table.any (fun e => e.2.st == .resident && replicated e.2)
    || s.cores.any fun c => c.2.fifo.any fun e =>
      e.2.st == .running && cmdCode e.2.w == cColl && bitAt e.2.w[1] 3

/-- A dword at a physical address, as the firmware reads it; none where the read meets an error. -/
def physDword (s : State) (pa : Nat) : State × Option W64 :=
  match placeAt pa true with
  | some p =>
      let (s, v) := placeRead s p 8 0
      (s, v.toOption.map (BitVec.ofNat 64))
  | none => (s, none)

/-- Whether an earlier CHECKPOINT has not completed. -/
def afterCheckpoint (s : State) (i : Instr) : Bool :=
  (s.chaez.acts.takeWhile (· != i)).any fun j => match j with
    | .checkpoint _ _ => true
    | _ => false

/-- Whether an earlier DIGEST_RESET has not completed (16 R412). -/
def afterReset (s : State) (i : Instr) : Bool :=
  (s.chaez.acts.takeWhile (· != i)).any fun j => match j with
    | .digestReset _ => true
    | _ => false

/-- The reset itself: every DSUM is cleared and DKEY loaded from the group descriptor (14 R367, 16 R403); it is refused
when the key cannot be read (log 52). -/
def resetDigest (s : State) (desc : Nat) : State × Nat :=
  let (s, lo) := physDword s (desc + 8)
  let (s, hi) := physDword s (desc + 16)
  match lo, hi with
  | some lo, some hi =>
      let key : W128 := BitVec.ofNat 128 (lo.toNat + hi.toNat * 2 ^ 64)
      (allGeckos s fun g => { g with dsum := Vector.replicate 4 0, dkey := key }, 0)
  | _, _ => (s, 1)

/-- DIGEST_RESET: it waits until no replicated task is resident. -/
def execDigestReset (desc : Nat) (s : State) : Host.Outcome State Fault Refusal :=
  let i := Instr.digestReset desc
  if nodeBusy s && !s.chaez.acts.contains i then .next (hold s i)
  else if digestWaits s || afterCheckpoint s i then .next (pend s i)
  else .next (complete (resetDigest s desc).1 i (resetDigest s desc).2)

/-- The requests through a port end with FABRIC_TIMEOUT while it is fenced (16 R397). -/
def endFenced (s : State) (port : Nat) : State :=
  s.net.reqs.foldl (fun s x => match x.2.place with
    | .peer dev _ | .row dev _ _ _ _ =>
        if (Config.portOf dev).toNat = port && fabricLate s x.2 then endFabric s x.1 else s
    | _ => s) s

/-- UNFENCE: what was outstanding has ended with FABRIC_TIMEOUT, and requests travel again. -/
def execUnfence (port : Nat) (s : State) : Host.Outcome State Fault Refusal :=
  if nodeBusy s then .next (hold s (.unfence port))
  else if 16 ≤ port then .next (replyStatus s 1)
  else
    let s := endFenced s port
    .next (replyStatus { s with fab := { s.fab with fenced := s.fab.fenced.filter (· != port) } } 0)

/-- TIMEREF names the domain's time reference. -/
def execTimeref (dom : Nat) (s : State) : Host.Outcome State Fault Refusal :=
  if nodeBusy s then .next (hold s (.timeref dom))
  else if 256 ≤ dom then .next (replyStatus s 1)
  else .next (replyStatus { s with regs := { s.regs with timeRef := dom } } 0)

/-! ## Checkpoints (16 R407) -/

/-- Chunks of 1 MB. -/
def chunkBytes : Nat := 2 ^ 20
def chunkCount : Nat := 524288

/-- The bytes of a digest, from the lowest. -/
def digestBytes (d : W512) : List Byte := bytesOf 64 d.toNat

/-- The atoms of a list that lie in a chunk. -/
def inChunk (j : Nat) (atoms : List Nat) : List Nat := atoms.filter fun a => 32 * a / chunkBytes == j

/-- The bytes of an uncorrectable atom as the stream reads them are free (log 52). -/
def freeAtom (x : Mem × State) (a : Nat) : Mem × State :=
  iter 4 (fun j x =>
    let (v, s) := freeVal x.2
    (Mem.wr64 x.1 (32 * a % chunkBytes + 8 * j) v, s)) x

/-- The bytes of a chunk as the stream reads them, with the notices of its uncorrectable atoms (log 52); a correctable
one is corrected (08 R189). -/
def chunkRead (s : State) (j : Nat) : Mem × State :=
  let s := (inChunk j s.mem.weak).foldl (fun s a => (eccRead s a).getD s) s
  let bad := inChunk j s.mem.bad
  let (m, s) := bad.foldl freeAtom (Mem.cut s.mem.dram (j * chunkBytes) chunkBytes, s)
  (m, bad.foldl (fun s a => nodeNotice s .memEcc (32 * a)) s)

/-- Every combining-buffer entry drains. -/
def drainAll (s : State) : State :=
  s.geckos.foldl (fun s g => g.2.cb.foldl (fun s e => drainEntry s e.1) s) s

/-- The stream of a checkpoint has come so far: the digests of the chunks sent, or none. -/
def streamAt (s : State) (ds : Option (List W512)) : State := { s with chaez := { s.chaez with stream := ds } }

/-- The next chunk of the stream goes out; what the combining buffers have accepted meanwhile has drained first. -/
def sendChunk (s : State) (name tier : Nat) (ds : List W512) : State :=
  let (m, s) := chunkRead (drainAll s) ds.length
  let d := Config.shakeCells chunkBytes m
  streamAt (sendFrame s (.chunk tier name (ds.length * chunkBytes) m d)) (some (ds ++ [d]))

/-- The final frame: the signed digest of the digests of the chunks. -/
def sendFinal (s : State) (name tier : Nat) (ds : List W512) : State :=
  let d := Config.shake256 (ds.flatMap digestBytes)
  streamAt (sendFrame s (.final tier name chunkCount d (Config.ed448Sign d))) none

/-- Dispatch stops or resumes. -/
def haltDispatch (s : State) (b : Bool) : State := { s with tasks := { s.tasks with stopped := b } }

/-- CHECKPOINT: refused while a task has a frozen core; dispatch stops, every resident task is pre-empted, and
then, once an earlier DIGEST_RESET or CHECKPOINT has been performed, the combining buffers drain, memory is streamed,
one chunk in a step, and dispatch resumes. -/
def execCheckpoint (name tier : Nat) (s : State) : Host.Outcome State Fault Refusal :=
  let i := Instr.checkpoint name tier
  let resident := s.tasks.table.filter fun e => e.2.st == .resident
  if nodeBusy s && !s.chaez.acts.contains i then .next (hold s i)
  else if resident.any fun e => anyCore s e.2 (·.frozen.isSome) then .next (complete (haltDispatch s false) i 1)
  else if !resident.isEmpty || afterReset s i || afterCheckpoint s i then .next (pend (haltDispatch s true) i)
  else
    match s.chaez.stream with
    | none => .next (pend (streamAt (drainAll (haltDispatch s true)) (some [])) i)
    | some ds =>
        if ds.length < chunkCount then .next (sendChunk s name tier ds)
        else .next (complete (haltDispatch (sendFinal s name tier ds) false) i 0)

/-- The bytes of a chunk as it comes back. -/
def chunkMem (x : Chunk) : Mem := x.dwords.foldl (fun m d => Mem.wr64 m (d.1 % chunkBytes / 8 * 8) d.2) []

/-- A chunk is written atom by atom. -/
def writeChunk (s : State) (x : Chunk) : State :=
  let m := chunkMem x
  iter (chunkBytes / 32) (fun j s =>
    (dramAccess s ⟨.store, 32, BitVec.ofNat 512 (Mem.rdN m (32 * j) 32), 0⟩ (x.base % 2 ^ 39 / chunkBytes * chunkBytes + 32 * j)
      false 0).1) s

/-- Whether the digest of a chunk is the one sent with it. -/
def chunkGood (x : Chunk) : Bool := Config.shakeCells chunkBytes (chunkMem x) == x.digest

/-- CHECKPOINT_RESTORE: while no task is resident; chunks whose digest does not match are not written, and the
REPLY lists them. -/
def execCheckpointRestore (chunks : List Chunk) (s : State) : Host.Outcome State Fault Refusal :=
  if nodeBusy s then .next (hold s (.checkpointRestore chunks))
  else if s.tasks.table.any fun e => e.2.st == .resident then .next (replyStatus s 1)
  else
    let bad := chunks.filter fun x => !chunkGood x
    let s := (chunks.filter chunkGood).foldl writeChunk s
    .next (sendFrame s (.reply 0 (bad.map fun x => BitVec.ofNat 64 x.base)))

end Sys2Proof.Machine
end

