-- ==== Sys2Proof/Machine/Boot.lean ====
section
/-! DEFINITION. The boot ROM, the firmware's start, recovery, and RESET (08 R191; 15 R375; 16 R408, R409, R411).
What the firmware leaves is free (log 7). -/

namespace Sys2Proof.Machine

/-! ## The firmware image (16 R408) -/

/-- The checks of an image: its header, its digest, its signature. -/
def imageGood (xs : List Byte) : Bool :=
  let d := Config.shake256 (bodyOf xs)
  imgNum xs 0 4 == 0x4B464D52 && imgNum xs 4 2 == 1 && imgNum xs 6 2 == 0
    && bodyLen xs % 64 == 0 && bodyLen xs ≤ 2 ^ 26 && xs.length == 0x100 + bodyLen xs
    && imgNum xs 0xC2 62 == 0 && imgNum xs 0x10 64 == d.toNat
    && Config.ed448Verify d ((xs.drop 0x50).take 114)

/-! ## The start of the firmware -/

/-- A command core as the firmware leaves it. -/
def bootCore (n : Nat) : Core :=
  let k := Core.blank (4112 + n)
  let segs := iter 6 (fun j v => v.set (Fin.ofNat 8 (j + 2)) (segClean (Config.bootSegs n (j + 2)))) k.segs
  let fs := (Config.bootFibres n).take (nSlots .command)
  let fibre (x : W64 × Bool) : Fibre := { Fibre.blank with pc := x.1, ctl := { Ctl.blank with priv := x.2 } }
  { k with segs := segs, fibres := (upto fs.length).zip (fs.map fibre) }

/-- The stream fibres start: the firmware accepts stream records (16 R409). -/
def startStreams (s : State) : State :=
  { s with cores := (upto 8).map fun n => (4112 + n, bootCore n), boot := { s.boot with stage := .running } }

/-- The firmware learns the fabric's partition maps (16 R399), writes every atom, places the fault queues and the
runtime's translation root, and waits for the join of its domain (16 R409). -/
def bootFirmware (s : State) : State :=
  let dram := Config.bootMemory.foldl (fun m c => if c.1 < 2 ^ 39 then Mem.wr m c.1 c.2 else m) []
  let base (d : Nat) : W64 := BitVec.ofNat 64 ((Config.fqSlot d).toNat * 2 ^ 25)
  let s := { s with mem := { s.mem with dram := dram, bad := [], weak := [] } }
  let s := { s with tasks := { s.tasks with roots := [(runtimeAsid, (Config.rootSlot runtimeAsid).toNat * 2 ^ 16)] } }
  let s := (upto 2).foldl (fun s d => modDie s d fun x => { x with fqbase := base d }) s
  { s with
    fab := { s.fab with maps := Config.partMaps.foldl (fun m x => nput m x.1 x.2) [] },
    boot := { s.boot with stage := .joining } }

/-- POWER_ON: the boot ROM checks the image of the flash; it runs the firmware, or waits for RECOVERY frames. -/
def execPowerOn (s : State) : Host.Outcome State Fault Refusal :=
  .next (match s.boot.stage with
    | .rom =>
        if imageGood (firmware s) then bootFirmware s
        else { s with boot := { s.boot with stage := .recovery, pieces := [] } }
    | .recovery | .joining | .running | .tripped => s)

/-- RECOVERY: a piece of an image; the whole image is checked, and written to the flash only when it passes. -/
def execRecovery (piece : List Byte) (s : State) : Host.Outcome State Fault Refusal :=
  .next (match s.boot.stage with
    | .recovery =>
        let got := s.boot.pieces ++ piece.take 4096
        let put (b : Boot) : State := { s with boot := b }
        if got.length < 0x100 || got.length < 0x100 + bodyLen got then put { s.boot with pieces := got }
        else if imageGood got then bootFirmware (put { s.boot with flash := some got, pieces := [] })
        else put { s.boot with pieces := [] }
    | .rom | .joining | .running | .tripped => s)

/-- The device as it returns to step 1 of R409. Its memory keeps its contents until the firmware writes it. -/
def restart (s : State) : State :=
  { State.reset with
    mem := { s.mem with scratch := [] },
    boot := { s.boot with stage := .rom, pieces := [] },
    time := s.time, fresh := s.fresh, agenda := s.agenda,
    chaez := { State.reset.chaez with out := s.chaez.out } }

/-- RESET: it waits for the frames before it while the device runs (16 R394). -/
def execReset (s : State) : Host.Outcome State Fault Refusal :=
  .next (if s.boot.stage == .running && nodeBusy s then hold s .reset else replyStatus (restart s) 0)

end Sys2Proof.Machine
end

