-- ==== Sys2Proof/Machine/Fabric.lean ====
section
/-! DEFINITION. Mulos: packets of other devices, the switch, timeouts, collectives, the time base of the domain
(14 R358, R369; 15 R384; 16 R397-R406). -/

namespace Sys2Proof.Machine

/-! ## Packets that this device answers (16 R398, R400, R402) -/

/-- The number of the Mulos ports among the agents that send requests. -/
def fabricAgent : Nat := 4121

/-- Who sends the requests of a packet. -/
def fabricWho : Issuer := ⟨fabricAgent, goneSlot, 0, 0, false, false, 0⟩

/-- The rights of a domain id in PEERACC: R W A ROW from bit 0. -/
def peerRights (s : State) (src : Nat) : BitVec 4 := ngetD s.regs.peeracc src 0

/-- A malformed row packet (16 R398), and one that is not for this device (log 23). -/
def rowMalformed (s : State) (p : RowPkt) : Bool :=
  p.len < 8 || 32768 < p.len || 2 ^ 16 ≤ p.table || 2 ^ 55 ≤ p.soff || 64 ≤ p.stag
    || p.dev != s.regs.domid.toNat ||
    match p.kind with
    | .read => !p.data.isEmpty
    | .write | .accum _ _ => p.data.length != p.len

/-- A port is fenced (16 R397). -/
def fencePort (s : State) (port : BitVec 4) : State :=
  if s.fab.fenced.contains port.toNat then s
  else { s with fab := { s.fab with fenced := s.fab.fenced ++ [port.toNat] } }

/-- Whether a packet came in through a fenced port. -/
def portShut (s : State) (port : BitVec 4) : Bool := s.fab.fenced.contains port.toNat

/-- Whether a packet names another source than the one its port was configured with (16 R397). -/
def foreign (port : BitVec 4) (src : Nat) : Bool := src != (Config.portId port).toNat

/-- The number that bytes spell, lowest first. -/
def bytesNat : List Byte → Nat
  | [] => 0
  | b :: bs => b.toNat + 256 * bytesNat bs

/-- The access of a piece of a row. -/
def rowPiece (p : RowPkt) (off n : Nat) : Acc1 :=
  let v : W512 := BitVec.ofNat 512 (bytesNat ((p.data.drop off).take n))
  match p.kind with
  | .read => ⟨.load, n, 0, 0⟩
  | .write => ⟨.store, n, v, 0⟩
  | .accum op wide => ⟨.red op, n, v, if wide then 8 else 4⟩

/-- Where a piece goes, through the tables of an ASID. -/
def ownerPlace (s : State) (asid va : Nat) (acc : Acc1) (tagged : Bool) : Except Err (State × Tgt) :=
  match walkTables s asid va with
  | (_, .error e) => .error e
  | (s, .ok x) =>
      match leafCheck s x va acc tagged with
      | .error code => .error (code, .virtual, va)
      | .ok pl =>
          match orLeaf s x (needsWrite acc.op) va, pl with
          | (_, .error e), _ => .error e
          | (_, .ok _), none => .error (.busError, .virtual, va)
          | (s, .ok y), some q => .ok (s, .goes q (bitAt y.leaf 7) (leafStale y.leaf) y.bits)

/-- The pieces of a row, resolved in ascending order. -/
def ownerPieces (asid : Nat) : State → List Piece → Except Err (State × List Piece)
  | s, [] => .ok (s, [])
  | s, p :: ps =>
      match ownerPlace s asid p.loc.va?.1 p.acc p.loc.va?.2.isSome with
      | .error e => .error e
      | .ok (s, t) =>
          match ownerPieces asid s ps with
          | .error e => .error e
          | .ok (s, qs) => .ok (s, { p with tgt := some t } :: qs)

/-- The dword of the domain table at an index. -/
def domDword (s : State) (j : Nat) : W64 := ngetD s.regs.domtab j 0

/-- A well-formed row packet at its owner. -/
def serveRow (s : State) (p : RowPkt) : State :=
  let e := domDword s (2 * p.table)
  if 4096 ≤ p.table || !bitAt e 63 || !bitAt (peerRights s p.src) 3 then
    answerPacket s p.src p.tag (codeNum .fabricProtection) []
  else
    let loc : Loc := .va ((bf e 0 55 + p.soff) % 2 ^ 55) (if p.g then some p.stag else none)
    let grain := match p.kind with
      | .accum _ wide => if wide then 8 else 4
      | .read | .write => loc.grain
    let ps : List Piece := (cutAt loc.addr p.len grain).map fun x =>
      ⟨x.1, loc.plus x.1, rowPiece p x.1 x.2, none⟩
    match ownerPieces (bf (domDword s (2 * p.table + 1)) 0 11) s ps with
    | .error er => answerPacket s p.src p.tag (codeNum er.1) []
    | .ok (s, qs) =>
        let dst := match p.kind with
          | .read => p.len
          | .write | .accum _ _ => 0
        let (id, s) := newTxn s fabricWho (.packet p.src p.tag) dst false qs
        launch s id

/-- ROW_PACKET: a row packet of another device. A malformed one, or one with a foreign source id, fences its port;
nothing comes in through a fenced port. -/
def execRowPacket (pkt : RowPkt) (s : State) : Host.Outcome State Fault Refusal :=
  .next (if portShut s pkt.port then s
    else if rowMalformed s pkt || foreign pkt.port pkt.src then fencePort s pkt.port
    else serveRow s pkt)

/-- The access of a packet for a page, and whether PEERACC allows it (16 R402); an st4 is a store. -/
def peerAcc (p : PeerPkt) (r : BitVec 4) : Acc1 × Bool :=
  let v : W512 := p.data.setWidth 512
  match p.kind with
  | .load => (⟨.load, p.size, 0, 0⟩, bitAt r 0)
  | .store => (⟨.store, p.size, v, 0⟩, bitAt r 1)
  | .nibble hi => (⟨.nibble hi, p.size, v, 0⟩, bitAt r 1)
  | .amo op => (⟨.amo op, p.size, v, 0⟩, bitAt r 1 && bitAt r 2)
  | .cas => (⟨.cas, p.size, v, p.data2⟩, bitAt r 1 && bitAt r 2)
  | .red op => (⟨.red op, p.size, v, BitVec.ofNat 64 p.size⟩, bitAt r 1 && bitAt r 2)

/-- A malformed packet for a page: it has no byte, or its bytes do not lie in one atom (a load of an
instruction-cache line has two), or it is an atomic that is not 4 or 8 aligned bytes, or an st4 of more than one. -/
def peerMalformed (p : PeerPkt) : Bool :=
  match p.kind with
  | .load => !(p.size == 64 && p.pa % 64 == 0) && (p.size == 0 || 32 < p.pa % 32 + p.size)
  | .store => p.size == 0 || 32 < p.pa % 32 + p.size
  | .nibble _ => p.size != 1
  | .amo _ | .cas | .red _ => !(p.size == 4 || p.size == 8) || p.pa % p.size != 0

/-- PEER_ACCESS_PACKET: a load, store or atomic of another device at a physical address of this one. -/
def execPeerAccessPacket (pkt : PeerPkt) (s : State) : Host.Outcome State Fault Refusal :=
  let (acc, may) := peerAcc pkt (peerRights s pkt.src)
  .next (if portShut s pkt.port then s
    else if peerMalformed pkt || foreign pkt.port pkt.src then fencePort s pkt.port
    else if !may then answerPacket s pkt.src pkt.tag (codeNum .fabricProtection) []
    else
      match placeAt pkt.pa true with
      | none => answerPacket s pkt.src pkt.tag (codeNum .busError) []
      | some pl =>
          let size := if readsBytes acc.op then pkt.size else 0
          let p : Piece := ⟨0, .va pkt.pa none, acc, some (.goes pl pkt.rbit pkt.stale.toNat 0)⟩
          let (id, s) := newTxn s fabricWho (.packet pkt.src pkt.tag) size false [p]
          launch s id)

/-! ## The switch (16 R399, R401) and the fabric timeout (16 R397) -/

/-- The age below which a MERGE read may be joined, in ns. -/
def mergeLimit : Nat := 1000

/-- The outstanding MERGE read that a request may join. -/
def mergeHost (s : State) (id : Nat) (r : Req) : Option Nat :=
  (s.fab.merge.find? fun m =>
    m.1 != id && s.time.toNat < m.2.1 + mergeLimit &&
      match getReq s m.1 with
      | some q => q.place == r.place && q.acc.size == r.acc.size && q.answer.isNone
      | none => false).map (·.1)

/-- SWITCH_ROW_PACKET: a row packet that this device has sent reaches the switch: it is answered there, joins an
outstanding read, or goes on. -/
def execSwitchRowPacket (id : Nat) (s : State) : Host.Outcome State Fault Refusal :=
  match reqFree s id with
  | some r =>
      (match r.place with
       | .row dev table row _ merge =>
           let join (m : NMap (Nat × List Nat)) : State := { s with fab := { s.fab with merge := m } }
           if fabricLate s r || r.answer.isSome then .next s
           else if wrongOwner s dev table row then .next (answerMerged s id (.err .fabricProtection))
           else if !merge || (nget s.fab.merge id).isSome then .next s
           else
             match mergeHost s id r with
             | some h => .next (deferReq (join (nmod s.fab.merge h fun x => (x.1, x.2 ++ [id]))) id)
             | none =>
                 .next (if s.fab.merge.length < mergeCap then join (nput s.fab.merge id (s.time.toNat, [])) else s)
       | _ => .next s)
  | none => .next s

/-- FABRIC_TIMEOUT: a request to another device ends. -/
def execFabricTimeout (id : Nat) (s : State) : Host.Outcome State Fault Refusal :=
  match getReq s id with
  | some r =>
      .next (if fabricLate s r then endFabric s id else s)
  | none => .next s

/-! ## Collectives (12 R297; 14 R369; 15 R384; 16 R403, R404) -/

/-- COP of a COLL (12 R288). -/
def collCop (x : Cmd) : Nat := bf x.w[1] 0 3

/-- What this device has sent for a COLL. -/
def ownShare (x : Cmd) : CollShare :=
  let m := Mem.cut x.buf collDesc 320
  { rank := Mem.rdN m 6 2, cop := collCop x,
    members := (upto (Mem.rdN m 4 2)).map fun r => (Mem.rd m (64 + r)).toNat,
    dwords := (upto (cmdN x.w)).map fun j => Mem.rd64 x.buf (8 * j),
    digest := if bitAt x.w[1] 3 then some ((upto 4).map fun j => Mem.rd64 x.buf (collSum + 8 * j)) else none }

/-- Whether two COLL commands of one group cannot both be served. -/
def clash (a b : CollShare) : Bool :=
  a.cop != b.cop || a.dwords.length != b.dwords.length || a.members != b.members || a.rank == b.rank

/-- Whether any two of a list clash. -/
def anyClash : List CollShare → Bool
  | [] => false
  | a :: as => as.any (clash a) || anyClash as

/-- One dword of two ranks put together. -/
def foldStep (cop : Nat) (a b : W64) : W64 :=
  match cop with
  | 0 => a + b
  | 1 =>
      let lane (j : Nat) : Nat := (faddBits rne (bf a (32 * j) 32) (bf b (32 * j) 32)).bits
      BitVec.ofNat 64 (lane 0 + lane 1 * 2 ^ 32)
  | 2 => if a.toInt ≤ b.toInt then a else b
  | 3 => if a.toInt ≤ b.toInt then b else a
  | _ => a

/-- Dword j of the result over shares of rising rank. -/
def foldAt (cop j : Nat) : List CollShare → W64
  | [] => 0
  | x :: xs => xs.foldl (fun v y => foldStep cop v (y.dwords.getD j 0)) (x.dwords.getD j 0)

/-- The result stands in the buffer, and is written from there. -/
def collBack (s : State) (c e : Nat) (xs : List CollShare) (degraded : Bool) : State :=
  let xs := sortBy (·.rank) xs
  let s := modCmd s c e fun y =>
    let m := (upto (cmdN y.w)).foldl (fun m j => Mem.wr64 m (8 * j) (foldAt (collCop y) j xs)) []
    { y with back := true, buf := m, aux := if degraded then y.aux ||| 1 else y.aux }
  if degraded then
    match taskOf s (tidOf (getCore s c)) with
    | some (a, _) => modTask s a fun t => { t with flags := t.flags ||| 1 }
    | none => s
  else s

/-- The outcome of a digest that differs: the entry stops, and every core of the task freezes. -/
def collDiverges (s : State) (c e : Nat) (code : FCode) : State :=
  let tid := tidOf (getCore s c)
  let s := modCmd s c e fun y =>
    { y with st := .stopped, started := false, fcode := codeNum code, prog := cmdN y.w, performed := [], back := true }
  let cs := match taskOf s tid with
    | some (_, t) => t.cores
    | none => []
  let s := cs.foldl (fun s d => if (getCore s d).frozen.isSome then s else freezeCore s d .task) s
  appendRec s (dieOf c) (srcTask tid)
    { code := code, cls := 2, src := 4, restored := false, akind := .none, entry := 0, count := 0, fid := coreFid c,
      pc := 0, addr := 0, info := e, tid := tid }

/-- A digest sent by more than half of the members. -/
def majority (xs : List CollShare) : Option (List W64) :=
  (xs.filterMap (·.digest)).find? fun d => decide (xs.length < 2 * (xs.filter fun x => x.digest == some d).length)

/-- The outcome of a COLL to which all members have sent. -/
def collServed (s : State) (c e : Nat) (own : CollShare) (xs : List CollShare) : State :=
  if xs.all fun x => x.digest == own.digest then collBack s c e xs false
  else
    match majority xs with
    | some d =>
        if own.digest == some d then collBack s c e (xs.filter fun x => x.digest == some d) true
        else collDiverges s c e .divergence
    | none => collDiverges s c e .divergenceUnresolved

/-- COLL_OUTCOME: what the switch makes of the shares that have reached it within the fabric timeout; without all of
them the command ends with it. That of a task that is being ended is discarded (16 R412). -/
def execCollOutcome (core entry : Nat) (others : List CollShare) (s : State) : Host.Outcome State Fault Refusal :=
  match s.fab.colls.find? (fun y => y.1 == core && y.2.1 == entry), nget (getCore s core).fifo entry with
  | some (_, _, t), some x =>
      let done := { s with fab := { s.fab with colls := s.fab.colls.filter fun y => !(y.1 == core && y.2.1 == entry) } }
      let own := ownShare x
      let xs := own :: others
      let due := decide (t + fabricLimit ≤ s.time.toNat) || anyClash xs
        || xs.length = own.members.length && xs.all (fun y => y.rank < own.members.length)
      if !x.sent || x.back || x.st != .running then .next s
      else if due && endedCore s core then .next done
      else if t + fabricLimit ≤ s.time.toNat then
        .next (elemFault done core entry 0 (.fabricTimeout, .none, 0) (x.w[2].toNat))
      else if anyClash xs then .next (elemFault done core entry 0 (.engineFormat, .none, 0) 0)
      else if xs.length = own.members.length && xs.all (fun y => y.rank < own.members.length) then
        .next (collServed done core entry own xs)
      else .next s
  | _, _ => .next s

/-! ## The time base of the domain (14 R358; 16 R406) -/

/-- The steering of the rate, in parts per million, at most 0.1 %. -/
def steer (ahead : Int) : Int := max (-1000) (min 1000 ahead)

/-- TIME_BEACON: the reference's TIME is ahead by so many ns; another device's beacon is ignored. -/
def execTimeBeacon (ref : Nat) (ahead : Int) (s : State) : Host.Outcome State Fault Refusal :=
  .next (if ref == s.regs.timeRef && ref != s.regs.domid.toNat then
      { s with regs := { s.regs with rate := steer ahead } }
    else s)

/-- The lowest domain id among a device and the other members of its domain. -/
def lowestMember (dom : Nat) : Nat := Config.members.foldl (fun m d => min m d.toNat) dom

/-- DOMAIN_JOIN: the firmware joins the domain (16 R409): TIME and DOMID are set, the member with the lowest domain id
is the time reference, and only then are stream records accepted. -/
def execDomainJoin (dom : Nat) (time : W64) (s : State) : Host.Outcome State Fault Refusal :=
  .next (if s.boot.stage == .joining && dom < 256 then
      startStreams { s with time := time,
                            regs := { s.regs with domid := BitVec.ofNat 8 dom, timeRef := lowestMember dom } }
    else s)

/-- The member that takes the place of a lost reference: the next domain id above it, or the lowest one when there is
none above it. -/
def nextReference (s : State) : Option Nat :=
  let ids := (s.regs.domid.toNat :: Config.members.map (·.toNat)).filter (· != s.regs.timeRef)
  let above := ids.filter fun d => s.regs.timeRef < d
  (if above.isEmpty then ids else above).min?

/-- REFERENCE_LOSS: the member with the next-lowest domain id takes the reference's place, with no step. -/
def execReferenceLoss (dom : Nat) (s : State) : Host.Outcome State Fault Refusal :=
  .next (if nextReference s == some dom then { s with regs := { s.regs with timeRef := dom, rate := 0 } } else s)

end Sys2Proof.Machine
end

