-- ==== Sys2Proof/Machine/Agenda.lean ====
section
/-! DEFINITION. Which step comes next (log 1): what stands on the agenda, else one of the steps that the device
may take by itself, in rounds in which each has its turn (02 R42), or something that the outside world does; and where
a word is placed so that it is the next (log 13). A step that the device is not ready for changes nothing. -/

namespace Sys2Proof.Machine

/-- What still happens while the clocks of a device stand: DRAM is refreshed. -/
def idle : Instr := .refresh 0 0 0

/-! ## The steps that the device may take by itself -/

/-- Steps of a command-FIFO entry. -/
def entrySteps (c e : Nat) : List Instr :=
  [.gather c e, .scatter c e, .accum c e, .dedup c e, .reduce c e, .copy c e, .walk c e, .fill c e, .coll c e,
   .commandRetire c e, .commandStop c e]

/-- Steps of a strand. -/
def strandSteps (c st : Nat) : List Instr := [.quantumEnd c st, .rejoinLineHigh c st]

/-- Steps of a core. -/
def coreSteps (c : Nat) (k : Core) : List Instr :=
  [.sequencerCycle c, .commandStart c, .handlerStart c, .barrierComplete c .row, .barrierComplete c .col,
   .barrierComplete c .vly, .barrierComplete c .task]
    ++ (upto 16).flatMap (strandSteps c)
    ++ k.fibres.map (fun x => .waitTimeout c x.1)
    ++ k.fifo.flatMap (fun x => entrySteps c x.1)
    ++ k.q.sb.map (fun x => .storeBufferSend c x.1)
    ++ k.caches.row.map fun e => .rowCacheExpiry c e.atom

/-- Steps of a request. -/
def reqSteps (id : Nat) : List Instr :=
  [.accessReply id, .icacheFill id, .remoteTileAccess id, .storeAck id, .controllerIssue id, .accumulateAccept id,
   .geckoToken id, .registerWrite id, .switchRowPacket id, .fabricTimeout id, .replyForward id]

/-- Steps of a message. -/
def msgSteps (id : Nat) : List Instr :=
  [.inboxReservation id, .messageWrite id, .migrationReserve id, .migrationArrival id, .wakeDelivery id,
   .feWithdrawal id, .replyForward id]

/-- Steps of what is in flight. -/
def netSteps (n : Net) : List Instr :=
  n.reqs.flatMap (fun x => reqSteps x.1) ++ n.msgs.flatMap (fun x => msgSteps x.1)
    ++ n.walks.flatMap (fun x => [.tlbLookup x.1, .walkEnd x.1])
    ++ n.rings.flatMap fun x => [.mrotComplete x.1, .mxchComplete x.1]

/-- Steps of the memory system; the places that are scrubbed, refreshed and counted are free. -/
def memSteps (s : State) : List Instr :=
  let n (j m : Nat) : Nat := Config.choose (s.fresh + j) % m
  s.geckos.flatMap (fun g => g.2.cb.map fun e => .combiningDrain g.1 e.1)
    ++ [.promotionEpoch (n 1 4096), .scrub (n 2 (2 ^ 34)), .refresh (n 3 4096) (n 4 64) (n 5 16384), .snoopApply]

/-- Steps of the dispatcher and of the domains; the energies that a task, a domain and the parts outside the domains
have drawn are measured, and free. -/
def taskSteps (s : State) : List Instr :=
  s.tasks.table.flatMap (fun t => [.preempt t.2.tid, .taskComplete t.2.tid (Config.choose (s.fresh + 6))])
    ++ [.governorWindow (Config.choose (s.fresh + 9))]
    ++ (upto 18).flatMap fun d => [.energyExhausted d, .vfEvaluate d (Config.choose (s.fresh + 10 + d))]

/-- What comes from outside. -/
def outside : Instr → Bool
  | .hostSnoop _ _ | .hostResponse _ _ _ | .cxlLinkDown | .cxlLinkRetrain | .hostRegisterAccess _ _ _
  | .stackTemperatureReport _ _ | .computeDieTemperature _ _
  | .equalisation _ | .dispatch _ | .chaezWrite _ _ | .chaezRead _ _ | .release _ | .releaseSkip _ | .endTask _
  | .digestReset _ | .unfence _ | .timeref _ | .checkpoint _ _ | .checkpointRestore _ | .reset | .recovery _
  | .statusReport _ _ | .thermalTrip _ | .rowPacket _ | .peerAccessPacket _ | .collOutcome _ _ _
  | .timeBeacon _ _ | .domainJoin _ _ | .referenceLoss _ => true
  | _ => false

/-- What comes over the Chaez port in order: frames and actions of the control node (16 R394). -/
def isFrame : Instr → Bool
  | .chaezWrite _ _ | .chaezRead _ _ | .release _ | .releaseSkip _ | .endTask _ | .digestReset _ | .unfence _
  | .timeref _ | .checkpoint _ _ | .checkpointRestore _ | .reset => true
  | _ => false

/-- The oldest frame that waits, once the one before it has been performed. -/
def waiting (s : State) : Option Instr := if nodeBusy s then none else s.chaez.held.head?

/-- The requesters of a round: each has its turn in it (02 R42). -/
def requests (s : State) : List Instr :=
  [.timeTick] ++ s.cores.flatMap (fun x => coreSteps x.1 x.2) ++ netSteps s.net ++ memSteps s ++ taskSteps s
    ++ s.chaez.acts ++ (waiting s).toList

/-- What the outside world offers. A frame comes after those that wait. -/
def incoming (s : State) : List Instr :=
  match Config.input s.fresh with
  | some i => if outside i && !(isFrame i && (waiting s).isSome) then [i] else []
  | none => []

/-- All the steps from which the next one is taken. -/
def offers (s : State) : List Instr := incoming s ++ requests s

/-- The round: a new one when every requester has had its turn. -/
def rotaNow (s : State) : Rota :=
  if s.rota.due.isEmpty then ⟨requests s, Config.choose (s.fresh + 8)⟩ else s.rota

/-- A step is taken: a frame that has waited waits no more, and a frame that asks again for an action that has begun is
answered with it. -/
def take (s : State) (i : Instr) : Instr × State :=
  if waiting s == some i then (i, { s with chaez := { s.chaez with held := s.chaez.held.tail } })
  else if (incoming s).contains i && s.chaez.acts.contains i then
    (idle, if nodeBusy s then hold s i else { s with chaez := { s.chaez with acts := s.chaez.acts ++ [i] } })
  else (i, s)

/-- A step that the device takes by itself: any of those offered, or the requester whose turn it is. -/
def chosen (s : State) : Instr × State :=
  let r := rotaNow s
  match r.slack, r.due with
  | 0, i :: rest => take { s with rota := ⟨rest, Config.choose (s.fresh + 8)⟩ } i
  | n, due =>
      let xs := offers s
      let i := xs.getD (Config.choose (s.fresh + 7) % xs.length) .timeTick
      take { s with rota := ⟨due.erase i, n - 1⟩ } i

/-- Whether a boot stage takes something that the outside world does. -/
def stageTakes : Stage → Instr → Bool
  | .running, _ => true
  | .recovery, .recovery _ => true
  | .recovery, .reset => true
  | .recovery, .thermalTrip _ => true
  | .joining, .domainJoin _ _ => true
  | .joining, .reset => true
  | .joining, .thermalTrip _ => true
  | .tripped, .reset => true
  | .recovery, _ => false
  | .joining, _ => false
  | .tripped, _ => false
  | .rom, _ => false

/-- What comes next: from the agenda, else by the device itself or from outside. -/
def comesNext (s : State) : Instr × State :=
  match s.boot.stage with
  | .rom => (.powerOn, s)
  | st =>
      match s.agenda with
      | i :: rest => (if stageTakes st i then i else idle, { s with agenda := rest })
      | [] =>
          let later (t : State) : State := { t with fresh := s.fresh + 28 }
          let t := later s
          match st with
          | .running => let x := chosen s
                        (x.1, later x.2)
          | _ =>
              match Config.input s.fresh with
              | some i => (if stageTakes st i then i else idle, t)
              | none => (idle, t)

/-- The next step. An instruction word is none: it runs within the cycle that issues it. -/
def nextStep (s : State) : Instr × State :=
  let x := comesNext s
  (if x.1.opcode.isNone then x.1 else idle, x.2)

/-- The core that runs a word that is placed for it: one of the kind that has the word's feature. -/
def placeCore (i : Instr) : Nat :=
  if kindOk .lookup i && bitAt (featOf .lookup) (group i)
      && !((regsOf i).any fun r => match r with
        | .s _ => true
        | _ => false) then 0
  else if kindOk .dense i && bitAt (featOf .dense) (group i) then 4096
  else 4112

/-- The crew of the core that a word is placed on: every feature, no privilege of its own. -/
def placeCrew : Crew :=
  { tid := 1, asid := 0, crew := 0, rel := 0, place := 0, tile := 65536, cache := 0, tfeat := 0x1FFF,
    taskReg := 1, ehandler := 0, rm := 0, fz := false, priv := false, seed0 := 0 }

/-- The machine with a word where its next step fetches it: a fibre stands on a strand of a core, its code
segment and the instruction-cache line hold the word, as a lone word, and the core's cycle comes next
(log 13). -/
def placeWord (s : State) (w : Nat) : State :=
  let word := w % 2 ^ 31 + 2 ^ 31
  let i := (decodeWord word).getD .nop
  let c := placeCore i
  let hand := match i with
    | .hret | .sendR _ _ => true
    | _ => false
  let slot := if hand then handlerSlot else 0
  let st := if hand then 15 else 0
  let f : Fibre :=
    { Fibre.blank with
      ctl := { Ctl.blank with priv := group i == 12 },
      sch := { Sched.blank with run := .running st } }
  let k := Core.blank c
  let k : Core :=
    { k with
      crew := some placeCrew,
      fibres := [(slot, f)],
      handler := if hand then some ⟨0, some 0, false, 0⟩ else none,
      segs := k.segs.set 2 (segWord 0 0 4096 5 2),
      caches := { k.caches with icache := [⟨0, BitVec.ofNat 512 word, 0⟩] } }
  let k := modStrand k st fun t => { t with occ := some slot }
  { s with
    cores := nput s.cores c k,
    boot := { s.boot with stage := .running },
    agenda := [.sequencerCycle c] }

end Sys2Proof.Machine
end

