-- ==== Sys2Proof/Machine/Float.lean ====
section
/-! DEFINITION. The scalar floating-point instructions of the A slot (05 R110-R116). -/

namespace Sys2Proof.Machine

/-- Flags into STATUS and, under SR, n advances of SEED, which a C slot's write of SEED overrides
(03 R57, R59, R64). -/
def noteRound (s : State) (fl : BitVec 5) (n : Nat) : State :=
  let m := modeOf (src s)
  modMe s fun f =>
    let f := orFlags f fl
    if m.rm = 5 && !s.issue.seedW then { f with ctl := { f.ctl with seed := seedAfter n m.seed } } else f

/-- A float instruction with a register destination: result, flags, roundings (05 R110). -/
def floatOp (i : Instr) (p : PReg) (d : Reg) (n : Nat) (s : State) (res : State → RMode → FRes)
    (wide : Nat → W64) : Host.Outcome State Fault Refusal :=
  run i s fun s =>
    if rdP s p then
      let y := res s (modeOf (src s))
      let v := wide y.bits
      (capture (wr (noteRound s y.fl n) d v) v, .next)
    else (s, .next)

/-- ZeroExt of a result. -/
def zx (n : Nat) : W64 := BitVec.ofNat 64 n

/-- The FP32 pattern of a source register (05 R110). -/
def rd32 (s : State) (r : Reg) : Nat := bf (rd s r) 0 32

def execFadd (p : PReg) (d a b : Reg) (s : State) : Host.Outcome State Fault Refusal :=
  floatOp (.fadd p d a b) p d 1 s (fun s r => faddBits r (rd32 s a) (rd32 s b)) zx

def execFsub (p : PReg) (d a b : Reg) (s : State) : Host.Outcome State Fault Refusal :=
  floatOp (.fsub p d a b) p d 1 s (fun s r => fsubBits r (rd32 s a) (rd32 s b)) zx

def execFmul (p : PReg) (d a b : Reg) (s : State) : Host.Outcome State Fault Refusal :=
  floatOp (.fmul p d a b) p d 1 s (fun s r => fmulBits r (rd32 s a) (rd32 s b)) zx

def execFma (p : PReg) (d a b c : Reg) (s : State) : Host.Outcome State Fault Refusal :=
  floatOp (.fma p d a b c) p d 1 s (fun s r => fmaBits r (rd32 s a) (rd32 s b) (rd32 s c)) zx

def execFdiv (p : PReg) (d a b : Reg) (s : State) : Host.Outcome State Fault Refusal :=
  floatOp (.fdiv p d a b) p d 1 s (fun s r => fdivBits r (rd32 s a) (rd32 s b)) zx

def execFrcp (p : PReg) (d a : Reg) (s : State) : Host.Outcome State Fault Refusal :=
  floatOp (.frcp p d a) p d 1 s (fun s r => frcpBits r (rd32 s a)) zx

def execFrsq (p : PReg) (d a : Reg) (s : State) : Host.Outcome State Fault Refusal :=
  floatOp (.frsq p d a) p d 1 s (fun s r => frsqBits r (rd32 s a)) zx

def execFmin (p : PReg) (d a b : Reg) (v : Bool) (s : State) : Host.Outcome State Fault Refusal :=
  floatOp (.fmin p d a b v) p d 0 s (fun s r => fminmax false v r.fz (rd32 s a) (rd32 s b)) zx

def execFmax (p : PReg) (d a b : Reg) (v : Bool) (s : State) : Host.Outcome State Fault Refusal :=
  floatOp (.fmax p d a b v) p d 0 s (fun s r => fminmax true v r.fz (rd32 s a) (rd32 s b)) zx

def execFsgn (p : PReg) (d a b : Reg) (v : SgnVar) (s : State) : Host.Outcome State Fault Refusal :=
  floatOp (.fsgn p d a b v) p d 0 s (fun s _ => ⟨fsgnBits v (rd32 s a) (rd32 s b), 0⟩) zx

def execFclass (p : PReg) (d a : Reg) (f : Fmt) (s : State) : Host.Outcome State Fault Refusal :=
  floatOp (.fclass p d a f) p d 0 s
    (fun s _ => ⟨fclassBits ((binOf f).getD fp32) (bf (rd s a) 0 (fmtBits f)), 0⟩) zx

def execFcmp (p pd : PReg) (a b : Reg) (c : FCond) (s : State) : Host.Outcome State Fault Refusal :=
  run (.fcmp p pd a b c) s fun s =>
    if rdP s p then
      let y := fcmpBits c (modeOf (src s)).fz (rd32 s a) (rd32 s b)
      (wrP (noteRound s y.2 0) pd y.1, .next)
    else (s, .next)

/-- The T8 row scale of a conversion: the prefix's, or 1.0 (04 R84, 05 R116). -/
def t8Scale (s : State) (a b : Fmt) : Nat :=
  match ext s with
  | some x => if t8Scaled a b then bf x 0 16 else 0x3F80
  | none => 0x3F80

/-- The E2M1 block scale of a conversion: the prefix's, or 127 (04 R84). -/
def e2Scale (s : State) : Nat :=
  match ext s with
  | some x => bf x 0 8
  | none => 127

/-- The scale that a format takes in a conversion. -/
def scaleOf (s : State) (a b f : Fmt) : Nat := if f == .e2m1 then e2Scale s else t8Scale s a b

/-- Widening a conversion's result to a register (05 R115). -/
def widen (f : Fmt) (n : Nat) : W64 := if isIntFmt f then sext (fmtBits f) n else zx n

def execFcvt (p : PReg) (d a : Reg) (sf df : Fmt) (s : State) : Host.Outcome State Fault Refusal :=
  floatOp (.fcvt p d a sf df) p d (cvSteps sf df) s
    (fun s r => convert (dtabNow s) r (scaleOf s sf df sf) (scaleOf s sf df df) sf df
      (bf (rd s a) 0 (fmtBits sf))) (widen df)

end Sys2Proof.Machine
end

