-- ==== Sys2Proof/Machine/IntAlu.lean ====
section
/-! DEFINITION. The integer instructions of the A slot (05 R99-R107). -/

namespace Sys2Proof.Machine

/-! ## The results (05 R100-R106) -/

/-- The step W of the .w variants: the low 32 bits, sign-extended (05 R99). -/
def lowW (v : W64) : W64 := (v.setWidth 32).signExtend 64

/-- A clamped signed sum or difference (05 R100). -/
def clampS (v : Int) : W64 :=
  if v < -2 ^ 63 then BitVec.ofNat 64 (2 ^ 63)
  else if 2 ^ 63 ≤ v then BitVec.ofNat 64 (2 ^ 63 - 1) else BitVec.ofInt 64 v

/-- A clamped unsigned sum or difference (05 R100). -/
def clampU (v : Int) : W64 :=
  if v < 0 then 0 else if 2 ^ 64 ≤ v then BitVec.allOnes 64 else BitVec.ofInt 64 v

/-- add (05 R100). -/
def addRes (v : SumVar) (a b : W64) : W64 :=
  match v with
  | .n => a + b
  | .w => lowW (a + b)
  | .ss => clampS (a.toInt + b.toInt)
  | .us => clampU (a.toNat + b.toNat)

/-- sub (05 R100). -/
def subRes (v : SumVar) (a b : W64) : W64 :=
  match v with
  | .n => a - b
  | .w => lowW (a - b)
  | .ss => clampS (a.toInt - b.toInt)
  | .us => clampU (a.toNat - b.toNat)

/-- mul (05 R100). -/
def mulRes (w : Bool) (a b : W64) : W64 := if w then lowW (a * b) else a * b

/-- mulh: bits 127 to 64 of the exact product (05 R100). -/
def mulhRes (u : Bool) (a b : W64) : W64 :=
  if u then BitVec.ofNat 64 (a.toNat * b.toNat / 2 ^ 64)
  else BitVec.ofInt 64 (a.toInt * b.toInt / 2 ^ 64)

/-- Signed division in n bits: −1 for a divisor of 0, truncation toward zero; the quotient of the
most negative value by −1 wraps to it (05 R101). -/
def divS {n : Nat} (a b : BitVec n) : BitVec n := if b = 0 then BitVec.allOnes n else a.sdiv b

/-- Unsigned division in n bits: all ones for a divisor of 0 (05 R101). -/
def divU {n : Nat} (a b : BitVec n) : BitVec n := if b = 0 then BitVec.allOnes n else a / b

/-- Signed remainder in n bits: the dividend for a divisor of 0 (05 R101). -/
def remS {n : Nat} (a b : BitVec n) : BitVec n := if b = 0 then a else a.srem b

/-- Unsigned remainder in n bits: the dividend for a divisor of 0 (05 R101). -/
def remU {n : Nat} (a b : BitVec n) : BitVec n := if b = 0 then a else a % b

/-- The low 32 bits. -/
def lo32 (v : W64) : W32 := v.setWidth 32

/-- div (05 R100, R101). -/
def divRes (v : DivVar) (a b : W64) : W64 :=
  match v with
  | .n => divS a b
  | .u => divU a b
  | .w => (divS (lo32 a) (lo32 b)).signExtend 64
  | .uw => (divU (lo32 a) (lo32 b)).signExtend 64

/-- rem (05 R100, R101). -/
def remRes (v : DivVar) (a b : W64) : W64 :=
  match v with
  | .n => remS a b
  | .u => remU a b
  | .w => (remS (lo32 a) (lo32 b)).signExtend 64
  | .uw => (remU (lo32 a) (lo32 b)).signExtend 64

/-- shl in n bits: 0 for a count of n or more (05 R102). -/
def shlN {n : Nat} (a : BitVec n) (k : Nat) : BitVec n := if k < n then a <<< k else 0

/-- shr in n bits: 0 for a count of n or more (05 R102). -/
def shrN {n : Nat} (a : BitVec n) (k : Nat) : BitVec n := if k < n then a >>> k else 0

/-- sra in n bits: n copies of the top bit for a count of n or more (05 R102). -/
def sraN {n : Nat} (a : BitVec n) (k : Nat) : BitVec n := a.sshiftRight (if k < n then k else n)

/-- shl, with the whole of b as count (05 R102). -/
def shlRes (w : Bool) (a b : W64) : W64 :=
  if w then (shlN (lo32 a) b.toNat).signExtend 64 else shlN a b.toNat

/-- shr (05 R102). -/
def shrRes (w : Bool) (a b : W64) : W64 :=
  if w then (shrN (lo32 a) b.toNat).signExtend 64 else shrN a b.toNat

/-- sra (05 R102). -/
def sraRes (w : Bool) (a b : W64) : W64 :=
  if w then (sraN (lo32 a) b.toNat).signExtend 64 else sraN a b.toNat

/-- rotl: the count is taken modulo the width (05 R102). -/
def rotlRes (w : Bool) (a b : W64) : W64 :=
  if w then ((lo32 a).rotateLeft (b.toNat % 32)).signExtend 64 else a.rotateLeft (b.toNat % 64)

/-- Whether a is below b, signed or unsigned. -/
def below (u : Bool) (a b : W64) : Bool := if u then a.ult b else a.slt b

/-- min (05 R100). -/
def minRes (u : Bool) (a b : W64) : W64 := if below u b a then b else a

/-- max (05 R100). -/
def maxRes (u : Bool) (a b : W64) : W64 := if below u a b then b else a

/-- clz (05 R100). -/
def clzRes (w : Bool) (a : W64) : W64 :=
  BitVec.ofNat 64 (if w then clzN 32 (lo32 a).toNat else clzN 64 a.toNat)

/-- ctz (05 R100). -/
def ctzRes (w : Bool) (a : W64) : W64 :=
  BitVec.ofNat 64 (if w then ctzN 32 (lo32 a).toNat else ctzN 64 a.toNat)

/-- popc (05 R100). -/
def popcRes (w : Bool) (a : W64) : W64 :=
  BitVec.ofNat 64 (if w then popN 32 (lo32 a).toNat else popN 64 a.toNat)

/-- The field length of bext and bins: cut at bit 63 (05 R103). -/
def fieldLen (b : W64) : Nat := min (bf b 8 7) (64 - bf b 0 6)

/-- bext (05 R103). -/
def bextRes (x : Bool) (a b : W64) : W64 :=
  let f := bf a (bf b 0 6) (fieldLen b)
  if x then sext (fieldLen b) f else BitVec.ofNat 64 f

/-- bins (05 R103). -/
def binsRes (d a b : W64) : W64 := setBf d (bf b 0 6) (fieldLen b) a.toNat

/-- cmp (05 R105). -/
def cmpRes (u : Bool) (a b : W64) : W64 :=
  if below u a b then BitVec.allOnes 64 else if a = b then 0 else 1

/-! ## The instructions -/

def execAdd (p : PReg) (d a b : Reg) (v : SumVar) (s : State) : Host.Outcome State Fault Refusal :=
  aluOp (.add p d a b v) p d s fun s => addRes v (rd s a) (rd s b)

def execSub (p : PReg) (d a b : Reg) (v : SumVar) (s : State) : Host.Outcome State Fault Refusal :=
  aluOp (.sub p d a b v) p d s fun s => subRes v (rd s a) (rd s b)

def execMul (p : PReg) (d a b : Reg) (v : Bool) (s : State) : Host.Outcome State Fault Refusal :=
  aluOp (.mul p d a b v) p d s fun s => mulRes v (rd s a) (rd s b)

def execMulh (p : PReg) (d a b : Reg) (v : Bool) (s : State) : Host.Outcome State Fault Refusal :=
  aluOp (.mulh p d a b v) p d s fun s => mulhRes v (rd s a) (rd s b)

def execDiv (p : PReg) (d a b : Reg) (v : DivVar) (s : State) : Host.Outcome State Fault Refusal :=
  aluOp (.div p d a b v) p d s fun s => divRes v (rd s a) (rd s b)

def execRem (p : PReg) (d a b : Reg) (v : DivVar) (s : State) : Host.Outcome State Fault Refusal :=
  aluOp (.rem p d a b v) p d s fun s => remRes v (rd s a) (rd s b)

def execAnd (p : PReg) (d a b : Reg) (s : State) : Host.Outcome State Fault Refusal :=
  aluOp (.and p d a b) p d s fun s => rd s a &&& rd s b

def execOr (p : PReg) (d a b : Reg) (s : State) : Host.Outcome State Fault Refusal :=
  aluOp (.or p d a b) p d s fun s => rd s a ||| rd s b

def execXor (p : PReg) (d a b : Reg) (s : State) : Host.Outcome State Fault Refusal :=
  aluOp (.xor p d a b) p d s fun s => rd s a ^^^ rd s b

def execAndn (p : PReg) (d a b : Reg) (s : State) : Host.Outcome State Fault Refusal :=
  aluOp (.andn p d a b) p d s fun s => rd s a &&& ~~~ rd s b

def execShl (p : PReg) (d a b : Reg) (v : Bool) (s : State) : Host.Outcome State Fault Refusal :=
  aluOp (.shl p d a b v) p d s fun s => shlRes v (rd s a) (rd s b)

def execShr (p : PReg) (d a b : Reg) (v : Bool) (s : State) : Host.Outcome State Fault Refusal :=
  aluOp (.shr p d a b v) p d s fun s => shrRes v (rd s a) (rd s b)

def execSra (p : PReg) (d a b : Reg) (v : Bool) (s : State) : Host.Outcome State Fault Refusal :=
  aluOp (.sra p d a b v) p d s fun s => sraRes v (rd s a) (rd s b)

def execRotl (p : PReg) (d a b : Reg) (v : Bool) (s : State) : Host.Outcome State Fault Refusal :=
  aluOp (.rotl p d a b v) p d s fun s => rotlRes v (rd s a) (rd s b)

def execMin (p : PReg) (d a b : Reg) (v : Bool) (s : State) : Host.Outcome State Fault Refusal :=
  aluOp (.min p d a b v) p d s fun s => minRes v (rd s a) (rd s b)

def execMax (p : PReg) (d a b : Reg) (v : Bool) (s : State) : Host.Outcome State Fault Refusal :=
  aluOp (.max p d a b v) p d s fun s => maxRes v (rd s a) (rd s b)

def execClz (p : PReg) (d a : Reg) (v : Bool) (s : State) : Host.Outcome State Fault Refusal :=
  aluOp (.clz p d a v) p d s fun s => clzRes v (rd s a)

def execCtz (p : PReg) (d a : Reg) (v : Bool) (s : State) : Host.Outcome State Fault Refusal :=
  aluOp (.ctz p d a v) p d s fun s => ctzRes v (rd s a)

def execPopc (p : PReg) (d a : Reg) (v : Bool) (s : State) : Host.Outcome State Fault Refusal :=
  aluOp (.popc p d a v) p d s fun s => popcRes v (rd s a)

def execBext (p : PReg) (d a b : Reg) (v : Bool) (s : State) : Host.Outcome State Fault Refusal :=
  aluOp (.bext p d a b v) p d s fun s => bextRes v (rd s a) (rd s b)

def execBins (p : PReg) (d a b : Reg) (s : State) : Host.Outcome State Fault Refusal :=
  aluOp (.bins p d a b) p d s fun s => binsRes (rd s d) (rd s a) (rd s b)

def execSel (p : PReg) (d a b : Reg) (q : PReg) (s : State) : Host.Outcome State Fault Refusal :=
  aluOp (.sel p d a b q) p d s fun s => if rdP s q then rd s a else rd s b

def execCmp (p : PReg) (d a b : Reg) (v : Bool) (s : State) : Host.Outcome State Fault Refusal :=
  aluOp (.cmp p d a b v) p d s fun s => cmpRes v (rd s a) (rd s b)

def execHash64 (p : PReg) (d a b : Reg) (s : State) : Host.Outcome State Fault Refusal :=
  aluOp (.hash64 p d a b) p d s fun s => hash64 (rd s a) (rd s b)

def execMovi (p : PReg) (d : Reg) (imm : BitVec 15) (s : State) : Host.Outcome State Fault Refusal :=
  aluOp (.movi p d imm) p d s fun s => immS s 15 imm.toNat

def execMovh (p : PReg) (d : Reg) (imm : BitVec 15) (s : State) : Host.Outcome State Fault Refusal :=
  aluOp (.movh p d imm) p d s fun s =>
    immS s 15 imm.toNat <<< 32 ||| BitVec.ofNat 64 (bf (rd s d) 0 32)

def execAddImm (p : PReg) (d a : Reg) (imm : BitVec 10) (s : State) :
    Host.Outcome State Fault Refusal :=
  aluOp (.addImm p d a imm) p d s fun s => addRes .n (rd s a) (immS s 10 imm.toNat)

def execSubImm (p : PReg) (d a : Reg) (imm : BitVec 10) (s : State) :
    Host.Outcome State Fault Refusal :=
  aluOp (.subImm p d a imm) p d s fun s => subRes .n (rd s a) (immS s 10 imm.toNat)

def execMulImm (p : PReg) (d a : Reg) (imm : BitVec 10) (s : State) :
    Host.Outcome State Fault Refusal :=
  aluOp (.mulImm p d a imm) p d s fun s => mulRes false (rd s a) (immS s 10 imm.toNat)

def execMulhImm (p : PReg) (d a : Reg) (imm : BitVec 10) (s : State) :
    Host.Outcome State Fault Refusal :=
  aluOp (.mulhImm p d a imm) p d s fun s => mulhRes false (rd s a) (immS s 10 imm.toNat)

def execDivImm (p : PReg) (d a : Reg) (imm : BitVec 10) (s : State) :
    Host.Outcome State Fault Refusal :=
  aluOp (.divImm p d a imm) p d s fun s => divRes .n (rd s a) (immS s 10 imm.toNat)

def execRemImm (p : PReg) (d a : Reg) (imm : BitVec 10) (s : State) :
    Host.Outcome State Fault Refusal :=
  aluOp (.remImm p d a imm) p d s fun s => remRes .n (rd s a) (immS s 10 imm.toNat)

def execAndImm (p : PReg) (d a : Reg) (imm : BitVec 10) (s : State) :
    Host.Outcome State Fault Refusal :=
  aluOp (.andImm p d a imm) p d s fun s => rd s a &&& immS s 10 imm.toNat

def execOrImm (p : PReg) (d a : Reg) (imm : BitVec 10) (s : State) :
    Host.Outcome State Fault Refusal :=
  aluOp (.orImm p d a imm) p d s fun s => rd s a ||| immS s 10 imm.toNat

def execXorImm (p : PReg) (d a : Reg) (imm : BitVec 10) (s : State) :
    Host.Outcome State Fault Refusal :=
  aluOp (.xorImm p d a imm) p d s fun s => rd s a ^^^ immS s 10 imm.toNat

def execAndnImm (p : PReg) (d a : Reg) (imm : BitVec 10) (s : State) :
    Host.Outcome State Fault Refusal :=
  aluOp (.andnImm p d a imm) p d s fun s => rd s a &&& ~~~ immS s 10 imm.toNat

def execShlImm (p : PReg) (d a : Reg) (imm : BitVec 6) (s : State) :
    Host.Outcome State Fault Refusal :=
  aluOp (.shlImm p d a imm) p d s fun s => shlRes false (rd s a) (imm.setWidth 64)

def execShrImm (p : PReg) (d a : Reg) (imm : BitVec 6) (s : State) :
    Host.Outcome State Fault Refusal :=
  aluOp (.shrImm p d a imm) p d s fun s => shrRes false (rd s a) (imm.setWidth 64)

def execSraImm (p : PReg) (d a : Reg) (imm : BitVec 6) (s : State) :
    Host.Outcome State Fault Refusal :=
  aluOp (.sraImm p d a imm) p d s fun s => sraRes false (rd s a) (imm.setWidth 64)

def execRotlImm (p : PReg) (d a : Reg) (imm : BitVec 6) (s : State) :
    Host.Outcome State Fault Refusal :=
  aluOp (.rotlImm p d a imm) p d s fun s => rotlRes false (rd s a) (imm.setWidth 64)

def execMinImm (p : PReg) (d a : Reg) (imm : BitVec 10) (s : State) :
    Host.Outcome State Fault Refusal :=
  aluOp (.minImm p d a imm) p d s fun s => minRes false (rd s a) (immS s 10 imm.toNat)

def execMaxImm (p : PReg) (d a : Reg) (imm : BitVec 10) (s : State) :
    Host.Outcome State Fault Refusal :=
  aluOp (.maxImm p d a imm) p d s fun s => maxRes false (rd s a) (immS s 10 imm.toNat)

def execCmpImm (p : PReg) (d a : Reg) (imm : BitVec 10) (s : State) :
    Host.Outcome State Fault Refusal :=
  aluOp (.cmpImm p d a imm) p d s fun s => cmpRes false (rd s a) (immS s 10 imm.toNat)

/-! ## Predicate instructions (05 R108, R109) -/

/-- A condition of pset (05 R108). -/
def condI (c : ICond) (a b : W64) : Bool :=
  match c with
  | .eq => a == b
  | .ne => a != b
  | .lt => a.slt b
  | .ge => !a.slt b
  | .le => !b.slt a
  | .gt => b.slt a
  | .ltu => a.ult b
  | .geu => !a.ult b
  | .leu => !b.ult a
  | .gtu => b.ult a
  | .tst => (a &&& b) != 0
  | .ntst => (a &&& b) == 0

def execPset (p pd : PReg) (a b : Reg) (c : ICond) (s : State) : Host.Outcome State Fault Refusal :=
  predOp (.pset p pd a b c) p pd s fun s => condI c (rd s a) (rd s b)

def execPand (p pd pa pb : PReg) (na nb : Bool) (s : State) : Host.Outcome State Fault Refusal :=
  predOp (.pand p pd pa pb na nb) p pd s fun s => (rdP s pa ^^ na) && (rdP s pb ^^ nb)

def execPor (p pd pa pb : PReg) (na nb : Bool) (s : State) : Host.Outcome State Fault Refusal :=
  predOp (.por p pd pa pb na nb) p pd s fun s => (rdP s pa ^^ na) || (rdP s pb ^^ nb)

def execPnot (p pd pa : PReg) (na : Bool) (s : State) : Host.Outcome State Fault Refusal :=
  predOp (.pnot p pd pa na) p pd s fun s => !(rdP s pa ^^ na)

end Sys2Proof.Machine
end

