-- ==== Sys2Proof/Machine/VecAlu.lean ====
section
/-! DEFINITION. The vector instructions of the A slot (06 R127-R133). -/

namespace Sys2Proof.Machine

/-- Elements per register (06 R127). -/
def lanes (f : Fmt) : Nat := 512 / fmtBits f

/-- Element j of w bits. -/
def elem (w : Nat) (v : W512) (j : Nat) : Nat := bf v (w * j) w

/-- A register from its elements, element 0 first. -/
def packEl (w : Nat) : List Nat → Nat
  | [] => 0
  | x :: xs => x % 2 ^ w + 2 ^ w * packEl w xs

/-- A vector register as a source. -/
def rdV (s : State) (v : VReg) : W512 := (src s).v[v]

/-- Writing a vector register of a fibre. -/
def putV (f : Fibre) (v : VReg) (x : W512) : Fibre := { f with v := f.v.set v x }

/-- Writing a vector register of the issuing fibre. -/
def wrV (s : State) (v : VReg) (x : W512) : State := modMe s fun f => putV f v x

/-- Element results in ascending order, element e rounding after e·k advances of SEED (06 R128). -/
def mapEl (r : RMode) (k n : Nat) (g : RMode → Nat → FRes) : List Nat × BitVec 5 :=
  let ys := (upto n).map fun e => g (r.after (e * k)) e
  (ys.map fun y => y.bits, ys.foldl (fun a y => a ||| y.fl) 0)

/-- A vector instruction: n elements of w bits, each rounding k times (06 R128). -/
def vecOp (i : Instr) (p : PReg) (vd : VReg) (w n k : Nat) (s : State)
    (g : State → RMode → Nat → FRes) : Host.Outcome State Fault Refusal :=
  run i s fun s =>
    if rdP s p then
      let y := mapEl (modeOf (src s)) k n (g s)
      (wrV (noteRound s y.2 (n * k)) vd (BitVec.ofNat 512 (packEl w y.1)), .next)
    else (s, .next)

/-- Two source elements of the formats of R129. -/
def vec2 (i : Instr) (p : PReg) (vd va vb : VReg) (f : Fmt) (rounds : Bool) (s : State)
    (fp : RMode → Nat → Nat → FRes) (int : Nat → Nat → Nat) : Host.Outcome State Fault Refusal :=
  let w := fmtBits f
  let k := if f == .fp32 && rounds then 1 else 0
  vecOp i p vd w (lanes f) k s fun s r e =>
    let a := elem w (rdV s va) e
    let b := elem w (rdV s vb) e
    if f == .fp32 then fp r a b else ⟨int a b, 0⟩

/-- A signed result of w bits, clamped to its range. -/
def clampW (w : Nat) (v : Int) : Nat :=
  if v < -2 ^ (w - 1) then 2 ^ (w - 1)
  else if 2 ^ (w - 1) ≤ v then 2 ^ (w - 1) - 1 else (v % 2 ^ w).toNat

def execVadd (p : PReg) (vd va vb : VReg) (o : Bool) (f : Fmt) (s : State) :
    Host.Outcome State Fault Refusal :=
  vec2 (.vadd p vd va vb o f) p vd va vb f true s faddBits fun a b =>
    let w := fmtBits f
    if o then clampW w (sInt w a + sInt w b) else (a + b) % 2 ^ w

def execVsub (p : PReg) (vd va vb : VReg) (o : Bool) (f : Fmt) (s : State) :
    Host.Outcome State Fault Refusal :=
  vec2 (.vsub p vd va vb o f) p vd va vb f true s fsubBits fun a b =>
    let w := fmtBits f
    if o then clampW w (sInt w a - sInt w b) else (a + 2 ^ w - b) % 2 ^ w

def execVmul (p : PReg) (vd va vb : VReg) (o : Bool) (f : Fmt) (s : State) :
    Host.Outcome State Fault Refusal :=
  vec2 (.vmul p vd va vb o f) p vd va vb f true s fmulBits fun a b =>
    let w := fmtBits f
    if o then ((sInt w a * sInt w b / 2 ^ w) % 2 ^ w).toNat else a * b % 2 ^ w

/-- Integer min and max of w-bit elements (06 R129). -/
def pickInt (mx u : Bool) (w a b : Nat) : Nat :=
  let lt := if u then decide (a < b) else decide (sInt w a < sInt w b)
  if lt != mx then a else b

def execVmin (p : PReg) (vd va vb : VReg) (o : Bool) (f : Fmt) (s : State) :
    Host.Outcome State Fault Refusal :=
  vec2 (.vmin p vd va vb o f) p vd va vb f false s (fun r a b => fminmax false o r.fz a b) fun a b =>
    pickInt false o (fmtBits f) a b

def execVmax (p : PReg) (vd va vb : VReg) (o : Bool) (f : Fmt) (s : State) :
    Host.Outcome State Fault Refusal :=
  vec2 (.vmax p vd va vb o f) p vd va vb f false s (fun r a b => fminmax true o r.fz a b) fun a b =>
    pickInt true o (fmtBits f) a b

/-- vcmp: all ones or zero; lt for option 0, eq for option 1 (06 R129). -/
def execVcmp (p : PReg) (vd va vb : VReg) (o : Bool) (f : Fmt) (s : State) :
    Host.Outcome State Fault Refusal :=
  let w := fmtBits f
  let ones (b : Bool) : Nat := if b then 2 ^ w - 1 else 0
  vec2 (.vcmp p vd va vb o f) p vd va vb f false s
    (fun r a b =>
      let y := fcmpBits (if o then .eq else .lt) r.fz a b
      ⟨ones y.1, y.2⟩)
    fun a b => ones (if o then a == b else decide (sInt w a < sInt w b))

/-- vsgn: the sign bit of vb, inverted for option 1 (06 R130). -/
def execVsgn (p : PReg) (vd va vb : VReg) (o : Bool) (f : Fmt) (s : State) :
    Host.Outcome State Fault Refusal :=
  let w := fmtBits f
  vecOp (.vsgn p vd va vb o f) p vd w (lanes f) 0 s fun s _ e =>
    let a := elem w (rdV s va) e
    let sb := fld (elem w (rdV s vb) e) (w - 1) 1
    ⟨fld a 0 (w - 1) + (if o then 1 - sb else sb) * 2 ^ (w - 1), 0⟩

def execVfma (p : PReg) (vd va vb vc : VReg) (s : State) : Host.Outcome State Fault Refusal :=
  vecOp (.vfma p vd va vb vc) p vd 32 16 1 s fun s r e =>
    fmaBits r (elem 32 (rdV s va) e) (elem 32 (rdV s vb) e) (elem 32 (rdV s vc) e)

def execVsel (p : PReg) (vd va vb vc : VReg) (s : State) : Host.Outcome State Fault Refusal :=
  vecOp (.vsel p vd va vb vc) p vd 32 16 0 s fun s _ e =>
    ⟨if elem 32 (rdV s vc) e = 0 then elem 32 (rdV s vb) e else elem 32 (rdV s va) e, 0⟩

def execVscl (p : PReg) (vd va vb : VReg) (s : State) : Host.Outcome State Fault Refusal :=
  vecOp (.vscl p vd va vb) p vd 32 16 1 s fun s r e =>
    let x := fp32.decFZ r.fz (elem 32 (rdV s va) e)
    finish32 r (plusZero (scaleNum (sInt 32 (elem 32 (rdV s vb) e)) x), flIf (isSig x) flIV)

/-- vcvt: 16 elements; a narrow result shifts the earlier ones up (06 R132). -/
def execVcvt (p : PReg) (vd va : VReg) (sf df : Fmt) (s : State) : Host.Outcome State Fault Refusal :=
  run (.vcvt p vd va sf df) s fun s =>
    if rdP s p then
      let k := cvSteps sf df
      let ws := fmtBits sf
      let wd := fmtBits df
      let y := mapEl (modeOf (src s)) k 16 fun r e =>
        convert (dtabNow s) r (scaleOf s sf df sf) (scaleOf s sf df df) sf df
          (elem ws (rdV s va) e)
      let res := packEl wd y.1
      let v : W512 :=
        if wd = 32 then BitVec.ofNat 512 res else (rdV s vd <<< (16 * wd)) ||| BitVec.ofNat 512 res
      (wrV (noteRound s y.2 (16 * k)) vd v, .next)
    else (s, .next)

/-- The running value of vred over the elements, with flags and SEED advances (06 R131). -/
def vredFold (mx : Bool) (f : Fmt) (r : RMode) : List Nat → Nat → Nat → BitVec 5 → Nat × BitVec 5
  | [], _, x, fl => (x, fl)
  | y :: ys, n, x, fl =>
      let w := fmtBits f
      if f == .fp32 then
        let z := if mx then fminmax true false r.fz x y else faddBits (r.after n) x y
        vredFold mx f r ys (n + 1) z.bits (fl ||| z.fl)
      else
        vredFold mx f r ys n (if mx then pickInt true false w x y else (x + y) % 2 ^ w) fl

def execVred (p : PReg) (d : Reg) (va : VReg) (o : Bool) (f : Fmt) (s : State) :
    Host.Outcome State Fault Refusal :=
  run (.vred p d va o f) s fun s =>
    if rdP s p then
      let w := fmtBits f
      let xs := (upto (lanes f)).map fun e => elem w (rdV s va) e
      let y := vredFold o f (modeOf (src s)) (xs.drop 1) 0 (xs.headD 0) 0
      let v := widen f y.1
      let n := if f == .fp32 && !o then 15 else 0
      (capture (wr (noteRound s y.2 n) d v) v, .next)
    else (s, .next)

def execVbc (p : PReg) (vd : VReg) (a : Reg) (f : Fmt) (s : State) :
    Host.Outcome State Fault Refusal :=
  vecOp (.vbc p vd a f) p vd (fmtBits f) (lanes f) 0 s fun s _ _ => ⟨bf (rd s a) 0 (fmtBits f), 0⟩

def execVperm (p : PReg) (vd va vb : VReg) (f : Fmt) (s : State) :
    Host.Outcome State Fault Refusal :=
  let w := fmtBits f
  vecOp (.vperm p vd va vb f) p vd w (lanes f) 0 s fun s _ e =>
    ⟨elem w (rdV s va) (elem w (rdV s vb) e % lanes f), 0⟩

def execVmov (p : PReg) (vd va : VReg) (s : State) : Host.Outcome State Fault Refusal :=
  run (.vmov p vd va) s fun s => (if rdP s p then wrV s vd (rdV s va) else s, .next)

def execVmovSr (p : PReg) (vd va : VReg) (f : Fmt) (s : State) : Host.Outcome State Fault Refusal :=
  run (.vmovSr p vd va f) s fun s =>
    (if rdP s p then wrV s vd (rdV s va >>> (16 * fmtBits f)) else s, .next)

end Sys2Proof.Machine
end

