-- ==== Sys2Proof/Machine/Dispatch.lean ====
section
/-! DEFINITION. One arm per step of the device: a direct call of its meaning. -/

namespace Sys2Proof.Machine

def exec (i : Instr) (s : State) : Host.Outcome State Fault Refusal :=
  match i with
  | .add p d a b v => Sys2Proof.Machine.execAdd p d a b v s
  | .sub p d a b v => Sys2Proof.Machine.execSub p d a b v s
  | .mul p d a b v => Sys2Proof.Machine.execMul p d a b v s
  | .mulh p d a b v => Sys2Proof.Machine.execMulh p d a b v s
  | .div p d a b v => Sys2Proof.Machine.execDiv p d a b v s
  | .rem p d a b v => Sys2Proof.Machine.execRem p d a b v s
  | .and p d a b => Sys2Proof.Machine.execAnd p d a b s
  | .or p d a b => Sys2Proof.Machine.execOr p d a b s
  | .xor p d a b => Sys2Proof.Machine.execXor p d a b s
  | .andn p d a b => Sys2Proof.Machine.execAndn p d a b s
  | .shl p d a b v => Sys2Proof.Machine.execShl p d a b v s
  | .shr p d a b v => Sys2Proof.Machine.execShr p d a b v s
  | .sra p d a b v => Sys2Proof.Machine.execSra p d a b v s
  | .rotl p d a b v => Sys2Proof.Machine.execRotl p d a b v s
  | .min p d a b v => Sys2Proof.Machine.execMin p d a b v s
  | .max p d a b v => Sys2Proof.Machine.execMax p d a b v s
  | .clz p d a v => Sys2Proof.Machine.execClz p d a v s
  | .ctz p d a v => Sys2Proof.Machine.execCtz p d a v s
  | .popc p d a v => Sys2Proof.Machine.execPopc p d a v s
  | .bext p d a b v => Sys2Proof.Machine.execBext p d a b v s
  | .bins p d a b => Sys2Proof.Machine.execBins p d a b s
  | .sel p d a b q => Sys2Proof.Machine.execSel p d a b q s
  | .cmp p d a b v => Sys2Proof.Machine.execCmp p d a b v s
  | .hash64 p d a b => Sys2Proof.Machine.execHash64 p d a b s
  | .movi p d imm => Sys2Proof.Machine.execMovi p d imm s
  | .movh p d imm => Sys2Proof.Machine.execMovh p d imm s
  | .pset p pd a b c => Sys2Proof.Machine.execPset p pd a b c s
  | .pand p pd pa pb na nb => Sys2Proof.Machine.execPand p pd pa pb na nb s
  | .por p pd pa pb na nb => Sys2Proof.Machine.execPor p pd pa pb na nb s
  | .pnot p pd pa na => Sys2Proof.Machine.execPnot p pd pa na s
  | .addImm p d a imm => Sys2Proof.Machine.execAddImm p d a imm s
  | .subImm p d a imm => Sys2Proof.Machine.execSubImm p d a imm s
  | .mulImm p d a imm => Sys2Proof.Machine.execMulImm p d a imm s
  | .mulhImm p d a imm => Sys2Proof.Machine.execMulhImm p d a imm s
  | .divImm p d a imm => Sys2Proof.Machine.execDivImm p d a imm s
  | .remImm p d a imm => Sys2Proof.Machine.execRemImm p d a imm s
  | .andImm p d a imm => Sys2Proof.Machine.execAndImm p d a imm s
  | .orImm p d a imm => Sys2Proof.Machine.execOrImm p d a imm s
  | .xorImm p d a imm => Sys2Proof.Machine.execXorImm p d a imm s
  | .andnImm p d a imm => Sys2Proof.Machine.execAndnImm p d a imm s
  | .shlImm p d a imm => Sys2Proof.Machine.execShlImm p d a imm s
  | .shrImm p d a imm => Sys2Proof.Machine.execShrImm p d a imm s
  | .sraImm p d a imm => Sys2Proof.Machine.execSraImm p d a imm s
  | .rotlImm p d a imm => Sys2Proof.Machine.execRotlImm p d a imm s
  | .minImm p d a imm => Sys2Proof.Machine.execMinImm p d a imm s
  | .maxImm p d a imm => Sys2Proof.Machine.execMaxImm p d a imm s
  | .cmpImm p d a imm => Sys2Proof.Machine.execCmpImm p d a imm s
  | .fadd p d a b => Sys2Proof.Machine.execFadd p d a b s
  | .fsub p d a b => Sys2Proof.Machine.execFsub p d a b s
  | .fmul p d a b => Sys2Proof.Machine.execFmul p d a b s
  | .fma p d a b c => Sys2Proof.Machine.execFma p d a b c s
  | .fdiv p d a b => Sys2Proof.Machine.execFdiv p d a b s
  | .frcp p d a => Sys2Proof.Machine.execFrcp p d a s
  | .frsq p d a => Sys2Proof.Machine.execFrsq p d a s
  | .fmin p d a b v => Sys2Proof.Machine.execFmin p d a b v s
  | .fmax p d a b v => Sys2Proof.Machine.execFmax p d a b v s
  | .fcmp p pd a b c => Sys2Proof.Machine.execFcmp p pd a b c s
  | .fclass p d a f => Sys2Proof.Machine.execFclass p d a f s
  | .fcvt p d a src dst => Sys2Proof.Machine.execFcvt p d a src dst s
  | .fsgn p d a b v => Sys2Proof.Machine.execFsgn p d a b v s
  | .vadd p vd va vb o f => Sys2Proof.Machine.execVadd p vd va vb o f s
  | .vsub p vd va vb o f => Sys2Proof.Machine.execVsub p vd va vb o f s
  | .vmul p vd va vb o f => Sys2Proof.Machine.execVmul p vd va vb o f s
  | .vmin p vd va vb o f => Sys2Proof.Machine.execVmin p vd va vb o f s
  | .vmax p vd va vb o f => Sys2Proof.Machine.execVmax p vd va vb o f s
  | .vsgn p vd va vb o f => Sys2Proof.Machine.execVsgn p vd va vb o f s
  | .vcmp p vd va vb o f => Sys2Proof.Machine.execVcmp p vd va vb o f s
  | .vfma p vd va vb vc => Sys2Proof.Machine.execVfma p vd va vb vc s
  | .vsel p vd va vb vc => Sys2Proof.Machine.execVsel p vd va vb vc s
  | .vcvt p vd va src dst => Sys2Proof.Machine.execVcvt p vd va src dst s
  | .vscl p vd va vb => Sys2Proof.Machine.execVscl p vd va vb s
  | .vred p d va o f => Sys2Proof.Machine.execVred p d va o f s
  | .vbc p vd a f => Sys2Proof.Machine.execVbc p vd a f s
  | .vperm p vd va vb f => Sys2Proof.Machine.execVperm p vd va vb f s
  | .vmov p vd va => Sys2Proof.Machine.execVmov p vd va s
  | .vmovSr p vd va f => Sys2Proof.Machine.execVmovSr p vd va f s
  | .nop => Sys2Proof.Machine.execNop s
  | .ret => Sys2Proof.Machine.execRet s
  | .doneF => Sys2Proof.Machine.execDoneF s
  | .yieldF => Sys2Proof.Machine.execYieldF s
  | .hret => Sys2Proof.Machine.execHret s
  | .trigger => Sys2Proof.Machine.execTrigger s
  | .eret => Sys2Proof.Machine.execEret s
  | .unfuse => Sys2Proof.Machine.execUnfuse s
  | .rejoin => Sys2Proof.Machine.execRejoin s
  | .br p n imm => Sys2Proof.Machine.execBr p n imm s
  | .jmp imm => Sys2Proof.Machine.execJmp imm s
  | .call imm => Sys2Proof.Machine.execCall imm s
  | .jmpr d a => Sys2Proof.Machine.execJmpr d a s
  | .loop a imm => Sys2Proof.Machine.execLoop a imm s
  | .brk code => Sys2Proof.Machine.execBrk code s
  | .trap code => Sys2Proof.Machine.execTrap code s
  | .pfx imm => Sys2Proof.Machine.execPfx imm s
  | .lea r sg base sz imm => Sys2Proof.Machine.execLea r sg base sz imm s
  | .madv d a b peq plt esz => Sys2Proof.Machine.execMadv d a b peq plt esz s
  | .fwalk d a b => Sys2Proof.Machine.execFwalk d a b s
  | .brank d a b pd => Sys2Proof.Machine.execBrank d a b pd s
  | .ld r sg base sz x imm => Sys2Proof.Machine.execLd r sg base sz x imm s
  | .ldAcq r sg base sz x sc imm => Sys2Proof.Machine.execLdAcq r sg base sz x sc imm s
  | .st r sg base sz imm => Sys2Proof.Machine.execSt r sg base sz imm s
  | .stRel r sg base sz sc imm => Sys2Proof.Machine.execStRel r sg base sz sc imm s
  | .ldp r sg base imm => Sys2Proof.Machine.execLdp r sg base imm s
  | .stp r sg base imm => Sys2Proof.Machine.execStp r sg base imm s
  | .pf sg base sz imm => Sys2Proof.Machine.execPf sg base sz imm s
  | .fence sc => Sys2Proof.Machine.execFence sc s
  | .amo d sg base b op esz => Sys2Proof.Machine.execAmo d sg base b op esz s
  | .cas d sg base b c => Sys2Proof.Machine.execCas d sg base b c s
  | .red sg base b op esz => Sys2Proof.Machine.execRed sg base b op esz s
  | .ldf r sg base sc imm => Sys2Proof.Machine.execLdf r sg base sc imm s
  | .ldfe r sg base sc imm => Sys2Proof.Machine.execLdfe r sg base sc imm s
  | .stf r sg base sc imm => Sys2Proof.Machine.execStf r sg base sc imm s
  | .stfw r sg base sc imm => Sys2Proof.Machine.execStfw r sg base sc imm s
  | .fest full sg base sc imm => Sys2Proof.Machine.execFest full sg base sc imm s
  | .st4 r sg base hi imm => Sys2Proof.Machine.execSt4 r sg base hi imm s
  | .aqPush sg base sz x imm => Sys2Proof.Machine.execAqPush sg base sz x imm s
  | .aqList r sg base sz x imm => Sys2Proof.Machine.execAqList r sg base sz x imm s
  | .dqPop d two => Sys2Proof.Machine.execDqPop d two s
  | .dqCnt d => Sys2Proof.Machine.execDqCnt d s
  | .spawn d a imm => Sys2Proof.Machine.execSpawn d a imm s
  | .migr d a => Sys2Proof.Machine.execMigr d a s
  | .send d a b n => Sys2Proof.Machine.execSend d a b n s
  | .sendQ d a b n => Sys2Proof.Machine.execSendQ d a b n s
  | .sendR d b => Sys2Proof.Machine.execSendR d b s
  | .rqPush n => Sys2Proof.Machine.execRqPush n s
  | .rqTry d n => Sys2Proof.Machine.execRqTry d n s
  | .rqStat d a k => Sys2Proof.Machine.execRqStat d a k s
  | .tlaunch d a sg => Sys2Proof.Machine.execTlaunch d a sg s
  | .twait d a => Sys2Proof.Machine.execTwait d a s
  | .segld a k => Sys2Proof.Machine.execSegld a k s
  | .segrd d t k => Sys2Proof.Machine.execSegrd d t k s
  | .dtld sg base imm => Sys2Proof.Machine.execDtld sg base imm s
  | .tbld r sg base imm => Sys2Proof.Machine.execTbld r sg base imm s
  | .xpld sg base imm => Sys2Proof.Machine.execXpld sg base imm s
  | .gkbind a b tag ctx => Sys2Proof.Machine.execGkbind a b tag ctx s
  | .ptinvPage a b sc => Sys2Proof.Machine.execPtinvPage a b sc s
  | .ptinvAsid b sc => Sys2Proof.Machine.execPtinvAsid b sc s
  | .ptinvAll sc => Sys2Proof.Machine.execPtinvAll sc s
  | .dwait k imm => Sys2Proof.Machine.execDwait k imm s
  | .await k imm => Sys2Proof.Machine.execAwait k imm s
  | .dset k a => Sys2Proof.Machine.execDset k a s
  | .dadd k a => Sys2Proof.Machine.execDadd k a s
  | .acbind k a => Sys2Proof.Machine.execAcbind k a s
  | .bar kind d pd => Sys2Proof.Machine.execBar kind d pd s
  | .tread d => Sys2Proof.Machine.execTread d s
  | .erd d k => Sys2Proof.Machine.execErd d k s
  | .pcrd d a => Sys2Proof.Machine.execPcrd d a s
  | .sysrd r x => Sys2Proof.Machine.execSysrd r x s
  | .syswr r x => Sys2Proof.Machine.execSyswr r x s
  | .rndset d a sd m fz rm => Sys2Proof.Machine.execRndset d a sd m fz rm s
  | .wake d a skip => Sys2Proof.Machine.execWake d a skip s
  | .vld v sg base imm => Sys2Proof.Machine.execVld v sg base imm s
  | .vst v sg base imm => Sys2Proof.Machine.execVst v sg base imm s
  | .vldg v sg base vi esz => Sys2Proof.Machine.execVldg v sg base vi esz s
  | .vsts v sg base vi esz => Sys2Proof.Machine.execVsts v sg base vi esz s
  | .mzero acc => Sys2Proof.Machine.execMzero acc s
  | .mldb f sg base imm => Sys2Proof.Machine.execMldb f sg base imm s
  | .mma acc va fa fb cnt => Sys2Proof.Machine.execMma acc va fa fb cnt s
  | .mrot cnt => Sys2Proof.Machine.execMrot cnt s
  | .mdrain acc v f row => Sys2Proof.Machine.execMdrain acc v f row s
  | .mxch acc entry => Sys2Proof.Machine.execMxch acc entry s
  | .fuse size => Sys2Proof.Machine.execFuse size s
  | .gather core entry => Sys2Proof.Machine.execGather core entry s
  | .scatter core entry => Sys2Proof.Machine.execScatter core entry s
  | .accum core entry => Sys2Proof.Machine.execAccum core entry s
  | .dedup core entry => Sys2Proof.Machine.execDedup core entry s
  | .reduce core entry => Sys2Proof.Machine.execReduce core entry s
  | .copy core entry => Sys2Proof.Machine.execCopy core entry s
  | .walk core entry => Sys2Proof.Machine.execWalk core entry s
  | .fill core entry => Sys2Proof.Machine.execFill core entry s
  | .coll core entry => Sys2Proof.Machine.execColl core entry s
  | .res core entry => Sys2Proof.Machine.execRes core entry s
  | .abt core entry => Sys2Proof.Machine.execAbt core entry s
  | .commandStart core => Sys2Proof.Machine.execCommandStart core s
  | .commandRetire core entry => Sys2Proof.Machine.execCommandRetire core entry s
  | .commandStop core entry => Sys2Proof.Machine.execCommandStop core entry s
  | .sequencerCycle core => Sys2Proof.Machine.execSequencerCycle core s
  | .quantumEnd core strand => Sys2Proof.Machine.execQuantumEnd core strand s
  | .waitTimeout core slot => Sys2Proof.Machine.execWaitTimeout core slot s
  | .accessReply id => Sys2Proof.Machine.execAccessReply id s
  | .replyForward id => Sys2Proof.Machine.execReplyForward id s
  | .icacheFill id => Sys2Proof.Machine.execIcacheFill id s
  | .tlbLookup id => Sys2Proof.Machine.execTlbLookup id s
  | .walkEnd id => Sys2Proof.Machine.execWalkEnd id s
  | .handlerStart core => Sys2Proof.Machine.execHandlerStart core s
  | .inboxReservation id => Sys2Proof.Machine.execInboxReservation id s
  | .messageWrite id => Sys2Proof.Machine.execMessageWrite id s
  | .migrationReserve id => Sys2Proof.Machine.execMigrationReserve id s
  | .migrationArrival id => Sys2Proof.Machine.execMigrationArrival id s
  | .wakeDelivery id => Sys2Proof.Machine.execWakeDelivery id s
  | .remoteTileAccess id => Sys2Proof.Machine.execRemoteTileAccess id s
  | .feWithdrawal id => Sys2Proof.Machine.execFeWithdrawal id s
  | .storeBufferSend core id => Sys2Proof.Machine.execStoreBufferSend core id s
  | .storeAck id => Sys2Proof.Machine.execStoreAck id s
  | .controllerIssue id => Sys2Proof.Machine.execControllerIssue id s
  | .accumulateAccept id => Sys2Proof.Machine.execAccumulateAccept id s
  | .combiningDrain ctrl atom => Sys2Proof.Machine.execCombiningDrain ctrl atom s
  | .geckoToken id => Sys2Proof.Machine.execGeckoToken id s
  | .rowCacheExpiry core atom => Sys2Proof.Machine.execRowCacheExpiry core atom s
  | .promotionEpoch chan => Sys2Proof.Machine.execPromotionEpoch chan s
  | .scrub atom => Sys2Proof.Machine.execScrub atom s
  | .refresh chan bank row => Sys2Proof.Machine.execRefresh chan bank row s
  | .stackTemperatureReport stack temp => Sys2Proof.Machine.execStackTemperatureReport stack temp s
  | .hostSnoop line own => Sys2Proof.Machine.execHostSnoop line own s
  | .snoopApply => Sys2Proof.Machine.execSnoopApply s
  | .hostResponse id grantE line => Sys2Proof.Machine.execHostResponse id grantE line s
  | .cxlLinkDown => Sys2Proof.Machine.execCxlLinkDown s
  | .cxlLinkRetrain => Sys2Proof.Machine.execCxlLinkRetrain s
  | .hostRegisterAccess off size wr => Sys2Proof.Machine.execHostRegisterAccess off size wr s
  | .mmaStep core strand => Sys2Proof.Machine.execMmaStep core strand s
  | .mrotComplete id => Sys2Proof.Machine.execMrotComplete id s
  | .mxchComplete id => Sys2Proof.Machine.execMxchComplete id s
  | .rejoinLineHigh core strand => Sys2Proof.Machine.execRejoinLineHigh core strand s
  | .barrierComplete core kind => Sys2Proof.Machine.execBarrierComplete core kind s
  | .timeTick => Sys2Proof.Machine.execTimeTick s
  | .governorWindow u => Sys2Proof.Machine.execGovernorWindow u s
  | .vfEvaluate dom spend => Sys2Proof.Machine.execVfEvaluate dom spend s
  | .energyExhausted dom => Sys2Proof.Machine.execEnergyExhausted dom s
  | .equalisation lanes => Sys2Proof.Machine.execEqualisation lanes s
  | .dispatch plan => Sys2Proof.Machine.execDispatch plan s
  | .preempt tid => Sys2Proof.Machine.execPreempt tid s
  | .taskComplete tid energy => Sys2Proof.Machine.execTaskComplete tid energy s
  | .fqgetWrite die value => Sys2Proof.Machine.execFqgetWrite die value s
  | .registerWrite id => Sys2Proof.Machine.execRegisterWrite id s
  | .broadcastWrite off value => Sys2Proof.Machine.execBroadcastWrite off value s
  | .inspectionAccess core off wr => Sys2Proof.Machine.execInspectionAccess core off wr s
  | .chaezWrite pa data => Sys2Proof.Machine.execChaezWrite pa data s
  | .chaezRead pa dwords => Sys2Proof.Machine.execChaezRead pa dwords s
  | .release target => Sys2Proof.Machine.execRelease target s
  | .releaseSkip target => Sys2Proof.Machine.execReleaseSkip target s
  | .endTask target => Sys2Proof.Machine.execEndTask target s
  | .digestReset desc => Sys2Proof.Machine.execDigestReset desc s
  | .unfence port => Sys2Proof.Machine.execUnfence port s
  | .timeref dom => Sys2Proof.Machine.execTimeref dom s
  | .checkpoint name tier => Sys2Proof.Machine.execCheckpoint name tier s
  | .checkpointRestore chunks => Sys2Proof.Machine.execCheckpointRestore chunks s
  | .reset => Sys2Proof.Machine.execReset s
  | .recovery piece => Sys2Proof.Machine.execRecovery piece s
  | .statusReport io modl => Sys2Proof.Machine.execStatusReport io modl s
  | .powerOn => Sys2Proof.Machine.execPowerOn s
  | .thermalTrip temp => Sys2Proof.Machine.execThermalTrip temp s
  | .attestNonceWrite nonce => Sys2Proof.Machine.execAttestNonceWrite nonce s
  | .attestTidWrite value => Sys2Proof.Machine.execAttestTidWrite value s
  | .attestReportRead => Sys2Proof.Machine.execAttestReportRead s
  | .rowPacket pkt => Sys2Proof.Machine.execRowPacket pkt s
  | .switchRowPacket id => Sys2Proof.Machine.execSwitchRowPacket id s
  | .peerAccessPacket pkt => Sys2Proof.Machine.execPeerAccessPacket pkt s
  | .fabricTimeout id => Sys2Proof.Machine.execFabricTimeout id s
  | .collOutcome core entry others => Sys2Proof.Machine.execCollOutcome core entry others s
  | .timeBeacon ref ahead => Sys2Proof.Machine.execTimeBeacon ref ahead s
  | .domainJoin dom time => Sys2Proof.Machine.execDomainJoin dom time s
  | .referenceLoss dom => Sys2Proof.Machine.execReferenceLoss dom s
  | .computeDieTemperature die temp => Sys2Proof.Machine.execComputeDieTemperature die temp s

end Sys2Proof.Machine
end

