-- ==== Sys2Proof/Machine/Step.lean ====
section
/-! DEFINITION. One step of the device: the step that comes next, and, when a strand has issued in it, the
words of the issue (04 R75) on every core of its group (06 R146). -/

namespace Sys2Proof.Machine

/-- The words of one core's issue: a lone word, or a pair's C part and, unless it ended the issue, its A
part. -/
def runWords (s : State) : Host.Outcome State Fault Refusal :=
  match s.issue.todo with
  | [] => .next s
  | [i] => exec i s
  | i :: j :: _ =>
      match exec i s with
      | .next t => if t.issue.ended then .next t else exec j (armA s t)
      | o => o

/-- The issue on the core that the latch names, and on the others of its group. -/
def runIssue : Nat → State → Host.Outcome State Fault Refusal
  | 0, s => .next (closeIssue s)
  | n + 1, s =>
      match runWords s with
      | .next t =>
          let t := endMember (sameLatch s t)
          (match nextMember t with
           | some u => runIssue n u
           | none => .next (closeIssue t))
      | o => o

/-- One step. -/
def step (s : State) : Host.Outcome State Fault Refusal :=
  match exec (nextStep s).1 (nextStep s).2 with
  | .next t => if t.issue.live then runIssue (t.issue.group.length + 1) t else .next t
  | o => o

/-- The machine with an instruction word where its next step fetches it (log 13). -/
def State.withFetchWord (s : State) (_nbits w : Nat) : State := placeWord s w

end Sys2Proof.Machine
end

