-- ==== Sys2Proof/Safety.lean ====
section
/-! DEFINITION. What counts as a safe step, and the words in which the statements speak: an issuing word that passes
its checks, how an issue goes on, jumps or stops, and what a record and a memory have to look like. -/

namespace Sys2Proof

/-- A step that neither faults nor is refused. -/
def Runs (s : Machine.State) : Prop := ∃ t, Machine.step s = .next t

namespace Machine

/-- The tile memory of a core is in its canonical form. -/
abbrev TileOk (k : Core) : Prop := Mem.wf k.tile.mem = true

/-- Every memory is in its canonical form: DRAM, the scratchpads, and the tile memory of every core. -/
def MemOk (s : State) : Prop :=
  Mem.wf s.mem.dram = true ∧ Mem.wf s.mem.scratch = true ∧ ∀ x ∈ s.cores, TileOk x.2

/-- A word is issuing and passes every check of 04 R75. -/
abbrev Passes (i : Instr) (s : State) : Prop := s.issue.live = true ∧ checkWord i s = none

/-- The issuing fibre stands on its strand. -/
abbrev Standing (s : State) (f : Fibre) : Prop :=
  getFib s s.issue.core s.issue.slot = some f ∧ f.sch.run = .running s.issue.strand

/-- The issuing fibre stands on its strand; or the word is the A half of a pair whose C word took the fibre off its
strand: it has parked or was requeued, or its slot is free (05 R96). -/
abbrev Issuing (s : State) : Prop :=
  (me s).sch.run = .running s.issue.strand ∨ s.issue.snap.isSome = true ∧ ∀ st, (me s).sch.run ≠ .running st

/-- After an effect, the issue commits the word and goes on to the next (04 R75). -/
def goesOn (i : Instr) (t : State) : State := dropResv (retire t i none)

/-- After an effect, the issue commits the word and goes to an address (04 R75). -/
def goesTo (i : Instr) (a : W64) (t : State) : State := dropResv (retire t i (some a))

/-- After an effect, the issue ends with the word uncommitted (04 R75). -/
def stops (t : State) : State := { dropResv t with issue := { t.issue with ended := true } }

/-- The address after the words of the issue (04 R70). -/
def afterPc (s : State) : W64 := s.issue.pc + BitVec.ofNat 64 (4 * s.issue.words)

/-- The fibre after the commit of a word that is no prefix: no prefix pends; unless the word is the A half of a pair,
the PC is the given one, ADONE is clear, and no wait is timed or late. -/
def afterWord (s : State) (pc : W64) (f : Fibre) : Fibre :=
  { f with
    pc := if s.issue.snap.isSome then f.pc else pc
    ctl := { f.ctl with pp := false, adone := if s.issue.snap.isSome then f.ctl.adone else false }
    sch := { f.sch with
      resv := none, t0 := if s.issue.snap.isSome then f.sch.t0 else none,
      late := if s.issue.snap.isSome then f.sch.late else false } }

/-- The state with another fibre in the issuing slot. -/
def withFibre (s : State) (f : Fibre) : State := putFib s s.issue.core s.issue.slot f

/-- The state in which the issuing strand has captured a result: h1 := h0, h0 := v (05 R95). -/
def captured (s : State) (v : W64) : State :=
  modCore s s.issue.core fun k => modStrand k s.issue.strand fun t => { t with h0 := v, h1 := t.h0 }

/-- The capture of a result: a fibre that has left its strand in this issue captures nothing (05 R95, R96). -/
def taken (s : State) (v : W64) : State := if (me s).sch.run = .running s.issue.strand then captured s v else s

/-- An A-slot word whose result is v: d takes it, the strand captures it, the issue goes on (05 R95, R99). -/
def result (i : Instr) (s : State) (d : Reg) (v : W64) : State := goesOn i (taken (wr s d v) v)

/-- An A-slot float word: flags and seed, then the result (05 R110). -/
def floatResult (i : Instr) (s : State) (d : Reg) (n : Nat) (y : FRes) (v : W64) : State :=
  goesOn i (taken (wr (noteRound s y.fl n) d v) v)

/-- An A-slot vector word with n elements of w bits, element e rounding after e·k advances of SEED (06 R128). -/
def vectorResult (i : Instr) (s : State) (vd : VReg) (w n k : Nat) (g : RMode → Nat → FRes) : State :=
  let y := mapEl (modeOf (src s)) k n g
  goesOn i (wrV (noteRound s y.2 (n * k)) vd (BitVec.ofNat 512 (packEl w y.1)))

/-- The elements of a two-operand vector word: an FP32 operation, or an operation on integers (06 R129). -/
def pairwise (s : State) (f : Fmt) (va vb : VReg) (fp : RMode → Nat → Nat → FRes) (int : Nat → Nat → Nat) (r : RMode)
    (e : Nat) : FRes :=
  let a := elem (fmtBits f) (rdV s va) e
  let b := elem (fmtBits f) (rdV s vb) e
  if f = .fp32 then fp r a b else ⟨int a b, 0⟩

/-- The state in which the accesses of a word are under way and its fibre waits for them with reason 1 (08 R199). -/
def sentOff (i : Instr) (s : State) (dst : Dst) (n : Nat) (acq : Bool) (ps : List Piece) : State :=
  let t := newTxn s (issuer s i) dst n acq ps
  parkFib (launch t.2 t.1) s.issue.core s.issue.slot .reply (.txn t.1)

/-- The state in which the accesses of a word wait for the missing translation of the piece p, whose walk starts; its
fibre waits with reason 5 (08 R195; 13 R326). -/
def walksOff (i : Instr) (s : State) (dst : Dst) (n : Nat) (acq : Bool) (ps : List Piece) (p : Piece) : State :=
  let t := newTxn s (issuer s i) dst n acq ps
  parkFib (startWalk t.2 (issuer s i) p.loc.va?.1 (.txn t.1 p.off) p.acc p.loc.va?.2 [])
    s.issue.core s.issue.slot .xlate (.txn t.1)

/-- What a load of n bytes from a place outside the own tile does (08 R195, R199, R201; 09 R232): it takes the bytes
that the store buffer holds in full, or those of a row-cache hit where it looks the row cache up: at once, or through a
park where it must park. Else its accesses are sent and the fibre parks with reason 1; or it parks with reason 5 while
a translation is missing; or it faults where a translation forbids the access. -/
def FarLoad (i : Instr) (s : State) (loc : Loc) (n : Nat) (dst : Dst) (rc must acq : Bool)
    (fin : State → Nat → State) : Prop :=
  let c := s.issue.core
  let held := forward s c s.issue.slot loc n
  let looks := rc && rowLooks s c loc
  let hit := if looks then rowHit s c s.issue.slot loc n else none
  let now := fun (t : State) (v : Nat) => if must then sentOff i t dst n acq (valPieces loc n v) else fin t v
  let sent := plan (if looks then bumpEv s c 0x10C else s) c s.issue.slot (loadPieces loc n)
  (∀ t v, held = some (t, v) → exec i s = .next (goesOn i (now t v))) ∧
  (∀ v, held = none → hit = some v → exec i s = .next (goesOn i (now (bumpEv s c 0x10B) v))) ∧
  (∀ t ps, held = none → hit = none → sent = (t, ps, none) →
    exec i s = .next (goesOn i (sentOff i t dst n acq ps))) ∧
  (∀ t ps p, held = none → hit = none → sent = (t, ps, some (p, none)) →
    exec i s = .next (goesOn i (walksOff i t dst n acq ps p))) ∧
  (∀ t ps p e, held = none → hit = none → sent = (t, ps, some (p, some e)) →
    exec i s = .next (stops (faultHere t i e.1 e.2.1 e.2.2).1))

/-- An element whose parts are resolved: the requests of the far ones are sent, the own ones are performed on the tile
as it stood, and with no far part the element is done (12 R290, R291). -/
def sentElem (t : State) (c e : Nat) (x : Cmd) (elem : Nat) (qs : List (Part × Option Tgt)) : State :=
  let far := (qs.filter fun q => q.2.isSome).length
  let u := modCmd t c e fun y => { y with flight := nput y.flight elem far, next := elem + 1 }
  let v := qs.foldl (fun s q => match q.2 with
    | some g => addReq s (pieceReq (engineWho x) (.engine c e elem q.1.dst) ⟨0, q.1.loc, q.1.acc, some g⟩)
    | none => ownPart u s c e q.1) u
  if far = 0 then elemEnd v c e elem else v

/-- The step that comes next is a cycle of a core, in which no lock-step word has been issued and a strand that is not in
lock-step takes its turn to issue; t is the state at its fetch, after the start of the cycle (02 R28, 11 R267). -/
abbrev Turns (s t : State) (c st slot : Nat) (f : Fibre) : Prop :=
  ∃ u, nextStep s = (.sequencerCycle c, u) ∧ gatedNow { u with issue := Issue.blank } c = false ∧
    (getCore u c).frozen = none ∧ t = cycleHead { u with issue := Issue.blank } c ∧
    cycleUsed (getCore t c) = false ∧ nextTurn t c = some st ∧
    turnOf t c st = .issue ∧ onStrand (getCore t c) st = some (slot, f) ∧
    (strandAt (getCore t c) st).lock = false

/-- The end of the issue that o opened, when its words have left v: the latch is empty again (04 R75). -/
def issueOver (o v : State) : State := closeIssue (endMember (sameLatch o v))

/-- A register of a fibre; the specifiers that name no register read 0. -/
def fibReg (f : Fibre) : Reg → W64
  | .g n => f.g[n]
  | .s n => f.s[n]
  | .h0 | .h1 | .zr | .fid | .cid => 0

/-- Every byte outside the cores reads as before. -/
def SameMemory (s t : State) : Prop :=
  ∀ a, Mem.rd t.mem.dram a = Mem.rd s.mem.dram a ∧ Mem.rd t.mem.scratch a = Mem.rd s.mem.scratch a

/-- Every tile byte and every full/empty state reads as before. -/
def SameTiles (s t : State) : Prop := ∀ c, (getCore t c).tile = (getCore s c).tile

/-- The predicate of an A-slot word (05 R98); a C-slot word and a step without a word have none. -/
def predOf : Instr → Option PReg
  | .add p _ _ _ _ | .sub p _ _ _ _ | .mul p _ _ _ _ | .mulh p _ _ _ _ | .div p _ _ _ _ | .rem p _ _ _ _
  | .and p _ _ _ | .or p _ _ _ | .xor p _ _ _ | .andn p _ _ _ | .shl p _ _ _ _ | .shr p _ _ _ _
  | .sra p _ _ _ _ | .rotl p _ _ _ _ | .min p _ _ _ _ | .max p _ _ _ _ | .clz p _ _ _ | .ctz p _ _ _
  | .popc p _ _ _ | .bext p _ _ _ _ | .bins p _ _ _ | .sel p _ _ _ _ | .cmp p _ _ _ _ | .hash64 p _ _ _
  | .movi p _ _ | .movh p _ _ | .pset p _ _ _ _ | .pand p _ _ _ _ _ | .por p _ _ _ _ _ | .pnot p _ _ _
  | .addImm p _ _ _ | .subImm p _ _ _ | .mulImm p _ _ _ | .mulhImm p _ _ _ | .divImm p _ _ _
  | .remImm p _ _ _ | .andImm p _ _ _ | .orImm p _ _ _ | .xorImm p _ _ _ | .andnImm p _ _ _
  | .shlImm p _ _ _ | .shrImm p _ _ _ | .sraImm p _ _ _ | .rotlImm p _ _ _ | .minImm p _ _ _
  | .maxImm p _ _ _ | .cmpImm p _ _ _ | .fadd p _ _ _ | .fsub p _ _ _ | .fmul p _ _ _ | .fma p _ _ _ _
  | .fdiv p _ _ _ | .frcp p _ _ | .frsq p _ _ | .fmin p _ _ _ _ | .fmax p _ _ _ _ | .fcmp p _ _ _ _
  | .fclass p _ _ _ | .fcvt p _ _ _ _ | .fsgn p _ _ _ _ | .vadd p _ _ _ _ _ | .vsub p _ _ _ _ _
  | .vmul p _ _ _ _ _ | .vmin p _ _ _ _ _ | .vmax p _ _ _ _ _ | .vsgn p _ _ _ _ _ | .vcmp p _ _ _ _ _
  | .vfma p _ _ _ _ | .vsel p _ _ _ _ | .vcvt p _ _ _ _ | .vscl p _ _ _ | .vred p _ _ _ _ | .vbc p _ _ _
  | .vperm p _ _ _ _ | .vmov p _ _ | .vmovSr p _ _ _ => some p
  | _ => none

end Machine

end Sys2Proof
end

