-- ==== Sys2Proof/Certificates/Slice0/Obligations.lean ====
section
/-! DEFINITION. The statements for the provers. -/

open Sys2Proof Sys2Proof.Machine

/-! ## Words of the A slot -/

/-- 05 R99, R100, R102, R103, R105, R106: every integer word with a register destination, its predicate true, writes
its result to d and captures it; an A half whose C word took the fibre off its strand writes d and captures nothing
(05 R96). The results are those of the table: the sums modulo 2^64, on 32 bits with the sign extended, and clamped;
the halves of the products; the shifts bit by bit, by the whole of B; the smaller and the larger; the counts of
leading, trailing and set bits; the fields of bext and bins, cut at bit 63; and the comparison. -/
def Obligations.IntegerResults : Prop :=
  (∀ (s : State) (p : PReg) (d a b : Reg), Issuing s → rdP s p = true →
    (∀ v, Passes (.add p d a b v) s →
      exec (.add p d a b v) s = .next (result (.add p d a b v) s d (addRes v (rd s a) (rd s b)))) ∧
    (∀ v, Passes (.sub p d a b v) s →
      exec (.sub p d a b v) s = .next (result (.sub p d a b v) s d (subRes v (rd s a) (rd s b)))) ∧
    (∀ v, Passes (.mul p d a b v) s →
      exec (.mul p d a b v) s = .next (result (.mul p d a b v) s d (mulRes v (rd s a) (rd s b)))) ∧
    (∀ v, Passes (.mulh p d a b v) s →
      exec (.mulh p d a b v) s = .next (result (.mulh p d a b v) s d (mulhRes v (rd s a) (rd s b)))) ∧
    (∀ v, Passes (.div p d a b v) s →
      exec (.div p d a b v) s = .next (result (.div p d a b v) s d (divRes v (rd s a) (rd s b)))) ∧
    (∀ v, Passes (.rem p d a b v) s →
      exec (.rem p d a b v) s = .next (result (.rem p d a b v) s d (remRes v (rd s a) (rd s b)))) ∧
    (Passes (.and p d a b) s → exec (.and p d a b) s = .next (result (.and p d a b) s d (rd s a &&& rd s b))) ∧
    (Passes (.or p d a b) s → exec (.or p d a b) s = .next (result (.or p d a b) s d (rd s a ||| rd s b))) ∧
    (Passes (.xor p d a b) s → exec (.xor p d a b) s = .next (result (.xor p d a b) s d (rd s a ^^^ rd s b))) ∧
    (Passes (.andn p d a b) s →
      exec (.andn p d a b) s = .next (result (.andn p d a b) s d (rd s a &&& ~~~ rd s b))) ∧
    (∀ v, Passes (.shl p d a b v) s →
      exec (.shl p d a b v) s = .next (result (.shl p d a b v) s d (shlRes v (rd s a) (rd s b)))) ∧
    (∀ v, Passes (.shr p d a b v) s →
      exec (.shr p d a b v) s = .next (result (.shr p d a b v) s d (shrRes v (rd s a) (rd s b)))) ∧
    (∀ v, Passes (.sra p d a b v) s →
      exec (.sra p d a b v) s = .next (result (.sra p d a b v) s d (sraRes v (rd s a) (rd s b)))) ∧
    (∀ v, Passes (.rotl p d a b v) s →
      exec (.rotl p d a b v) s = .next (result (.rotl p d a b v) s d (rotlRes v (rd s a) (rd s b)))) ∧
    (∀ v, Passes (.min p d a b v) s →
      exec (.min p d a b v) s = .next (result (.min p d a b v) s d (minRes v (rd s a) (rd s b)))) ∧
    (∀ v, Passes (.max p d a b v) s →
      exec (.max p d a b v) s = .next (result (.max p d a b v) s d (maxRes v (rd s a) (rd s b)))) ∧
    (∀ v, Passes (.clz p d a v) s → exec (.clz p d a v) s = .next (result (.clz p d a v) s d (clzRes v (rd s a)))) ∧
    (∀ v, Passes (.ctz p d a v) s → exec (.ctz p d a v) s = .next (result (.ctz p d a v) s d (ctzRes v (rd s a)))) ∧
    (∀ v, Passes (.popc p d a v) s →
      exec (.popc p d a v) s = .next (result (.popc p d a v) s d (popcRes v (rd s a)))) ∧
    (∀ v, Passes (.bext p d a b v) s →
      exec (.bext p d a b v) s = .next (result (.bext p d a b v) s d (bextRes v (rd s a) (rd s b)))) ∧
    (Passes (.bins p d a b) s →
      exec (.bins p d a b) s = .next (result (.bins p d a b) s d (binsRes (rd s d) (rd s a) (rd s b)))) ∧
    (∀ q, Passes (.sel p d a b q) s →
      exec (.sel p d a b q) s = .next (result (.sel p d a b q) s d (if rdP s q then rd s a else rd s b))) ∧
    (∀ v, Passes (.cmp p d a b v) s →
      exec (.cmp p d a b v) s = .next (result (.cmp p d a b v) s d (cmpRes v (rd s a) (rd s b)))) ∧
    (Passes (.hash64 p d a b) s →
      exec (.hash64 p d a b) s = .next (result (.hash64 p d a b) s d (hash64 (rd s a) (rd s b)))) ∧
    (∀ imm, Passes (.movi p d imm) s →
      exec (.movi p d imm) s = .next (result (.movi p d imm) s d (immS s 15 imm.toNat))) ∧
    (∀ imm, Passes (.movh p d imm) s →
      exec (.movh p d imm) s = .next (result (.movh p d imm) s d
        (immS s 15 imm.toNat <<< 32 ||| BitVec.ofNat 64 ((rd s d).toNat % 2 ^ 32))))) ∧
  (∀ x y z : W64,
    let low := fun v : W64 => (v.setWidth 32).signExtend 64
    let clamp := fun v : Int => max (-2 ^ 63) (min (2 ^ 63 - 1) v)
    let shifts := fun (n : Nat) (v l r a t : BitVec n) => ∀ i < n,
      l.getLsbD i = (decide (y.toNat ≤ i) && v.getLsbD (i - y.toNat)) ∧ r.getLsbD i = v.getLsbD (i + y.toNat) ∧
        a.getLsbD i = v.getLsbD (min (i + y.toNat) (n - 1)) ∧ t.getLsbD ((i + y.toNat) % n) = v.getLsbD i
    let counts := fun (n : Nat) (v : BitVec n) (lead trail ones : Nat) =>
      lead ≤ n ∧ (∀ i < lead, v.getLsbD (n - 1 - i) = false) ∧ (lead < n → v.getLsbD (n - 1 - lead) = true) ∧
        trail ≤ n ∧ (∀ i < trail, v.getLsbD i = false) ∧ (trail < n → v.getLsbD trail = true) ∧
        ones = ((List.range n).filter fun i => v.getLsbD i).length
    let pos := y.toNat % 64
    let len := min (y.toNat / 2 ^ 8 % 2 ^ 7) (64 - pos)
    addRes .n x y = x + y ∧ addRes .w x y = low (x + y) ∧ (addRes .ss x y).toInt = clamp (x.toInt + y.toInt) ∧
    (addRes .us x y).toNat = min (2 ^ 64 - 1) (x.toNat + y.toNat) ∧
    subRes .n x y = x - y ∧ subRes .w x y = low (x - y) ∧ (subRes .ss x y).toInt = clamp (x.toInt - y.toInt) ∧
    (subRes .us x y).toNat = x.toNat - y.toNat ∧
    mulRes false x y = x * y ∧ mulRes true x y = low (x * y) ∧
    (mulhRes false x y).toInt = x.toInt * y.toInt / 2 ^ 64 ∧
    (mulhRes true x y).toNat = x.toNat * y.toNat / 2 ^ 64 ∧
    shifts 64 x (shlRes false x y) (shrRes false x y) (sraRes false x y) (rotlRes false x y) ∧
    (∃ l r a t : W32, shlRes true x y = l.signExtend 64 ∧ shrRes true x y = r.signExtend 64 ∧
      sraRes true x y = a.signExtend 64 ∧ rotlRes true x y = t.signExtend 64 ∧
      shifts 32 (x.setWidth 32) l r a t) ∧
    (minRes false x y).toInt = min x.toInt y.toInt ∧ (minRes true x y).toNat = min x.toNat y.toNat ∧
    (maxRes false x y).toInt = max x.toInt y.toInt ∧ (maxRes true x y).toNat = max x.toNat y.toNat ∧
    counts 64 x (clzRes false x).toNat (ctzRes false x).toNat (popcRes false x).toNat ∧
    counts 32 (x.setWidth 32) (clzRes true x).toNat (ctzRes true x).toNat (popcRes true x).toNat ∧
    (∀ i < 64,
      (bextRes false x y).getLsbD i = (decide (i < len) && x.getLsbD (pos + i)) ∧
      (bextRes true x y).getLsbD i = (decide (0 < len) && x.getLsbD (pos + min i (len - 1))) ∧
      (binsRes z x y).getLsbD i = if pos ≤ i ∧ i < pos + len then x.getLsbD (i - pos) else z.getLsbD i) ∧
    cmpRes false x y = (if x.toInt < y.toInt then -1 else if x = y then 0 else 1) ∧
    cmpRes true x y = (if x.toNat < y.toNat then -1 else if x = y then 0 else 1))

/-- 05 R99, R100: every integer word with an immediate computes the row v = 0 on its extended immediate. -/
def Obligations.ImmediateResults : Prop :=
  ∀ (s : State) (p : PReg) (d a : Reg), Issuing s → rdP s p = true →
    (∀ imm, Passes (.addImm p d a imm) s → exec (.addImm p d a imm) s = .next
      (result (.addImm p d a imm) s d (rd s a + immS s 10 imm.toNat))) ∧
    (∀ imm, Passes (.subImm p d a imm) s → exec (.subImm p d a imm) s = .next
      (result (.subImm p d a imm) s d (rd s a - immS s 10 imm.toNat))) ∧
    (∀ imm, Passes (.mulImm p d a imm) s → exec (.mulImm p d a imm) s = .next
      (result (.mulImm p d a imm) s d (rd s a * immS s 10 imm.toNat))) ∧
    (∀ imm, Passes (.mulhImm p d a imm) s → exec (.mulhImm p d a imm) s = .next
      (result (.mulhImm p d a imm) s d (mulhRes false (rd s a) (immS s 10 imm.toNat)))) ∧
    (∀ imm, Passes (.divImm p d a imm) s → exec (.divImm p d a imm) s = .next
      (result (.divImm p d a imm) s d (divRes .n (rd s a) (immS s 10 imm.toNat)))) ∧
    (∀ imm, Passes (.remImm p d a imm) s → exec (.remImm p d a imm) s = .next
      (result (.remImm p d a imm) s d (remRes .n (rd s a) (immS s 10 imm.toNat)))) ∧
    (∀ imm, Passes (.andImm p d a imm) s → exec (.andImm p d a imm) s = .next
      (result (.andImm p d a imm) s d (rd s a &&& immS s 10 imm.toNat))) ∧
    (∀ imm, Passes (.orImm p d a imm) s → exec (.orImm p d a imm) s = .next
      (result (.orImm p d a imm) s d (rd s a ||| immS s 10 imm.toNat))) ∧
    (∀ imm, Passes (.xorImm p d a imm) s → exec (.xorImm p d a imm) s = .next
      (result (.xorImm p d a imm) s d (rd s a ^^^ immS s 10 imm.toNat))) ∧
    (∀ imm, Passes (.andnImm p d a imm) s → exec (.andnImm p d a imm) s = .next
      (result (.andnImm p d a imm) s d (rd s a &&& ~~~ immS s 10 imm.toNat))) ∧
    (∀ imm, Passes (.shlImm p d a imm) s → exec (.shlImm p d a imm) s = .next
      (result (.shlImm p d a imm) s d (rd s a <<< imm.toNat))) ∧
    (∀ imm, Passes (.shrImm p d a imm) s → exec (.shrImm p d a imm) s = .next
      (result (.shrImm p d a imm) s d (rd s a >>> imm.toNat))) ∧
    (∀ imm, Passes (.sraImm p d a imm) s → exec (.sraImm p d a imm) s = .next
      (result (.sraImm p d a imm) s d ((rd s a).sshiftRight imm.toNat))) ∧
    (∀ imm, Passes (.rotlImm p d a imm) s → exec (.rotlImm p d a imm) s = .next
      (result (.rotlImm p d a imm) s d ((rd s a).rotateLeft imm.toNat))) ∧
    (∀ imm, Passes (.minImm p d a imm) s → exec (.minImm p d a imm) s = .next
      (result (.minImm p d a imm) s d (minRes false (rd s a) (immS s 10 imm.toNat)))) ∧
    (∀ imm, Passes (.maxImm p d a imm) s → exec (.maxImm p d a imm) s = .next
      (result (.maxImm p d a imm) s d (maxRes false (rd s a) (immS s 10 imm.toNat)))) ∧
    (∀ imm, Passes (.cmpImm p d a imm) s → exec (.cmpImm p d a imm) s = .next
      (result (.cmpImm p d a imm) s d (cmpRes false (rd s a) (immS s 10 imm.toNat))))

/-- 05 R101: division truncates toward zero, the remainder takes the sign of the dividend, A = q × B + rem; and the
two cases that have fixed results; the .w forms do so on 32 bits and extend the sign. -/
def Obligations.DivisionValues : Prop :=
  ∀ (a b : W64),
    let signed := fun (n : Nat) (x y q r : BitVec n) =>
      (y = 0 → q = -1 ∧ r = x) ∧ (x = BitVec.intMin n ∧ y = -1 → q = BitVec.intMin n ∧ r = 0) ∧
        (y ≠ 0 → ¬ (x = BitVec.intMin n ∧ y = -1) → q.toInt = x.toInt.tdiv y.toInt ∧ r.toInt = x.toInt.tmod y.toInt ∧
          x.toInt = q.toInt * y.toInt + r.toInt)
    let plain := fun (n : Nat) (x y q r : BitVec n) =>
      (y = 0 → q = BitVec.allOnes n ∧ r = x) ∧
        (y ≠ 0 → q.toNat = x.toNat / y.toNat ∧ x.toNat = q.toNat * y.toNat + r.toNat ∧ r.toNat < y.toNat)
    signed 64 a b (divRes .n a b) (remRes .n a b) ∧ plain 64 a b (divRes .u a b) (remRes .u a b) ∧
      (∃ q r : W32, divRes .w a b = q.signExtend 64 ∧ remRes .w a b = r.signExtend 64 ∧
        signed 32 (a.setWidth 32) (b.setWidth 32) q r) ∧
      (∃ q r : W32, divRes .uw a b = q.signExtend 64 ∧ remRes .uw a b = r.signExtend 64 ∧
        plain 32 (a.setWidth 32) (b.setWidth 32) q r)

/-- 05 R106: hash64 computes the six steps of its rule modulo 2^64, hash64(0, 0) is 0, and for a fixed b it maps the
2^64 values of a one to one onto 2^64 results. -/
def Obligations.HashBijective : Prop :=
  (∀ a b : W64,
    let x := a ^^^ b * 0x8C3E51A7D2F90B65
    let y := (x ^^^ x >>> 31) * 0xE5B36C294A1DF873
    let z := (y ^^^ y >>> 29) * 0x3D94B7E160C52A9B
    hash64 a b = z ^^^ z >>> 32) ∧
  hash64 0 0 = 0 ∧ (∀ b a c : W64, hash64 a b = hash64 c b → a = c) ∧ (∀ b r : W64, ∃ a, hash64 a b = r)

/-- 05 R107-R109, R114: a word that writes a predicate writes only it; fcmp also raises its flags. -/
def Obligations.PredicateResults : Prop :=
  ∀ (s : State) (p pd pa pb : PReg) (a b : Reg) (na nb : Bool), rdP s p = true →
    (∀ c, Passes (.pset p pd a b c) s →
      exec (.pset p pd a b c) s = .next (goesOn (.pset p pd a b c) (wrP s pd (condI c (rd s a) (rd s b))))) ∧
    (Passes (.pand p pd pa pb na nb) s → exec (.pand p pd pa pb na nb) s = .next
      (goesOn (.pand p pd pa pb na nb) (wrP s pd ((rdP s pa != na) && (rdP s pb != nb))))) ∧
    (Passes (.por p pd pa pb na nb) s → exec (.por p pd pa pb na nb) s = .next
      (goesOn (.por p pd pa pb na nb) (wrP s pd ((rdP s pa != na) || (rdP s pb != nb))))) ∧
    (Passes (.pnot p pd pa na) s → exec (.pnot p pd pa na) s = .next
      (goesOn (.pnot p pd pa na) (wrP s pd (rdP s pa == na)))) ∧
    (∀ c, Passes (.fcmp p pd a b c) s →
      let y := fcmpBits c (src s).ctl.fz (rd32 s a) (rd32 s b)
      exec (.fcmp p pd a b c) s = .next (goesOn (.fcmp p pd a b c) (wrP (noteRound s y.2 0) pd y.1)))

/-- 05 R110-R116: every scalar float word with a register destination writes the bits that its operation of
Flags.lean gives under RMODE, raises that operation's flags and advances SEED by its roundings. -/
def Obligations.FloatResults : Prop :=
  ∀ (s : State) (p : PReg) (d a b c : Reg), Issuing s → rdP s p = true →
    let r := modeOf (src s)
    (Passes (.fadd p d a b) s → let y := faddBits r (rd32 s a) (rd32 s b)
      exec (.fadd p d a b) s = .next (floatResult (.fadd p d a b) s d 1 y (BitVec.ofNat 64 y.bits))) ∧
    (Passes (.fsub p d a b) s → let y := fsubBits r (rd32 s a) (rd32 s b)
      exec (.fsub p d a b) s = .next (floatResult (.fsub p d a b) s d 1 y (BitVec.ofNat 64 y.bits))) ∧
    (Passes (.fmul p d a b) s → let y := fmulBits r (rd32 s a) (rd32 s b)
      exec (.fmul p d a b) s = .next (floatResult (.fmul p d a b) s d 1 y (BitVec.ofNat 64 y.bits))) ∧
    (Passes (.fma p d a b c) s → let y := fmaBits r (rd32 s a) (rd32 s b) (rd32 s c)
      exec (.fma p d a b c) s = .next (floatResult (.fma p d a b c) s d 1 y (BitVec.ofNat 64 y.bits))) ∧
    (Passes (.fdiv p d a b) s → let y := fdivBits r (rd32 s a) (rd32 s b)
      exec (.fdiv p d a b) s = .next (floatResult (.fdiv p d a b) s d 1 y (BitVec.ofNat 64 y.bits))) ∧
    (Passes (.frcp p d a) s → let y := frcpBits r (rd32 s a)
      exec (.frcp p d a) s = .next (floatResult (.frcp p d a) s d 1 y (BitVec.ofNat 64 y.bits))) ∧
    (Passes (.frsq p d a) s → let y := frsqBits r (rd32 s a)
      exec (.frsq p d a) s = .next (floatResult (.frsq p d a) s d 1 y (BitVec.ofNat 64 y.bits))) ∧
    (∀ v, Passes (.fmin p d a b v) s → let y := fminmax false v r.fz (rd32 s a) (rd32 s b)
      exec (.fmin p d a b v) s = .next (floatResult (.fmin p d a b v) s d 0 y (BitVec.ofNat 64 y.bits))) ∧
    (∀ v, Passes (.fmax p d a b v) s → let y := fminmax true v r.fz (rd32 s a) (rd32 s b)
      exec (.fmax p d a b v) s = .next (floatResult (.fmax p d a b v) s d 0 y (BitVec.ofNat 64 y.bits))) ∧
    (∀ v, Passes (.fsgn p d a b v) s → let y : FRes := ⟨fsgnBits v (rd32 s a) (rd32 s b), 0⟩
      exec (.fsgn p d a b v) s = .next (floatResult (.fsgn p d a b v) s d 0 y (BitVec.ofNat 64 y.bits))) ∧
    (∀ fm g, binOf fm = some g → Passes (.fclass p d a fm) s →
      let y : FRes := ⟨fclassBits g ((rd s a).toNat % 2 ^ fmtBits fm), 0⟩
      exec (.fclass p d a fm) s = .next (floatResult (.fclass p d a fm) s d 0 y (BitVec.ofNat 64 y.bits))) ∧
    (∀ sf df, Passes (.fcvt p d a sf df) s →
      let y := convert (dtabNow s) r (scaleOf s sf df sf) (scaleOf s sf df df) sf df
        ((rd s a).toNat % 2 ^ fmtBits sf)
      exec (.fcvt p d a sf df) s = .next
        (floatResult (.fcvt p d a sf df) s d (cvSteps sf df) y (widen df y.bits)))

/-- 06 R127-R133: every vector word writes its elements in place, element 0 lowest, and raises the flags of all. -/
def Obligations.VectorResults : Prop :=
  ∀ (s : State) (p : PReg) (vd va vb vc : VReg) (o : Bool) (f : Fmt), rdP s p = true →
    let w := fmtBits f
    let k := if f = .fp32 then 1 else 0
    (Passes (.vadd p vd va vb o f) s → exec (.vadd p vd va vb o f) s = .next
      (vectorResult (.vadd p vd va vb o f) s vd w (512 / w) k (pairwise s f va vb faddBits fun a b =>
        if o then clampW w (sInt w a + sInt w b) else (a + b) % 2 ^ w))) ∧
    (Passes (.vsub p vd va vb o f) s → exec (.vsub p vd va vb o f) s = .next
      (vectorResult (.vsub p vd va vb o f) s vd w (512 / w) k (pairwise s f va vb fsubBits fun a b =>
        if o then clampW w (sInt w a - sInt w b) else (a + 2 ^ w - b) % 2 ^ w))) ∧
    (Passes (.vmul p vd va vb o f) s → exec (.vmul p vd va vb o f) s = .next
      (vectorResult (.vmul p vd va vb o f) s vd w (512 / w) k (pairwise s f va vb fmulBits fun a b =>
        if o then ((sInt w a * sInt w b / 2 ^ w) % 2 ^ w).toNat else a * b % 2 ^ w))) ∧
    (Passes (.vmin p vd va vb o f) s → exec (.vmin p vd va vb o f) s = .next
      (vectorResult (.vmin p vd va vb o f) s vd w (512 / w) 0
        (pairwise s f va vb (fun r a b => fminmax false o r.fz a b) (pickInt false o w)))) ∧
    (Passes (.vmax p vd va vb o f) s → exec (.vmax p vd va vb o f) s = .next
      (vectorResult (.vmax p vd va vb o f) s vd w (512 / w) 0
        (pairwise s f va vb (fun r a b => fminmax true o r.fz a b) (pickInt true o w)))) ∧
    (Passes (.vsgn p vd va vb o f) s → exec (.vsgn p vd va vb o f) s = .next
      (vectorResult (.vsgn p vd va vb o f) s vd w (512 / w) 0 fun _ e =>
        let sign := fld (elem w (rdV s vb) e) (w - 1) 1
        ⟨fld (elem w (rdV s va) e) 0 (w - 1) + (if o then 1 - sign else sign) * 2 ^ (w - 1), 0⟩)) ∧
    (Passes (.vcmp p vd va vb o f) s → exec (.vcmp p vd va vb o f) s = .next
      (vectorResult (.vcmp p vd va vb o f) s vd w (512 / w) 0 (pairwise s f va vb
        (fun r a b => let y := fcmpBits (if o then .eq else .lt) r.fz a b
          ⟨if y.1 then 2 ^ w - 1 else 0, y.2⟩)
        fun a b => if (if o then a == b else decide (sInt w a < sInt w b)) then 2 ^ w - 1 else 0))) ∧
    (Passes (.vfma p vd va vb vc) s → exec (.vfma p vd va vb vc) s = .next
      (vectorResult (.vfma p vd va vb vc) s vd 32 16 1 fun r e =>
        fmaBits r (elem 32 (rdV s va) e) (elem 32 (rdV s vb) e) (elem 32 (rdV s vc) e))) ∧
    (Passes (.vsel p vd va vb vc) s → exec (.vsel p vd va vb vc) s = .next
      (vectorResult (.vsel p vd va vb vc) s vd 32 16 0 fun _ e =>
        ⟨if elem 32 (rdV s vc) e = 0 then elem 32 (rdV s vb) e else elem 32 (rdV s va) e, 0⟩)) ∧
    (Passes (.vscl p vd va vb) s → exec (.vscl p vd va vb) s = .next
      (vectorResult (.vscl p vd va vb) s vd 32 16 1 fun r e =>
        let x := fp32.decFZ r.fz (elem 32 (rdV s va) e)
        finish32 r (plusZero (scaleNum (sInt 32 (elem 32 (rdV s vb) e)) x), flIf (isSig x) flIV))) ∧
    (∀ a, Passes (.vbc p vd a f) s → exec (.vbc p vd a f) s = .next
      (vectorResult (.vbc p vd a f) s vd w (512 / w) 0 fun _ _ => ⟨(rd s a).toNat % 2 ^ w, 0⟩)) ∧
    (Passes (.vperm p vd va vb f) s → exec (.vperm p vd va vb f) s = .next
      (vectorResult (.vperm p vd va vb f) s vd w (512 / w) 0 fun _ e =>
        ⟨elem w (rdV s va) (elem w (rdV s vb) e % (512 / w)), 0⟩)) ∧
    (Passes (.vmov p vd va) s → exec (.vmov p vd va) s = .next (goesOn (.vmov p vd va) (wrV s vd (rdV s va)))) ∧
    (Passes (.vmovSr p vd va f) s → exec (.vmovSr p vd va f) s = .next
      (goesOn (.vmovSr p vd va f) (wrV s vd (rdV s va >>> (16 * w))))) ∧
    (∀ df, Passes (.vcvt p vd va f df) s →
      let y := mapEl (modeOf (src s)) (cvSteps f df) 16 fun r e =>
        convert (dtabNow s) r (scaleOf s f df f) (scaleOf s f df df) f df (elem w (rdV s va) e)
      let res := BitVec.ofNat 512 (packEl (fmtBits df) y.1)
      exec (.vcvt p vd va f df) s = .next (goesOn (.vcvt p vd va f df)
        (wrV (noteRound s y.2 (16 * cvSteps f df)) vd
          (if fmtBits df = 32 then res else (rdV s vd <<< (16 * fmtBits df)) ||| res)))) ∧
    (∀ d, Issuing s → Passes (.vred p d va o f) s →
      let xs := (upto (512 / w)).map fun e => elem w (rdV s va) e
      let y := vredFold o f (modeOf (src s)) (xs.drop 1) 0 (xs.headD 0) 0
      exec (.vred p d va o f) s = .next (floatResult (.vred p d va o f) s d
        (if f = .fp32 ∧ o = false then 15 else 0) ⟨y.1, y.2⟩ (widen f y.1)))

/-- 04 R73, 05 R95, R97: an A-slot word whose predicate is false only commits. -/
def Obligations.FalsePredicate : Prop :=
  ∀ (i : Instr) (s : State) (p : PReg), predOf i = some p → Passes i s → rdP s p = false →
    exec i s = .next (goesOn i s)

/-! ## Commit, control flow, prefix, traps -/

/-- 04 R70, R75; 05 R95, R96: what the commit of an A-slot or C-slot word leaves: the fibre with d written, the PC
after the issue (an A half leaves it), no prefix, and h0, h1 on the strand unless the fibre has left it; nothing else.
The A half of a pair whose C word freed the slot changes no core. -/
def Obligations.CommitState : Prop :=
  ∀ (i : Instr) (s : State) (d : Reg) (v : W64), (∀ x, i ≠ .pfx x) →
    (∀ f, getFib s s.issue.core s.issue.slot = some f → Issuing s →
      goesOn i s = withFibre s (afterWord s (afterPc s) f) ∧
      (∀ a, goesTo i a s = withFibre s (afterWord s a f)) ∧
      result i s d v = withFibre (taken s v) (afterWord s (afterPc s) (putReg f d v)) ∧
      goesOn i (wr s d v) = withFibre s (afterWord s (afterPc s) (putReg f d v)) ∧
      (∀ x, goesOn (.pfx x) s = withFibre s
        { afterWord s (afterPc s) f with ctl := { (afterWord s (afterPc s) f).ctl with pp := true, pfxv := x } })) ∧
    (getFib s s.issue.core s.issue.slot = none → ∀ c, getCore (goesOn i s) c = getCore s c ∧
      getCore (result i s d v) c = getCore s c)

/-- The frame of a word that writes one register of its fibre and perhaps captures it (05 R95): every other register,
predicate and flag of the fibre, its place in the schedule, every other fibre, every other core, and of the issuing
core all but its fibres and the h0, h1 of the issuing strand are unchanged, and so are every byte of memory and every
other register of the machine; writes to zr are discarded. -/
def Obligations.ResultFrame : Prop :=
  ∀ (i : Instr) (s : State) (f : Fibre) (d : Reg) (v : W64), getFib s s.issue.core s.issue.slot = some f →
    Issuing s → (∀ x, i ≠ .pfx x) →
    let t := result i s d v
    let k := getCore s s.issue.core
    let l := getCore t s.issue.core
    (∃ g, getFib t s.issue.core s.issue.slot = some g ∧
      (∀ r : Reg, fibReg g r = if r = d ∧ (d.destOk ∧ d ≠ .zr) then v else fibReg f r) ∧
      g.v = f.v ∧ g.preds = f.preds ∧ g.ctl.flags = f.ctl.flags ∧ g.ctl.priv = f.ctl.priv ∧
      g.ctl.rm = f.ctl.rm ∧ g.ctl.fz = f.ctl.fz ∧ g.ctl.seed = f.ctl.seed ∧
      g.sch = { f.sch with resv := none, t0 := g.sch.t0, late := g.sch.late }) ∧
    SameMemory s t ∧ SameTiles s t ∧
    (∀ c sl, (c ≠ s.issue.core ∨ sl ≠ s.issue.slot) → getFib t c sl = getFib s c sl) ∧
    (∀ c, c ≠ s.issue.core → getCore t c = getCore s c) ∧
    l = { k with fibres := l.fibres, seq := { k.seq with strands := l.seq.strands } } ∧
    (∀ st : Fin 16, st ≠ Fin.ofNat 16 s.issue.strand → l.seq.strands[st] = k.seq.strands[st]) ∧
    strandAt l s.issue.strand = (if f.sch.run = .running s.issue.strand then
      { strandAt k s.issue.strand with h0 := v, h1 := (strandAt k s.issue.strand).h0 } else strandAt k s.issue.strand) ∧
    t = { s with cores := t.cores }

/-- 05 R95, R96: performed A-slot words with a register destination set h1 to the old h0 and h0 to the result, also
for zr; when the fibre has left its strand in the same issue, the strand's h0 and h1 stay. -/
def Obligations.CaptureOrder : Prop :=
  ∀ (i : Instr) (s : State) (d : Reg) (v : W64),
    let old := strandAt (getCore s s.issue.core) s.issue.strand
    let new := strandAt (getCore (result i s d v) s.issue.core) s.issue.strand
    ((me s).sch.run = .running s.issue.strand → new.h0 = v ∧ new.h1 = old.h0) ∧
    ((∀ st, (me s).sch.run ≠ .running st) → new = old)

/-- 05 R121-R123: nop, the branches and jumps, call and ret, loop. -/
def Obligations.ControlFlow : Prop :=
  ∀ (s : State) (p : PReg) (n : Bool) (d a : Reg),
    (Passes .nop s → exec .nop s = .next (goesOn .nop s)) ∧
    (∀ imm, Passes (.br p n imm) s → exec (.br p n imm) s = .next
      (if (rdP s p != n) = true then goesTo (.br p n imm) (s.issue.pc + sext 19 imm.toNat * 4) s
       else goesOn (.br p n imm) s)) ∧
    (∀ imm, Passes (.jmp imm) s →
      exec (.jmp imm) s = .next (goesTo (.jmp imm) (s.issue.pc + sext 23 imm.toNat * 4) s)) ∧
    (∀ imm, Passes (.call imm) s → exec (.call imm) s = .next
      (goesTo (.call imm) (s.issue.pc + sext 23 imm.toNat * 4) (wr s (.g 7) (afterPc s)))) ∧
    (Passes .ret s → exec .ret s = .next
      (goesTo .ret (BitVec.ofNat 64 ((rd s (.g 7)).toNat / 4 * 4)) s)) ∧
    (Passes (.jmpr d a) s → exec (.jmpr d a) s = .next
      (goesTo (.jmpr d a) (BitVec.ofNat 64 ((rd s a).toNat / 4 * 4)) (wr s d (afterPc s)))) ∧
    (∀ imm, Passes (.loop a imm) s → exec (.loop a imm) s = .next
      (if rd s a - 1 = 0 then goesOn (.loop a imm) (wr s a (rd s a - 1))
       else goesTo (.loop a imm) (s.issue.pc + sext 18 imm.toNat * 4) (wr s a (rd s a - 1))))

/-- 04 R83-R85: pfx makes its operand pending; while a prefix pends, an immediate is its operand above the field. -/
def Obligations.Prefix : Prop :=
  ∀ (s : State) (f : Fibre) (x : BitVec 23), Standing s f → s.issue.snap = none →
    (Passes (.pfx x) s → ∃ t g, exec (.pfx x) s = .next t ∧ getFib t s.issue.core s.issue.slot = some g ∧
      g.ctl.pp = true ∧ g.ctl.pfxv = x ∧ g.pc = afterPc s ∧ g.g = f.g ∧ g.s = f.s) ∧
    (∀ n v, 0 < n → n ≤ 41 → f.ctl.pp = true → f.ctl.pfxv = x → v < 2 ^ n →
      immS s n v = (x ++ BitVec.ofNat n v).signExtend 64) ∧
    (∀ n v, 0 < n → n ≤ 64 → f.ctl.pp = false → v < 2 ^ n → immS s n v = (BitVec.ofNat n v).signExtend 64)

/-- 07 R171: trap in user mode with a handler installed and the trap state free saves EPC, ECAUSE, EADDR and EINFO,
raises the privilege and goes to the handler; while another holds the trap state the fibre parks with reason 2 at its
word; in system mode, or without a handler installed, it is PRIVILEGE. -/
def Obligations.TrapEntry : Prop :=
  ∀ (s : State) (f : Fibre) (code : BitVec 16), Standing s f → Passes (.trap code) s →
    let user := f.ctl.priv = false ∧ ((myCore s).trap.tvec.getLsbD 0) = true
    (s.issue.snap = none → user → ((myCore s).trap.ecause.getLsbD 17) = false →
      ∃ t g, exec (.trap code) s = .next t ∧ getFib t s.issue.core s.issue.slot = some g ∧
        (getCore t s.issue.core).trap = { (myCore s).trap with
          epc := afterPc s
          ecause := BitVec.ofNat 64 (code.toNat + 2 ^ 17 + fidOf s.issue.core s.issue.slot % 256 * 2 ^ 18)
          eaddr := f.g[0]
          einfo := BitVec.ofNat 64 ((encode (s.issue.words == 1) (.trap code)).getD 0) } ∧
        g = { afterWord s (BitVec.ofNat 64 ((myCore s).trap.tvec.toNat / 4 % 2 ^ 62 * 4)) f with
          ctl := { (afterWord s 0 f).ctl with priv := true } } ∧
        SameMemory s t) ∧
    (user → ((myCore s).trap.ecause.getLsbD 17) = true → inHandler s = false →
      exec (.trap code) s = .next
        (stops (parkFib s s.issue.core s.issue.slot .resource (.resource .trap)))) ∧
    (¬ user → exec (.trap code) s = .next (stops (faultHere s (.trap code) .privilege .none 0).1))

/-- 07 R172: eret by the fibre that holds the trap state frees it and returns to EPC with the privilege that ECAUSE
keeps; by another it is PRIVILEGE. -/
def Obligations.TrapReturn : Prop :=
  ∀ (s : State) (f : Fibre), Standing s f → Passes .eret s → s.issue.snap = none →
    let e := (myCore s).trap
    ((e.ecause.getLsbD 17) = true → e.ecause.toNat / 2 ^ 18 % 2 ^ 8 = fidOf s.issue.core s.issue.slot % 256 →
      ∃ t g, exec .eret s = .next t ∧ getFib t s.issue.core s.issue.slot = some g ∧
        (getCore t s.issue.core).trap = { e with ecause := setBf e.ecause 17 1 0 } ∧
        g = { afterWord s (BitVec.ofNat 64 (e.epc.toNat / 4 % 2 ^ 62 * 4)) f with
          ctl := { (afterWord s 0 f).ctl with priv := e.ecause.getLsbD 16 } }) ∧
    (((e.ecause.getLsbD 17) = false ∨
        e.ecause.toNat / 2 ^ 18 % 2 ^ 8 ≠ fidOf s.issue.core s.issue.slot % 256) →
      exec .eret s = .next (stops (faultHere s .eret .privilege .none 0).1))

/-- 05 R123, R124; 02 R23, R30: done ends its fibre and frees its slot; yield gives up the strand when another fibre
is READY, and else goes on; brk parks its fibre with reason 6 and BREAKPOINT, the PC at the word. -/
def Obligations.EndYieldAndBreak : Prop :=
  ∀ (s : State) (f : Fibre), Standing s f →
    (Passes .doneF s → exec .doneF s = .next (goesOn .doneF
      (emptyStrand (retireFibre s s.issue.core s.issue.slot) s.issue.core s.issue.strand))) ∧
    (Passes .yieldF s → exec .yieldF s = .next (goesOn .yieldF
      (if kindOf s.issue.core ≠ .dense ∧ otherReady (myCore s) s.issue.slot = true then
        requeue (leaveStrand s s.issue.core s.issue.slot) s.issue.core s.issue.slot
       else modMe s fun f => { f with sch := { f.sch with issued := 0 } }))) ∧
    (∀ code : BitVec 16, Passes (.brk code) s → s.issue.slot ≠ handlerSlot →
      exec (.brk code) s = .next (stops (parkFault s s.issue.core s.issue.slot .breakpoint s.issue.pc .none 0
        ((encode (s.issue.words == 1) (.brk code)).getD 0))))

/-! ## System registers -/

/-- 07 R153-R162, R168; 14 R364: sysrd returns the register, laid out field by field, with 0 in every reserved place;
an SY register needs system privilege. STATUS, RMODE and the trap state are those that syswr writes; TASK is what the
dispatcher wrote for the crew (12 R310), TFEAT its task's groups; a core without a crew reads TASK 0 and TFEAT as FEAT.
A command core, which stands in no domain, reads the sums of all 18 domains in EBUD and ERES, as erd returns them. That
TFEAT reads as FEAT on a lookup or dense core without a crew is the model's choice (log 3). -/
def Obligations.SystemReads : Prop :=
  ∀ (s : State) (f : Fibre) (r : Reg) (x : SysReg), Standing s f → Passes (.sysrd r x) s →
    let c := s.issue.core
    let k := myCore s
    let dom := ngetD s.doms (unitOf c) Domain.blank
    let ctl := (src s).ctl
    let energy := fun (g : Domain → Nat) =>
      BitVec.ofNat 64 ((if kindOf c = .command then sumDoms s g % 2 ^ 32 else g dom) + s.gov.win % 2 ^ 32 * 2 ^ 32)
    let feat : W64 := match kindOf c with
      | .lookup => 0x1DE3
      | .dense => 0x1DBF
      | .command => 0x1FE3
    let value : W64 := match x with
      | .status => BitVec.ofNat 64 (ctl.flags.toNat + ctl.priv.toNat * 2 ^ 8 + ctl.pp.toNat * 2 ^ 9)
      | .rmode => BitVec.ofNat 64 (ctl.rm.toNat + ctl.fz.toNat * 2 ^ 3 + ctl.seed.toNat * 2 ^ 16)
      | .feat => feat
      | .tfeat => match k.crew with
        | some w => w.tfeat
        | none => feat
      | .core => match kindOf c with
        | .lookup => BitVec.ofNat 64 (c + dom.vfp * 2 ^ 14 + dom.gated.toNat * 2 ^ 18)
        | .dense => BitVec.ofNat 64 (c - 4096 + 1 * 2 ^ 12 + dom.vfp * 2 ^ 14 + dom.gated.toNat * 2 ^ 18)
        | .command => BitVec.ofNat 64 (c - 4112 + 2 * 2 ^ 12)
      | .task => match k.crew with
        | some w => w.taskReg
        | none => 0
      | .timeout => k.trap.timeout
      | .time => s.time
      | .ebud => energy (·.bud)
      | .eres => energy (·.res)
      | .tvec => k.trap.tvec
      | .epc => k.trap.epc
      | .ecause => k.trap.ecause
      | .eaddr => k.trap.eaddr
      | .einfo => k.trap.einfo
    (s.issue.snap = none → ctl.pp = false) ∧
    (sysPriv x = false ∨ f.ctl.priv = true →
      exec (.sysrd r x) s = .next (goesOn (.sysrd r x) (wr s r value))) ∧
    (sysPriv x = true → f.ctl.priv = false →
      exec (.sysrd r x) s = .next (stops (faultHere s (.sysrd r x) .privilege .none 0).1))

/-- 07 R153-R162, R168: syswr changes exactly the fields of its register that software may write, and nothing at all
where the register is read-only (TIME, EBUD, ERES, TASK, FEAT, TFEAT, CORE); an SY register needs system privilege. -/
def Obligations.SystemWrites : Prop :=
  ∀ (s : State) (f : Fibre) (r : Reg) (x : SysReg), Standing s f → Passes (.syswr r x) s →
    let v := rd s r
    let trap := fun (g : Trap → Trap) => modCore s s.issue.core fun k => { k with trap := g k.trap }
    (sysPriv x = false ∨ f.ctl.priv = true →
      exec (.syswr r x) s = .next (goesOn (.syswr r x)
        (match x with
         | .status => withFibre s { f with ctl := { f.ctl with flags := v.setWidth 5 } }
         | .rmode =>
           { withFibre s { f with ctl := { f.ctl with
               rm := v.setWidth 3, fz := v.getLsbD 3, seed := (v >>> 16).setWidth 16 } } with
             issue := { s.issue with seedW := true } }
         | .timeout => trap fun e => { e with timeout := BitVec.ofNat 64 (v.toNat % 2 ^ 40) }
         | .tvec => trap fun e => { e with tvec := v &&& ~~~ 2#64 }
         | .epc => trap fun e => { e with epc := v }
         | .ecause => trap fun e => { e with ecause := BitVec.ofNat 64 (v.toNat % 2 ^ 26) }
         | .eaddr => trap fun e => { e with eaddr := v }
         | .einfo => trap fun e => { e with einfo := BitVec.ofNat 64 (v.toNat % 2 ^ 32) }
         | .feat | .tfeat | .core | .task | .time | .ebud | .eres => s))) ∧
    (sysPriv x = true → f.ctl.priv = false →
      exec (.syswr r x) s = .next (stops (faultHere s (.syswr r x) .privilege .none 0).1))

/-- 07 R170: rndset returns the old RMODE and changes the mode, the seed or both; nothing else. -/
def Obligations.RoundingMode : Prop :=
  ∀ (s : State) (f : Fibre) (d a : Reg) (sd m fz : Bool) (rm : BitVec 3), Standing s f →
    Passes (.rndset d a sd m fz rm) s →
    exec (.rndset d a sd m fz rm) s = .next (goesOn (.rndset d a sd m fz rm)
      { withFibre s
          { putReg f d (rmodeWord (src s)) with ctl := { f.ctl with
              rm := if m then rm else f.ctl.rm
              fz := if m then fz else f.ctl.fz
              seed := if sd then (rd s a).setWidth 16 else f.ctl.seed } } with
        issue := { s.issue with seedW := s.issue.seedW || sd } })

/-- 14 R359, R364-R366; 11 R276; 12 R303; 05 R117; 13 R340; 07 R163: the words that only read a register of the core or
the device: tread, erd, pcrd, dq.cnt, rq.stat, lea, and segrd of a segment register and of a resident entry. -/
def Obligations.CoreReads : Prop :=
  ∀ (s : State) (d a : Reg),
    (Passes (.tread d) s → exec (.tread d) s = .next (goesOn (.tread d) (wr s d s.time))) ∧
    (Passes (.erd d 0) s → exec (.erd d 0) s = .next
      (goesOn (.erd d 0) (wr s d (energyWord s s.issue.core true)))) ∧
    (Passes (.erd d 1) s → exec (.erd d 1) s = .next
      (goesOn (.erd d 1) (wr s d (energyWord s s.issue.core false)))) ∧
    (Passes (.erd d 2) s → exec (.erd d 2) s = .next
      (goesOn (.erd d 2) (wr s d (BitVec.ofNat 64 (100000 - residentEnergy s))))) ∧
    (Passes (.erd d 3) s → kindOf s.issue.core = .command → exec (.erd d 3) s = .next
      (goesOn (.erd d 3) (wr s d (BitVec.ofNat 64
        (sumDoms s (·.prev) % 2 ^ 32 + s.gov.win % 2 ^ 32 * 2 ^ 32))))) ∧
    (Passes (.erd d 3) s → kindOf s.issue.core ≠ .command → exec (.erd d 3) s = .next
      (goesOn (.erd d 3) (wr s d (BitVec.ofNat 64
        ((ngetD s.doms (unitOf s.issue.core) Domain.blank).prev % 2 ^ 32
          + (s.gov.win + 2 ^ 32 - 1) % 2 ^ 32 * 2 ^ 32))))) ∧
    (Passes (.pcrd d a) s → exec (.pcrd d a) s = .next
      (goesOn (.pcrd d a) (wr s d (counterOf s s.issue.core ((rd s a).toNat % 2 ^ 16))))) ∧
    (Passes (.dqCnt d) s → exec (.dqCnt d) s = .next (goesOn (.dqCnt d) (wr s d (BitVec.ofNat 64
      ((me s).sch.dq.length + readyHeads (myCore s) (me s).sch.dq * 2 ^ 5
        + (nPool (kindOf s.issue.core) - ((myCore s).q.pool.filter fun e => e.2.st != .held).length) * 2 ^ 10
        + (me s).sch.unack % 64 * 2 ^ 21))))) ∧
    (∀ k x, nget (myCore s).fifo ((rd s a).toNat % 8) = some x → Passes (.rqStat d a k) s →
      exec (.rqStat d a k) s = .next (goesOn (.rqStat d a k) (wr s d
        (if k = 0 then cmdStatus x else if k = 1 then x.w[0] else if k = 2 then x.w[1] else if k = 3 then x.w[2]
         else if k = 4 then x.w[3] else if k = 5 then doneMask x else BitVec.ofNat 64 x.fid)))) ∧
    (∀ k, nget (myCore s).fifo ((rd s a).toNat % 8) = none → Passes (.rqStat d a k) s →
      exec (.rqStat d a k) s = .next (goesOn (.rqStat d a k) (wr s d 0))) ∧
    (∀ sg base sz imm, Passes (.lea d sg base sz imm) s → exec (.lea d sg base sz imm) s = .next
      (goesOn (.lea d sg base sz imm)
        (wr s d (leaValue (myCore s).segs[sg] (offOf s base 7 imm.toNat (szBytes sz)) (szBytes sz))))) ∧
    (∀ b k, Passes (.segrd d b k) s →
      let v := if b then (myCore s).resSegs[k] else (myCore s).segs[k]
      exec (.segrd d b k) s = .next (goesOn (.segrd d b k)
        (modMe s fun f => putReg (putReg f d (v.setWidth 64)) (succReg d) ((v >>> 64).setWidth 64))))

/-! ## Loads, stores and atomics -/

/-- 08 R198, R199, R201, R202; 07 R165: a load from the own tile, through a segment that lets it, writes its register
at once; ld.acq at a scope wider than .core takes the bytes and parks with reason 1. -/
def Obligations.OwnTileLoads : Prop :=
  ∀ (s : State) (r : Reg) (sg : Fin 8) (base : Reg) (o : Nat), let c := s.issue.core
    (∀ sz x imm, let n := szBytes sz
      segAcc c (myCore s) sg (offOf s base 7 imm.toNat n) n n [rightR] = .ok (.tile c o) →
      rangeBusy c (myCore s) o n = false → Passes (.ld r sg base sz x imm) s →
      exec (.ld r sg base sz x imm) s = .next (goesOn (.ld r sg base sz x imm)
        (wr s r (extend x n (Mem.rdN (myCore s).tile.mem o n))))) ∧
    (∀ sz x imm, let n := szBytes sz
      segAcc c (myCore s) sg (offOf s base 4 imm.toNat n) n n [rightR] = .ok (.tile c o) →
      rangeBusy c (myCore s) o n = false → Passes (.ldAcq r sg base sz x .core imm) s →
      exec (.ldAcq r sg base sz x .core imm) s = .next (goesOn (.ldAcq r sg base sz x .core imm)
        (wr s r (extend x n (Mem.rdN (myCore s).tile.mem o n))))) ∧
    (∀ sz x sc imm, let n := szBytes sz
      let i := Instr.ldAcq r sg base sz x sc imm
      sc ≠ .core → segAcc c (myCore s) sg (offOf s base 4 imm.toNat n) n n [rightR] = .ok (.tile c o) →
      rangeBusy c (myCore s) o n = false → inHandler s = false → Passes i s →
      exec i s = .next (goesOn i (sentOff i s (.reg r n x) n (sc == .sys || sc == .dom)
        (valPieces (.tile c o) n (Mem.rdN (myCore s).tile.mem o n))))) ∧
    (∀ imm, segAcc c (myCore s) sg (offOf s base 7 imm.toNat 8) 16 16 [rightR] = .ok (.tile c o) →
      rangeBusy c (myCore s) o 16 = false → Passes (.ldp r sg base imm) s →
      exec (.ldp r sg base imm) s = .next (goesOn (.ldp r sg base imm)
        (modMe s fun f => putPair f r (Mem.rdN (myCore s).tile.mem o 16))))

/-- 08 R195, R199, R201, R202; 09 R232; 06 R134, R138; 13 R326, R341, R342: a load from outside the own tile is served
by the store buffer or the row cache, or is sent and parks, with reason 1, or 5 while a translation is missing, or
faults, as FarLoad says: ld, ldp and ld.acq at scope .core look the row cache up and need not park. -/
def Obligations.FarLoads : Prop :=
  ∀ (s : State) (r : Reg) (sg : Fin 8) (base : Reg) (loc : Loc), let c := s.issue.core
    let seg := fun (off n align : Nat) => segAcc c (myCore s) sg off n align [rightR] = .ok loc
    let off := fun (bits imm unit : Nat) => offOf s base bits imm unit
    let parks := fun (t : State) (_ : Nat) => t
    loc.isOwn c = false → inHandler s = false →
    (∀ sz x imm, let n := szBytes sz
      seg (off 7 imm.toNat n) n n → Passes (.ld r sg base sz x imm) s →
      FarLoad (.ld r sg base sz x imm) s loc n (.reg r n x) true false false
        fun t v => wr t r (extend x n v)) ∧
    (∀ sz x sc imm, let n := szBytes sz
      seg (off 4 imm.toNat n) n n → Passes (.ldAcq r sg base sz x sc imm) s →
      FarLoad (.ldAcq r sg base sz x sc imm) s loc n (.reg r n x) (sc == .core) (sc != .core)
        (sc == .sys || sc == .dom) fun t v => wr t r (extend x n v)) ∧
    (∀ imm, seg (off 7 imm.toNat 8) 16 16 → Passes (.ldp r sg base imm) s →
      FarLoad (.ldp r sg base imm) s loc 16 (.pair r) true false false fun t v => modMe t fun f => putPair f r v) ∧
    (∀ v imm, seg (off 10 imm.toNat 64) 64 64 → Passes (.vld v sg base imm) s →
      FarLoad (.vld v sg base imm) s loc 64 (.vec v) false true false parks) ∧
    (∀ f imm, let n := tileSize f
      seg (off 10 imm.toNat 64) n 64 → Passes (.mldb f sg base imm) s →
      FarLoad (.mldb f sg base imm) s loc n (.latch f) false true false parks) ∧
    (∀ imm, seg (off 7 imm.toNat 8) 512 64 → Passes (.dtld sg base imm) s →
      FarLoad (.dtld sg base imm) s loc 512 .dtab false true false parks) ∧
    (∀ imm, seg (off 7 imm.toNat 8) 32 32 → Passes (.tbld r sg base imm) s →
      FarLoad (.tbld r sg base imm) s loc 32 (.tabSlot ((rd s r).toNat % 16)) false true false parks) ∧
    (∀ imm, seg (off 7 imm.toNat 8) 1024 64 → Passes (.xpld sg base imm) s →
      FarLoad (.xpld sg base imm) s loc 1024 .xtab false true false parks) ∧
    (∀ tag ctx, (rd s r).getLsbD 63 = false → let w := (rd s base).toNat
      segAcc c (myCore s) (Fin.ofNat 8 (w / 2 ^ 54 % 8)) (rd s r).toNat 512 64 [rightR] = .ok loc →
      Passes (.gkbind r base tag ctx) s →
      FarLoad (.gkbind r base tag ctx) s loc 512
        (.gk r tag.toNat ctx.toNat (w / 2 ^ 5 % 2 ^ 22 * 32) (w / 2 ^ 32 % 2 ^ 22 * 32)) false true false parks)

/-- 08 R200, R202, R204, R212, R213: a store, a half-byte store or a red to the own tile is performed at once: the
bytes change, and the arrival counters bound to this core count the words. -/
def Obligations.OwnTileStores : Prop :=
  ∀ (s : State) (r : Reg) (sg : Fin 8) (base : Reg) (o : Nat), let c := s.issue.core
    (∀ sz imm, let n := szBytes sz
      segAcc c (myCore s) sg (offOf s base 7 imm.toNat n) n n [rightW] = .ok (.tile c o) →
      rangeBusy c (myCore s) o n = false → Passes (.st r sg base sz imm) s →
      exec (.st r sg base sz imm) s = .next (goesOn (.st r sg base sz imm)
        (tileStore s c o n ((rd s r).toNat % 2 ^ (8 * n)) c))) ∧
    (∀ imm, segAcc c (myCore s) sg (offOf s base 7 imm.toNat 8) 16 16 [rightW] = .ok (.tile c o) →
      rangeBusy c (myCore s) o 16 = false → Passes (.stp r sg base imm) s →
      exec (.stp r sg base imm) s = .next (goesOn (.stp r sg base imm)
        (tileStore s c o 16 ((rd s r).toNat + (rd s (succReg r)).toNat * 2 ^ 64) c))) ∧
    (∀ sz sc imm, let n := szBytes sz
      segAcc c (myCore s) sg (offOf s base 4 imm.toNat n) n n [rightW] = .ok (.tile c o) →
      rangeBusy c (myCore s) o n = false → failureNow s sc = none → drained s c s.issue.slot sc = true →
      Passes (.stRel r sg base sz sc imm) s →
      exec (.stRel r sg base sz sc imm) s = .next (goesOn (.stRel r sg base sz sc imm)
        (tileStore s c o n ((rd s r).toNat % 2 ^ (8 * n)) c))) ∧
    (∀ hi imm, segAcc c (myCore s) sg (offOf s base 7 imm.toNat 1) 1 1 [rightW] = .ok (.tile c o) →
      rangeBusy c (myCore s) o 1 = false → Passes (.st4 r sg base hi imm) s →
      let old := Mem.rdN (myCore s).tile.mem o 1
      exec (.st4 r sg base hi imm) s = .next (goesOn (.st4 r sg base hi imm)
        (tileStore s c o 1 (if hi then old % 16 + (rd s r).toNat % 16 * 16 else old / 16 * 16 + (rd s r).toNat % 16)
          c))) ∧
    (∀ op esz, let n := eszBytes esz
      segAcc c (myCore s) sg (rd s base).toNat n n [rightW, rightA] = .ok (.tile c o) →
      rangeBusy c (myCore s) o n = false → Passes (.red sg base r op esz) s →
      exec (.red sg base r op esz) s = .next (goesOn (.red sg base r op esz)
        (tileDo s c o ⟨.red op, n, (rd s r).setWidth 512, 0⟩ c).1))

/-- The bytes of a store to the own tile and no others (08 R182, R200): reading any other byte of the tile, any other
core's tile and all memory outside the cores gives what it gave; the stored bytes read as stored; registers, flags and
full/empty states stay. -/
def Obligations.TileStoreFrame : Prop :=
  ∀ (s : State) (c o n v producer : Nat), let t := tileStore s c o n v producer
    (∀ a, (a < o ∨ o + n ≤ a) → Mem.rd (getCore t c).tile.mem a = Mem.rd (getCore s c).tile.mem a) ∧
    (∀ j, j < n → Mem.rd (getCore t c).tile.mem (o + j) = BitVec.ofNat 8 (v / 2 ^ (8 * j))) ∧
    (∀ d, d ≠ c → getCore t d = getCore s d) ∧ SameMemory s t ∧
    (getCore t c).fibres = (getCore s c).fibres ∧ (getCore t c).tile.empty = (getCore s c).tile.empty ∧
    (getCore t c).trap = (getCore s c).trap ∧ (getCore t c).seq = (getCore s c).seq

/-- 08 R210, R211: amo and cas on the own tile return the old value, sign-extended for amo, and write the new one. -/
def Obligations.OwnTileAtomics : Prop :=
  ∀ (s : State) (d : Reg) (sg : Fin 8) (base b b2 : Reg) (o : Nat), let c := s.issue.core
    (∀ op esz, let n := eszBytes esz
      segAcc c (myCore s) sg (rd s base).toNat n n [rightR, rightW, rightA] = .ok (.tile c o) →
      rangeBusy c (myCore s) o n = false → Passes (.amo d sg base b op esz) s →
      let r := tileDo s c o ⟨.amo op, n, (rd s b).setWidth 512, 0⟩ c
      exec (.amo d sg base b op esz) s = .next (goesOn (.amo d sg base b op esz)
        (wr r.1 d (sext (8 * n) (Mem.rdN (myCore s).tile.mem o n))))) ∧
    (segAcc c (myCore s) sg (rd s base).toNat 8 8 [rightR, rightW, rightA] = .ok (.tile c o) →
      rangeBusy c (myCore s) o 8 = false → Passes (.cas d sg base b b2) s →
      ∀ old, Mem.rdN (myCore s).tile.mem o 8 = old →
      exec (.cas d sg base b b2) s = .next (goesOn (.cas d sg base b b2)
        (wr (if old = (rd s b).toNat then tileStore s c o 8 (rd s b2).toNat c else s) d (BitVec.ofNat 64 old))))

/-- 08 R210, R212: what an atomic and a red make of the old value, 4 or 8 bytes wide: the sum modulo the width, the
bits, the smaller or larger signed value, the operand, the FP32 sum rounded to nearest even; on a tile that value is
stored, and the old one is what the operation returns. -/
def Obligations.AtomicValues : Prop :=
  (∀ (n old : Nat) (b : W512) (c : W64), n = 4 ∨ n = 8 → old < 2 ^ (8 * n) →
    let v := b.toNat % 2 ^ (8 * n)
    let smaller := if (BitVec.ofNat (8 * n) v).slt (BitVec.ofNat (8 * n) old) = true then v else old
    let larger := if (BitVec.ofNat (8 * n) old).slt (BitVec.ofNat (8 * n) v) = true then v else old
    newBytes ⟨.amo .add, n, b, c⟩ old = some ((old + v) % 2 ^ (8 * n)) ∧
    newBytes ⟨.amo .and, n, b, c⟩ old = some (old &&& v) ∧
    newBytes ⟨.amo .or, n, b, c⟩ old = some (old ||| v) ∧
    newBytes ⟨.amo .xor, n, b, c⟩ old = some (old ^^^ v) ∧
    newBytes ⟨.amo .swap, n, b, c⟩ old = some v ∧
    newBytes ⟨.amo .min, n, b, c⟩ old = some smaller ∧
    newBytes ⟨.amo .max, n, b, c⟩ old = some larger ∧
    newBytes ⟨.red .add, n, b, 0⟩ old = some ((old + v) % 2 ^ (8 * n)) ∧
    newBytes ⟨.red .and, n, b, 0⟩ old = some (old &&& v) ∧
    newBytes ⟨.red .or, n, b, 0⟩ old = some (old ||| v) ∧
    newBytes ⟨.red .xor, n, b, 0⟩ old = some (old ^^^ v) ∧
    newBytes ⟨.red .min, n, b, 0⟩ old = some smaller ∧
    newBytes ⟨.red .max, n, b, 0⟩ old = some larger ∧
    (n = 4 → newBytes ⟨.red .fadd, n, b, 0⟩ old = some (faddBits rne old v).bits)) ∧
  (∀ (s : State) (c o producer v : Nat) (acc : Acc1), let old := Mem.rdN (getCore s c).tile.mem o acc.size
    newBytes acc old = some v → tileDo s c o acc producer = (tileStore s c o acc.size v producer, old))

/-- 08 R200, R203, R212; 06 R136: a store or red that leaves the own tile, with room in the store buffer and its
translations at hand, enters the buffer, and its fibre goes on. -/
def Obligations.FarStores : Prop :=
  ∀ (s s' : State) (r : Reg) (sg : Fin 8) (base : Reg) (loc : Loc), let c := s.issue.core
    loc.isOwn c = false → inHandler s = false →
    let enters := fun (i : Instr) (parts : List (Loc × Acc1)) =>
      canTake s (.storeBuffer (partUnits parts)) = true ∧ storeFault s c s.issue.slot parts = none ∧
        sbResolve (sbEnter s (issuer s i) parts).2 c s.issue.slot
          (sbGroup (getCore (sbEnter s (issuer s i) parts).2 c) s.net.next) = (s', none)
    (∀ sz imm, let n := szBytes sz
      segAcc c (myCore s) sg (offOf s base 7 imm.toNat n) n n [rightW] = .ok loc →
      enters (.st r sg base sz imm) [(loc, storeAcc n (rd s r).toNat)] → Passes (.st r sg base sz imm) s →
      exec (.st r sg base sz imm) s = .next (goesOn (.st r sg base sz imm) s')) ∧
    (∀ imm, segAcc c (myCore s) sg (offOf s base 7 imm.toNat 8) 16 16 [rightW] = .ok loc →
      enters (.stp r sg base imm) [(loc, storeAcc 16 ((rd s r).toNat + (rd s (succReg r)).toNat * 2 ^ 64))] →
      Passes (.stp r sg base imm) s → exec (.stp r sg base imm) s = .next (goesOn (.stp r sg base imm) s')) ∧
    (∀ op esz, let n := eszBytes esz
      segAcc c (myCore s) sg (rd s base).toNat n n [rightW, rightA] = .ok loc →
      enters (.red sg base r op esz) [(loc, ⟨.red op, n, (rd s r).setWidth 512, 0⟩)] →
      Passes (.red sg base r op esz) s →
      exec (.red sg base r op esz) s = .next (goesOn (.red sg base r op esz) s')) ∧
    (∀ v imm, segAcc c (myCore s) sg (offOf s base 10 imm.toNat 64) 64 64 [rightW] = .ok loc →
      (vecParts loc (src s).v[v]).all (fun x => x.1.isOwn c) = false →
      enters (.vst v sg base imm) (vecParts loc (src s).v[v]) → Passes (.vst v sg base imm) s →
      exec (.vst v sg base imm) s = .next (goesOn (.vst v sg base imm) s')) ∧
    (∀ v vi esz parts, let n := eszBytes esz
      elemParts c (myCore s) sg n ((upto (64 / n)).map fun e =>
        (elemOff s base vi n e, laneAt (src s).v[v] n e)) = (parts, none) →
      parts.all (fun x => x.1.isOwn c) = false →
      enters (.vsts v sg base vi esz) parts → Passes (.vsts v sg base vi esz) s →
      exec (.vsts v sg base vi esz) s = .next (goesOn (.vsts v sg base vi esz) s'))

/-- 08 R210; 06 R135: amo, cas and vldg whose translations are at hand leave for their places, and the fibre parks. -/
def Obligations.FarAtomicsAndGathers : Prop :=
  ∀ (s s' : State) (d : Reg) (sg : Fin 8) (base b b2 : Reg) (loc : Loc) (ps : List Piece), let c := s.issue.core
    loc.isOwn c = false → inHandler s = false →
    (∀ op esz, let n := eszBytes esz
      let acc : Acc1 := ⟨.amo op, n, (rd s b).setWidth 512, 0⟩
      segAcc c (myCore s) sg (rd s base).toNat n n [rightR, rightW, rightA] = .ok loc →
      plan (dropRow s c loc n) c s.issue.slot [⟨0, loc, acc, none⟩] = (s', ps, none) →
      Passes (.amo d sg base b op esz) s → exec (.amo d sg base b op esz) s = .next
        (goesOn (.amo d sg base b op esz) (sentOff (.amo d sg base b op esz) s' (.reg d n true) n false ps))) ∧
    (let acc : Acc1 := ⟨.cas, 8, (rd s b2).setWidth 512, rd s b⟩
     segAcc c (myCore s) sg (rd s base).toNat 8 8 [rightR, rightW, rightA] = .ok loc →
      plan (dropRow s c loc 8) c s.issue.slot [⟨0, loc, acc, none⟩] = (s', ps, none) →
      Passes (.cas d sg base b b2) s → exec (.cas d sg base b b2) s = .next
        (goesOn (.cas d sg base b b2) (sentOff (.cas d sg base b b2) s' (.reg d 8 false) 8 false ps))) ∧
    (∀ v vi esz, let n := eszBytes esz
      let r := readPieces s c s.issue.slot (myCore s) sg n
        ((upto (64 / n)).map fun e => (n * e, elemOff s base vi n e))
      plan r.1 c s.issue.slot r.2 = (s', ps, none) → inHandler r.1 = false → r.1.issue = s.issue →
      Passes (.vldg v sg base vi esz) s → exec (.vldg v sg base vi esz) s = .next
        (goesOn (.vldg v sg base vi esz) (sentOff (.vldg v sg base vi esz) s' (.vec v) 64 false ps)))

/-- 08 R206-R208: a full/empty operation on a word of the own tile whose state it waits for, and that no reservation
holds back, is performed: ldf and ldfe write their register and p7, stfw p7, and the waiters of the word are served.
What the operation leaves in the word is said by FullEmptyEffects; stf and fest stand in FullEmptyStores. That an
acquire at .sys or .dom that the core performs in its pipeline finds the queued snoops applied is the model's choice
(log 20). -/
def Obligations.FullEmptyOwn : Prop :=
  ∀ (s u : State) (r : Reg) (sg : Fin 8) (base : Reg) (sc : Scope) (imm : BitVec 7) (o v : Nat),
    let c := s.issue.core
    let off := offOf s base 7 imm.toNat 8
    rangeBusy c (myCore s) o 8 = false → expired s = false →
    (feLoc c (myCore s) sg off [rightR] = .ok (.tile c o) →
      feLocal s c s.issue.slot (o / 8) ⟨.ldf, 8, 0, 0⟩ = some (u, v) → Passes (.ldf r sg base sc imm) s →
      exec (.ldf r sg base sc imm) s = .next (goesOn (.ldf r sg base sc imm)
        (wrP (wr (if sc = .sys ∨ sc = .dom then snoopAll u else u) r (BitVec.ofNat 64 v)) 7 true))) ∧
    (feLoc c (myCore s) sg off [rightR] = .ok (.tile c o) →
      feLocal s c s.issue.slot (o / 8) ⟨.ldfe, 8, 0, 0⟩ = some (u, v) → Passes (.ldfe r sg base sc imm) s →
      exec (.ldfe r sg base sc imm) s = .next (goesOn (.ldfe r sg base sc imm)
        (wrP (wr (if sc = .sys ∨ sc = .dom then snoopAll u else u) r (BitVec.ofNat 64 v)) 7 true))) ∧
    (feLoc c (myCore s) sg off [rightR, rightW] = .ok (.tile c o) → failureNow s sc = none →
      drained s c s.issue.slot sc = true →
      feLocal s c s.issue.slot (o / 8) ⟨.stfw, 8, (rd s r).setWidth 512, 0⟩ = some (u, v) →
      Passes (.stfw r sg base sc imm) s →
      exec (.stfw r sg base sc imm) s = .next (goesOn (.stfw r sg base sc imm) (wrP u 7 true)))

/-- 08 R207: what a full/empty operation reads and leaves. -/
def Obligations.FullEmptyEffects : Prop :=
  ∀ (s : State) (c w producer : Nat) (d : W512), let t := (getCore s c).tile
    let old := Mem.rdN t.mem (8 * w) 8
    let read := fun (op : AccOp) => (fePerform s c w ⟨op, 8, d, 0⟩ producer).2.1
    let after := fun (op : AccOp) => (getCore (fePerform s c w ⟨op, 8, d, 0⟩ producer).1 c).tile
    read .ldf = old ∧ read .ldfe = old ∧ after .ldf = t ∧
    isFull (after .ldfe) w = false ∧ (after .ldfe).mem = t.mem ∧
    isFull (after .stf) w = true ∧ isFull (after .stfw) w = true ∧
    Mem.rdN (after .stf).mem (8 * w) 8 = d.toNat % 2 ^ 64 ∧
    Mem.rdN (after .stfw).mem (8 * w) 8 = d.toNat % 2 ^ 64 ∧
    (∀ full, isFull (after (.fest full)) w = full) ∧
    (∀ full, (after (.fest full)).mem = t.mem)

/-- 13 R335, R336, R341; 07 R164; 08 R175: a decode table and a table descriptor that lie in the own tile are loaded at
once. Where each segment of a core has KIND 2 or 3 or LIMIT 0, as residency (07 R164) and segld (13 R339) leave those of
a dense core, which has no tile, no access of a word comes to a tile; only a write through the inspection window (16
R393) can give a dense core another segment. -/
def Obligations.OwnTileBlocks : Prop :=
  ∀ (s : State) (r : Reg) (sg : Fin 8) (base : Reg) (o : Nat), let c := s.issue.core
    ((∀ j : Fin 8, 2 ≤ segKind (myCore s).segs[j] ∨ segLimit (myCore s).segs[j] = 0) →
      ∀ off n align rights d p, 0 < n → segAcc c (myCore s) sg off n align rights ≠ .ok (.tile d p)) ∧
    (∀ imm, segAcc c (myCore s) sg (offOf s base 7 imm.toNat 8) 512 64 [rightR] = .ok (.tile c o) →
      rangeBusy c (myCore s) o 512 = false → Passes (.dtld sg base imm) s →
      exec (.dtld sg base imm) s = .next (goesOn (.dtld sg base imm)
        (loadDtab s c (Mem.rdN (myCore s).tile.mem o 512) (.tile c o)))) ∧
    (∀ imm k ok, segAcc c (myCore s) sg (offOf s base 7 imm.toNat 8) 32 32 [rightR] = .ok (.tile c o) →
      rangeBusy c (myCore s) o 32 = false →
      loadSlot (myCore s) ((rd s r).toNat % 16) (Mem.rdN (myCore s).tile.mem o 32) (.tile c o) = some (k, ok) →
      Passes (.tbld r sg base imm) s →
      exec (.tbld r sg base imm) s = .next (goesOn (.tbld r sg base imm) (wrP (setCore s c k) 7 ok)))

/-- 08 R207, R208, R201, R204: the store and far forms of the full/empty words, a release store and a half-byte store
that leave the own tile: with nothing outstanding at the scope the word is performed or sent; under a limit of 0
(07 R160) the withdrawal of a waiting one follows at once. -/
def Obligations.FullEmptyStores : Prop :=
  ∀ (s s' : State) (r : Reg) (sg : Fin 8) (base : Reg) (sc : Scope) (imm : BitVec 7) (loc : Loc) (o : Nat)
    (ps : List Piece), let c := s.issue.core
    let off := offOf s base 7 imm.toNat 8
    let data : W512 := (rd s r).setWidth 512
    let quiet := failureNow s sc = none ∧ drained s c s.issue.slot sc = true
    let enters := fun (i : Instr) (l : Loc) (acc : Acc1) =>
      l.isOwn c = false ∧ inHandler s = false ∧ canTake s (.storeBuffer (partUnits [(l, acc)])) = true ∧
        storeFault s c s.issue.slot [(l, acc)] = none ∧
        sbResolve (sbEnter s (issuer s i) [(l, acc)]).2 c s.issue.slot
          (sbGroup (getCore (sbEnter s (issuer s i) [(l, acc)]).2 c) s.net.next) = (s', none)
    let asks := fun (op : AccOp) (d : W512) =>
      loc.isOwn c = false ∧ inHandler s = false ∧ canTake s .feSlot = true ∧
        plan (startTimer (modQ s c fun q => { q with feSlot := some s.issue.slot })) c s.issue.slot
          [⟨0, loc, ⟨op, 8, d, 0⟩, none⟩] = (s', ps, none)
    let limited := fun (t : State) => if noLimit s = true then withdrawFe t c s.issue.slot s.net.next else t
    (feLoc c (myCore s) sg off [rightW] = .ok (.tile c o) → rangeBusy c (myCore s) o 8 = false → quiet →
      Passes (.stf r sg base sc imm) s → ∀ u v ch, fePerform s c (o / 8) ⟨.stf, 8, data, 0⟩ c = (u, v, ch) →
      exec (.stf r sg base sc imm) s = .next (goesOn (.stf r sg base sc imm) (feAfter u c (o / 8) ch))) ∧
    (∀ full, feLoc c (myCore s) sg off [rightW] = .ok (.tile c o) → rangeBusy c (myCore s) o 8 = false → quiet →
      Passes (.fest full sg base sc imm) s → ∀ u v ch, fePerform s c (o / 8) ⟨.fest full, 8, 0, 0⟩ c = (u, v, ch) →
      exec (.fest full sg base sc imm) s = .next (goesOn (.fest full sg base sc imm) (feAfter u c (o / 8) ch))) ∧
    (feLoc c (myCore s) sg off [rightW] = .ok loc → quiet →
      enters (.stf r sg base sc imm) loc ⟨.stf, 8, data, 0⟩ → Passes (.stf r sg base sc imm) s →
      exec (.stf r sg base sc imm) s = .next (goesOn (.stf r sg base sc imm) s')) ∧
    (∀ full, feLoc c (myCore s) sg off [rightW] = .ok loc → quiet →
      enters (.fest full sg base sc imm) loc ⟨.fest full, 8, 0, 0⟩ → Passes (.fest full sg base sc imm) s →
      exec (.fest full sg base sc imm) s = .next (goesOn (.fest full sg base sc imm) s')) ∧
    (feLoc c (myCore s) sg off [rightR] = .ok loc → asks .ldf 0 → Passes (.ldf r sg base sc imm) s →
      exec (.ldf r sg base sc imm) s = .next (goesOn (.ldf r sg base sc imm)
        (limited (sentOff (.ldf r sg base sc imm) s' (.fe (some r)) 8 (sc == .sys || sc == .dom) ps)))) ∧
    (feLoc c (myCore s) sg off [rightR] = .ok loc → asks .ldfe 0 → Passes (.ldfe r sg base sc imm) s →
      exec (.ldfe r sg base sc imm) s = .next (goesOn (.ldfe r sg base sc imm)
        (limited (sentOff (.ldfe r sg base sc imm) s' (.fe (some r)) 8 (sc == .sys || sc == .dom) ps)))) ∧
    (feLoc c (myCore s) sg off [rightR, rightW] = .ok loc → quiet → asks .stfw data →
      Passes (.stfw r sg base sc imm) s → exec (.stfw r sg base sc imm) s = .next (goesOn (.stfw r sg base sc imm)
        (limited (sentOff (.stfw r sg base sc imm) s' (.fe none) 8 false ps)))) ∧
    (∀ sz i4, let n := szBytes sz
      segAcc c (myCore s) sg (offOf s base 4 i4.toNat n) n n [rightW] = .ok loc → quiet →
      enters (.stRel r sg base sz sc i4) loc (storeAcc n (rd s r).toNat) → Passes (.stRel r sg base sz sc i4) s →
      exec (.stRel r sg base sz sc i4) s = .next (goesOn (.stRel r sg base sz sc i4) s')) ∧
    (∀ hi, segAcc c (myCore s) sg (offOf s base 7 imm.toNat 1) 1 1 [rightW] = .ok loc →
      enters (.st4 r sg base hi imm) loc ⟨.nibble hi, 1, data, 0⟩ → Passes (.st4 r sg base hi imm) s →
      exec (.st4 r sg base hi imm) s = .next (goesOn (.st4 r sg base hi imm) s'))

/-- 08 R214, R215, R205: a fence with nothing outstanding at its scope goes on, or raises the failure of a write that
it covers; with something outstanding its fibre parks with reason 1; pf goes on
whatever it meets and changes no register and no byte. -/
def Obligations.FenceAndPrefetch : Prop :=
  ∀ (s : State) (sc : Scope), let c := s.issue.core
    (Passes (.fence sc) s → failureNow s sc = none → drained s c s.issue.slot sc = true →
      exec (.fence sc) s = .next (goesOn (.fence sc) s)) ∧
    (Passes (.fence sc) s → drained s c s.issue.slot sc = false → inHandler s = false →
      exec (.fence sc) s = .next (goesOn (.fence sc)
        (parkFib s c s.issue.slot .reply (drainWait s (.fence sc) sc .nothing)))) ∧
    (∀ x, Passes (.fence sc) s → drained s c s.issue.slot sc = true → failureNow s sc = some x →
      exec (.fence sc) s = .next (stops (faultHere (dropFailure s c s.issue.slot x) (.fence sc) x.1 .physical x.2.1).1)) ∧
    (∀ sg base sz imm, Passes (.pf sg base sz imm) s →
      ∃ t, exec (.pf sg base sz imm) s = .next (goesOn (.pf sg base sz imm) t) ∧ SameMemory s t ∧ SameTiles s t ∧
        ∀ d sl, getFib t d sl = getFib s d sl)

/-- 05 R118-R120; 13 R333, R334: madv, brank and fwalk whose bytes are at hand write their registers; with a read that
has to leave the core, the fibre parks with reason 1. -/
def Obligations.IndexWords : Prop :=
  ∀ (s u v s' : State) (d a b : Reg) (p q : Piece) (ps : List Piece), let c := s.issue.core
    let sl := s.issue.slot
    (∀ peq plt esz la lb, let n := eszBytes esz
      segAcc c (myCore s) 0 (rd s a).toNat n n [rightR] = .ok la →
      segAcc c (myCore s) 0 (rd s b).toNat n n [rightR] = .ok lb →
      readPiece s c sl la n 0 = (u, p) → readPiece u c sl lb n 8 = (v, q) → piecesBusy s c [p, q] = none →
      v.issue = s.issue → Passes (.madv d a b peq plt esz) s →
      (allVal [p, q] = true → exec (.madv d a b peq plt esz) s = .next (goesOn (.madv d a b peq plt esz)
        (modMe v fun f => madvApply f d a b peq plt n (Mem.rdN (pieceBytes [p, q]) 0 n)
          (Mem.rdN (pieceBytes [p, q]) 8 n) (rd s a) (rd s b)))) ∧
      (allVal [p, q] = false → inHandler s = false → plan v c sl [p, q] = (s', ps, none) →
        exec (.madv d a b peq plt esz) s = .next (goesOn (.madv d a b peq plt esz)
          (sentOff (.madv d a b peq plt esz) s' (.madv d a b peq plt n) 16 false ps)))) ∧
    (∀ pd loc, segAcc c (myCore s) 0 ((rd s a).toNat / 64 * 64) 64 64 [rightR] = .ok loc →
      readPiece s c sl loc 64 0 = (u, p) → piecesBusy s c [p] = none → u.issue = s.issue →
      Passes (.brank d a b pd) s →
      let j := (rd s b).toNat % 2 ^ 9
      (allVal [p] = true → exec (.brank d a b pd) s = .next (goesOn (.brank d a b pd)
        (modMe u fun f => brankApply f d pd j (Mem.rdN (pieceBytes [p]) 0 64)))) ∧
      (allVal [p] = false → inHandler s = false → plan u c sl [p] = (s', ps, none) →
        exec (.brank d a b pd) s = .next (goesOn (.brank d a b pd)
          (sentOff (.brank d a b pd) s' (.brank d pd j) 64 false ps)))) ∧
    (∀ loc rec, segAcc c (myCore s) 0 (rd s a).toNat 32 32 [rightR] = .ok loc →
      readPiece s c sl loc 32 0 = (u, p) → piecesBusy s c [p] = none → u.issue = s.issue →
      Passes (.fwalk d a b) s →
      ((∀ v, p.tgt ≠ some (.val v)) → inHandler s = false → plan u c sl [p] = (s', ps, none) →
        exec (.fwalk d a b) s = .next (goesOn (.fwalk d a b)
          (sentOff (.fwalk d a b) s' (.fwalkRec d (rd s a).toNat (rd s b)) 32 false ps))) ∧
      (p.tgt = some (.val rec) →
      (∀ lo hi, levelStep rec.toNat (rd s b).toNat = .range lo hi →
        exec (.fwalk d a b) s = .next (goesOn (.fwalk d a b) (modMe u fun f => fwalkApply f d (lo, hi)))) ∧
      (∀ sg kind p0 p1 offs qs, levelStep rec.toNat (rd s b).toNat = .reads sg kind p0 p1 offs →
        levelPieces u c sl sg offs = (v, qs) → (if inHandler u = true then handlerError c qs else headError qs) = none →
        piecesBusy u c qs = none → v.issue = s.issue →
        (allVal qs = true → exec (.fwalk d a b) s = .next (goesOn (.fwalk d a b)
          (modMe v fun f => fwalkApply f d (levelRange (pieceBytes qs) kind p0 p1)))) ∧
        (allVal qs = false → inHandler s = false → plan v c sl qs = (s', ps, none) →
          exec (.fwalk d a b) s = .next (goesOn (.fwalk d a b)
            (sentOff (.fwalk d a b) s' (.fwalk d kind p0 p1) (8 * offs.length) false ps))))))

/-- 05 R119; 13 R333: a level step on a record laid out as KIND +0, SG +1, N +8, ARR +16, CNT +24: kind 1 gives the n
children of b, kind 4 the one child b; kinds 2 and 5 read the dwords b and b + 1 of ARR through SG, which are the range;
kind 3 ranks the positions b × n and b × n + n, whose reads log 48 names; a misaligned array is ALIGN, and a kind that
the record table lacks FORMAT_RECORD. -/
def Obligations.LevelSteps : Prop :=
  ∀ (n b arr cnt : Nat) (sg : Fin 8), n < 2 ^ 64 → b < 2 ^ 64 → arr < 2 ^ 64 → cnt < 2 ^ 64 →
    levelStep (1 + n * 2 ^ 64) b = .range (b * n % 2 ^ 64) ((b * n + n) % 2 ^ 64) ∧
    levelStep 4 b = .range b ((b + 1) % 2 ^ 64) ∧
    (∀ k, k = 2 ∨ k = 5 → let rec_ := k + sg.val * 2 ^ 8 + arr * 2 ^ 128
      (arr % 8 ≠ 0 → levelStep rec_ b = .bad .align) ∧
      (arr % 8 = 0 → levelStep rec_ b
        = .reads sg k 0 0 [(arr + 8 * b) % 2 ^ 64, (arr + 8 * b + 8) % 2 ^ 64]) ∧
      ∀ m, levelRange m k 0 0 = (Mem.rdN m 0 8, Mem.rdN m 8 8)) ∧
    (let rec_ := 3 + sg.val * 2 ^ 8 + n * 2 ^ 64 + arr * 2 ^ 128 + cnt * 2 ^ 192
     let p0 := b * n % 2 ^ 64
     let p1 := (b * n + n) % 2 ^ 64
     (arr % 64 ≠ 0 ∨ cnt % 8 ≠ 0 → levelStep rec_ b = .bad .align) ∧
     (arr % 64 = 0 → cnt % 8 = 0 →
       levelStep rec_ b = .reads sg 3 p0 p1 (rankOffs arr cnt p0 ++ rankOffs arr cnt p1))) ∧
    (∀ k, (k = 0 ∨ 5 < k) → k < 256 → levelStep (k + n * 2 ^ 64) b = .bad .formatRecord)

/-- 11 R271-R274: aq.push and aq.list with room, their bytes or translations at hand, append their reads in order,
the list being read from the own tile or, on a dense core, the scratchpad; dq.pop with its heads READY writes them,
the first to Rd, and frees them. That the list of a dense core lies at the scratchpad bank is the model's choice (log
10). -/
def Obligations.AccessQueues : Prop :=
  ∀ (s s' : State) (d : Reg) (sg : Fin 8) (base : Reg) (sz : Size) (x : Bool) (imm : BitVec 7), let c := s.issue.core
    let sl := s.issue.slot
    let n := szBytes sz
    let off := offOf s base 7 imm.toNat n
    (∀ loc, off % n = 0 → dqRoom s 1 = true → segAcc c (myCore s) sg off n n [rightR] = .ok loc →
      dqChecks s c sl n [.ok loc] = (s', .ok []) → (loc.isOwn c && rangeBusy c (myCore s) loc.tileOff n) = false →
      Passes (.aqPush sg base sz x imm) s →
      exec (.aqPush sg base sz x imm) s = .next (goesOn (.aqPush sg base sz x imm)
        (dropHeld (dqSend s' (issuer s' (.aqPush sg base sz x imm)) loc n x) c sl))) ∧
    (∀ m o, listDwords s c sl (.tile c o) m
      = (s, (upto m).map fun j => Mem.rdN (myCore s).tile.mem (o + 8 * j) 8)) ∧
    (∀ (list : Loc) (u : State) (vs : List Nat) (locs : List Loc), let m := (rd s d).toNat / 2 ^ 16 % 16 + 1
      segAcc c (myCore s) 0 ((rd s d).toNat % 2 ^ 16) (8 * m) 8 [rightR] = .ok list →
      (list.isOwn c && rangeBusy c (myCore s) list.tileOff (8 * m)) = false → dqRoom s m = true →
      listWaits s c sl list m = [] → listDwords s c sl list m = (u, vs) → u.issue = s.issue →
      offOf u base 7 imm.toNat n = off →
      (vs.map fun v => segAcc c (myCore u) sg ((off + v * n) % 2 ^ 64) n n [rightR]) = locs.map .ok →
      dqChecks u c sl n (locs.map .ok) = (s', .ok []) →
      (∀ l ∈ locs, (l.isOwn c && rangeBusy c (myCore u) l.tileOff n) = false) →
      Passes (.aqList d sg base sz x imm) s →
      exec (.aqList d sg base sz x imm) s = .next (goesOn (.aqList d sg base sz x imm)
        (dropHeld (locs.foldl (fun t l => dqSend t (issuer s' (.aqList d sg base sz x imm)) l n x) s') c sl))) ∧
    (∀ e es, (me s).sch.dq = e :: es → (∃ v k, nget (myCore s).q.pool e = some k ∧ k.st = .ready v) →
      Passes (.dqPop d false) s → exec (.dqPop d false) s = .next (goesOn (.dqPop d false)
        (wr (dqFree s c sl 1) d (dqOut (myCore s) e)))) ∧
    (∀ e e' es, (me s).sch.dq = e :: e' :: es → (∃ v k, nget (myCore s).q.pool e = some k ∧ k.st = .ready v) →
      (∃ v k, nget (myCore s).q.pool e' = some k ∧ k.st = .ready v) → Passes (.dqPop d true) s →
      exec (.dqPop d true) s = .next (goesOn (.dqPop d true)
        (wr (wr (dqFree s c sl 2) d (dqOut (myCore s) e)) (succReg d) (dqOut (myCore s) e')))) ∧
    ((me s).sch.dq = [] → ∀ two, Passes (.dqPop d two) s →
      exec (.dqPop d two) s = .next (stops (faultHere s (.dqPop d two) .queueUnderflow .none 0).1))

/-- 11 R277; 02 R26: spawn puts a new READY fibre into the lowest free slot and returns its fid; without a free slot it
returns -1, on a dense core -2. -/
def Obligations.Spawn : Prop :=
  ∀ (s : State) (f : Fibre) (d a : Reg) (imm : BitVec 13), Standing s f → s.issue.snap = none →
    Passes (.spawn d a imm) s → let c := s.issue.core
    (kindOf c = .dense → exec (.spawn d a imm) s = .next (goesOn (.spawn d a imm) (wr s d (-2)))) ∧
    (kindOf c ≠ .dense → freeSlot (myCore s) (nSlots (kindOf c)) = none →
      exec (.spawn d a imm) s = .next (goesOn (.spawn d a imm) (wr s d (-1)))) ∧
    (∀ slot, kindOf c ≠ .dense → freeSlot (myCore s) (nSlots (kindOf c)) = some slot →
      ∃ t g, exec (.spawn d a imm) s = .next t ∧ getFib t c slot = some g ∧
        g.pc = s.issue.pc + sext 13 imm.toNat * 4 ∧ g.g[0] = rd s a ∧ g.sch.run = .ready ∧ g.preds = 0 ∧
        g.ctl.priv = f.ctl.priv ∧ g.ctl.rm = f.ctl.rm ∧ g.ctl.fz = f.ctl.fz ∧ g.ctl.seed = f.ctl.seed ∧
        g.ctl.flags = 0 ∧ g.ctl.pp = false ∧
        (d.destOk ∧ d ≠ .zr → ∃ h, getFib t c s.issue.slot = some h ∧
          fibReg h d = BitVec.ofNat 64 (cidOf c * 256 + slot)))

/-- 11 R279-R282; 07 R173: send and send.q with the outbound slot and, for send.q, a queue entry ask for an inbox slot,
and the fibre parks with reason 1; wake and migr ask likewise; send.r replies once; hret ends the handler. -/
def Obligations.Messages : Prop :=
  ∀ (s : State) (d a b : Reg) (n : BitVec 2), let c := s.issue.core
    let sl := s.issue.slot
    let t := (rd s a).toNat % 2 ^ 12
    let allowed := hasCrew s t (tidOf (myCore s)) = true ∨ (me s).ctl.priv = true
    let took := modQ s c fun q => { q with sendSlot := some sl }
    (Passes (.send d a b n) s → inHandler s = false → allowed → canTake s .sendSlot = true →
      exec (.send d a b n) s = .next (goesOn (.send d a b n) (parkFib (postMsg took (.send (issuer s (.send d a b n)) t
        (sendWords s b n.toNat) none false false d)) c sl .reply (.msg s.net.next)))) ∧
    (Passes (.sendQ d a b n) s → inHandler s = false → allowed → dqRoom s 1 = true → canTake s .sendSlot = true →
      let e := (lowestFree (myCore s).q.pool (nPool (kindOf c))).getD 0
      exec (.sendQ d a b n) s = .next (goesOn (.sendQ d a b n) (parkFib (postMsg
        (modQ took c fun q => { q with pool := nput q.pool e heldEntry })
        (.send (issuer s (.sendQ d a b n)) t (sendWords s b n.toNat) (some e) false false d)) c sl .reply
        (.msg s.net.next)))) ∧
    (∀ h e t', (myCore s).handler = some h → h.credit = some e → fidCore h.sender = some t' → inHandler s = true →
      h.replied = false → Passes (.sendR d b) s →
      exec (.sendR d b) s = .next (goesOn (.sendR d b) (wr (modCore (postMsg s (.reply c t' e (some (rd s b)))) c
        fun k => { k with handler := some { h with replied := true } }) d 0))) ∧
    (Passes .hret s → inHandler s = true → exec .hret s = .next (goesOn .hret (endHandler s c (some 0)))) ∧
    (Passes .hret s → inHandler s = false →
      exec .hret s = .next (stops (faultHere s .hret .handlerDiscipline .none 0).1)) ∧
    (∀ skip, Passes (.wake d a skip) s → inHandler s = false →
      exec (.wake d a skip) s = .next (goesOn (.wake d a skip)
        (parkFib (postMsg s (.wake (issuer s (.wake d a skip)) ((rd s a).toNat % 2 ^ 22) skip d)) c sl .reply
          (.msg s.net.next)))) ∧
    (Passes (.migr d a) s → (kindOf c ≠ .lookup ∨ hasCrew s t (tidOf (myCore s)) = false) →
      exec (.migr d a) s = .next (goesOn (.migr d a) (wr s d 2))) ∧
    (Passes (.migr d a) s → kindOf c = .lookup → hasCrew s t (tidOf (myCore s)) = true → t = c →
      exec (.migr d a) s = .next (goesOn (.migr d a) (wr s d 3))) ∧
    (∀ u id, Passes (.migr d a) s → kindOf c = .lookup → hasCrew s t (tidOf (myCore s)) = true → t ≠ c →
      (me s).ctl.priv = false → mayLeave s (me s) = true → inHandler s = false →
      migrAsk s (issuer s (.migr d a)) d t = (u, some id) →
      exec (.migr d a) s = .next (goesOn (.migr d a) (parkFib u c sl .reply (.msg id))))

/-- 12 R289, R302, R303: a command that passes its checks, with an entry free, is queued in the lowest free entry,
which rq.try returns; a full FIFO makes rq.try return -1; a control word is applied; a command that fails a check
faults. The kind none and the address 0 of a failed push's record are the model's choice (log 34). -/
def Obligations.EngineWords : Prop :=
  ∀ (s : State) (d : Reg) (n3 : BitVec 3) (n2 : BitVec 2), let c := s.issue.core
    let push := fun (i : Instr) (w : Vector W64 4) (e : Nat) => cmdPush s (issuer s i) w e
    (∀ e, let w := cmdRegs s n3.toNat
      isControl w = false → cmdCheck c (myCore s) w = none → canTake s .fifo = true → freeEntryOf (myCore s) = some e →
      Passes (.rqPush n3) s → exec (.rqPush n3) s = .next (goesOn (.rqPush n3) (push (.rqPush n3) w e))) ∧
    (∀ e, let w := cmdRegs s n2.toNat
      isControl w = false → cmdCheck c (myCore s) w = none → canTake s .fifo = true → freeEntryOf (myCore s) = some e →
      Passes (.rqTry d n2) s → exec (.rqTry d n2) s = .next
        (goesOn (.rqTry d n2) (wr (push (.rqTry d n2) w e) d (BitVec.ofNat 64 e)))) ∧
    (let w := cmdRegs s n2.toNat
     isControl w = false → cmdCheck c (myCore s) w = none → canTake s .fifo = false →
      Passes (.rqTry d n2) s → exec (.rqTry d n2) s = .next (goesOn (.rqTry d n2) (wr s d (-1)))) ∧
    (∀ t, let w := cmdRegs s n3.toNat
      isControl w = true → control s c w = some t → Passes (.rqPush n3) s →
      exec (.rqPush n3) s = .next (goesOn (.rqPush n3) t)) ∧
    (∀ t, let w := cmdRegs s n2.toNat
      isControl w = true → control s c w = some t → Passes (.rqTry d n2) s →
      exec (.rqTry d n2) s = .next (goesOn (.rqTry d n2) (wr t d 8))) ∧
    (∀ code, let w := cmdRegs s n3.toNat
      isControl w = false → cmdCheck c (myCore s) w = some code → Passes (.rqPush n3) s →
      exec (.rqPush n3) s = .next (stops (faultHere s (.rqPush n3) code .none 0).1))

/-- 12 R305, R316, R317; 07 R160: tlaunch starts to read its descriptor; trigger releases and sets its task's trigger;
twait returns the STATUS of a complete task, -2 without the task, -1 under a limit of 0 or when its limit has passed,
and else parks with reason 4. That twait finds the queued snoops applied is the model's choice (log 20), and so is that
a limit which passes while the fibre is on its way back to the word counts there (logs 32, 46). -/
def Obligations.TaskWords : Prop :=
  ∀ (s s' : State) (d a : Reg) (sg : Fin 8) (loc : Loc) (ps : List Piece), let c := s.issue.core
    let tid := (rd s a).toNat % 2 ^ 16
    (segAcc c (myCore s) sg (rd s a).toNat 64 64 [rightR] = .ok loc → inHandler s = false →
      plan s c s.issue.slot (rangePieces s c loc (rd s a).toNat 64) = (s', ps, none) → Passes (.tlaunch d a sg) s →
      exec (.tlaunch d a sg) s = .next (goesOn (.tlaunch d a sg)
        (sentOff (.tlaunch d a sg) s' (.launch d sg (rd s a).toNat 0) 64 false ps))) ∧
    (drained s c s.issue.slot .dev = true → Passes .trigger s →
      exec .trigger s = .next (goesOn .trigger (triggerTask s ((rd s (.g 0)).toNat % 2 ^ 16)))) ∧
    (taskOf s tid = none → Passes (.twait d a) s →
      exec (.twait d a) s = .next (goesOn (.twait d a) (wr s d (-2)))) ∧
    (∀ e t, taskOf s tid = some (e, t) → t.st = .complete → expired s = false → Passes (.twait d a) s →
      exec (.twait d a) s = .next (goesOn (.twait d a) (wr (snoopAll s) d (BitVec.ofNat 64 t.status)))) ∧
    (∀ e t, taskOf s tid = some (e, t) → t.st ≠ .complete → noLimit s = false → inHandler s = false →
      Passes (.twait d a) s → exec (.twait d a) s = .next
        (stops (parkFib (startTimer s) c s.issue.slot .sync (.task tid d)))) ∧
    (∀ e t, taskOf s tid = some (e, t) → (t.st ≠ .complete ∨ expired s = true) → noLimit s = true →
      Passes (.twait d a) s → exec (.twait d a) s = .next (goesOn (.twait d a) (wr s d (-1))))

/-- 13 R339, R342, R343: segld loads a segment value that the resident entry covers, or any well-formed one in system
mode; gkbind takes its image from the own tile, or with Ra[63] set starts to unbind, and parks; ptinv discards at its scope and waits for the walks that it meets. -/
def Obligations.SegmentWords : Prop :=
  ∀ (s : State) (a b : Reg) (k : Fin 8) (sc : Scope) (tag : BitVec 6) (ctx : BitVec 3), let c := s.issue.core
    let v : W128 := rd s (succReg a) ++ rd s a
    let quiet := drained s c s.issue.slot sc = true
    let inv := fun (i : Instr) (kind va asid : Nat) =>
      (∀ t, ptDiscard s c sc kind va asid = (t, []) → exec i s = .next (goesOn i t)) ∧
      (∀ t w ws, ptDiscard s c sc kind va asid = (t, w :: ws) → inHandler s = false →
        exec i s = .next (goesOn i (parkFib t c s.issue.slot .reply (.walks (w :: ws)))))
    (segFormBad v = false → ((me s).ctl.priv = true ∨ segWithin v (myCore s).resSegs[k] = true) →
      Passes (.segld a k) s → exec (.segld a k) s = .next
        (goesOn (.segld a k) (modCore s c fun x => { x with segs := x.segs.set k v }))) ∧
    (segFormBad v = true → Passes (.segld a k) s →
      exec (.segld a k) s = .next (stops (faultHere s (.segld a k) .segKind .none 0).1)) ∧
    (segFormBad v = false → (me s).ctl.priv = false → segWithin v (myCore s).resSegs[k] = false →
      Passes (.segld a k) s →
      exec (.segld a k) s = .next (stops (faultHere s (.segld a k) .segRights .none 0).1)) ∧
    (∀ o, let w := (rd s b).toNat
      (rd s a).getLsbD 63 = false →
      segAcc c (myCore s) (Fin.ofNat 8 (w / 2 ^ 54 % 8)) (rd s a).toNat 512 64 [rightR] = .ok (.tile c o) →
      rangeBusy c (myCore s) o 512 = false → inHandler s = false → Passes (.gkbind a b tag ctx) s →
      exec (.gkbind a b tag ctx) s = .next (goesOn (.gkbind a b tag ctx) (sentOff (.gkbind a b tag ctx) s
        (.gk a tag.toNat ctx.toNat (w / 2 ^ 5 % 2 ^ 22 * 32) (w / 2 ^ 32 % 2 ^ 22 * 32)) 512 false
        (valPieces (.tile c o) 512 (Mem.rdN (myCore s).tile.mem o 512))))) ∧
    ((rd s a).getLsbD 63 = true → inHandler s = false → Passes (.gkbind a b tag ctx) s →
      exec (.gkbind a b tag ctx) s = .next (goesOn (.gkbind a b tag ctx)
        (sentOff (.gkbind a b tag ctx) s (.gkUnbind a tag.toNat) 0 false
          [⟨0, .scratch 0, ⟨.load, 0, 0, 0⟩, some (.val 0)⟩]))) ∧
    (quiet → Passes (.ptinvPage a b sc) s →
      inv (.ptinvPage a b sc) ptPage ((rd s a).toNat % 2 ^ 55) ((rd s b).toNat % 2 ^ 11)) ∧
    (quiet → Passes (.ptinvAsid b sc) s → inv (.ptinvAsid b sc) ptAsid 0 ((rd s b).toNat % 2 ^ 11)) ∧
    (quiet → Passes (.ptinvAll sc) s → inv (.ptinvAll sc) ptAll 0 0)

/-- 14 R351-R353, R356; 07 R160: a wait on a counter that has reached its threshold sets p7, else the fibre parks with
reason 3 and its PC at the word; under a limit of 0, or when its limit has passed, it clears p7 at once; dset and dadd write a done counter, acbind binds and clears an arrival counter; bar
counts its fibre's arrival and parks it with reason 4. That a limit which passes while the fibre is on its way back to
the word counts there (expired) is the model's reading (logs 32, 46); what bar returns at once under a limit of 0 is the model's choice
(log 31). -/
def Obligations.CounterWords : Prop :=
  ∀ (s : State) (k : Fin 8) (imm : BitVec 20) (a d : Reg) (kind : BarKind) (pd : PReg), let c := s.issue.core
    let x := (myCore s).ctr
    let t := threshold s imm
    (reached x.d[k] t = true → expired s = false → Passes (.dwait k imm) s →
      exec (.dwait k imm) s = .next (goesOn (.dwait k imm) (wrP s 7 true))) ∧
    (reached x.d[k] t = false → noLimit s = false → inHandler s = false → Passes (.dwait k imm) s →
      exec (.dwait k imm) s = .next (stops (parkFib (startTimer s) c s.issue.slot .counter (.done k.val t)))) ∧
    ((reached x.d[k] t = false ∨ expired s = true) → noLimit s = true → Passes (.dwait k imm) s →
      exec (.dwait k imm) s = .next (goesOn (.dwait k imm) (wrP s 7 false))) ∧
    (reached x.ac[k] t = true → expired s = false → Passes (.await k imm) s →
      exec (.await k imm) s = .next (goesOn (.await k imm) (wrP s 7 true))) ∧
    (reached x.ac[k] t = false → noLimit s = false → inHandler s = false → Passes (.await k imm) s →
      exec (.await k imm) s = .next (stops (parkFib (startTimer s) c s.issue.slot .counter (.arrival k.val t)))) ∧
    ((reached x.ac[k] t = false ∨ expired s = true) → noLimit s = true → Passes (.await k imm) s →
      exec (.await k imm) s = .next (goesOn (.await k imm) (wrP s 7 false))) ∧
    (Passes (.dset k a) s → exec (.dset k a) s = .next (goesOn (.dset k a)
      (setCore s c { myCore s with ctr := { x with d := x.d.set k ((rd s a).setWidth 32) } }))) ∧
    (Passes (.dadd k a) s → exec (.dadd k a) s = .next (goesOn (.dadd k a)
      (setCore s c { myCore s with ctr := { x with d := x.d.set k (x.d[k] + (rd s a).setWidth 32) } }))) ∧
    (Passes (.acbind k a) s → exec (.acbind k a) s = .next (goesOn (.acbind k a)
      (setCore s c { myCore s with ctr := { x with
        bind := x.bind.set k (if (rd s a).getLsbD 63 = true then none else some ((rd s a).toNat % 2 ^ 12))
        ac := x.ac.set k 0 } }))) ∧
    (failureNow s (barScope kind) = none → drained s c s.issue.slot (barScope kind) = true → inHandler s = false →
      (noLimit s = false ∨ barDone (barArrive s c kind) c kind = true) → Passes (.bar kind d pd) s →
      exec (.bar kind d pd) s = .next (goesOn (.bar kind d pd)
        (parkFib (startTimer (barArrive s c kind)) c s.issue.slot .sync
          (.bar kind d pd (issuer s (.bar kind d pd)))))) ∧
    (failureNow s (barScope kind) = none → drained s c s.issue.slot (barScope kind) = true → inHandler s = false →
      noLimit s = true → barDone (barArrive s c kind) c kind = false → Passes (.bar kind d pd) s →
      let u := modBar (barArrive s c kind) c kind (· - 1)
      exec (.bar kind d pd) s = .next (goesOn (.bar kind d pd)
        (wrP (wr u d (missingWord u c s.issue.slot kind)) pd false)))

/-- 06 R137, R141-R149; 07 R160: mzero clears its accumulator and cursor; mdrain writes a row; mma, mrot and mxch park
with reason 7; fuse, unfuse and rejoin work on the strand's request. A rejoin under a limit of 0 whose line is not high
ends at once: p7 is cleared, the request none and the line low; with its line it is high, and the line wins. That a
limit which passes while the fibre is on its way back to the word counts there is the model's reading (logs 32, 46). -/
def Obligations.MatrixWords : Prop :=
  ∀ (s : State) (acc : Acc), let c := s.issue.core
    let sl := s.issue.slot
    let st := strandAt (myCore s) s.issue.strand
    let raised := modCore s c fun k => modStrand k s.issue.strand fun t => { t with line := true }
    ((myCore s).mx.busy.contains acc.val = false → Passes (.mzero acc) s →
      exec (.mzero acc) s = .next (goesOn (.mzero acc) (modMx s c fun m =>
        { m with acc := accSet m.acc acc.val [], cursor := m.cursor.set acc 0 }))) ∧
    (∀ v f row, (myCore s).mx.busy.contains acc.val = false → Passes (.mdrain acc v f row) s →
      let y := drainVals (myCore s).mx acc.val row.toNat f
      exec (.mdrain acc v f row) s = .next (goesOn (.mdrain acc v f row)
        (modMe s fun x => orFlags (putVecs x v.val y.1) y.2))) ∧
    (∀ va fa fb cnt, inHandler s = false → Passes (.mma acc va fa fb cnt) s →
      exec (.mma acc va fa fb cnt) s = .next (goesOn (.mma acc va fa fb cnt)
        (parkFib s c sl .matrix (.mma acc.val va.val fa fb 0 cnt.toNat false 0)))) ∧
    (∀ cnt, cnt.toNat % (lockGroup s c s.issue.strand).length = 0 → Passes (.mrot cnt) s →
      exec (.mrot cnt) s = .next (goesOn (.mrot cnt) s)) ∧
    (∀ cnt, let h := cnt.toNat % (lockGroup s c s.issue.strand).length
      let r : RingOp := ⟨lockGroup s c s.issue.strand, s.issue.strand, h, none, false⟩
      let u := { s with net := { s.net with
        next := s.net.next + 1, rings := nput s.net.rings s.net.next r } }
      h ≠ 0 → s.issue.follower = false → inHandler s = false → Passes (.mrot cnt) s →
      exec (.mrot cnt) s = .next (goesOn (.mrot cnt)
        (parkFib (if ringFree u r then ringStart u s.net.next r else u) c sl .matrix (.ring s.net.next)))) ∧
    (∀ cnt, cnt.toNat % (lockGroup s c s.issue.strand).length ≠ 0 → s.issue.follower = true → inHandler s = false →
      Passes (.mrot cnt) s → exec (.mrot cnt) s = .next
        (goesOn (.mrot cnt) (parkFib s c sl .matrix (.ring (s.net.next - 1))))) ∧
    (∀ e, s.issue.follower = true → inHandler s = false → Passes (.mxch acc e) s →
      exec (.mxch acc e) s = .next (goesOn (.mxch acc e) (parkFib s c sl .matrix (.ring (s.net.next - 1))))) ∧
    (∀ e, let r : RingOp := ⟨lockGroup s c s.issue.strand, s.issue.strand, 0,
        some (acc.val, BitVec.ofNat 32 (xtabAt s ((c - 4096) / 8) e.toNat)), false⟩
      let u := { s with net := { s.net with
        next := s.net.next + 1, rings := nput s.net.rings s.net.next r } }
      s.issue.follower = false → inHandler s = false → Passes (.mxch acc e) s →
      exec (.mxch acc e) s = .next (goesOn (.mxch acc e)
        (parkFib (if ringFree u r then ringStart u s.net.next r else u) c sl .matrix (.ring s.net.next)))) ∧
    (∀ size, Passes (.fuse size) s → exec (.fuse size) s = .next (goesOn (.fuse size) (modCore s c fun k =>
      modStrand k s.issue.strand fun t => if t.lock then t else { t with fuse := fuseNum size }))) ∧
    (Passes .unfuse s → exec .unfuse s = .next (goesOn .unfuse (modCore s c fun k =>
      modStrand k s.issue.strand fun t => { t with fuse := 0, lock := false, line := false }))) ∧
    ((st.lock = true ∨ st.fuse = 0) → Passes .rejoin s →
      exec .rejoin s = .next (goesOn .rejoin (wrP s 7 true))) ∧
    (st.lock = false → st.fuse ≠ 0 → noLimit s = false → inHandler s = false → Passes .rejoin s →
      exec .rejoin s = .next (stops (parkFib (startTimer raised) c sl .sync (.rejoin s.issue.words)))) ∧
    (st.lock = false → st.fuse ≠ 0 → noLimit s = true →
      (expired s = true ∨ lineHigh raised c s.issue.strand st.fuse = false) → Passes .rejoin s →
      exec .rejoin s = .next (goesOn .rejoin (wrP (modCore s c fun k =>
        modStrand k s.issue.strand fun t => { t with fuse := 0, line := false }) 7 false))) ∧
    (st.lock = false → st.fuse ≠ 0 → noLimit s = true → expired s = false →
      lineHigh raised c s.issue.strand st.fuse = true → inHandler s = false → Passes .rejoin s →
      exec .rejoin s = .next (stops (parkFib (startTimer raised) c sl .sync (.rejoin s.issue.words))))

/-- 12 R290-R292, R295, R296; 13 R332; 16 R398: the next element of a command that is running: a row that lies here
is moved piece by piece, one of another device goes as a packet, one beyond the table stops the command; COPY, FILL
and WALK do their dwords. After an element the engine may look ahead, which starts translations and changes no core,
memory or access (log 1). What the engine looks ahead, the offset and the ADDR of an ENGINE_INDEX fault are the
model's choices (logs 1, 34, 15). -/
def Obligations.EngineElements : Prop :=
  ∀ (u t : State) (c e elem : Nat) (x : Cmd) (qs : List (Part × Option Tgt)) (a b : Loc),
    let s := takeSend u c e
    let k := getCore s c
    let ready := fun code => nextElem u c e code = some (x, elem) ∧ elem < cmdN x.w
    let rb := cmdHalf x.w 2
    let list := cmdHalf x.w 0 + 8 * elem
    let id := tileDword s c list
    let tile := cmdHalf x.w 1 + rb * elem
    let bytes := fun lo n => BitVec.ofNat 512 (tileLoad s c (tile + lo) n)
    let width := 4 * 2 ^ bf x.w[3] 19 1
    let sent := sentElem t c e x elem qs
    let ahead := fun (u : State) places => lookAhead u c e x elem places
    let resolves := fun ps => resolveParts s c e ps = (t, qs, none)
    let src := (x.w[2].toNat + 8 * elem) % 2 ^ 64
    let dst := (x.w[3].toNat + 8 * elem) % 2 ^ 64
    (∀ off, ready cGather → elemRow s c x id = .here off → segCheck c k (cmdSga x.w) off rb [rightR] = .ok a →
      resolves (partsOf a rb a.grain (fun _ n => ⟨.load, n, 0, 0⟩) fun lo => some (tile + lo)) →
      exec (.gather c e) u = .next (ahead sent (rowPlaces c x))) ∧
    (∀ off, ready cScatter → elemRow s c x id = .here off → segCheck c k (cmdSga x.w) off rb [rightW] = .ok a →
      resolves (partsOf a rb a.grain (fun lo n => ⟨.store, n, bytes lo n, 0⟩) fun _ => none) →
      exec (.scatter c e) u = .next (ahead sent (rowPlaces c x))) ∧
    (∀ off, ready cAccum → elemRow s c x id = .here off → off % width = 0 →
      segCheck c k (cmdSga x.w) off rb [rightW, rightA] = .ok a →
      resolves (partsOf a rb width (fun lo n =>
        ⟨.red ((redOpOf (bf x.w[3] 16 3)).getD .add), n, bytes lo n, BitVec.ofNat 64 width⟩) fun _ => none) →
      exec (.accum c e) u = .next (ahead sent (rowPlaces c x))) ∧
    (∀ i code, ((i = .gather c e ∧ code = cGather) ∨ (i = .scatter c e ∧ code = cScatter) ∨
        (i = .accum c e ∧ code = cAccum)) → ready code →
      (∀ dev table soff, elemRow s c x id = .away dev table soff →
        exec i u = .next (ahead (sendRow s c e x elem dev table id soff
          { rowAcc s c x tile 0 (min rb 64) with size := rb, data := 0 } (if code = cGather then some tile else none)
          (if code = cGather then [] else bytesOf rb (tileLoad s c tile rb))) (rowPlaces c x))) ∧
      (elemRow s c x id = .beyond →
        exec i u = .next (ahead (elemFault s c e elem (.engineIndex, .tile, list) list) (rowPlaces c x)))) ∧
    (ready cCopy → segCheck c k (cmdSga x.w) src 8 [rightR] = .ok a →
      segCheck c k (cmdSgb x.w) dst 8 [rightW] = .ok b →
      (a.isOwn c = true →
        resolves [⟨b, ⟨.store, 8, BitVec.ofNat 512 (tileLoad s c a.tileOff 8), 0⟩, none⟩] →
        exec (.copy c e) u = .next (ahead sent (dwordPlaces c x))) ∧
      (a.isOwn c = false → b.isOwn c = true → resolves [⟨a, ⟨.load, 8, 0, 0⟩, some b.tileOff⟩] →
        exec (.copy c e) u = .next (ahead sent (dwordPlaces c x))) ∧
      (a.isOwn c = false → b.isOwn c = false →
        resolves [⟨a, ⟨.load, 8, 0, 0⟩, none⟩, ⟨b, ⟨.store, 8, 0, 0⟩, none⟩] →
        exec (.copy c e) u = .next (ahead (awaitData sent c e elem) (dwordPlaces c x)))) ∧
    (ready cFill → segCheck c k (cmdSga x.w) src 8 [rightW] = .ok a →
      resolves [⟨a, ⟨.store, 8, x.w[3].setWidth 512, 0⟩, none⟩] → exec (.fill c e) u = .next (ahead sent (dwordPlaces c x))) ∧
    (let rec_ := tileLoad s c (cmdHalf x.w 0) 32
     let v := tileDword s c (cmdHalf x.w 1 + 8 * elem)
     ready cWalk →
      (∀ lo hi, levelStep rec_ v = .range lo hi →
        exec (.walk c e) u = .next (ahead (elemDone
          (modCmd (walkWrite s c x elem v lo hi) c e fun y => { y with next := elem + 1 }) c e elem) (walkPlaces c x))) ∧
      (∀ sg kind p0 p1 offs locs, levelStep rec_ v = .reads sg kind p0 p1 offs → walkLocs c k sg offs = .ok locs →
        resolveParts (modCmd s c e fun y => walkKeep y elem kind p0 p1 v) c e
          (((upto locs.length).zip locs).map fun y => ⟨y.2, ⟨.load, 8, 0, 0⟩, some (walkAt elem + 8 * y.1)⟩) =
            (t, qs, none) →
        exec (.walk c e) u = .next (ahead sent (walkPlaces c x)))) ∧
    (∀ w places, let v := ahead w places
      v.cores = w.cores ∧ v.mem = w.mem ∧ v.tasks = w.tasks ∧ v.net.reqs = w.net.reqs ∧ v.net.txns = w.net.txns)

/-- 12 R290, R293, R294, R297-R302; 14 R347, R348, R369; 16 R403, R404: a whole DEDUP and REDUCE; a COLL that sends
its shares and takes its result; RES and ABT of a stopped command; the start of the oldest waiting command, the
retirement of a finished one with its increment, and the stop of one whose element met a fault. The model's choices:
PROG 0 of a COLL that fails and the clash of shares (log 25), the offsets and the ADDR of its faults (logs 34, 15),
and which buffered stores of other fibres a command's start waits for (log 54). -/
def Obligations.EngineCommands : Prop :=
  ∀ (s : State) (c e elem : Nat) (x : Cmd), let k := getCore s c
    let here := nget k.fifo e = some x
    (wholeCmd s c e cDedup = some x →
      let m := dedupBytes ((upto (cmdN x.w)).map fun i => tileDword s c (cmdHalf x.w 0 + 8 * i))
      exec (.dedup c e) s = .next (modCmd (bumpElems
        (writeBlock s c (cmdHalf x.w 1) (16 * cmdN x.w + 8) m) c (cmdN x.w)) c e fun y =>
          { y with sent := true, prog := cmdN x.w, aux := Mem.rdN m (16 * cmdN x.w) 8 })) ∧
    (wholeCmd s c e cReduce = some x → reduceBad s c x = none →
      exec (.reduce c e) s = .next (modCmd (bumpElems s c (cmdN x.w)) c e fun y =>
        { y with sent := true, prog := cmdN x.w, buf := (reduceSums s c x).1, flags := y.flags ||| (reduceSums s c x).2 })) ∧
    (∀ i, wholeCmd s c e cReduce = some x → reduceBad s c x = some i →
      exec (.reduce c e) s = .next (modCmd
        (elemFault s c e i (.engineIndex, .tile, mapOff x i) (mapOff x i)) c e fun y => { y with prog := i })) ∧
    (nextElem s c e cColl = some (x, elem) → collDue s c e = none → let t := takeSend s c e
      (x.back = true → exec (.coll c e) s = .next
        (lookAhead (writeElem t c e x elem (Mem.rd64 x.buf (8 * elem))) c e x elem (dwordPlaces c x))) ∧
      (x.back = false → exec (.coll c e) s = .next
        (lookAhead (collRead t c e x elem) c e x elem (dwordPlaces c x)))) ∧
    (here → cmdCode x.w = cColl → cmdN x.w ≠ 0 → x.st = .running → x.started = true → x.fault = none →
      x.back = false → x.sent = false → x.prog = cmdN x.w + 40 → collWaits s c x = false →
      exec (.coll c e) s = .next (collSend s c e x)) ∧
    (here → resumable x = true → exec (.res c e) s = .next (cmdResume s c e)) ∧
    (here → x.st = .stopped → exec (.abt c e) s = .next (cmdAbort s c e)) ∧
    (startNext k = some (e, x) → startedCount k < 4 → (x.st = .running ∨ (k.frozen = none ∧ k.stopped = false)) →
      (kindOf c = .dense → pushWaits k x = false) →
      exec (.commandStart c) s = .next (modCmd s c e fun y => { y with st := .running, started := true })) ∧
    (let dc : Fin 8 := Fin.ofNat 8 (bf x.w[0] 4 3)
     let inc : W32 := BitVec.ofNat 32 (bf x.w[0] 7 16)
     let raise := fun (t : State) => modCtr t c fun y => { y with d := y.d.set dc (y.d[dc] + inc) }
     let done := fun (t : State) => modCmd t c e fun y => { y with st := .done, started := false, buf := [] }
     here → cmdFinished x = true →
      (cmdCode x.w ≠ cReduce → exec (.commandRetire c e) s = .next (done (raise s))) ∧
      (∀ lo hi, cmdCode x.w = cReduce → x.range = some (lo, hi) →
        exec (.commandRetire c e) s = .next (done (raise (writeBlock s c lo (hi - lo) x.buf))))) ∧
    (∀ m er g3, here → x.fault = some (m, er, g3) → x.st = .running → x.flight = [] →
      entryWalks s c e = false →
      let y : Cmd := { x with
        st := .stopped, started := false, fcode := codeNum er.1, prog := if collReads x then 0 else x.prog,
        performed := if collReads x then [] else x.performed }
      exec (.commandStop c e) s = .next (reportStop (modCmd s c e fun _ => y) c e y er g3)) ∧
    (∀ others when, s.fab.colls.find? (fun y => y.1 == c && y.2.1 == e) = some (c, e, when) → here →
      x.sent = true → x.back = false → x.st = .running →
      let done := { s with fab := { s.fab with colls := s.fab.colls.filter fun y => !(y.1 == c && y.2.1 == e) } }
      (when + fabricLimit ≤ s.time.toNat → exec (.collOutcome c e others) s = .next (if endedCore s c then done
        else elemFault done c e 0 (.fabricTimeout, .none, 0) x.w[2].toNat)) ∧
      (s.time.toNat < when + fabricLimit → anyClash (ownShare x :: others) = false →
      others.length + 1 = (ownShare x).members.length →
      (∀ y ∈ ownShare x :: others, y.rank < (ownShare x).members.length) →
      exec (.collOutcome c e others) s = .next (if endedCore s c then done
        else collServed done c e (ownShare x) (ownShare x :: others))))

/-- 02 R28-R31, R39; 06 R139-R148; 07 R160; 11 R267, R281; 13 R344; 14 R355: a cycle of a sequencer; the end of a
quantum; the end of a wait by TIMEOUT; a handler's start; a row of an mma, the ends of ring operations, a rejoin, a
barrier. The model's choices: a gated cycle issues nothing and counts (log 8), the two half steps of an mma row (log
45), a wait's limit over a reissue (log 32), the end of a wait in a C half (log 46), and a rejoin in a pair (log 33). -/
def Obligations.SequencerEvents : Prop :=
  ∀ (s : State) (c slot : Nat) (f : Fibre), let k := getCore s c
    (gatedNow { s with issue := Issue.blank } c = true → exec (.sequencerCycle c) s =
      .next (bumpEv (bumpEv (wakeCore { s with issue := Issue.blank } c) c 0x100) c 0x102)) ∧
    (gatedNow { s with issue := Issue.blank } c = false → exec (.sequencerCycle c) s =
      .next (openCycle { s with issue := Issue.blank } c)) ∧
    (∀ st, onStrand k st = some (slot, f) → f.sch.run = .running st → 4096 ≤ f.sch.issued → k.frozen = none →
      kindOf c ≠ .dense → slot ≠ handlerSlot →
      exec (.quantumEnd c st) s = .next (if otherReady k slot then
          requeue (leaveStrand (bumpEv s c 0x10D) c slot) c slot
        else modFib s c slot fun f => { f with sch := { f.sch with issued := 0 } })) ∧
    (∀ why, getFib s c slot = some f → f.sch.run = .parked why → k.frozen = none → k.stopped = false →
      (f.sch.late = true ∨ limitPassed s c slot f = true) →
      (∀ w, f.sch.wait = .fullEmpty w →
        exec (.waitTimeout c slot) s = .next (expire (feLeave s c slot w) c slot)) ∧
      (∀ kind d pd who, f.sch.wait = .bar kind d pd who →
        exec (.waitTimeout c slot) s = .next (expireBar s c slot kind d pd)) ∧
      (∀ id, f.sch.wait = .txn id → exec (.waitTimeout c slot) s = .next (withdrawFe s c slot id)) ∧
      ((∃ n thr, f.sch.wait = .done n thr ∨ f.sch.wait = .arrival n thr) ∨ (∃ tid d, f.sch.wait = .task tid d) ∨
          (∃ words, f.sch.wait = .rejoin words) →
        exec (.waitTimeout c slot) s = .next (expire s c slot))) ∧
    (∀ why t lim n thr, f.sch.run = .parked why → f.sch.t0 = some (t, lim) → t + lim ≤ s.time.toNat →
      (f.sch.wait = .done n thr → reached k.ctr.d[Fin.ofNat 8 n] thr = false → limitPassed s c slot f = true) ∧
      (f.sch.wait = .arrival n thr → reached k.ctr.ac[Fin.ofNat 8 n] thr = false → limitPassed s c slot f = true)) ∧
    (∀ n thr, getFib s c slot = some f → f.sch.pass ≠ 0 → (f.sch.wait = .done n thr ∨ f.sch.wait = .arrival n thr) →
      ∃ g, getFib (expire s c slot) c slot = some g ∧ g.pc = f.pc + BitVec.ofNat 64 f.sch.pass ∧
        g.preds = (putP f 7 false).preds ∧ g.sch.run = .ready ∧ g.g = f.g ∧ g.s = f.s) ∧
    (∀ m rest w, k.q.inbox = m :: rest → k.crew = some w → kindOf c = .lookup → k.frozen = none → k.stopped = false →
      k.handler = none → m.engine = none → m.cycle ≤ k.seq.cycle → exec (.handlerStart c) s = .next (grantNext
        (modCore (modQ (putFib s c handlerSlot (handlerFibre w m)) c fun q => { q with inbox := rest }) c fun k =>
          { modStrand k 15 (fun t => { t with occ := some handlerSlot, h0 := 0, h1 := 0 }) with
            handler := some ⟨m.sender, m.credit, false, 0⟩ }) c)) ∧
    (∀ st acc va fa fb n cnt half flags, onStrand k st = some (slot, f) → f.sch.run = .parked .matrix →
      f.sch.wait = .mma acc va fa fb n cnt half flags → turnOf s c st = .step → cycleUsed k = false →
      k.mx.rotating = false → k.mx.busy.contains acc = false →
      (stepK fa = 128 → half = false → exec (.mmaStep c st) s = .next
        (setWait (takeTurn s c st) c slot .matrix (.mma acc va fa fb n cnt true flags))) ∧
      ((stepK fa = 128 → half = true) →
      let y := mmaRow (getCore (takeTurn s c st) c) f (Fin.ofNat 4 acc) va fa fb n
      (cnt ≤ n + 1 → exec (.mmaStep c st) s = .next
        (makeReady (modFib (setCore s c y.1) c slot fun f => orFlags f (flags ||| y.2)) c slot)) ∧
      (n + 1 < cnt → exec (.mmaStep c st) s = .next
        (setWait (setCore s c y.1) c slot .matrix (.mma acc va fa fb (n + 1) cnt false (flags ||| y.2)))))) ∧
    (∀ id r, nget s.net.rings id = some r → r.started = true → r.exch = none →
      exec (.mrotComplete id) s = .next (ringEnd (rotateLatches s r) id r)) ∧
    (∀ id r a e, nget s.net.rings id = some r → r.started = true → r.exch = some (a, e) →
      exec (.mxchComplete id) s = .next (ringEnd (exchangeAccs s r a e) id r)) ∧
    (∀ st pc words, let size := (strandAt k st).fuse
      kindOf c = .dense → size ≠ 0 → lineHigh s c st size = true →
      (groupCores c size).all (fun m => (rejoining s m st).isSome) = true →
      rejoining s ((groupCores c size).headD c) st = some (slot, pc, words) →
      exec (.rejoinLineHigh c st) s = .next ((groupCores c size).foldl (fun s m =>
        joinMember s st (if words = 1 then pc + 4 else pc) m) s)) ∧
    (∀ kind, barDone s c kind = true →
      exec (.barrierComplete c kind) s = .next ((parties s c kind).foldl (fun s x =>
        modBar ((inBarrier x.2 kind).foldl (fun s y => leaveBarrier s x.1 y.1 y.2.1 y.2.2 0 true) s) x.1 kind fun _ => 0)
        { s with shared := { s.shared with
            phases := nmodD s.shared.phases (barInstance s c kind) false (!·)
            bound := s.shared.bound.filter (· != barInstance s c kind) } }))

/-- 02 R22, R23; 08 R182, R199-R209, R453; 11 R275, R283; 13 R326, R327, R344; 16 R412: an answer that has come reaches
its transaction, pool entry, element or line, or is discarded with its task; a store leaves the buffer and is acknowledged; a tile's owner performs the
accesses of other cores and withdraws waiting ones; a translation hits or walks. The model's choices: which stores
keep their order in the buffer (log 16), A and D bits and shared walks (log 17), an acquire at .sys that waits for the
snoops queued at its reply (log 20), and what the dispatcher, which keeps a task's record, does when its writes are
acknowledged (agents 4120 and up; log 22). -/
def Obligations.ReplyEvents : Prop :=
  ∀ (s : State) (c e id : Nat) (r : Req) (a : Answer), let k := getCore s c
    (getReq s id = some r → (∀ c e, r.origin ≠ .store c e) → (∀ c sl va, r.origin ≠ .icache c sl va) →
      (getReq (performPlain s id) id).bind (·.answer) = some a → replyBehind (performPlain s id) id r = false →
      exec (.accessReply id) s = .next (deliver (performPlain s id) id r a)) ∧
    (∀ t off x v st done, getReq s id = some r → r.origin = .txn t off →
      (getReq (performPlain s id) id).bind (·.answer) = some (.ok v st done) → r.who.core ≠ nodeAgent →
      replyBehind (performPlain s id) id r = false →
      replyDropped (performPlain s id) r = false →
      let u := takeReq (readReturns (performPlain s id) id r) id
      let y : Txn := { x with
        left := 0, full := x.full && done,
        got := Mem.wrN x.got off v.toNat (if readsBytes r.acc.op then r.acc.size else 0) }
      let gives := fun (g : Fibre → Fibre) =>
        exec (.accessReply id) s = .next (doneTxn (modTxns u fun m => nput m t y) t y g)
      getTxn u t = some x → x.left = 1 → x.err = none →
      (x.acq = true → u.host.snoops ≠ [] → exec (.accessReply id) s = .next (modTxns (modTxns u fun m => nput m t y)
        fun m => nput m t { y with snoops := u.host.snoops.length })) ∧
      ((x.acq = false ∨ u.host.snoops = []) →
      (∀ d n sx, x.dst = .reg d n sx → gives fun f => putReg f d (extend sx n (Mem.rdN y.got 0 y.size))) ∧
      (∀ d, x.dst = .pair d → gives fun f => putPair f d (Mem.rdN y.got 0 y.size)) ∧
      (∀ w, x.dst = .vec w → gives fun f => { f with v := f.v.set w (BitVec.ofNat 512 (Mem.rdN y.got 0 y.size)) }) ∧
      (∀ d tag ctx lo hi, x.dst = .gk d tag ctx lo hi → let im := BitVec.ofNat 4096 (Mem.rdN y.got 0 y.size)
        exec (.accessReply id) s = .next (doneTxn (gkBind (modTxns u fun m => nput m t y) tag ctx lo hi im) t y
          fun f => putReg f d (BitVec.ofNat 64 (gkValidate im)))))) ∧
    (getReq s id = some r → (∀ c e, r.origin ≠ .store c e) → (∀ c sl va, r.origin ≠ .icache c sl va) →
      ((getReq (performPlain s id) id).bind (·.answer)).isSome = true → replyBehind (performPlain s id) id r = false →
      replyDropped (performPlain s id) r = true →
      exec (.accessReply id) s = .next (dropReply (performPlain s id) id r)) ∧
    (∀ d n, getReq s id = some r → r.origin = .pool c e → forwardTo s c e = some (d, n) →
      ((getReq (performPlain s id) id).bind (·.answer)).isSome = true → replyBehind (performPlain s id) id r = false →
      let t := readReturns (performPlain s id) id r
      exec (.replyForward id) s = .next (freeForward (modReqs
        { t with net := { t.net with answered := t.net.answered.erase id } } fun m =>
          nmod m id fun q => { q with origin := .pool d n }) c e)) ∧
    (∀ src d n v, getReq s id = none → nget s.net.msgs id = some (.reply src c e v) →
      inOrder s id (.reply src c e v) = true → forwardTo s c e = some (d, n) →
      exec (.replyForward id) s = .next (freeForward
        { s with net := { s.net with msgs := nput s.net.msgs id (.reply c d n v) } } c e)) ∧
    (∀ slot va v st b, getReq s id = some r → r.origin = .icache c slot va → let t := performPlain s id
      let fills := fun g => exec (.icacheFill id) s =
        .next (fetchReady (modCore (forgetFill (takeReq t id) c id) c g) c slot)
      (getReq t id).bind (·.answer) = some (.ok v st b) →
      ((getCore t c).caches.missed.contains id = false → fills fun k => linePut k ⟨va / 64, v, r.bits⟩) ∧
      ((getCore t c).caches.missed.contains id = true → fills fun k =>
        { k with caches := { k.caches with once := k.caches.once ++ [(slot, ⟨va / 64, v, r.bits⟩)] } })) ∧
    (∀ (x : SbEntry) p rb st, nget k.q.sb e = some x → x.place = some (p, rb, st) → x.sent = false → k.frozen = none →
      k.q.sb.any (fun y => y.1 < e && !y.2.sent &&
        (y.2.loc.meets y.2.acc.size x.loc x.acc.size || match y.2.place with
          | some (q, _) => q.meets y.2.acc.size p x.acc.size
          | none => false)) = false →
      (sbGroup k x.grp).any (·.2.place.isNone) = false →
      exec (.storeBufferSend c e) s = .next (addReq (modSb s c fun m => nput m e { x with sent := true })
        { who := x.who, origin := .store c e, place := p, acc := x.acc, va := x.loc.va?.1, tag := x.loc.va?.2,
          rbit := rb, stale := st, deferred := false, answer := none })) ∧
    (getReq s id = some r → r.origin = .store c e → c < 4120 → let t := performPlain s id
      let u := fun t => addUnack (modSb (takeReq t id) c fun m => ndel m e) c (whoNow t r).slot (· - sbUnits r.acc)
      (∀ v st b, (getReq t id).bind (·.answer) = some (.ok v st b) → exec (.storeAck id) s = .next (u t)) ∧
      (∀ code, (getReq t id).bind (·.answer) = some (.err code) →
        exec (.storeAck id) s = .next
          (if replyDropped (u t) r then u t else storeFailed (u t) r (whoNow t r) code))) ∧
    (∀ off, reqFree s id = some r → r.place = .tile c off →
      exec (.remoteTileAccess id) s = .next (tileRemote s id r c off)) ∧
    (∀ q off, nget s.net.msgs id = some (.withdraw q) → getReq s q = some r → r.answer = none → r.deferred = true →
      r.place = .tile c off →
      exec (.feWithdrawal id) s = .next (serveWord (answerReq
        (modTile { s with net := { s.net with msgs := ndel s.net.msgs id } } c fun t =>
          { t with waiters := t.waiters.erase (off / 8, .remote q) }) q (.ok 0 0 false)) c (off / 8))) ∧
    (getReq s id = some r → r.origin = .store c e → 4120 ≤ c →
      ((getReq (performPlain s id) id).bind (·.answer)).isSome = true →
      let t := takeReq (performPlain s id) id
      exec (.storeAck id) s = .next (if c = taskAgent then recordDone t r.who.tid else t)) ∧
    (∀ w, nget s.net.walks id = some w → let u := unitOf w.who.core
      let on := fun (t : State) => takeWalkers t (dieOf w.who.core) t.net.walks
      (w.walking = false → w.missed = false → behindLookup s id w = false →
        (xfind (getUnit s u).tlb w.asid w.va = none → exec (.tlbLookup id) s = .next (on
          (modWalk (modUnit s u fun t => { t with misses := t.misses + 1 }) id fun w => { w with missed := true }))) ∧
        (∀ x, xfind (getUnit s u).tlb w.asid w.va = some x →
          let t := tcPut (modUnit s u fun t =>
            { t with hits := t.hits + 1, tlb := (t.tlb.filter fun y => !y.same x) ++ [x] }) w.who.core x
          walkCheck t w x = none → (speculative w || usable x w.write) = true →
          exec (.tlbLookup id) s = .next (walkDone (takeWalk t id) w x))) ∧
      (w.walking = true → w.hit = none →
        (∀ v x, walkTables s w.asid w.va = (v, .ok x) →
          exec (.walkEnd id) s = .next (on (walkLeaf (shareLeaf (takeWalk v id) u x) w x))) ∧
        (∀ v err, walkTables s w.asid w.va = (v, .error err) →
          exec (.walkEnd id) s = .next (on (walkFails v id w err)))) ∧
      (∀ x, w.walking = true → w.hit = some x →
        exec (.walkEnd id) s = .next (on (walkLeaf (takeWalk s id) w x))) ∧
      (∀ t x, walkCheck t w x = none →
        ((speculative w || usable x w.write) = true → walkLeaf t w x = walkDone (installLeaf t w x) w x) ∧
        (∀ v y, (speculative w || usable x w.write) = false → orLeaf t x w.write w.va = (v, .ok y) →
          walkLeaf t w x = walkDone (installLeaf v w y) w y) ∧
        (∀ v err, (speculative w || usable x w.write) = false → orLeaf t x w.write w.va = (v, .error err) →
          walkLeaf t w x = leafFails v w x err)))

/-- 07 R173; 11 R266, R279-R283; 15 R375, R388: an inbox grants a slot, or keeps the sender waiting, or refuses it
when frozen; a granted message and a reply are written; a fibre moves to another core; a wake reaches its target. The
model's choices: a migrated fibre finds the row cache of its new core empty (log 50); a migration whose source is
frozen or stopped waits, and a message that arrives with an engine interrupt in one cycle stands behind it (log 57); a
frozen destination gives its slot as any other (log 30). A queue that would need a 17th forwarding entry is 4 (11
R266). -/
def Obligations.MessageEvents : Prop :=
  ∀ (s : State) (id dest : Nat) (who : Issuer) (words : List W64) (credit : Option Nat) (granted asked : Bool) (d : Reg),
    let k := getCore s dest
    let sends := nget s.net.msgs id = some (.send who dest words credit granted asked d)
    (sends → granted = false → (getCore s who.core).stopped = false →
      (k.frozen = none → asked = false → inboxFree k.q = true → k.q.pending = [] →
        exec (.inboxReservation id) s = .next (modQ (putMsg (takeCredit s who credit) id
          (.send who dest words credit true false d)) dest fun q =>
            { q with inResv := q.inResv + 1, lastGrant := who.core })) ∧
      (k.frozen = none → asked = false → (inboxFree k.q && k.q.pending.isEmpty) = false →
        exec (.inboxReservation id) s = .next (modQ (putMsg s id (.send who dest words credit false true d)) dest fun q =>
          { q with pending := addTo q.pending who.core })) ∧
      (k.frozen.isSome = true → exec (.inboxReservation id) s =
        .next (refuseSend (modQ s dest fun q => { q with pending := q.pending.erase who.core }) id who credit d))) ∧
    (sends → granted = true → let t := modQ s dest fun q => { q with inResv := q.inResv - 1 }
      ((getCore t dest).frozen = none → exec (.messageWrite id) s = .next (codeTo (dropSendSlot
        (modQ (takeMsg t id) dest fun q => { q with
          inbox := q.inbox ++ [⟨words, fidWord who.core who.slot, credit, none, (getCore t dest).seq.cycle + 1⟩] })
          who.core) who d 0)) ∧
      ((getCore t dest).frozen.isSome = true →
        exec (.messageWrite id) s = .next (grantNext (refuseSend t id who credit d) dest))) ∧
    (∀ src e v, nget s.net.msgs id = some (.reply src dest e v) → inOrder s id (.reply src dest e v) = true →
      forwardTo s dest e = none →
      exec (.messageWrite id) s = .next (replyTo (takeMsg s id) dest e v)) ∧
    (∀ f slot u dq, nget s.net.msgs id = some (.reserve who dest d) → inOrder s id (.reserve who dest d) = true →
      getFib s who.core who.slot = some f → freeSlot k (nSlots (kindOf dest)) = some slot →
      let c := who.core
      let full := f.sch.dq ≠ [] ∧
        nPool (kindOf dest) < k.q.pool.length + resHeld k 0 goneSlot + poolDue k + f.sch.dq.length
      let waits := f.sch.dq.filter fun e => match nget (getCore s c).q.pool e with
        | some x => isWaiting x.st
        | none => false
      let stuck := waits ≠ [] ∧ 16 ≤ ((getCore s c).q.fwd.filter (· != [])).length
      let leaves := moveEntries (moveReads (flushFailed s c who.slot) c who.slot dest slot) c dest f.sch.dq = (u, dq) →
        let v := if waits = [] then u else modQ u c fun q => { q with fwd := q.fwd.filter (· != []) ++ [waits] }
        exec (.migrationReserve id) s = .next (putMsg (bindBarriers (bumpEv (disown (delFib
          (modQ v dest fun q => { q with slotResv := addTo q.slotResv slot }) c who.slot) c who.slot) c 0x10E) c) id
          (.migrate who dest slot { putReg f d 0 with sch := { Sched.blank with dq := dq, seen := f.sch.seen } }))
      (((getCore s c).stopped = true ∨ (getCore s c).frozen.isSome = true) → exec (.migrationReserve id) s = .next s) ∧
      ((getCore s c).stopped = false → (getCore s c).frozen = none →
        (full → exec (.migrationReserve id) s = .next (codeTo (takeMsg s id) who d 1)) ∧
        (¬ full → stuck → exec (.migrationReserve id) s = .next (codeTo (takeMsg s id) who d 4)) ∧
        (¬ full → ¬ stuck → k.frozen = none → leaves) ∧
        (¬ full → ¬ stuck → k.frozen.isSome = true → leaves))) ∧
    (∀ f, nget s.net.msgs id = some (.reserve who dest d) → inOrder s id (.reserve who dest d) = true →
      getFib s who.core who.slot = some f →
      freeSlot k (nSlots (kindOf dest)) = none → exec (.migrationReserve id) s = .next (codeTo (takeMsg s id) who d 1)) ∧
    (∀ f slot, nget s.net.msgs id = some (.migrate who dest slot f) →
      inOrder s id (.migrate who dest slot f) = true →
      exec (.migrationArrival id) s = .next (makeReady (freshRows (modQ (putFib (takeMsg s id) dest slot f) dest fun q =>
        { q with slotResv := q.slotResv.erase slot }) dest slot) dest slot)) ∧
    (∀ target skip t code, nget s.net.msgs id = some (.wake who target skip d) →
      inOrder s id (.wake who target skip d) = true → wakeCode (takeMsg s id) target skip = (t, code) →
      exec (.wakeDelivery id) s = .next (codeTo t who d (BitVec.ofNat 64 code)))

/-- 08 R181, R185-R193; 09 R225; 10 R257-R260; 15 R374, R375; 16 R390-R396: accesses at DRAM, at the combining buffer and at a gecko; expiry
of cached rows, promotion, scrub, refresh; the host's snoops and answers, its link, and accesses to device registers.
The model's choices: the frames and codes of the host side, the contents of host lines (logs 29, 4), the snoops
applied for an acquire and the lines that a snoop has taken (log 20). -/
def Obligations.MemoryEvents : Prop :=
  ∀ (s : State) (id a : Nat) (r : Req),
    (reqFree s id = some r → r.place = .dram a → r.tag = none → (∀ op, r.acc.op ≠ .red op) →
      exec (.controllerIssue id) s = .next (issueDram s id r a)) ∧
    (∀ op, reqFree s id = some r → r.place = .dram a → r.tag = none → r.acc.op = .red op →
      exec (.accumulateAccept id) s = .next (acceptRed s id r a)) ∧
    (∀ tag, reqFree s id = some r → r.place = .dram a → r.tag = some tag →
      exec (.geckoToken id) s = .next (token s id r a tag)) ∧
    (∀ atom (x : CbEntry) when, cbEntry s atom = some x → x.oldest = some when →
      exec (.combiningDrain (ctrlOf (32 * atom)) atom) s = .next (drainEntry s atom)) ∧
    (∀ c atom, exec (.rowCacheExpiry c atom) s = .next (modCore s c fun k => { k with caches := { k.caches with
      row := k.caches.row.filter fun e => e.atom != atom || decide (s.time.toNat < e.stamp + staleNs e.cls) } })) ∧
    (∀ chan, exec (.promotionEpoch chan) s = .next (modChan s chan fun k => { k with
      threshold := if 64 < k.promos then min 255 (2 * k.threshold)
        else if k.promos < 16 then max 2 (k.threshold / 2) else k.threshold
      counts := k.counts.filterMap fun x => if x.2 / 2 = 0 then none else some (x.1, x.2 / 2)
      promos := 0 })) ∧
    (∀ atom, s.mem.bad.contains atom = true → let g := ctrlOf (32 * atom)
      (scrubRecord s g = none → exec (.scrub atom) s = .next (appendRec s (g / 1024) (srcCtrl g)
        { code := .scrubError, cls := 3, src := 3, restored := false, akind := .physical, entry := 0, count := 0,
          fid := g, pc := 0, addr := 32 * atom, info := 0, tid := 0 })) ∧
      (∀ p, scrubRecord s g = some p → exec (.scrub atom) s = .next
        (dramAccess s ⟨.store, 1, BitVec.ofNat 512 (min 255 (rdPhys s (p + 3) 1 + 1)), 0⟩ (p + 3) false 0).1)) ∧
    (∀ atom, s.mem.bad.contains atom = false →
      (s.mem.weak.contains atom = true → exec (.scrub atom) s = .next (bumpDev
        (demote { s with mem := { s.mem with weak := s.mem.weak.erase atom } } (32 * atom)) 0x300)) ∧
      (s.mem.weak.contains atom = false → exec (.scrub atom) s = .next s)) ∧
    (∀ chan bank row, exec (.refresh chan bank row) s = .next s) ∧
    (∀ line own, s.host.up = true → s.host.snoops.length < 32 → exec (.hostSnoop line own) s = .next { s with
      host := snoopIn (if writeUnderWay s line then snoopTakes s.host line own else s.host) line own }) ∧
    (exec .snoopApply s = .next (acquiresGoOn { s with host := snoopOne s.host })) ∧
    ((∀ x ∈ s.net.txns, x.2.snoops = 0) → exec .snoopApply s = .next { s with host := snoopOne s.host }) ∧
    (∀ t, s.net.txns = [(id, t)] → t.snoops = 1 → exec .snoopApply s = .next (finishTxn
      { s with host := snoopOne s.host, net := { s.net with txns := [(id, { t with snoops := 0 })] } } id
      { t with snoops := 0 })) ∧
    (∀ cached grantE, getReq s id = some r → r.place = .host a cached → r.deferred = true → r.answer = none →
      s.host.up = true → exec (.hostResponse id grantE none) s = .next (answerReq s id (.err .busError)) ∧
      ∀ line h v, hostAnswer s.host a cached r.acc grantE line = (h, v) →
        exec (.hostResponse id grantE (some line)) s = .next (answerReq
          { s with host := if cached = true ∧ needsWrite r.acc.op = true then giveTaken h (a / 64) else h } id
          (.ok (BitVec.ofNat 512 v) s.time.toNat true))) ∧
    (∃ t, exec .cxlLinkDown s = .next (acquiresFail t) ∧
      t.host = { s.host with lines := [], snoops := [], taken := [], up := false } ∧ t.cores = s.cores ∧
      (∀ r, nget s.net.reqs id = some r → r.answer.isSome = true → acquiring s r = true → s.host.snoops ≠ [] →
        nget t.net.reqs id = some { r with answer := some (.err .busError), deferred := false }) ∧
      (∀ r, nget s.net.reqs id = some r → r.answer = none → (∃ h b, r.place = .host h b) →
        nget t.net.reqs id = some { r with answer := some (.err .busError), deferred := false }) ∧
      ((∀ x ∈ s.net.txns, x.2.snoops = 0) → acquiresFail t = t) ∧
      (∀ x, s.net.txns = [(id, x)] → x.snoops ≠ 0 →
        acquiresFail t = failTxn t id x (.busError, (planLoc x).kind, (planLoc x).addr))) ∧
    (exec .cxlLinkRetrain s = .next { s with host := { s.host with up := true } }) ∧
    (∀ off size wr, (size ≠ 4 ∧ size ≠ 8) → exec (.hostRegisterAccess off size wr) s =
      .next { s with host := toHost s.host 7 off 0 }) ∧
    (∀ off size t v, (size = 4 ∨ size = 8) → (∀ c o, regBlock off ≠ .window c o) →
      (regAccess s off size none false = (t, .ok v) → exec (.hostRegisterAccess off size none) s =
        .next { t with host := toHost t.host 6 off (v.setWidth 512) }) ∧
      (∀ w, regAccess s off size (some w) false = (t, .ok v) →
        exec (.hostRegisterAccess off size (some w)) s = .next t)) ∧
    (∀ off, reqFree s id = some r → r.place = .regs off → r.acc.op = .store →
      exec (.registerWrite id) s = .next (performReg s id r off)) ∧
    (∀ off v, exec (.broadcastWrite off v) s =
      .next (bcastPut s (off % 0x4000 / 8 * 8) v (BitVec.allOnes 64))) ∧
    (∀ c off v, exec (.inspectionAccess c off (some v)) s = .next (windowPut s c off v (BitVec.allOnes 64))) ∧
    (∀ c off, exec (.inspectionAccess c off none) s = .next (sendFrame s (.reply 0 [windowGet s c off])))

/-- 01 R18; 14 R358-R363; 08 R192; 16 R394, R406, R411: TIME counts, once what is due has happened; a window's
allowances; a loop's step down or up; a domain without energy is gated; temperatures cap domains and stop the clocks;
TIME follows the domain's reference. The model's choices: what TIME_TICK waits for (logs 1, 8), elapsed time, demand
and measured energy (log 36), the rate that a beacon steers (log 26), and the lowest id of a domain (log 7). -/
def Obligations.PowerEvents : Prop :=
  ∀ (s : State) (d n : Nat) (temp : Int), let x := getDom s d
    (tickWaits s = true → exec .timeTick s = .next s) ∧
    (tickWaits s = false →
      let u := sendBeacon (sendNotice (upset (lateColls (lateWaits s))))
      exec .timeTick s = .next { u with time := u.time + 1 } ∧
        (s.fab.colls = [] → u.time = s.time ∧ u.tasks = s.tasks ∧ u.doms = s.doms ∧ u.mem.dram = s.mem.dram)) ∧
    (∀ u, (s.gov.win = 0 ∨ windowDue s = true ∧ (upto 18).any (evalDue s) = false) → ∃ t, exec (.governorWindow u) s = .next t ∧
      t.gov.st = govNext s.gov.st ((upto 18).foldl (fun n d => n + demandOf d (getDom s d)) 0 +
        (measured s u + (upto 18).foldl (fun n d => n + (getDom s d).floorUse) 0 + s.gov.extra)) s.gov.inState ∧
      t.gov.win = s.gov.win + 1 ∧ t.gov.start = s.time.toNat ∧
      (spentBy s (upto 18) ≤ govLimit s.gov.st → t.gov.mdraw ≤ govLimit s.gov.st) ∧
      ∀ d, d < 18 → (getDom t d).gated = false ∧ (getDom t d).spend = 0 ∧ (getDom t d).prev = (getDom s d).spend ∧
        (getDom t d).res = (getDom t d).bud ∧ (getDom t d).vfp = (getDom s d).vfp) ∧
    (∀ u, s.gov.win ≠ 0 → (s.time.toNat < s.gov.start + windowNs ∨ (upto 18).any (evalDue s) = true) →
      exec (.governorWindow u) s = .next s) ∧
    (evalDue s d = false → exec (.vfEvaluate d n) s = .next s) ∧
    (d < 18 → evalDue s d = true →
      let e := windowAge s
      let m := max x.spend (min n (spendMax s d))
      let y := { x with spend := m, res := x.bud - m, floorUse := m - x.bud, evalAt := e }
      (y.res = 0 → x.gated = false → exec (.vfEvaluate d n) s = .next (gateDom (modDom s d fun _ => y) d)) ∧
      (y.res ≠ 0 →
        (x.bud * e < m * 50 → x.vfp ≠ 0 → exec (.vfEvaluate d n) s =
          .next (modDom (modDom s d fun _ => y) d fun y => { y with vfp := x.vfp - 1, stepped := true })) ∧
        (5 * (m * 50) < 4 * (x.bud * e) → x.vfp < capOf x → x.gated = false → exec (.vfEvaluate d n) s =
          .next (modDom (modDom s d fun _ => y) d fun y => { y with vfp := x.vfp + 1 })) ∧
        (m * 50 ≤ x.bud * e → 4 * (x.bud * e) ≤ 5 * (m * 50) → exec (.vfEvaluate d n) s =
          .next (modDom (modDom s d fun _ => y) d fun y => y)))) ∧
    (d < 18 → x.res = 0 → x.gated = false → s.gov.win ≠ 0 → exec (.energyExhausted d) s =
      .next (bumpDev (modDom s d fun x => { x with vfp := 0, gated := true, stepped := true }) 0x305)) ∧
    (∀ lanes, exec (.equalisation lanes) s = .next (iter lanes.length (fun _ t => bumpDev t 0x304) s)) ∧
    (n < 8 → exec (.stackTemperatureReport n temp) s = .next ([2 * n, 2 * n + 1].foldl (fun t d =>
      modDom t d fun x => underCap { x with capStack := capAfter temp 95 8 x.capStack }) (setTemp s n temp))) ∧
    (n < 2 → exec (.computeDieTemperature n temp) s = .next ((domsOf n).foldl (fun t d =>
      modDom t d fun x => underCap { x with capDie := capAfter temp 105 0 x.capDie }) (setTemp s (8 + n) temp))) ∧
    (∀ io, temp < 115 * 16 →
      exec (.statusReport io temp) s = .next (sendStatus (setTemp (setTemp s 10 io) 11 temp))) ∧
    (115 * 16 ≤ temp → ∀ i, (i = .thermalTrip temp ∨ ∃ io, i = .statusReport io temp) →
      ∃ t, exec i s = .next t ∧ t.boot.stage = .tripped ∧ t.agenda = [] ∧ t.chaez.acts = [] ∧ t.chaez.stream = none ∧
        t.cores = s.cores ∧ t.mem = s.mem) ∧
    (∀ ref ahead, ref = s.regs.timeRef → ref ≠ s.regs.domid.toNat → exec (.timeBeacon ref ahead) s =
      .next { s with regs := { s.regs with rate := steer ahead } }) ∧
    (∀ ref ahead, ref ≠ s.regs.timeRef → exec (.timeBeacon ref ahead) s = .next s) ∧
    (∀ time, s.boot.stage = .joining → d < 256 → exec (.domainJoin d time) s = .next (startStreams { s with
        time := time
        regs := { s.regs with domid := BitVec.ofNat 8 d, timeRef := lowestMember d } })) ∧
    (nextReference s = some d →
      exec (.referenceLoss d) s = .next { s with regs := { s.regs with timeRef := d, rate := 0 } })

/-- 12 R307-R313; 15 R375, R386-R388: a task is dispatched under the runtime's plan, stopped and saved to make room
for another, and completes when its cores have nothing left; FQGET frees the ring's records. The model's choices: the
runtime's plan is an argument of DISPATCH (log 6), the measured energy one of TASK_COMPLETE (log 37), and what a core
keeps between two tasks (log 59). -/
def Obligations.TaskEvents : Prop :=
  ∀ (s : State) (a : Nat) (t : Task) (plan : Plan) (energy : Nat),
    (∀ vs cs, firstTask s = some (a, t) → t.tid = plan.tid → s.tasks.stopped = false →
      s.tasks.table.any (fun e => halting s e.2) = false → (digestHeld s && replicated t) = false →
      admitted s [] t = true → mapTask s [] t = some (vs, cs) → regionsOk s t cs plan.regions = true →
      exec (.dispatch plan) s = .next (dispatchOn s a t plan vs cs)) ∧
    (taskOf s t.tid = some (a, t) → t.st = .resident → anyCore s t (·.frozen.isSome) = false →
      (halting s t = false → (victims s).contains t.tid = true → exec (.preempt t.tid) s = .next (setStopped s t true)) ∧
      (halting s t = true → drainedTask s t.cores = true → exec (.preempt t.tid) s = .next (saveTask s a t))) ∧
    (taskOf s t.tid = some (a, t) → taskDone s t = true → exec (.taskComplete t.tid energy) s =
      .next (completeTask (dropPhases (t.cores.foldl vacate s) t.tid) a 0 energy)) ∧
    (∀ die v, die < 2 → exec (.fqgetWrite die v) s = .next (setGet s die v))

/-- 14 R367; 15 R381, R382; 16 R394, R397, R406-R410: the control node's frames and actions, the boot ROM and RESET,
and the report of attestation. The model's choices: what RESET keeps (log 27), what END waits for (log 28), the
frames of the node (log 29), and reads of the firmware that meet an uncorrectable atom (log 52). -/
def Obligations.ControlNodeEvents : Prop :=
  ∀ (s : State) (target : CtlTarget) (n m : Nat),
    (∀ data, nodeBusy s = false → exec (.chaezWrite n data) s = .next (nodeFrame s true
      (n / 8 * 8) ((data.take 512).map fun v => ⟨.store, 8, v.setWidth 512, 0⟩))) ∧
    (nodeBusy s = false → exec (.chaezRead n m) s = .next (nodeFrame s false
      (n / 8 * 8) ((upto (min m 512)).map fun _ => ⟨.load, 8, 0, 0⟩))) ∧
    (∀ data, nodeBusy s = true → exec (.chaezWrite n data) s = .next (hold s (.chaezWrite n data)) ∧
      exec (.chaezRead n m) s = .next (hold s (.chaezRead n m)) ∧ exec (.unfence n) s = .next (hold s (.unfence n)) ∧
      exec (.timeref n) s = .next (hold s (.timeref n)) ∧ exec (.release target) s = .next (hold s (.release target)) ∧
      exec (.releaseSkip target) s = .next (hold s (.releaseSkip target)) ∧
      (s.chaez.acts = [] → exec (.endTask target) s = .next (hold s (.endTask target)) ∧
        exec (.digestReset n) s = .next (hold s (.digestReset n)) ∧
        exec (.checkpoint n m) s = .next (hold s (.checkpoint n m)))) ∧
    (nodeBusy s = false → let cs := (targetCores s target).filter fun c => (getCore s c).frozen.isSome
     (cs ≠ [] → exec (.release target) s =
        .next (replyStatus (cs.foldl bindBarriers (cs.foldl (fun s c => releaseCore s false c) s)) 0)) ∧
     (cs ≠ [] → exec (.releaseSkip target) s =
        .next (replyStatus (cs.foldl bindBarriers (cs.foldl (fun s c => releaseCore s true c) s)) 0)) ∧
     (cs = [] → exec (.release target) s = .next (replyStatus s 1) ∧
        exec (.releaseSkip target) s = .next (replyStatus s 1))) ∧
    (∀ a t, nodeBusy s = false → targetTask s target = some (a, t) → t.st ≠ .complete → t.st ≠ .recording →
      let u := if t.st == .resident then t.cores.foldl stopCore s else s
      let i := Instr.endTask (.task t.tid)
      ((t.st == .resident && endBusy u t) = false → exec (.endTask target) s = .next (complete (finishEnd u a t) i 0)) ∧
      ((t.st == .resident && endBusy u t) = true → exec (.endTask target) s = .next (pend u i))) ∧
    (nodeBusy s = false → let i := Instr.digestReset n
      ((digestWaits s || afterCheckpoint s i) = true → exec i s = .next (pend s i)) ∧
      (∀ u v lo hi, (digestWaits s || afterCheckpoint s i) = false → physDword s (n + 8) = (u, some lo) →
        physDword u (n + 16) = (v, some hi) → exec i s = .next (complete (allGeckos v fun g => { g with
          dsum := Vector.replicate 4 0, dkey := BitVec.ofNat 128 (lo.toNat + hi.toNat * 2 ^ 64) }) i 0))) ∧
    (n < 16 → nodeBusy s = false → let u := endFenced s n
      exec (.unfence n) s = .next (replyStatus
        { u with fab := { u.fab with fenced := u.fab.fenced.filter (· != n) } } 0)) ∧
    (n < 256 → nodeBusy s = false →
      exec (.timeref n) s = .next (replyStatus { s with regs := { s.regs with timeRef := n } } 0)) ∧
    (nodeBusy s = false → let stop := fun (t : State) b => { t with tasks := { t.tasks with stopped := b } }
     let resident := s.tasks.table.filter fun e => e.2.st == .resident
     let i := Instr.checkpoint n m
     let turn := resident = [] ∧ afterReset s i = false ∧ afterCheckpoint s i = false
     (turn → s.chaez.stream = none →
        exec i s = .next (pend (streamAt (drainAll (stop s true)) (some [])) i)) ∧
     (∀ ds, turn → s.chaez.stream = some ds → ds.length < chunkCount → exec i s = .next (sendChunk s n m ds)) ∧
     (∀ ds, turn → s.chaez.stream = some ds → chunkCount ≤ ds.length →
        exec i s = .next (complete (stop (sendFinal s n m ds) false) i 0)) ∧
     (¬ turn → (resident.any fun e => anyCore s e.2 (·.frozen.isSome)) = false →
        exec i s = .next (pend (stop s true) i)) ∧
     ((resident.any fun e => anyCore s e.2 (·.frozen.isSome)) = true → exec i s = .next (complete (stop s false) i 1))) ∧
    (∀ chunks, nodeBusy s = false → (s.tasks.table.any fun e => e.2.st == .resident) = false →
      exec (.checkpointRestore chunks) s = .next (sendFrame ((chunks.filter chunkGood).foldl writeChunk s)
        (.reply 0 ((chunks.filter fun x => !chunkGood x).map fun x => BitVec.ofNat 64 x.base)))) ∧
    ((s.boot.stage ≠ .running ∨ nodeBusy s = false) → exec .reset s = .next (replyStatus { State.reset with
      mem := { s.mem with scratch := [] }, boot := { s.boot with stage := .rom, pieces := [] }, time := s.time,
      fresh := s.fresh, agenda := s.agenda, chaez := { State.reset.chaez with out := s.chaez.out } } 0)) ∧
    (∀ piece, s.boot.stage = .recovery → let got := s.boot.pieces ++ piece.take 4096
      (got.length < 0x100 ∨ got.length < 0x100 + bodyLen got → exec (.recovery piece) s =
        .next { s with boot := { s.boot with pieces := got } }) ∧
      (0x100 ≤ got.length → 0x100 + bodyLen got ≤ got.length → exec (.recovery piece) s =
        .next (if imageGood got = true then
            bootFirmware { s with boot := { s.boot with flash := some got, pieces := [] } }
          else { s with boot := { s.boot with pieces := [] } }))) ∧
    (s.boot.stage = .rom → exec .powerOn s =
      .next (if imageGood (firmware s) = true then bootFirmware s
        else { s with boot := { s.boot with stage := .recovery, pieces := [] } })) ∧
    (∀ nonce, exec (.attestNonceWrite nonce) s = .next { s with regs := { s.regs with nonce := nonce } }) ∧
    (∀ v, exec (.attestTidWrite v) s = .next { s with regs := { s.regs with attTid := v } }) ∧
    (∀ t n, report s = (t, .ok n) → exec .attestReportRead s = .next (sendFrame t
      (.reply 0 ((upto 40).map fun j => BitVec.ofNat 64 (fld n (64 * j) 64))))) ∧
    (∀ t code, report s = (t, .error code) →
      exec .attestReportRead s = .next (sendFrame t (.reply (codeNum code) [])))

/-- 16 R397-R402: a row packet is served or, malformed, fences its port; the switch merges reads; a packet for a page
is performed where PEERACC allows it; a request without an answer ends with FABRIC_TIMEOUT after 50 µs. Which packets
fence a port and which are dropped is the model's choice (log 23). -/
def Obligations.FabricEvents : Prop :=
  ∀ (s : State) (id : Nat) (r : Req),
    (∀ p : RowPkt, (portShut s p.port = true → exec (.rowPacket p) s = .next s) ∧
      (portShut s p.port = false →
        ((rowMalformed s p || foreign p.port p.src) = false → exec (.rowPacket p) s = .next (serveRow s p)) ∧
        ((rowMalformed s p || foreign p.port p.src) = true → exec (.rowPacket p) s = .next (fencePort s p.port)))) ∧
    (∀ dev table row soff, reqFree s id = some r → r.answer = none → fabricLate s r = false →
      r.place = .row dev table row soff true → wrongOwner s dev table row = false → nget s.fab.merge id = none →
      (mergeHost s id r = none → s.fab.merge.length < mergeCap → exec (.switchRowPacket id) s =
        .next { s with fab := { s.fab with merge := nput s.fab.merge id (s.time.toNat, []) } }) ∧
      (∀ h, mergeHost s id r = some h → exec (.switchRowPacket id) s = .next (deferReq { s with fab := { s.fab with
        merge := nmod s.fab.merge h fun x => (x.1, x.2 ++ [id]) } } id))) ∧
    (∀ dev table row soff merge, reqFree s id = some r → r.answer = none → fabricLate s r = false →
      r.place = .row dev table row soff merge → wrongOwner s dev table row = true →
      exec (.switchRowPacket id) s = .next (answerMerged s id (.err .fabricProtection))) ∧
    (∀ p acc may, peerAcc p (peerRights s p.src) = (acc, may) →
      (portShut s p.port = true → exec (.peerAccessPacket p) s = .next s) ∧
      (portShut s p.port = false →
        ((peerMalformed p || foreign p.port p.src) = true →
          exec (.peerAccessPacket p) s = .next (fencePort s p.port)) ∧
        ((peerMalformed p || foreign p.port p.src) = false →
          (may = false → exec (.peerAccessPacket p) s =
            .next (answerPacket s p.src p.tag (codeNum .fabricProtection) [])) ∧
          (may = true → placeAt p.pa true = none → exec (.peerAccessPacket p) s =
            .next (answerPacket s p.src p.tag (codeNum .busError) [])) ∧
          (∀ pl, may = true → placeAt p.pa true = some pl →
            let t := newTxn s fabricWho (.packet p.src p.tag) (if readsBytes acc.op then p.size else 0) false
              [⟨0, .va p.pa none, acc, some (.goes pl p.rbit p.stale.toNat 0)⟩]
            exec (.peerAccessPacket p) s = .next (launch t.2 t.1))))) ∧
    (getReq s id = some r → fabricLate s r = true → ∃ t, exec (.fabricTimeout id) s = .next t ∧
      getReq t id = some { r with answer := some (.err .fabricTimeout), deferred := false })

/-! ## The machine -/

/-- 04 R69-R80: words written out bit by bit from the encodings decode to the instructions they stand for; a lone word
has bit 31 set, an A-slot word bit 30. -/
def Obligations.DecodeWords : Prop :=
  decodeTableWord 32 0b11000000000100010100110100000001 = some (.add 1 (.g 2) (.s 3) .h0 .w) ∧
  decodeTableWord 32 0b11100000000000001000001111111111 = some (.addImm 0 (.g 1) (.g 0) (-1)) ∧
  decodeTableWord 32 0b11010000001100010000110010000000 = some (.fadd 3 (.g 2) (.g 3) (.g 4)) ∧
  decodeTableWord 32 0b11011000000000001000100001100000 = some (.vadd 0 1 2 3 false .fp32) ∧
  decodeTableWord 32 0b10001000000100010000011010000101 = some (.ld (.g 4) 2 (.g 1) .w true 5) ∧
  decodeTableWord 32 0b10000000101010000000000000000100 = some (.br 2 true 4) ∧
  decodeTableWord 32 0b11111111100000000000000000000000 = none

/-- 04 R69-R84: decoding the bytes of an encoded word, lone or a half of a pair, gives back the instruction with every
operand, and the bytes that follow it; its bit 31 is L. -/
def Obligations.EncodeDecode : Prop :=
  ∀ (i : Instr) (lone : Bool) (w : Nat) (rest : List Byte), i.wf = true → encode lone i = some w →
    w < 2 ^ 32 ∧ w / 2 ^ 31 = lone.toNat ∧ decodeBytes (wordBytes w ++ rest) = some (i, rest)

/-- 04 R70, R75; 11 R267: a step in which a strand takes its turn runs the words that stand at its fibre's PC: a lone
word is exec of its instruction; of a pair that passes its checks first the C word, and unless it ends the issue then
the A word, on the registers as they stood before the pair. The latch is then empty. What strand 15 may not issue is
HANDLER_DISCIPLINE (15 R385), an illegal word ILLEGAL_ENCODING. The issue latch, through which exec acts for a
strand, is the model's own (log 2). -/
def Obligations.StepRunsWords : Prop :=
  ∀ (s t : State) (c st slot : Nat) (f : Fibre), Turns s t c st slot f →
    (∀ w i, fetchAt (getCore t c) slot f.pc = .word w → fld w 31 1 = 1 → undisciplined t c slot w = false →
      decodeWord w = some i →
      let o := openIssue t c st slot f.pc 1 [i] [] false none
      ∃ v, exec i o = .next v ∧ step s = .next (issueOver o v)) ∧
    (∀ w0 w1 i0 i1, fetchAt (getCore t c) slot f.pc = .word w0 → fetchAt (getCore t c) slot (f.pc + 4) = .word w1 →
      bitAt f.pc 2 = false → fld w0 31 1 = 0 → fld w0 30 1 = 0 → fld w1 31 1 = 0 → fld w1 30 1 = 1 →
      undisciplined t c slot w0 = false → pairCheck (nameIssuer t c st slot f.pc) w0 w1 = none →
      decodeWord w0 = some i0 → decodeWord w1 = some i1 →
      (f.ctl.adone = true → let o := openIssue t c st slot f.pc 2 [i0] [] false none
        ∃ v, exec i0 o = .next v ∧ step s = .next (issueOver o v)) ∧
      (f.ctl.adone = false → let o := openIssue t c st slot f.pc 2 [i0, i1] [] false none
        ∃ v, exec i0 o = .next v ∧ (v.issue.ended = true → step s = .next (issueOver o v)) ∧
          (v.issue.ended = false → ∃ x, exec i1 (armA o v) = .next x ∧
            step s = .next (issueOver o x)))) ∧
    (∀ w, t.issue.live = false → fetchAt (getCore t c) slot f.pc = .word w → fld w 31 1 = 1 →
      (undisciplined t c slot w = true →
        step s = .next (takeFault (takeTurn (dropOnce t c slot) c st) c slot .handlerDiscipline f.pc .none 0 w)) ∧
      (undisciplined t c slot w = false → decodeWord w = none →
        step s = .next (takeFault (takeTurn (dropOnce t c slot) c st) c slot .illegalEncoding f.pc .none 0 w)))

/-- 04 R75: from every state whose issue latch is empty the device goes on: a step answers a next state, never a fault
or a refusal, and leaves no issue half done. The latch, empty between steps, and the outcome noIssuer of a word without
it are the model's own (log 2). -/
def Obligations.EveryStepRuns : Prop :=
  ∀ s : State, s.issue.live = false → ∃ t, step s = .next t ∧ t.issue.live = false

/-- 08 R175: every step keeps DRAM, the scratchpads and the tile memory of every core in their canonical form: addresses
rising, no byte 0 listed. That form is the model's representation of a memory (log 38). -/
def Obligations.MemoryKept : Prop :=
  ∀ s t : State, MemOk s → step s = .next t → MemOk t

/-- 08 R175; 10 R242; 11 R266; 12 R286; 13 R320; 14 R346; 16 R409: what reset leaves: memory reads 0 and is
canonical, no core holds a fibre or a crew, every queue, counter and table is empty, and the boot ROM comes next. The
values of log 3 are the model's choice and are not stated. That memory reads 0 and that its list is empty is the
model's choice (log 38), and so is that the host's link is up (log 65). -/
def Obligations.ResetState : Prop :=
  MemOk State.reset ∧ (∀ a, Mem.rd State.reset.mem.dram a = 0 ∧ Mem.rd State.reset.mem.scratch a = 0) ∧
    (∀ c, let k := getCore State.reset c
      k.fibres = [] ∧ k.crew = none ∧ k.fifo = [] ∧ k.q.pool = [] ∧ k.q.sb = [] ∧ k.q.inbox = [] ∧
        k.ctr.d = Vector.replicate 8 0 ∧ k.tabs.slots = [] ∧ k.trap.timeout = 1000000000 ∧ k.caches.row = []) ∧
    State.reset.host.up = true ∧ State.reset.host.lines = [] ∧ State.reset.regs.domid = 0 ∧ State.reset.time = 0 ∧
    State.reset.tasks.table = [] ∧ State.reset.geckos = [] ∧ (nextStep State.reset).1 = .powerOn

/-- 15 R372-R380; 16 R394; 04 R75: a fault of class park parks its fibre with reason 6, its registers as they were, and its
record is written at PUT, which moves on, and counted in d7 of the die's command cores; while an earlier record of its
source is outstanding it is held. A violation freezes the core, the fibre as it was, and its record waits to go out
as a NOTICE, one at a time, with the count of those dropped. A word that fails a check of 04 R75 takes that fault and
ends its issue; PRIVILEGE is such a check. The model's choices: the notices go one at a time, and the byte of their
count stops at 255 (log 29); the record of a word that fails a check names no address (log 15). -/
def Obligations.FaultsTaken : Prop :=
  ∀ (s : State) (c slot : Nat) (f : Fibre) (code : FCode) (pc : W64) (ak : AKind) (addr info : Nat),
    let t := takeFault s c slot code pc ak addr info
    let r := fibreRec s c slot code pc ak addr info
    let d := dieOf c
    let q := getDie s d
    let a := q.fqbase.toNat + q.put * 32
    let busy := q.srcs.contains (srcFibre c slot)
    (getFib s c slot = some f → codeCls code = 0 → slot ≠ handlerSlot →
      ∃ g, getFib t c slot = some g ∧ g.sch.run = .parked .fault ∧ g.sch.frec = some r ∧ g.pc = f.pc ∧ g.g = f.g ∧
        g.s = f.s ∧ g.v = f.v ∧ g.preds = f.preds ∧ g.ctl = f.ctl) ∧
    ((codeCls code = 0 → slot ≠ handlerSlot) → busy = false →
      (getDie t d).put = (q.put + 1) % 2 ^ 20 ∧ (getDie t d).seq = (q.seq + 1) % 2 ^ 16 ∧
        (getDie t d).srcs = q.srcs ++ [srcFibre c slot] ∧ Mem.rdN t.mem.dram a 32 = recBits r q.seq % 2 ^ 256 ∧
        (∀ x, (x < a ∨ a + 32 ≤ x) → Mem.rd t.mem.dram x = Mem.rd s.mem.dram x) ∧
        (d < 2 → ∀ n, n < 4 →
          (getCore t (4112 + d * 4 + n)).ctr.d[7] = (getCore s (4112 + d * 4 + n)).ctr.d[7] + 1)) ∧
    ((codeCls code = 0 → slot ≠ handlerSlot) → busy = true →
      (getDie t d).held = q.held ++ [(srcFibre c slot, r)] ∧ (getDie t d).put = q.put ∧ t.mem = s.mem) ∧
    (codeCls code ≠ 0 → (getCore s c).frozen = none →
      (getCore t c).frozen = some (.fibre slot false) ∧ getFib t c slot = getFib s c slot ∧
        (busy = false → s.chaez.notices.length < 4096 →
          t.chaez.notices = s.chaez.notices ++ [(d, BitVec.ofNat 256 (recBits r q.seq))])) ∧
    (∀ die n rest, s.chaez.notices = (die, n) :: rest → (sendNotice s).chaez.notices = rest ∧
      (sendNotice s).chaez.out = .notice die n (min s.chaez.dropped 255) :: s.chaez.out) ∧
    (∀ (i : Instr) (bad : FCode), i.opcode.isSome = true → s.issue.live = true → checkWord i s = some bad →
      exec i s = .next { (faultHere s i bad .none 0).1 with
        issue := { (faultHere s i bad .none 0).1.issue with ended := true } }) ∧
    (∀ i : Instr, i.wf = true → inHandler s = false → group i = 12 → (me s).ctl.priv = false →
      (kindOf s.issue.core = .lookup → ∀ n, .s n ∉ regsOf i) → kindOk (kindOf s.issue.core) i = true →
      bitAt (emask (myCore s) s.issue.core false) 12 = true → checkWord i s = some .privilege)
end

