-- ==== Sys2Proof/Laws/Maps.lean ====
section
/-! SUPPORT. Maps, cores and fibres: reading after writing, and that a change of one core or of one fibre leaves the
others alone. -/

namespace Sys2Proof.Machine

/-! ## Maps -/

@[simp] theorem nget_nput_self {α : Type} (m : NMap α) (a : Nat) (v : α) : nget (nput m a v) a = some v := by
  induction m with
  | nil => simp [nput, nget]
  | cons x m ih =>
    obtain ⟨k, w⟩ := x
    simp only [nput]
    split
    · simp [nget]
    · split
      · simp [nget]
      · rename_i h; simp [nget, h, ih]

theorem nget_nput_other {α : Type} (m : NMap α) (a b : Nat) (v : α) (h : b ≠ a) :
    nget (nput m a v) b = nget m b := by
  induction m with
  | nil => simp [nput, nget, h]
  | cons x m ih =>
    obtain ⟨k, w⟩ := x
    simp only [nput]
    split
    · simp [nget, h]
    · split
      · rename_i h1; subst h1; simp [nget, h]
      · simp only [nget, ih]

theorem mem_nput {α : Type} {m : NMap α} {a : Nat} {v : α} {x : Nat × α} (h : x ∈ nput m a v) : x = (a, v) ∨ x ∈ m := by
  induction m with
  | nil => simpa [nput] using h
  | cons y m ih =>
    simp only [nput] at h
    split at h
    · simpa using h
    · split at h
      · rcases List.mem_cons.1 h with h | h
        · exact .inl h
        · exact .inr (List.mem_cons_of_mem _ h)
      · rcases List.mem_cons.1 h with h | h
        · exact .inr (by simp [h])
        · exact (ih h).imp id (List.mem_cons_of_mem _)

theorem mem_of_nget {α : Type} {m : NMap α} {a : Nat} {v : α} (h : nget m a = some v) : ∃ x ∈ m, x.2 = v := by
  induction m with
  | nil => cases h
  | cons y m ih =>
    simp only [nget] at h
    split at h
    · exact ⟨y, by simp, by simpa using h⟩
    · obtain ⟨x, hx, e⟩ := ih h
      exact ⟨x, List.mem_cons_of_mem _ hx, e⟩

@[simp] theorem nput_nput_self {α : Type} (m : NMap α) (a : Nat) (v w : α) : nput (nput m a v) a w = nput m a w := by
  induction m with
  | nil => simp [nput]
  | cons x m ih =>
    obtain ⟨k, u⟩ := x
    by_cases h1 : a < k
    · simp [nput, h1]
    · by_cases h2 : a = k
      · simp [nput, h2]
      · simp [nput, h1, h2, ih]

theorem nget_ndel_other {α : Type} (m : NMap α) (a b : Nat) (h : b ≠ a) : nget (ndel m a) b = nget m b := by
  induction m with
  | nil => rfl
  | cons x m ih =>
    obtain ⟨k, u⟩ := x
    by_cases h2 : a = k
    · subst h2; simp [ndel, nget, h]
    · simp [ndel, nget, h2, ih]

theorem nmod_of_some {α : Type} {m : NMap α} {a : Nat} {v : α} (f : α → α) (h : nget m a = some v) :
    nmod m a f = nput m a (f v) := by
  simp [nmod, h]

theorem nmod_of_none {α : Type} {m : NMap α} {a : Nat} (f : α → α) (h : nget m a = none) : nmod m a f = m := by
  simp [nmod, h]

@[simp] theorem ngetD_nput_self {α : Type} (m : NMap α) (a : Nat) (v d : α) : ngetD (nput m a v) a d = v := by
  simp [ngetD]

theorem ngetD_nput_other {α : Type} (m : NMap α) (a b : Nat) (v d : α) (h : b ≠ a) :
    ngetD (nput m a v) b d = ngetD m b d := by
  simp [ngetD, nget_nput_other m a b v h]

/-! ## Cores -/

@[simp] theorem getCore_setCore_self (s : State) (c : Nat) (k : Core) : getCore (setCore s c k) c = k := by
  simp [getCore, setCore]

theorem getCore_setCore_other (s : State) (c d : Nat) (k : Core) (h : d ≠ c) :
    getCore (setCore s c k) d = getCore s d := by
  simp [getCore, setCore, ngetD_nput_other _ _ _ _ _ h]

@[simp] theorem setCore_setCore (s : State) (c : Nat) (k l : Core) : setCore (setCore s c k) c l = setCore s c l := by
  simp [setCore]

@[simp] theorem getCore_modCore_self (s : State) (c : Nat) (f : Core → Core) :
    getCore (modCore s c f) c = f (getCore s c) := by
  simp [modCore]

theorem getCore_modCore_other (s : State) (c d : Nat) (f : Core → Core) (h : d ≠ c) :
    getCore (modCore s c f) d = getCore s d := by
  simp [modCore, getCore_setCore_other _ _ _ _ h]

@[simp] theorem modCore_modCore (s : State) (c : Nat) (f g : Core → Core) :
    modCore (modCore s c f) c g = modCore s c fun k => g (f k) := by
  simp [modCore]

/-! ## Fibres -/

@[simp] theorem getFib_putFib_self (s : State) (c slot : Nat) (f : Fibre) : getFib (putFib s c slot f) c slot = some f := by
  simp [getFib, putFib]

theorem getFib_putFib_other (s : State) (c slot d sl : Nat) (f : Fibre) (h : d ≠ c ∨ sl ≠ slot) :
    getFib (putFib s c slot f) d sl = getFib s d sl := by
  by_cases hc : d = c
  · subst hc
    simp [getFib, putFib, nget_nput_other _ _ _ _ (h.resolve_left (fun x => x rfl))]
  · simp [getFib, putFib, getCore_modCore_other _ _ _ _ hc]

@[simp] theorem putFib_putFib (s : State) (c slot : Nat) (f g : Fibre) :
    putFib (putFib s c slot f) c slot g = putFib s c slot g := by
  simp [putFib]

theorem modFib_of_some {s : State} {c slot : Nat} {f : Fibre} (g : Fibre → Fibre) (h : getFib s c slot = some f) :
    modFib s c slot g = putFib s c slot (g f) := by
  simp only [getFib] at h
  simp [modFib, putFib, modCore, nmod_of_some g h]

@[simp] theorem modFib_putFib (s : State) (c slot : Nat) (f : Fibre) (g : Fibre → Fibre) :
    modFib (putFib s c slot f) c slot g = putFib s c slot (g f) := by
  rw [modFib_of_some g (getFib_putFib_self s c slot f), putFib_putFib]

/-- A change of a core that leaves its fibres alone does not touch the fibre. -/
theorem getFib_modCore {s : State} {c slot d : Nat} {g : Core → Core} (h : ∀ k, (g k).fibres = k.fibres) :
    getFib (modCore s c g) d slot = getFib s d slot := by
  by_cases hc : d = c
  · subst hc; simp [getFib, h]
  · simp [getFib, getCore_modCore_other _ _ _ _ hc]

/-- A change of a core that does not read or change its fibres may come before or after a fibre is put. -/
theorem modCore_putFib {s : State} {c slot : Nat} {f : Fibre} {g : Core → Core}
    (h : ∀ k m, g { k with fibres := m } = { g k with fibres := m }) (hf : ∀ k, (g k).fibres = k.fibres) :
    modCore (putFib s c slot f) c g = putFib (modCore s c g) c slot f := by
  simp only [putFib, modCore_modCore]
  congr
  funext k
  rw [h, hf]

theorem getFib_bumpEv (s : State) (c sel d slot : Nat) : getFib (bumpEv s c sel) d slot = getFib s d slot :=
  getFib_modCore fun _ => rfl

@[simp] theorem modStrand_fibres (k : Core) (st : Nat) (f : Strand → Strand) : (modStrand k st f).fibres = k.fibres := rfl

end Sys2Proof.Machine
end

