-- ==== Sys2Proof/Laws/Run.lean ====
section
/-! SUPPORT. What the frame of an instruction word can do, once: the outcome of a word that passes its checks, by the
flow of its effect; and what the shared shapes of the A slot answer. -/

namespace Sys2Proof.Machine

theorem run_goesOn {i : Instr} {s t : State} {eff : State → State × Flow} (h : Passes i s)
    (he : eff s = (t, .next)) : run i s eff = .next (goesOn i t) := by
  simp only [run, h.1, h.2, he, if_true, goesOn]

theorem run_goesTo {i : Instr} {s t : State} {a : W64} {eff : State → State × Flow} (h : Passes i s)
    (he : eff s = (t, .jump a)) : run i s eff = .next (goesTo i a t) := by
  simp only [run, h.1, h.2, he, if_true, goesTo]

theorem run_stops {i : Instr} {s t : State} {eff : State → State × Flow} (h : Passes i s)
    (he : eff s = (t, .stop)) : run i s eff = .next (stops t) := by
  simp only [run, h.1, h.2, he, if_true, stops]

/-- A word that fails a check takes its fault and ends the issue. -/
theorem run_fault {i : Instr} {s : State} {code : FCode} {eff : State → State × Flow} (hl : s.issue.live = true)
    (h : checkWord i s = some code) :
    run i s eff = .next { (faultHere s i code .none 0).1 with
      issue := { (faultHere s i code .none 0).1.issue with ended := true } } := by
  simp only [run, hl, h, if_true]

/-- A word of a live issue always has a next state. -/
theorem run_live {i : Instr} {s : State} {eff : State → State × Flow} (hl : s.issue.live = true) :
    ∃ t, run i s eff = .next t := by
  simp only [run, hl, if_true]
  split
  · exact ⟨_, rfl⟩
  · split <;> exact ⟨_, rfl⟩

theorem me_of {s : State} {f : Fibre} (h : getFib s s.issue.core s.issue.slot = some f) : me s = f := by
  simp [me, h]

theorem modMe_of {s : State} {f : Fibre} (g : Fibre → Fibre) (h : getFib s s.issue.core s.issue.slot = some f) :
    modMe s g = withFibre s (g f) := modFib_of_some g h

/-- On the strand or off it, a capture is the one of 05 R95, R96. -/
theorem capture_eq {s : State} {v : W64} (h : Issuing s) : capture s v = taken s v := by
  rcases h with h | ⟨-, h⟩
  · simp only [capture, taken, h, captured, if_true]
  · rw [taken, if_neg (h _)]
    unfold capture
    split
    · exact absurd ‹_› (h _)
    · rfl
    · rfl

theorem issuing_of_run {s : State} {f : Fibre} (h : getFib s s.issue.core s.issue.slot = some f)
    (hr : f.sch.run = .running s.issue.strand) : Issuing s := .inl (by rw [me_of h]; exact hr)

theorem putReg_sch (f : Fibre) (d : Reg) (v : W64) : (putReg f d v).sch = f.sch := by cases d <;> rfl

/-- A write of the issuing fibre that keeps its schedule. -/
theorem me_modMe_sch {s : State} {g : Fibre → Fibre} (hg : ∀ f, (g f).sch = f.sch) :
    (me (modMe s g)).sch = (me s).sch := by
  have hi : (modMe s g).issue = s.issue := rfl
  cases h : getFib s s.issue.core s.issue.slot with
  | some f =>
    have e := modMe_of g h
    have : getFib (modMe s g) s.issue.core s.issue.slot = some (g f) := by rw [e]; exact getFib_putFib_self _ _ _ _
    rw [me_of h, me_of (by rw [hi]; exact this), hg]
  | none =>
    have : getFib (modMe s g) s.issue.core s.issue.slot = none := by
      have hn : nget (getCore s s.issue.core).fibres s.issue.slot = none := h
      simp [modMe, modFib, getFib, nmod_of_none, hn]
    simp only [me, hi, this, h]

theorem issuing_modMe {s : State} {g : Fibre → Fibre} (hg : ∀ f, (g f).sch = f.sch) (h : Issuing s) :
    Issuing (modMe s g) := by
  have e := me_modMe_sch (s := s) hg
  have hi : (modMe s g).issue = s.issue := rfl
  simpa only [Issuing, e, hi] using h

theorem issuing_wr {s : State} {d : Reg} {v : W64} (h : Issuing s) : Issuing (wr s d v) :=
  issuing_modMe (fun f => putReg_sch f d v) h

theorem issuing_noteRound {s : State} {fl : BitVec 5} {n : Nat} (h : Issuing s) : Issuing (noteRound s fl n) :=
  issuing_modMe (fun f => by dsimp only; split <;> rfl) h

/-- An A-slot word with a register destination. -/
theorem aluOp_true {i : Instr} {p : PReg} {d : Reg} {s : State} {res : State → W64} (hs : Issuing s)
    (hp : rdP s p = true) (h : Passes i s) : aluOp i p d s res = .next (result i s d (res s)) := by
  refine run_goesOn h ?_
  simp only [hp, if_true, capture_eq (issuing_wr hs)]

theorem aluOp_false {i : Instr} {p : PReg} {d : Reg} {s : State} {res : State → W64}
    (hp : rdP s p = false) (h : Passes i s) : aluOp i p d s res = .next (goesOn i s) :=
  run_goesOn h (by simp [hp])

theorem predOp_true {i : Instr} {p pd : PReg} {s : State} {res : State → Bool}
    (hp : rdP s p = true) (h : Passes i s) : predOp i p pd s res = .next (goesOn i (wrP s pd (res s))) :=
  run_goesOn h (by simp [hp])

theorem predOp_false {i : Instr} {p pd : PReg} {s : State} {res : State → Bool}
    (hp : rdP s p = false) (h : Passes i s) : predOp i p pd s res = .next (goesOn i s) :=
  run_goesOn h (by simp [hp])

theorem floatOp_true {i : Instr} {p : PReg} {d : Reg} {n : Nat} {s : State}
    {res : State → RMode → FRes} {wide : Nat → W64} (hs : Issuing s) (hp : rdP s p = true) (h : Passes i s) :
    floatOp i p d n s res wide =
      .next (floatResult i s d n (res s (modeOf (src s))) (wide (res s (modeOf (src s))).bits)) := by
  refine run_goesOn h ?_
  simp only [hp, if_true, capture_eq (issuing_wr (issuing_noteRound hs))]

theorem floatOp_false {i : Instr} {p : PReg} {d : Reg} {n : Nat} {s : State}
    {res : State → RMode → FRes} {wide : Nat → W64} (hp : rdP s p = false) (h : Passes i s) :
    floatOp i p d n s res wide = .next (goesOn i s) :=
  run_goesOn h (by simp [hp])

theorem vecOp_true {i : Instr} {p : PReg} {vd : VReg} {w n k : Nat} {s : State} {g : State → RMode → Nat → FRes}
    (hp : rdP s p = true) (h : Passes i s) : vecOp i p vd w n k s g = .next (vectorResult i s vd w n k (g s)) :=
  run_goesOn h (by simp only [hp, if_true])

theorem vecOp_false {i : Instr} {p : PReg} {vd : VReg} {w n k : Nat} {s : State} {g : State → RMode → Nat → FRes}
    (hp : rdP s p = false) (h : Passes i s) : vecOp i p vd w n k s g = .next (goesOn i s) :=
  run_goesOn h (by simp [hp])

/-- Two-operand vector words, in the words of the statements. -/
theorem vec2_true {i : Instr} {p : PReg} {vd va vb : VReg} {f : Fmt} {rounds : Bool} {s : State}
    {fp : RMode → Nat → Nat → FRes} {int : Nat → Nat → Nat} (hp : rdP s p = true) (h : Passes i s) :
    vec2 i p vd va vb f rounds s fp int = .next (vectorResult i s vd (fmtBits f) (512 / fmtBits f)
      (if f = .fp32 ∧ rounds = true then 1 else 0) (pairwise s f va vb fp int)) := by
  rw [vec2, vecOp_true hp h]
  simp only [Bool.and_eq_true, beq_iff_eq, lanes]
  rfl

theorem vec2_false {i : Instr} {p : PReg} {vd va vb : VReg} {f : Fmt} {rounds : Bool} {s : State}
    {fp : RMode → Nat → Nat → FRes} {int : Nat → Nat → Nat} (hp : rdP s p = false) (h : Passes i s) :
    vec2 i p vd va vb f rounds s fp int = .next (goesOn i s) := vecOp_false hp h

/-- A C-slot word that only writes a register. -/
theorem regOp_next {i : Instr} {d : Reg} {s : State} {res : State → W64} (h : Passes i s) :
    regOp i d s res = .next (goesOn i (wr s d (res s))) := run_goesOn h rfl

end Sys2Proof.Machine
end

