-- ==== Sys2Proof/Laws/State.lean ====
section
/-! SUPPORT. For each update of the state, the fields that it leaves alone; each is true by rfl. -/

namespace Sys2Proof.Machine

variable (s : State)

/-! ## Cores and fibres -/

@[simp] theorem setCore_units (c : Nat) (k : Core) : (setCore s c k).units = s.units := rfl
@[simp] theorem setCore_dies (c : Nat) (k : Core) : (setCore s c k).dies = s.dies := rfl
@[simp] theorem setCore_doms (c : Nat) (k : Core) : (setCore s c k).doms = s.doms := rfl
@[simp] theorem setCore_geckos (c : Nat) (k : Core) : (setCore s c k).geckos = s.geckos := rfl
@[simp] theorem setCore_chans (c : Nat) (k : Core) : (setCore s c k).chans = s.chans := rfl
@[simp] theorem setCore_mem (c : Nat) (k : Core) : (setCore s c k).mem = s.mem := rfl
@[simp] theorem setCore_host (c : Nat) (k : Core) : (setCore s c k).host = s.host := rfl
@[simp] theorem setCore_net (c : Nat) (k : Core) : (setCore s c k).net = s.net := rfl
@[simp] theorem setCore_tasks (c : Nat) (k : Core) : (setCore s c k).tasks = s.tasks := rfl
@[simp] theorem setCore_gov (c : Nat) (k : Core) : (setCore s c k).gov = s.gov := rfl
@[simp] theorem setCore_regs (c : Nat) (k : Core) : (setCore s c k).regs = s.regs := rfl
@[simp] theorem setCore_fab (c : Nat) (k : Core) : (setCore s c k).fab = s.fab := rfl
@[simp] theorem setCore_chaez (c : Nat) (k : Core) : (setCore s c k).chaez = s.chaez := rfl
@[simp] theorem setCore_boot (c : Nat) (k : Core) : (setCore s c k).boot = s.boot := rfl
@[simp] theorem setCore_shared (c : Nat) (k : Core) : (setCore s c k).shared = s.shared := rfl
@[simp] theorem setCore_time (c : Nat) (k : Core) : (setCore s c k).time = s.time := rfl
@[simp] theorem setCore_fresh (c : Nat) (k : Core) : (setCore s c k).fresh = s.fresh := rfl
@[simp] theorem setCore_issue (c : Nat) (k : Core) : (setCore s c k).issue = s.issue := rfl
@[simp] theorem setCore_agenda (c : Nat) (k : Core) : (setCore s c k).agenda = s.agenda := rfl
@[simp] theorem setCore_rota (c : Nat) (k : Core) : (setCore s c k).rota = s.rota := rfl

@[simp] theorem modCore_units (c : Nat) (f : Core → Core) : (modCore s c f).units = s.units := rfl
@[simp] theorem modCore_dies (c : Nat) (f : Core → Core) : (modCore s c f).dies = s.dies := rfl
@[simp] theorem modCore_doms (c : Nat) (f : Core → Core) : (modCore s c f).doms = s.doms := rfl
@[simp] theorem modCore_geckos (c : Nat) (f : Core → Core) : (modCore s c f).geckos = s.geckos := rfl
@[simp] theorem modCore_chans (c : Nat) (f : Core → Core) : (modCore s c f).chans = s.chans := rfl
@[simp] theorem modCore_mem (c : Nat) (f : Core → Core) : (modCore s c f).mem = s.mem := rfl
@[simp] theorem modCore_host (c : Nat) (f : Core → Core) : (modCore s c f).host = s.host := rfl
@[simp] theorem modCore_net (c : Nat) (f : Core → Core) : (modCore s c f).net = s.net := rfl
@[simp] theorem modCore_tasks (c : Nat) (f : Core → Core) : (modCore s c f).tasks = s.tasks := rfl
@[simp] theorem modCore_gov (c : Nat) (f : Core → Core) : (modCore s c f).gov = s.gov := rfl
@[simp] theorem modCore_regs (c : Nat) (f : Core → Core) : (modCore s c f).regs = s.regs := rfl
@[simp] theorem modCore_fab (c : Nat) (f : Core → Core) : (modCore s c f).fab = s.fab := rfl
@[simp] theorem modCore_chaez (c : Nat) (f : Core → Core) : (modCore s c f).chaez = s.chaez := rfl
@[simp] theorem modCore_boot (c : Nat) (f : Core → Core) : (modCore s c f).boot = s.boot := rfl
@[simp] theorem modCore_shared (c : Nat) (f : Core → Core) : (modCore s c f).shared = s.shared := rfl
@[simp] theorem modCore_time (c : Nat) (f : Core → Core) : (modCore s c f).time = s.time := rfl
@[simp] theorem modCore_fresh (c : Nat) (f : Core → Core) : (modCore s c f).fresh = s.fresh := rfl
@[simp] theorem modCore_issue (c : Nat) (f : Core → Core) : (modCore s c f).issue = s.issue := rfl
@[simp] theorem modCore_agenda (c : Nat) (f : Core → Core) : (modCore s c f).agenda = s.agenda := rfl
@[simp] theorem modCore_rota (c : Nat) (f : Core → Core) : (modCore s c f).rota = s.rota := rfl

@[simp] theorem modFib_units (c sl : Nat) (f : Fibre → Fibre) : (modFib s c sl f).units = s.units := rfl
@[simp] theorem modFib_dies (c sl : Nat) (f : Fibre → Fibre) : (modFib s c sl f).dies = s.dies := rfl
@[simp] theorem modFib_doms (c sl : Nat) (f : Fibre → Fibre) : (modFib s c sl f).doms = s.doms := rfl
@[simp] theorem modFib_geckos (c sl : Nat) (f : Fibre → Fibre) : (modFib s c sl f).geckos = s.geckos := rfl
@[simp] theorem modFib_chans (c sl : Nat) (f : Fibre → Fibre) : (modFib s c sl f).chans = s.chans := rfl
@[simp] theorem modFib_mem (c sl : Nat) (f : Fibre → Fibre) : (modFib s c sl f).mem = s.mem := rfl
@[simp] theorem modFib_host (c sl : Nat) (f : Fibre → Fibre) : (modFib s c sl f).host = s.host := rfl
@[simp] theorem modFib_net (c sl : Nat) (f : Fibre → Fibre) : (modFib s c sl f).net = s.net := rfl
@[simp] theorem modFib_tasks (c sl : Nat) (f : Fibre → Fibre) : (modFib s c sl f).tasks = s.tasks := rfl
@[simp] theorem modFib_gov (c sl : Nat) (f : Fibre → Fibre) : (modFib s c sl f).gov = s.gov := rfl
@[simp] theorem modFib_regs (c sl : Nat) (f : Fibre → Fibre) : (modFib s c sl f).regs = s.regs := rfl
@[simp] theorem modFib_fab (c sl : Nat) (f : Fibre → Fibre) : (modFib s c sl f).fab = s.fab := rfl
@[simp] theorem modFib_chaez (c sl : Nat) (f : Fibre → Fibre) : (modFib s c sl f).chaez = s.chaez := rfl
@[simp] theorem modFib_boot (c sl : Nat) (f : Fibre → Fibre) : (modFib s c sl f).boot = s.boot := rfl
@[simp] theorem modFib_shared (c sl : Nat) (f : Fibre → Fibre) : (modFib s c sl f).shared = s.shared := rfl
@[simp] theorem modFib_time (c sl : Nat) (f : Fibre → Fibre) : (modFib s c sl f).time = s.time := rfl
@[simp] theorem modFib_fresh (c sl : Nat) (f : Fibre → Fibre) : (modFib s c sl f).fresh = s.fresh := rfl
@[simp] theorem modFib_issue (c sl : Nat) (f : Fibre → Fibre) : (modFib s c sl f).issue = s.issue := rfl
@[simp] theorem modFib_agenda (c sl : Nat) (f : Fibre → Fibre) : (modFib s c sl f).agenda = s.agenda := rfl
@[simp] theorem modFib_rota (c sl : Nat) (f : Fibre → Fibre) : (modFib s c sl f).rota = s.rota := rfl

@[simp] theorem putFib_units (c sl : Nat) (f : Fibre) : (putFib s c sl f).units = s.units := rfl
@[simp] theorem putFib_dies (c sl : Nat) (f : Fibre) : (putFib s c sl f).dies = s.dies := rfl
@[simp] theorem putFib_doms (c sl : Nat) (f : Fibre) : (putFib s c sl f).doms = s.doms := rfl
@[simp] theorem putFib_geckos (c sl : Nat) (f : Fibre) : (putFib s c sl f).geckos = s.geckos := rfl
@[simp] theorem putFib_chans (c sl : Nat) (f : Fibre) : (putFib s c sl f).chans = s.chans := rfl
@[simp] theorem putFib_mem (c sl : Nat) (f : Fibre) : (putFib s c sl f).mem = s.mem := rfl
@[simp] theorem putFib_host (c sl : Nat) (f : Fibre) : (putFib s c sl f).host = s.host := rfl
@[simp] theorem putFib_net (c sl : Nat) (f : Fibre) : (putFib s c sl f).net = s.net := rfl
@[simp] theorem putFib_tasks (c sl : Nat) (f : Fibre) : (putFib s c sl f).tasks = s.tasks := rfl
@[simp] theorem putFib_gov (c sl : Nat) (f : Fibre) : (putFib s c sl f).gov = s.gov := rfl
@[simp] theorem putFib_regs (c sl : Nat) (f : Fibre) : (putFib s c sl f).regs = s.regs := rfl
@[simp] theorem putFib_fab (c sl : Nat) (f : Fibre) : (putFib s c sl f).fab = s.fab := rfl
@[simp] theorem putFib_chaez (c sl : Nat) (f : Fibre) : (putFib s c sl f).chaez = s.chaez := rfl
@[simp] theorem putFib_boot (c sl : Nat) (f : Fibre) : (putFib s c sl f).boot = s.boot := rfl
@[simp] theorem putFib_shared (c sl : Nat) (f : Fibre) : (putFib s c sl f).shared = s.shared := rfl
@[simp] theorem putFib_time (c sl : Nat) (f : Fibre) : (putFib s c sl f).time = s.time := rfl
@[simp] theorem putFib_fresh (c sl : Nat) (f : Fibre) : (putFib s c sl f).fresh = s.fresh := rfl
@[simp] theorem putFib_issue (c sl : Nat) (f : Fibre) : (putFib s c sl f).issue = s.issue := rfl
@[simp] theorem putFib_agenda (c sl : Nat) (f : Fibre) : (putFib s c sl f).agenda = s.agenda := rfl
@[simp] theorem putFib_rota (c sl : Nat) (f : Fibre) : (putFib s c sl f).rota = s.rota := rfl

@[simp] theorem delFib_units (c sl : Nat) : (delFib s c sl).units = s.units := rfl
@[simp] theorem delFib_dies (c sl : Nat) : (delFib s c sl).dies = s.dies := rfl
@[simp] theorem delFib_doms (c sl : Nat) : (delFib s c sl).doms = s.doms := rfl
@[simp] theorem delFib_geckos (c sl : Nat) : (delFib s c sl).geckos = s.geckos := rfl
@[simp] theorem delFib_chans (c sl : Nat) : (delFib s c sl).chans = s.chans := rfl
@[simp] theorem delFib_mem (c sl : Nat) : (delFib s c sl).mem = s.mem := rfl
@[simp] theorem delFib_host (c sl : Nat) : (delFib s c sl).host = s.host := rfl
@[simp] theorem delFib_net (c sl : Nat) : (delFib s c sl).net = s.net := rfl
@[simp] theorem delFib_tasks (c sl : Nat) : (delFib s c sl).tasks = s.tasks := rfl
@[simp] theorem delFib_gov (c sl : Nat) : (delFib s c sl).gov = s.gov := rfl
@[simp] theorem delFib_regs (c sl : Nat) : (delFib s c sl).regs = s.regs := rfl
@[simp] theorem delFib_fab (c sl : Nat) : (delFib s c sl).fab = s.fab := rfl
@[simp] theorem delFib_chaez (c sl : Nat) : (delFib s c sl).chaez = s.chaez := rfl
@[simp] theorem delFib_boot (c sl : Nat) : (delFib s c sl).boot = s.boot := rfl
@[simp] theorem delFib_shared (c sl : Nat) : (delFib s c sl).shared = s.shared := rfl
@[simp] theorem delFib_time (c sl : Nat) : (delFib s c sl).time = s.time := rfl
@[simp] theorem delFib_fresh (c sl : Nat) : (delFib s c sl).fresh = s.fresh := rfl
@[simp] theorem delFib_issue (c sl : Nat) : (delFib s c sl).issue = s.issue := rfl
@[simp] theorem delFib_agenda (c sl : Nat) : (delFib s c sl).agenda = s.agenda := rfl
@[simp] theorem delFib_rota (c sl : Nat) : (delFib s c sl).rota = s.rota := rfl

@[simp] theorem modMe_units (f : Fibre → Fibre) : (modMe s f).units = s.units := rfl
@[simp] theorem modMe_dies (f : Fibre → Fibre) : (modMe s f).dies = s.dies := rfl
@[simp] theorem modMe_doms (f : Fibre → Fibre) : (modMe s f).doms = s.doms := rfl
@[simp] theorem modMe_geckos (f : Fibre → Fibre) : (modMe s f).geckos = s.geckos := rfl
@[simp] theorem modMe_chans (f : Fibre → Fibre) : (modMe s f).chans = s.chans := rfl
@[simp] theorem modMe_mem (f : Fibre → Fibre) : (modMe s f).mem = s.mem := rfl
@[simp] theorem modMe_host (f : Fibre → Fibre) : (modMe s f).host = s.host := rfl
@[simp] theorem modMe_net (f : Fibre → Fibre) : (modMe s f).net = s.net := rfl
@[simp] theorem modMe_tasks (f : Fibre → Fibre) : (modMe s f).tasks = s.tasks := rfl
@[simp] theorem modMe_gov (f : Fibre → Fibre) : (modMe s f).gov = s.gov := rfl
@[simp] theorem modMe_regs (f : Fibre → Fibre) : (modMe s f).regs = s.regs := rfl
@[simp] theorem modMe_fab (f : Fibre → Fibre) : (modMe s f).fab = s.fab := rfl
@[simp] theorem modMe_chaez (f : Fibre → Fibre) : (modMe s f).chaez = s.chaez := rfl
@[simp] theorem modMe_boot (f : Fibre → Fibre) : (modMe s f).boot = s.boot := rfl
@[simp] theorem modMe_shared (f : Fibre → Fibre) : (modMe s f).shared = s.shared := rfl
@[simp] theorem modMe_time (f : Fibre → Fibre) : (modMe s f).time = s.time := rfl
@[simp] theorem modMe_fresh (f : Fibre → Fibre) : (modMe s f).fresh = s.fresh := rfl
@[simp] theorem modMe_issue (f : Fibre → Fibre) : (modMe s f).issue = s.issue := rfl
@[simp] theorem modMe_agenda (f : Fibre → Fibre) : (modMe s f).agenda = s.agenda := rfl
@[simp] theorem modMe_rota (f : Fibre → Fibre) : (modMe s f).rota = s.rota := rfl

@[simp] theorem wr_units (r : Reg) (v : W64) : (wr s r v).units = s.units := rfl
@[simp] theorem wr_dies (r : Reg) (v : W64) : (wr s r v).dies = s.dies := rfl
@[simp] theorem wr_doms (r : Reg) (v : W64) : (wr s r v).doms = s.doms := rfl
@[simp] theorem wr_geckos (r : Reg) (v : W64) : (wr s r v).geckos = s.geckos := rfl
@[simp] theorem wr_chans (r : Reg) (v : W64) : (wr s r v).chans = s.chans := rfl
@[simp] theorem wr_mem (r : Reg) (v : W64) : (wr s r v).mem = s.mem := rfl
@[simp] theorem wr_host (r : Reg) (v : W64) : (wr s r v).host = s.host := rfl
@[simp] theorem wr_net (r : Reg) (v : W64) : (wr s r v).net = s.net := rfl
@[simp] theorem wr_tasks (r : Reg) (v : W64) : (wr s r v).tasks = s.tasks := rfl
@[simp] theorem wr_gov (r : Reg) (v : W64) : (wr s r v).gov = s.gov := rfl
@[simp] theorem wr_regs (r : Reg) (v : W64) : (wr s r v).regs = s.regs := rfl
@[simp] theorem wr_fab (r : Reg) (v : W64) : (wr s r v).fab = s.fab := rfl
@[simp] theorem wr_chaez (r : Reg) (v : W64) : (wr s r v).chaez = s.chaez := rfl
@[simp] theorem wr_boot (r : Reg) (v : W64) : (wr s r v).boot = s.boot := rfl
@[simp] theorem wr_shared (r : Reg) (v : W64) : (wr s r v).shared = s.shared := rfl
@[simp] theorem wr_time (r : Reg) (v : W64) : (wr s r v).time = s.time := rfl
@[simp] theorem wr_fresh (r : Reg) (v : W64) : (wr s r v).fresh = s.fresh := rfl
@[simp] theorem wr_issue (r : Reg) (v : W64) : (wr s r v).issue = s.issue := rfl
@[simp] theorem wr_agenda (r : Reg) (v : W64) : (wr s r v).agenda = s.agenda := rfl
@[simp] theorem wr_rota (r : Reg) (v : W64) : (wr s r v).rota = s.rota := rfl

@[simp] theorem wrP_units (p : PReg) (b : Bool) : (wrP s p b).units = s.units := rfl
@[simp] theorem wrP_dies (p : PReg) (b : Bool) : (wrP s p b).dies = s.dies := rfl
@[simp] theorem wrP_doms (p : PReg) (b : Bool) : (wrP s p b).doms = s.doms := rfl
@[simp] theorem wrP_geckos (p : PReg) (b : Bool) : (wrP s p b).geckos = s.geckos := rfl
@[simp] theorem wrP_chans (p : PReg) (b : Bool) : (wrP s p b).chans = s.chans := rfl
@[simp] theorem wrP_mem (p : PReg) (b : Bool) : (wrP s p b).mem = s.mem := rfl
@[simp] theorem wrP_host (p : PReg) (b : Bool) : (wrP s p b).host = s.host := rfl
@[simp] theorem wrP_net (p : PReg) (b : Bool) : (wrP s p b).net = s.net := rfl
@[simp] theorem wrP_tasks (p : PReg) (b : Bool) : (wrP s p b).tasks = s.tasks := rfl
@[simp] theorem wrP_gov (p : PReg) (b : Bool) : (wrP s p b).gov = s.gov := rfl
@[simp] theorem wrP_regs (p : PReg) (b : Bool) : (wrP s p b).regs = s.regs := rfl
@[simp] theorem wrP_fab (p : PReg) (b : Bool) : (wrP s p b).fab = s.fab := rfl
@[simp] theorem wrP_chaez (p : PReg) (b : Bool) : (wrP s p b).chaez = s.chaez := rfl
@[simp] theorem wrP_boot (p : PReg) (b : Bool) : (wrP s p b).boot = s.boot := rfl
@[simp] theorem wrP_shared (p : PReg) (b : Bool) : (wrP s p b).shared = s.shared := rfl
@[simp] theorem wrP_time (p : PReg) (b : Bool) : (wrP s p b).time = s.time := rfl
@[simp] theorem wrP_fresh (p : PReg) (b : Bool) : (wrP s p b).fresh = s.fresh := rfl
@[simp] theorem wrP_issue (p : PReg) (b : Bool) : (wrP s p b).issue = s.issue := rfl
@[simp] theorem wrP_agenda (p : PReg) (b : Bool) : (wrP s p b).agenda = s.agenda := rfl
@[simp] theorem wrP_rota (p : PReg) (b : Bool) : (wrP s p b).rota = s.rota := rfl

@[simp] theorem dropResv_units : (dropResv s).units = s.units := rfl
@[simp] theorem dropResv_dies : (dropResv s).dies = s.dies := rfl
@[simp] theorem dropResv_doms : (dropResv s).doms = s.doms := rfl
@[simp] theorem dropResv_geckos : (dropResv s).geckos = s.geckos := rfl
@[simp] theorem dropResv_chans : (dropResv s).chans = s.chans := rfl
@[simp] theorem dropResv_mem : (dropResv s).mem = s.mem := rfl
@[simp] theorem dropResv_host : (dropResv s).host = s.host := rfl
@[simp] theorem dropResv_net : (dropResv s).net = s.net := rfl
@[simp] theorem dropResv_tasks : (dropResv s).tasks = s.tasks := rfl
@[simp] theorem dropResv_gov : (dropResv s).gov = s.gov := rfl
@[simp] theorem dropResv_regs : (dropResv s).regs = s.regs := rfl
@[simp] theorem dropResv_fab : (dropResv s).fab = s.fab := rfl
@[simp] theorem dropResv_chaez : (dropResv s).chaez = s.chaez := rfl
@[simp] theorem dropResv_boot : (dropResv s).boot = s.boot := rfl
@[simp] theorem dropResv_shared : (dropResv s).shared = s.shared := rfl
@[simp] theorem dropResv_time : (dropResv s).time = s.time := rfl
@[simp] theorem dropResv_fresh : (dropResv s).fresh = s.fresh := rfl
@[simp] theorem dropResv_issue : (dropResv s).issue = s.issue := rfl
@[simp] theorem dropResv_agenda : (dropResv s).agenda = s.agenda := rfl
@[simp] theorem dropResv_rota : (dropResv s).rota = s.rota := rfl

@[simp] theorem bumpEv_units (c x : Nat) : (bumpEv s c x).units = s.units := rfl
@[simp] theorem bumpEv_dies (c x : Nat) : (bumpEv s c x).dies = s.dies := rfl
@[simp] theorem bumpEv_doms (c x : Nat) : (bumpEv s c x).doms = s.doms := rfl
@[simp] theorem bumpEv_geckos (c x : Nat) : (bumpEv s c x).geckos = s.geckos := rfl
@[simp] theorem bumpEv_chans (c x : Nat) : (bumpEv s c x).chans = s.chans := rfl
@[simp] theorem bumpEv_mem (c x : Nat) : (bumpEv s c x).mem = s.mem := rfl
@[simp] theorem bumpEv_host (c x : Nat) : (bumpEv s c x).host = s.host := rfl
@[simp] theorem bumpEv_net (c x : Nat) : (bumpEv s c x).net = s.net := rfl
@[simp] theorem bumpEv_tasks (c x : Nat) : (bumpEv s c x).tasks = s.tasks := rfl
@[simp] theorem bumpEv_gov (c x : Nat) : (bumpEv s c x).gov = s.gov := rfl
@[simp] theorem bumpEv_regs (c x : Nat) : (bumpEv s c x).regs = s.regs := rfl
@[simp] theorem bumpEv_fab (c x : Nat) : (bumpEv s c x).fab = s.fab := rfl
@[simp] theorem bumpEv_chaez (c x : Nat) : (bumpEv s c x).chaez = s.chaez := rfl
@[simp] theorem bumpEv_boot (c x : Nat) : (bumpEv s c x).boot = s.boot := rfl
@[simp] theorem bumpEv_shared (c x : Nat) : (bumpEv s c x).shared = s.shared := rfl
@[simp] theorem bumpEv_time (c x : Nat) : (bumpEv s c x).time = s.time := rfl
@[simp] theorem bumpEv_fresh (c x : Nat) : (bumpEv s c x).fresh = s.fresh := rfl
@[simp] theorem bumpEv_issue (c x : Nat) : (bumpEv s c x).issue = s.issue := rfl
@[simp] theorem bumpEv_agenda (c x : Nat) : (bumpEv s c x).agenda = s.agenda := rfl
@[simp] theorem bumpEv_rota (c x : Nat) : (bumpEv s c x).rota = s.rota := rfl

@[simp] theorem setWait_units (c sl : Nat) (w : Park) (x : Wait) : (setWait s c sl w x).units = s.units := rfl
@[simp] theorem setWait_dies (c sl : Nat) (w : Park) (x : Wait) : (setWait s c sl w x).dies = s.dies := rfl
@[simp] theorem setWait_doms (c sl : Nat) (w : Park) (x : Wait) : (setWait s c sl w x).doms = s.doms := rfl
@[simp] theorem setWait_geckos (c sl : Nat) (w : Park) (x : Wait) : (setWait s c sl w x).geckos = s.geckos := rfl
@[simp] theorem setWait_chans (c sl : Nat) (w : Park) (x : Wait) : (setWait s c sl w x).chans = s.chans := rfl
@[simp] theorem setWait_mem (c sl : Nat) (w : Park) (x : Wait) : (setWait s c sl w x).mem = s.mem := rfl
@[simp] theorem setWait_host (c sl : Nat) (w : Park) (x : Wait) : (setWait s c sl w x).host = s.host := rfl
@[simp] theorem setWait_net (c sl : Nat) (w : Park) (x : Wait) : (setWait s c sl w x).net = s.net := rfl
@[simp] theorem setWait_tasks (c sl : Nat) (w : Park) (x : Wait) : (setWait s c sl w x).tasks = s.tasks := rfl
@[simp] theorem setWait_gov (c sl : Nat) (w : Park) (x : Wait) : (setWait s c sl w x).gov = s.gov := rfl
@[simp] theorem setWait_regs (c sl : Nat) (w : Park) (x : Wait) : (setWait s c sl w x).regs = s.regs := rfl
@[simp] theorem setWait_fab (c sl : Nat) (w : Park) (x : Wait) : (setWait s c sl w x).fab = s.fab := rfl
@[simp] theorem setWait_chaez (c sl : Nat) (w : Park) (x : Wait) : (setWait s c sl w x).chaez = s.chaez := rfl
@[simp] theorem setWait_boot (c sl : Nat) (w : Park) (x : Wait) : (setWait s c sl w x).boot = s.boot := rfl
@[simp] theorem setWait_shared (c sl : Nat) (w : Park) (x : Wait) : (setWait s c sl w x).shared = s.shared := rfl
@[simp] theorem setWait_time (c sl : Nat) (w : Park) (x : Wait) : (setWait s c sl w x).time = s.time := rfl
@[simp] theorem setWait_fresh (c sl : Nat) (w : Park) (x : Wait) : (setWait s c sl w x).fresh = s.fresh := rfl
@[simp] theorem setWait_issue (c sl : Nat) (w : Park) (x : Wait) : (setWait s c sl w x).issue = s.issue := rfl
@[simp] theorem setWait_agenda (c sl : Nat) (w : Park) (x : Wait) : (setWait s c sl w x).agenda = s.agenda := rfl
@[simp] theorem setWait_rota (c sl : Nat) (w : Park) (x : Wait) : (setWait s c sl w x).rota = s.rota := rfl

@[simp] theorem makeReady_units (c sl : Nat) : (makeReady s c sl).units = s.units := rfl
@[simp] theorem makeReady_dies (c sl : Nat) : (makeReady s c sl).dies = s.dies := rfl
@[simp] theorem makeReady_doms (c sl : Nat) : (makeReady s c sl).doms = s.doms := rfl
@[simp] theorem makeReady_geckos (c sl : Nat) : (makeReady s c sl).geckos = s.geckos := rfl
@[simp] theorem makeReady_chans (c sl : Nat) : (makeReady s c sl).chans = s.chans := rfl
@[simp] theorem makeReady_mem (c sl : Nat) : (makeReady s c sl).mem = s.mem := rfl
@[simp] theorem makeReady_host (c sl : Nat) : (makeReady s c sl).host = s.host := rfl
@[simp] theorem makeReady_net (c sl : Nat) : (makeReady s c sl).net = s.net := rfl
@[simp] theorem makeReady_tasks (c sl : Nat) : (makeReady s c sl).tasks = s.tasks := rfl
@[simp] theorem makeReady_gov (c sl : Nat) : (makeReady s c sl).gov = s.gov := rfl
@[simp] theorem makeReady_regs (c sl : Nat) : (makeReady s c sl).regs = s.regs := rfl
@[simp] theorem makeReady_fab (c sl : Nat) : (makeReady s c sl).fab = s.fab := rfl
@[simp] theorem makeReady_chaez (c sl : Nat) : (makeReady s c sl).chaez = s.chaez := rfl
@[simp] theorem makeReady_boot (c sl : Nat) : (makeReady s c sl).boot = s.boot := rfl
@[simp] theorem makeReady_shared (c sl : Nat) : (makeReady s c sl).shared = s.shared := rfl
@[simp] theorem makeReady_time (c sl : Nat) : (makeReady s c sl).time = s.time := rfl
@[simp] theorem makeReady_fresh (c sl : Nat) : (makeReady s c sl).fresh = s.fresh := rfl
@[simp] theorem makeReady_issue (c sl : Nat) : (makeReady s c sl).issue = s.issue := rfl
@[simp] theorem makeReady_agenda (c sl : Nat) : (makeReady s c sl).agenda = s.agenda := rfl
@[simp] theorem makeReady_rota (c sl : Nat) : (makeReady s c sl).rota = s.rota := rfl

@[simp] theorem modTile_units (c : Nat) (f : Tile → Tile) : (modTile s c f).units = s.units := rfl
@[simp] theorem modTile_dies (c : Nat) (f : Tile → Tile) : (modTile s c f).dies = s.dies := rfl
@[simp] theorem modTile_doms (c : Nat) (f : Tile → Tile) : (modTile s c f).doms = s.doms := rfl
@[simp] theorem modTile_geckos (c : Nat) (f : Tile → Tile) : (modTile s c f).geckos = s.geckos := rfl
@[simp] theorem modTile_chans (c : Nat) (f : Tile → Tile) : (modTile s c f).chans = s.chans := rfl
@[simp] theorem modTile_mem (c : Nat) (f : Tile → Tile) : (modTile s c f).mem = s.mem := rfl
@[simp] theorem modTile_host (c : Nat) (f : Tile → Tile) : (modTile s c f).host = s.host := rfl
@[simp] theorem modTile_net (c : Nat) (f : Tile → Tile) : (modTile s c f).net = s.net := rfl
@[simp] theorem modTile_tasks (c : Nat) (f : Tile → Tile) : (modTile s c f).tasks = s.tasks := rfl
@[simp] theorem modTile_gov (c : Nat) (f : Tile → Tile) : (modTile s c f).gov = s.gov := rfl
@[simp] theorem modTile_regs (c : Nat) (f : Tile → Tile) : (modTile s c f).regs = s.regs := rfl
@[simp] theorem modTile_fab (c : Nat) (f : Tile → Tile) : (modTile s c f).fab = s.fab := rfl
@[simp] theorem modTile_chaez (c : Nat) (f : Tile → Tile) : (modTile s c f).chaez = s.chaez := rfl
@[simp] theorem modTile_boot (c : Nat) (f : Tile → Tile) : (modTile s c f).boot = s.boot := rfl
@[simp] theorem modTile_shared (c : Nat) (f : Tile → Tile) : (modTile s c f).shared = s.shared := rfl
@[simp] theorem modTile_time (c : Nat) (f : Tile → Tile) : (modTile s c f).time = s.time := rfl
@[simp] theorem modTile_fresh (c : Nat) (f : Tile → Tile) : (modTile s c f).fresh = s.fresh := rfl
@[simp] theorem modTile_issue (c : Nat) (f : Tile → Tile) : (modTile s c f).issue = s.issue := rfl
@[simp] theorem modTile_agenda (c : Nat) (f : Tile → Tile) : (modTile s c f).agenda = s.agenda := rfl
@[simp] theorem modTile_rota (c : Nat) (f : Tile → Tile) : (modTile s c f).rota = s.rota := rfl

@[simp] theorem modQ_units (c : Nat) (f : Queues → Queues) : (modQ s c f).units = s.units := rfl
@[simp] theorem modQ_dies (c : Nat) (f : Queues → Queues) : (modQ s c f).dies = s.dies := rfl
@[simp] theorem modQ_doms (c : Nat) (f : Queues → Queues) : (modQ s c f).doms = s.doms := rfl
@[simp] theorem modQ_geckos (c : Nat) (f : Queues → Queues) : (modQ s c f).geckos = s.geckos := rfl
@[simp] theorem modQ_chans (c : Nat) (f : Queues → Queues) : (modQ s c f).chans = s.chans := rfl
@[simp] theorem modQ_mem (c : Nat) (f : Queues → Queues) : (modQ s c f).mem = s.mem := rfl
@[simp] theorem modQ_host (c : Nat) (f : Queues → Queues) : (modQ s c f).host = s.host := rfl
@[simp] theorem modQ_net (c : Nat) (f : Queues → Queues) : (modQ s c f).net = s.net := rfl
@[simp] theorem modQ_tasks (c : Nat) (f : Queues → Queues) : (modQ s c f).tasks = s.tasks := rfl
@[simp] theorem modQ_gov (c : Nat) (f : Queues → Queues) : (modQ s c f).gov = s.gov := rfl
@[simp] theorem modQ_regs (c : Nat) (f : Queues → Queues) : (modQ s c f).regs = s.regs := rfl
@[simp] theorem modQ_fab (c : Nat) (f : Queues → Queues) : (modQ s c f).fab = s.fab := rfl
@[simp] theorem modQ_chaez (c : Nat) (f : Queues → Queues) : (modQ s c f).chaez = s.chaez := rfl
@[simp] theorem modQ_boot (c : Nat) (f : Queues → Queues) : (modQ s c f).boot = s.boot := rfl
@[simp] theorem modQ_shared (c : Nat) (f : Queues → Queues) : (modQ s c f).shared = s.shared := rfl
@[simp] theorem modQ_time (c : Nat) (f : Queues → Queues) : (modQ s c f).time = s.time := rfl
@[simp] theorem modQ_fresh (c : Nat) (f : Queues → Queues) : (modQ s c f).fresh = s.fresh := rfl
@[simp] theorem modQ_issue (c : Nat) (f : Queues → Queues) : (modQ s c f).issue = s.issue := rfl
@[simp] theorem modQ_agenda (c : Nat) (f : Queues → Queues) : (modQ s c f).agenda = s.agenda := rfl
@[simp] theorem modQ_rota (c : Nat) (f : Queues → Queues) : (modQ s c f).rota = s.rota := rfl

@[simp] theorem modSb_units (c : Nat) (f : NMap SbEntry → NMap SbEntry) : (modSb s c f).units = s.units := rfl
@[simp] theorem modSb_dies (c : Nat) (f : NMap SbEntry → NMap SbEntry) : (modSb s c f).dies = s.dies := rfl
@[simp] theorem modSb_doms (c : Nat) (f : NMap SbEntry → NMap SbEntry) : (modSb s c f).doms = s.doms := rfl
@[simp] theorem modSb_geckos (c : Nat) (f : NMap SbEntry → NMap SbEntry) : (modSb s c f).geckos = s.geckos := rfl
@[simp] theorem modSb_chans (c : Nat) (f : NMap SbEntry → NMap SbEntry) : (modSb s c f).chans = s.chans := rfl
@[simp] theorem modSb_mem (c : Nat) (f : NMap SbEntry → NMap SbEntry) : (modSb s c f).mem = s.mem := rfl
@[simp] theorem modSb_host (c : Nat) (f : NMap SbEntry → NMap SbEntry) : (modSb s c f).host = s.host := rfl
@[simp] theorem modSb_net (c : Nat) (f : NMap SbEntry → NMap SbEntry) : (modSb s c f).net = s.net := rfl
@[simp] theorem modSb_tasks (c : Nat) (f : NMap SbEntry → NMap SbEntry) : (modSb s c f).tasks = s.tasks := rfl
@[simp] theorem modSb_gov (c : Nat) (f : NMap SbEntry → NMap SbEntry) : (modSb s c f).gov = s.gov := rfl
@[simp] theorem modSb_regs (c : Nat) (f : NMap SbEntry → NMap SbEntry) : (modSb s c f).regs = s.regs := rfl
@[simp] theorem modSb_fab (c : Nat) (f : NMap SbEntry → NMap SbEntry) : (modSb s c f).fab = s.fab := rfl
@[simp] theorem modSb_chaez (c : Nat) (f : NMap SbEntry → NMap SbEntry) : (modSb s c f).chaez = s.chaez := rfl
@[simp] theorem modSb_boot (c : Nat) (f : NMap SbEntry → NMap SbEntry) : (modSb s c f).boot = s.boot := rfl
@[simp] theorem modSb_shared (c : Nat) (f : NMap SbEntry → NMap SbEntry) : (modSb s c f).shared = s.shared := rfl
@[simp] theorem modSb_time (c : Nat) (f : NMap SbEntry → NMap SbEntry) : (modSb s c f).time = s.time := rfl
@[simp] theorem modSb_fresh (c : Nat) (f : NMap SbEntry → NMap SbEntry) : (modSb s c f).fresh = s.fresh := rfl
@[simp] theorem modSb_issue (c : Nat) (f : NMap SbEntry → NMap SbEntry) : (modSb s c f).issue = s.issue := rfl
@[simp] theorem modSb_agenda (c : Nat) (f : NMap SbEntry → NMap SbEntry) : (modSb s c f).agenda = s.agenda := rfl
@[simp] theorem modSb_rota (c : Nat) (f : NMap SbEntry → NMap SbEntry) : (modSb s c f).rota = s.rota := rfl

@[simp] theorem modCtr_units (c : Nat) (f : Counters → Counters) : (modCtr s c f).units = s.units := rfl
@[simp] theorem modCtr_dies (c : Nat) (f : Counters → Counters) : (modCtr s c f).dies = s.dies := rfl
@[simp] theorem modCtr_doms (c : Nat) (f : Counters → Counters) : (modCtr s c f).doms = s.doms := rfl
@[simp] theorem modCtr_geckos (c : Nat) (f : Counters → Counters) : (modCtr s c f).geckos = s.geckos := rfl
@[simp] theorem modCtr_chans (c : Nat) (f : Counters → Counters) : (modCtr s c f).chans = s.chans := rfl
@[simp] theorem modCtr_mem (c : Nat) (f : Counters → Counters) : (modCtr s c f).mem = s.mem := rfl
@[simp] theorem modCtr_host (c : Nat) (f : Counters → Counters) : (modCtr s c f).host = s.host := rfl
@[simp] theorem modCtr_net (c : Nat) (f : Counters → Counters) : (modCtr s c f).net = s.net := rfl
@[simp] theorem modCtr_tasks (c : Nat) (f : Counters → Counters) : (modCtr s c f).tasks = s.tasks := rfl
@[simp] theorem modCtr_gov (c : Nat) (f : Counters → Counters) : (modCtr s c f).gov = s.gov := rfl
@[simp] theorem modCtr_regs (c : Nat) (f : Counters → Counters) : (modCtr s c f).regs = s.regs := rfl
@[simp] theorem modCtr_fab (c : Nat) (f : Counters → Counters) : (modCtr s c f).fab = s.fab := rfl
@[simp] theorem modCtr_chaez (c : Nat) (f : Counters → Counters) : (modCtr s c f).chaez = s.chaez := rfl
@[simp] theorem modCtr_boot (c : Nat) (f : Counters → Counters) : (modCtr s c f).boot = s.boot := rfl
@[simp] theorem modCtr_shared (c : Nat) (f : Counters → Counters) : (modCtr s c f).shared = s.shared := rfl
@[simp] theorem modCtr_time (c : Nat) (f : Counters → Counters) : (modCtr s c f).time = s.time := rfl
@[simp] theorem modCtr_fresh (c : Nat) (f : Counters → Counters) : (modCtr s c f).fresh = s.fresh := rfl
@[simp] theorem modCtr_issue (c : Nat) (f : Counters → Counters) : (modCtr s c f).issue = s.issue := rfl
@[simp] theorem modCtr_agenda (c : Nat) (f : Counters → Counters) : (modCtr s c f).agenda = s.agenda := rfl
@[simp] theorem modCtr_rota (c : Nat) (f : Counters → Counters) : (modCtr s c f).rota = s.rota := rfl

@[simp] theorem modCmd_units (c e : Nat) (f : Cmd → Cmd) : (modCmd s c e f).units = s.units := rfl
@[simp] theorem modCmd_dies (c e : Nat) (f : Cmd → Cmd) : (modCmd s c e f).dies = s.dies := rfl
@[simp] theorem modCmd_doms (c e : Nat) (f : Cmd → Cmd) : (modCmd s c e f).doms = s.doms := rfl
@[simp] theorem modCmd_geckos (c e : Nat) (f : Cmd → Cmd) : (modCmd s c e f).geckos = s.geckos := rfl
@[simp] theorem modCmd_chans (c e : Nat) (f : Cmd → Cmd) : (modCmd s c e f).chans = s.chans := rfl
@[simp] theorem modCmd_mem (c e : Nat) (f : Cmd → Cmd) : (modCmd s c e f).mem = s.mem := rfl
@[simp] theorem modCmd_host (c e : Nat) (f : Cmd → Cmd) : (modCmd s c e f).host = s.host := rfl
@[simp] theorem modCmd_net (c e : Nat) (f : Cmd → Cmd) : (modCmd s c e f).net = s.net := rfl
@[simp] theorem modCmd_tasks (c e : Nat) (f : Cmd → Cmd) : (modCmd s c e f).tasks = s.tasks := rfl
@[simp] theorem modCmd_gov (c e : Nat) (f : Cmd → Cmd) : (modCmd s c e f).gov = s.gov := rfl
@[simp] theorem modCmd_regs (c e : Nat) (f : Cmd → Cmd) : (modCmd s c e f).regs = s.regs := rfl
@[simp] theorem modCmd_fab (c e : Nat) (f : Cmd → Cmd) : (modCmd s c e f).fab = s.fab := rfl
@[simp] theorem modCmd_chaez (c e : Nat) (f : Cmd → Cmd) : (modCmd s c e f).chaez = s.chaez := rfl
@[simp] theorem modCmd_boot (c e : Nat) (f : Cmd → Cmd) : (modCmd s c e f).boot = s.boot := rfl
@[simp] theorem modCmd_shared (c e : Nat) (f : Cmd → Cmd) : (modCmd s c e f).shared = s.shared := rfl
@[simp] theorem modCmd_time (c e : Nat) (f : Cmd → Cmd) : (modCmd s c e f).time = s.time := rfl
@[simp] theorem modCmd_fresh (c e : Nat) (f : Cmd → Cmd) : (modCmd s c e f).fresh = s.fresh := rfl
@[simp] theorem modCmd_issue (c e : Nat) (f : Cmd → Cmd) : (modCmd s c e f).issue = s.issue := rfl
@[simp] theorem modCmd_agenda (c e : Nat) (f : Cmd → Cmd) : (modCmd s c e f).agenda = s.agenda := rfl
@[simp] theorem modCmd_rota (c e : Nat) (f : Cmd → Cmd) : (modCmd s c e f).rota = s.rota := rfl

@[simp] theorem modMx_units (c : Nat) (f : Matrix → Matrix) : (modMx s c f).units = s.units := rfl
@[simp] theorem modMx_dies (c : Nat) (f : Matrix → Matrix) : (modMx s c f).dies = s.dies := rfl
@[simp] theorem modMx_doms (c : Nat) (f : Matrix → Matrix) : (modMx s c f).doms = s.doms := rfl
@[simp] theorem modMx_geckos (c : Nat) (f : Matrix → Matrix) : (modMx s c f).geckos = s.geckos := rfl
@[simp] theorem modMx_chans (c : Nat) (f : Matrix → Matrix) : (modMx s c f).chans = s.chans := rfl
@[simp] theorem modMx_mem (c : Nat) (f : Matrix → Matrix) : (modMx s c f).mem = s.mem := rfl
@[simp] theorem modMx_host (c : Nat) (f : Matrix → Matrix) : (modMx s c f).host = s.host := rfl
@[simp] theorem modMx_net (c : Nat) (f : Matrix → Matrix) : (modMx s c f).net = s.net := rfl
@[simp] theorem modMx_tasks (c : Nat) (f : Matrix → Matrix) : (modMx s c f).tasks = s.tasks := rfl
@[simp] theorem modMx_gov (c : Nat) (f : Matrix → Matrix) : (modMx s c f).gov = s.gov := rfl
@[simp] theorem modMx_regs (c : Nat) (f : Matrix → Matrix) : (modMx s c f).regs = s.regs := rfl
@[simp] theorem modMx_fab (c : Nat) (f : Matrix → Matrix) : (modMx s c f).fab = s.fab := rfl
@[simp] theorem modMx_chaez (c : Nat) (f : Matrix → Matrix) : (modMx s c f).chaez = s.chaez := rfl
@[simp] theorem modMx_boot (c : Nat) (f : Matrix → Matrix) : (modMx s c f).boot = s.boot := rfl
@[simp] theorem modMx_shared (c : Nat) (f : Matrix → Matrix) : (modMx s c f).shared = s.shared := rfl
@[simp] theorem modMx_time (c : Nat) (f : Matrix → Matrix) : (modMx s c f).time = s.time := rfl
@[simp] theorem modMx_fresh (c : Nat) (f : Matrix → Matrix) : (modMx s c f).fresh = s.fresh := rfl
@[simp] theorem modMx_issue (c : Nat) (f : Matrix → Matrix) : (modMx s c f).issue = s.issue := rfl
@[simp] theorem modMx_agenda (c : Nat) (f : Matrix → Matrix) : (modMx s c f).agenda = s.agenda := rfl
@[simp] theorem modMx_rota (c : Nat) (f : Matrix → Matrix) : (modMx s c f).rota = s.rota := rfl

/-! ## What is in flight -/

@[simp] theorem modReqs_cores (f : NMap Req → NMap Req) : (modReqs s f).cores = s.cores := rfl
@[simp] theorem modReqs_units (f : NMap Req → NMap Req) : (modReqs s f).units = s.units := rfl
@[simp] theorem modReqs_dies (f : NMap Req → NMap Req) : (modReqs s f).dies = s.dies := rfl
@[simp] theorem modReqs_doms (f : NMap Req → NMap Req) : (modReqs s f).doms = s.doms := rfl
@[simp] theorem modReqs_geckos (f : NMap Req → NMap Req) : (modReqs s f).geckos = s.geckos := rfl
@[simp] theorem modReqs_chans (f : NMap Req → NMap Req) : (modReqs s f).chans = s.chans := rfl
@[simp] theorem modReqs_mem (f : NMap Req → NMap Req) : (modReqs s f).mem = s.mem := rfl
@[simp] theorem modReqs_host (f : NMap Req → NMap Req) : (modReqs s f).host = s.host := rfl
@[simp] theorem modReqs_tasks (f : NMap Req → NMap Req) : (modReqs s f).tasks = s.tasks := rfl
@[simp] theorem modReqs_gov (f : NMap Req → NMap Req) : (modReqs s f).gov = s.gov := rfl
@[simp] theorem modReqs_regs (f : NMap Req → NMap Req) : (modReqs s f).regs = s.regs := rfl
@[simp] theorem modReqs_fab (f : NMap Req → NMap Req) : (modReqs s f).fab = s.fab := rfl
@[simp] theorem modReqs_chaez (f : NMap Req → NMap Req) : (modReqs s f).chaez = s.chaez := rfl
@[simp] theorem modReqs_boot (f : NMap Req → NMap Req) : (modReqs s f).boot = s.boot := rfl
@[simp] theorem modReqs_shared (f : NMap Req → NMap Req) : (modReqs s f).shared = s.shared := rfl
@[simp] theorem modReqs_time (f : NMap Req → NMap Req) : (modReqs s f).time = s.time := rfl
@[simp] theorem modReqs_fresh (f : NMap Req → NMap Req) : (modReqs s f).fresh = s.fresh := rfl
@[simp] theorem modReqs_issue (f : NMap Req → NMap Req) : (modReqs s f).issue = s.issue := rfl
@[simp] theorem modReqs_agenda (f : NMap Req → NMap Req) : (modReqs s f).agenda = s.agenda := rfl
@[simp] theorem modReqs_rota (f : NMap Req → NMap Req) : (modReqs s f).rota = s.rota := rfl

@[simp] theorem deferReq_cores (n : Nat) : (deferReq s n).cores = s.cores := rfl
@[simp] theorem deferReq_units (n : Nat) : (deferReq s n).units = s.units := rfl
@[simp] theorem deferReq_dies (n : Nat) : (deferReq s n).dies = s.dies := rfl
@[simp] theorem deferReq_doms (n : Nat) : (deferReq s n).doms = s.doms := rfl
@[simp] theorem deferReq_geckos (n : Nat) : (deferReq s n).geckos = s.geckos := rfl
@[simp] theorem deferReq_chans (n : Nat) : (deferReq s n).chans = s.chans := rfl
@[simp] theorem deferReq_mem (n : Nat) : (deferReq s n).mem = s.mem := rfl
@[simp] theorem deferReq_host (n : Nat) : (deferReq s n).host = s.host := rfl
@[simp] theorem deferReq_tasks (n : Nat) : (deferReq s n).tasks = s.tasks := rfl
@[simp] theorem deferReq_gov (n : Nat) : (deferReq s n).gov = s.gov := rfl
@[simp] theorem deferReq_regs (n : Nat) : (deferReq s n).regs = s.regs := rfl
@[simp] theorem deferReq_fab (n : Nat) : (deferReq s n).fab = s.fab := rfl
@[simp] theorem deferReq_chaez (n : Nat) : (deferReq s n).chaez = s.chaez := rfl
@[simp] theorem deferReq_boot (n : Nat) : (deferReq s n).boot = s.boot := rfl
@[simp] theorem deferReq_shared (n : Nat) : (deferReq s n).shared = s.shared := rfl
@[simp] theorem deferReq_time (n : Nat) : (deferReq s n).time = s.time := rfl
@[simp] theorem deferReq_fresh (n : Nat) : (deferReq s n).fresh = s.fresh := rfl
@[simp] theorem deferReq_issue (n : Nat) : (deferReq s n).issue = s.issue := rfl
@[simp] theorem deferReq_agenda (n : Nat) : (deferReq s n).agenda = s.agenda := rfl
@[simp] theorem deferReq_rota (n : Nat) : (deferReq s n).rota = s.rota := rfl

@[simp] theorem takeReq_cores (n : Nat) : (takeReq s n).cores = s.cores := rfl
@[simp] theorem takeReq_units (n : Nat) : (takeReq s n).units = s.units := rfl
@[simp] theorem takeReq_dies (n : Nat) : (takeReq s n).dies = s.dies := rfl
@[simp] theorem takeReq_doms (n : Nat) : (takeReq s n).doms = s.doms := rfl
@[simp] theorem takeReq_geckos (n : Nat) : (takeReq s n).geckos = s.geckos := rfl
@[simp] theorem takeReq_chans (n : Nat) : (takeReq s n).chans = s.chans := rfl
@[simp] theorem takeReq_mem (n : Nat) : (takeReq s n).mem = s.mem := rfl
@[simp] theorem takeReq_host (n : Nat) : (takeReq s n).host = s.host := rfl
@[simp] theorem takeReq_tasks (n : Nat) : (takeReq s n).tasks = s.tasks := rfl
@[simp] theorem takeReq_gov (n : Nat) : (takeReq s n).gov = s.gov := rfl
@[simp] theorem takeReq_regs (n : Nat) : (takeReq s n).regs = s.regs := rfl
@[simp] theorem takeReq_fab (n : Nat) : (takeReq s n).fab = s.fab := rfl
@[simp] theorem takeReq_chaez (n : Nat) : (takeReq s n).chaez = s.chaez := rfl
@[simp] theorem takeReq_boot (n : Nat) : (takeReq s n).boot = s.boot := rfl
@[simp] theorem takeReq_shared (n : Nat) : (takeReq s n).shared = s.shared := rfl
@[simp] theorem takeReq_time (n : Nat) : (takeReq s n).time = s.time := rfl
@[simp] theorem takeReq_fresh (n : Nat) : (takeReq s n).fresh = s.fresh := rfl
@[simp] theorem takeReq_issue (n : Nat) : (takeReq s n).issue = s.issue := rfl
@[simp] theorem takeReq_agenda (n : Nat) : (takeReq s n).agenda = s.agenda := rfl
@[simp] theorem takeReq_rota (n : Nat) : (takeReq s n).rota = s.rota := rfl

@[simp] theorem modTxns_cores (f : NMap Txn → NMap Txn) : (modTxns s f).cores = s.cores := rfl
@[simp] theorem modTxns_units (f : NMap Txn → NMap Txn) : (modTxns s f).units = s.units := rfl
@[simp] theorem modTxns_dies (f : NMap Txn → NMap Txn) : (modTxns s f).dies = s.dies := rfl
@[simp] theorem modTxns_doms (f : NMap Txn → NMap Txn) : (modTxns s f).doms = s.doms := rfl
@[simp] theorem modTxns_geckos (f : NMap Txn → NMap Txn) : (modTxns s f).geckos = s.geckos := rfl
@[simp] theorem modTxns_chans (f : NMap Txn → NMap Txn) : (modTxns s f).chans = s.chans := rfl
@[simp] theorem modTxns_mem (f : NMap Txn → NMap Txn) : (modTxns s f).mem = s.mem := rfl
@[simp] theorem modTxns_host (f : NMap Txn → NMap Txn) : (modTxns s f).host = s.host := rfl
@[simp] theorem modTxns_tasks (f : NMap Txn → NMap Txn) : (modTxns s f).tasks = s.tasks := rfl
@[simp] theorem modTxns_gov (f : NMap Txn → NMap Txn) : (modTxns s f).gov = s.gov := rfl
@[simp] theorem modTxns_regs (f : NMap Txn → NMap Txn) : (modTxns s f).regs = s.regs := rfl
@[simp] theorem modTxns_fab (f : NMap Txn → NMap Txn) : (modTxns s f).fab = s.fab := rfl
@[simp] theorem modTxns_chaez (f : NMap Txn → NMap Txn) : (modTxns s f).chaez = s.chaez := rfl
@[simp] theorem modTxns_boot (f : NMap Txn → NMap Txn) : (modTxns s f).boot = s.boot := rfl
@[simp] theorem modTxns_shared (f : NMap Txn → NMap Txn) : (modTxns s f).shared = s.shared := rfl
@[simp] theorem modTxns_time (f : NMap Txn → NMap Txn) : (modTxns s f).time = s.time := rfl
@[simp] theorem modTxns_fresh (f : NMap Txn → NMap Txn) : (modTxns s f).fresh = s.fresh := rfl
@[simp] theorem modTxns_issue (f : NMap Txn → NMap Txn) : (modTxns s f).issue = s.issue := rfl
@[simp] theorem modTxns_agenda (f : NMap Txn → NMap Txn) : (modTxns s f).agenda = s.agenda := rfl
@[simp] theorem modTxns_rota (f : NMap Txn → NMap Txn) : (modTxns s f).rota = s.rota := rfl

@[simp] theorem takeWalk_cores (n : Nat) : (takeWalk s n).cores = s.cores := rfl
@[simp] theorem takeWalk_units (n : Nat) : (takeWalk s n).units = s.units := rfl
@[simp] theorem takeWalk_dies (n : Nat) : (takeWalk s n).dies = s.dies := rfl
@[simp] theorem takeWalk_doms (n : Nat) : (takeWalk s n).doms = s.doms := rfl
@[simp] theorem takeWalk_geckos (n : Nat) : (takeWalk s n).geckos = s.geckos := rfl
@[simp] theorem takeWalk_chans (n : Nat) : (takeWalk s n).chans = s.chans := rfl
@[simp] theorem takeWalk_mem (n : Nat) : (takeWalk s n).mem = s.mem := rfl
@[simp] theorem takeWalk_host (n : Nat) : (takeWalk s n).host = s.host := rfl
@[simp] theorem takeWalk_tasks (n : Nat) : (takeWalk s n).tasks = s.tasks := rfl
@[simp] theorem takeWalk_gov (n : Nat) : (takeWalk s n).gov = s.gov := rfl
@[simp] theorem takeWalk_regs (n : Nat) : (takeWalk s n).regs = s.regs := rfl
@[simp] theorem takeWalk_fab (n : Nat) : (takeWalk s n).fab = s.fab := rfl
@[simp] theorem takeWalk_chaez (n : Nat) : (takeWalk s n).chaez = s.chaez := rfl
@[simp] theorem takeWalk_boot (n : Nat) : (takeWalk s n).boot = s.boot := rfl
@[simp] theorem takeWalk_shared (n : Nat) : (takeWalk s n).shared = s.shared := rfl
@[simp] theorem takeWalk_time (n : Nat) : (takeWalk s n).time = s.time := rfl
@[simp] theorem takeWalk_fresh (n : Nat) : (takeWalk s n).fresh = s.fresh := rfl
@[simp] theorem takeWalk_issue (n : Nat) : (takeWalk s n).issue = s.issue := rfl
@[simp] theorem takeWalk_agenda (n : Nat) : (takeWalk s n).agenda = s.agenda := rfl
@[simp] theorem takeWalk_rota (n : Nat) : (takeWalk s n).rota = s.rota := rfl

@[simp] theorem modWalk_cores (n : Nat) (f : WalkReq → WalkReq) : (modWalk s n f).cores = s.cores := rfl
@[simp] theorem modWalk_units (n : Nat) (f : WalkReq → WalkReq) : (modWalk s n f).units = s.units := rfl
@[simp] theorem modWalk_dies (n : Nat) (f : WalkReq → WalkReq) : (modWalk s n f).dies = s.dies := rfl
@[simp] theorem modWalk_doms (n : Nat) (f : WalkReq → WalkReq) : (modWalk s n f).doms = s.doms := rfl
@[simp] theorem modWalk_geckos (n : Nat) (f : WalkReq → WalkReq) : (modWalk s n f).geckos = s.geckos := rfl
@[simp] theorem modWalk_chans (n : Nat) (f : WalkReq → WalkReq) : (modWalk s n f).chans = s.chans := rfl
@[simp] theorem modWalk_mem (n : Nat) (f : WalkReq → WalkReq) : (modWalk s n f).mem = s.mem := rfl
@[simp] theorem modWalk_host (n : Nat) (f : WalkReq → WalkReq) : (modWalk s n f).host = s.host := rfl
@[simp] theorem modWalk_tasks (n : Nat) (f : WalkReq → WalkReq) : (modWalk s n f).tasks = s.tasks := rfl
@[simp] theorem modWalk_gov (n : Nat) (f : WalkReq → WalkReq) : (modWalk s n f).gov = s.gov := rfl
@[simp] theorem modWalk_regs (n : Nat) (f : WalkReq → WalkReq) : (modWalk s n f).regs = s.regs := rfl
@[simp] theorem modWalk_fab (n : Nat) (f : WalkReq → WalkReq) : (modWalk s n f).fab = s.fab := rfl
@[simp] theorem modWalk_chaez (n : Nat) (f : WalkReq → WalkReq) : (modWalk s n f).chaez = s.chaez := rfl
@[simp] theorem modWalk_boot (n : Nat) (f : WalkReq → WalkReq) : (modWalk s n f).boot = s.boot := rfl
@[simp] theorem modWalk_shared (n : Nat) (f : WalkReq → WalkReq) : (modWalk s n f).shared = s.shared := rfl
@[simp] theorem modWalk_time (n : Nat) (f : WalkReq → WalkReq) : (modWalk s n f).time = s.time := rfl
@[simp] theorem modWalk_fresh (n : Nat) (f : WalkReq → WalkReq) : (modWalk s n f).fresh = s.fresh := rfl
@[simp] theorem modWalk_issue (n : Nat) (f : WalkReq → WalkReq) : (modWalk s n f).issue = s.issue := rfl
@[simp] theorem modWalk_agenda (n : Nat) (f : WalkReq → WalkReq) : (modWalk s n f).agenda = s.agenda := rfl
@[simp] theorem modWalk_rota (n : Nat) (f : WalkReq → WalkReq) : (modWalk s n f).rota = s.rota := rfl

@[simp] theorem postMsg_cores (m : Msg) : (postMsg s m).cores = s.cores := rfl
@[simp] theorem postMsg_units (m : Msg) : (postMsg s m).units = s.units := rfl
@[simp] theorem postMsg_dies (m : Msg) : (postMsg s m).dies = s.dies := rfl
@[simp] theorem postMsg_doms (m : Msg) : (postMsg s m).doms = s.doms := rfl
@[simp] theorem postMsg_geckos (m : Msg) : (postMsg s m).geckos = s.geckos := rfl
@[simp] theorem postMsg_chans (m : Msg) : (postMsg s m).chans = s.chans := rfl
@[simp] theorem postMsg_mem (m : Msg) : (postMsg s m).mem = s.mem := rfl
@[simp] theorem postMsg_host (m : Msg) : (postMsg s m).host = s.host := rfl
@[simp] theorem postMsg_tasks (m : Msg) : (postMsg s m).tasks = s.tasks := rfl
@[simp] theorem postMsg_gov (m : Msg) : (postMsg s m).gov = s.gov := rfl
@[simp] theorem postMsg_regs (m : Msg) : (postMsg s m).regs = s.regs := rfl
@[simp] theorem postMsg_fab (m : Msg) : (postMsg s m).fab = s.fab := rfl
@[simp] theorem postMsg_chaez (m : Msg) : (postMsg s m).chaez = s.chaez := rfl
@[simp] theorem postMsg_boot (m : Msg) : (postMsg s m).boot = s.boot := rfl
@[simp] theorem postMsg_shared (m : Msg) : (postMsg s m).shared = s.shared := rfl
@[simp] theorem postMsg_time (m : Msg) : (postMsg s m).time = s.time := rfl
@[simp] theorem postMsg_fresh (m : Msg) : (postMsg s m).fresh = s.fresh := rfl
@[simp] theorem postMsg_issue (m : Msg) : (postMsg s m).issue = s.issue := rfl
@[simp] theorem postMsg_agenda (m : Msg) : (postMsg s m).agenda = s.agenda := rfl
@[simp] theorem postMsg_rota (m : Msg) : (postMsg s m).rota = s.rota := rfl

@[simp] theorem putMsg_cores (n : Nat) (m : Msg) : (putMsg s n m).cores = s.cores := rfl
@[simp] theorem putMsg_units (n : Nat) (m : Msg) : (putMsg s n m).units = s.units := rfl
@[simp] theorem putMsg_dies (n : Nat) (m : Msg) : (putMsg s n m).dies = s.dies := rfl
@[simp] theorem putMsg_doms (n : Nat) (m : Msg) : (putMsg s n m).doms = s.doms := rfl
@[simp] theorem putMsg_geckos (n : Nat) (m : Msg) : (putMsg s n m).geckos = s.geckos := rfl
@[simp] theorem putMsg_chans (n : Nat) (m : Msg) : (putMsg s n m).chans = s.chans := rfl
@[simp] theorem putMsg_mem (n : Nat) (m : Msg) : (putMsg s n m).mem = s.mem := rfl
@[simp] theorem putMsg_host (n : Nat) (m : Msg) : (putMsg s n m).host = s.host := rfl
@[simp] theorem putMsg_tasks (n : Nat) (m : Msg) : (putMsg s n m).tasks = s.tasks := rfl
@[simp] theorem putMsg_gov (n : Nat) (m : Msg) : (putMsg s n m).gov = s.gov := rfl
@[simp] theorem putMsg_regs (n : Nat) (m : Msg) : (putMsg s n m).regs = s.regs := rfl
@[simp] theorem putMsg_fab (n : Nat) (m : Msg) : (putMsg s n m).fab = s.fab := rfl
@[simp] theorem putMsg_chaez (n : Nat) (m : Msg) : (putMsg s n m).chaez = s.chaez := rfl
@[simp] theorem putMsg_boot (n : Nat) (m : Msg) : (putMsg s n m).boot = s.boot := rfl
@[simp] theorem putMsg_shared (n : Nat) (m : Msg) : (putMsg s n m).shared = s.shared := rfl
@[simp] theorem putMsg_time (n : Nat) (m : Msg) : (putMsg s n m).time = s.time := rfl
@[simp] theorem putMsg_fresh (n : Nat) (m : Msg) : (putMsg s n m).fresh = s.fresh := rfl
@[simp] theorem putMsg_issue (n : Nat) (m : Msg) : (putMsg s n m).issue = s.issue := rfl
@[simp] theorem putMsg_agenda (n : Nat) (m : Msg) : (putMsg s n m).agenda = s.agenda := rfl
@[simp] theorem putMsg_rota (n : Nat) (m : Msg) : (putMsg s n m).rota = s.rota := rfl

@[simp] theorem takeMsg_cores (n : Nat) : (takeMsg s n).cores = s.cores := rfl
@[simp] theorem takeMsg_units (n : Nat) : (takeMsg s n).units = s.units := rfl
@[simp] theorem takeMsg_dies (n : Nat) : (takeMsg s n).dies = s.dies := rfl
@[simp] theorem takeMsg_doms (n : Nat) : (takeMsg s n).doms = s.doms := rfl
@[simp] theorem takeMsg_geckos (n : Nat) : (takeMsg s n).geckos = s.geckos := rfl
@[simp] theorem takeMsg_chans (n : Nat) : (takeMsg s n).chans = s.chans := rfl
@[simp] theorem takeMsg_mem (n : Nat) : (takeMsg s n).mem = s.mem := rfl
@[simp] theorem takeMsg_host (n : Nat) : (takeMsg s n).host = s.host := rfl
@[simp] theorem takeMsg_tasks (n : Nat) : (takeMsg s n).tasks = s.tasks := rfl
@[simp] theorem takeMsg_gov (n : Nat) : (takeMsg s n).gov = s.gov := rfl
@[simp] theorem takeMsg_regs (n : Nat) : (takeMsg s n).regs = s.regs := rfl
@[simp] theorem takeMsg_fab (n : Nat) : (takeMsg s n).fab = s.fab := rfl
@[simp] theorem takeMsg_chaez (n : Nat) : (takeMsg s n).chaez = s.chaez := rfl
@[simp] theorem takeMsg_boot (n : Nat) : (takeMsg s n).boot = s.boot := rfl
@[simp] theorem takeMsg_shared (n : Nat) : (takeMsg s n).shared = s.shared := rfl
@[simp] theorem takeMsg_time (n : Nat) : (takeMsg s n).time = s.time := rfl
@[simp] theorem takeMsg_fresh (n : Nat) : (takeMsg s n).fresh = s.fresh := rfl
@[simp] theorem takeMsg_issue (n : Nat) : (takeMsg s n).issue = s.issue := rfl
@[simp] theorem takeMsg_agenda (n : Nat) : (takeMsg s n).agenda = s.agenda := rfl
@[simp] theorem takeMsg_rota (n : Nat) : (takeMsg s n).rota = s.rota := rfl

@[simp] theorem freshId_cores : (freshId s).2.cores = s.cores := rfl
@[simp] theorem freshId_units : (freshId s).2.units = s.units := rfl
@[simp] theorem freshId_dies : (freshId s).2.dies = s.dies := rfl
@[simp] theorem freshId_doms : (freshId s).2.doms = s.doms := rfl
@[simp] theorem freshId_geckos : (freshId s).2.geckos = s.geckos := rfl
@[simp] theorem freshId_chans : (freshId s).2.chans = s.chans := rfl
@[simp] theorem freshId_mem : (freshId s).2.mem = s.mem := rfl
@[simp] theorem freshId_host : (freshId s).2.host = s.host := rfl
@[simp] theorem freshId_tasks : (freshId s).2.tasks = s.tasks := rfl
@[simp] theorem freshId_gov : (freshId s).2.gov = s.gov := rfl
@[simp] theorem freshId_regs : (freshId s).2.regs = s.regs := rfl
@[simp] theorem freshId_fab : (freshId s).2.fab = s.fab := rfl
@[simp] theorem freshId_chaez : (freshId s).2.chaez = s.chaez := rfl
@[simp] theorem freshId_boot : (freshId s).2.boot = s.boot := rfl
@[simp] theorem freshId_shared : (freshId s).2.shared = s.shared := rfl
@[simp] theorem freshId_time : (freshId s).2.time = s.time := rfl
@[simp] theorem freshId_fresh : (freshId s).2.fresh = s.fresh := rfl
@[simp] theorem freshId_issue : (freshId s).2.issue = s.issue := rfl
@[simp] theorem freshId_agenda : (freshId s).2.agenda = s.agenda := rfl
@[simp] theorem freshId_rota : (freshId s).2.rota = s.rota := rfl

/-! ## The rest of the device -/

@[simp] theorem freeVal_cores : (freeVal s).2.cores = s.cores := rfl
@[simp] theorem freeVal_units : (freeVal s).2.units = s.units := rfl
@[simp] theorem freeVal_dies : (freeVal s).2.dies = s.dies := rfl
@[simp] theorem freeVal_doms : (freeVal s).2.doms = s.doms := rfl
@[simp] theorem freeVal_geckos : (freeVal s).2.geckos = s.geckos := rfl
@[simp] theorem freeVal_chans : (freeVal s).2.chans = s.chans := rfl
@[simp] theorem freeVal_mem : (freeVal s).2.mem = s.mem := rfl
@[simp] theorem freeVal_host : (freeVal s).2.host = s.host := rfl
@[simp] theorem freeVal_net : (freeVal s).2.net = s.net := rfl
@[simp] theorem freeVal_tasks : (freeVal s).2.tasks = s.tasks := rfl
@[simp] theorem freeVal_gov : (freeVal s).2.gov = s.gov := rfl
@[simp] theorem freeVal_regs : (freeVal s).2.regs = s.regs := rfl
@[simp] theorem freeVal_fab : (freeVal s).2.fab = s.fab := rfl
@[simp] theorem freeVal_chaez : (freeVal s).2.chaez = s.chaez := rfl
@[simp] theorem freeVal_boot : (freeVal s).2.boot = s.boot := rfl
@[simp] theorem freeVal_shared : (freeVal s).2.shared = s.shared := rfl
@[simp] theorem freeVal_time : (freeVal s).2.time = s.time := rfl
@[simp] theorem freeVal_issue : (freeVal s).2.issue = s.issue := rfl
@[simp] theorem freeVal_agenda : (freeVal s).2.agenda = s.agenda := rfl
@[simp] theorem freeVal_rota : (freeVal s).2.rota = s.rota := rfl

@[simp] theorem modDie_cores (d : Nat) (f : Die → Die) : (modDie s d f).cores = s.cores := rfl
@[simp] theorem modDie_units (d : Nat) (f : Die → Die) : (modDie s d f).units = s.units := rfl
@[simp] theorem modDie_doms (d : Nat) (f : Die → Die) : (modDie s d f).doms = s.doms := rfl
@[simp] theorem modDie_geckos (d : Nat) (f : Die → Die) : (modDie s d f).geckos = s.geckos := rfl
@[simp] theorem modDie_chans (d : Nat) (f : Die → Die) : (modDie s d f).chans = s.chans := rfl
@[simp] theorem modDie_mem (d : Nat) (f : Die → Die) : (modDie s d f).mem = s.mem := rfl
@[simp] theorem modDie_host (d : Nat) (f : Die → Die) : (modDie s d f).host = s.host := rfl
@[simp] theorem modDie_net (d : Nat) (f : Die → Die) : (modDie s d f).net = s.net := rfl
@[simp] theorem modDie_tasks (d : Nat) (f : Die → Die) : (modDie s d f).tasks = s.tasks := rfl
@[simp] theorem modDie_gov (d : Nat) (f : Die → Die) : (modDie s d f).gov = s.gov := rfl
@[simp] theorem modDie_regs (d : Nat) (f : Die → Die) : (modDie s d f).regs = s.regs := rfl
@[simp] theorem modDie_fab (d : Nat) (f : Die → Die) : (modDie s d f).fab = s.fab := rfl
@[simp] theorem modDie_chaez (d : Nat) (f : Die → Die) : (modDie s d f).chaez = s.chaez := rfl
@[simp] theorem modDie_boot (d : Nat) (f : Die → Die) : (modDie s d f).boot = s.boot := rfl
@[simp] theorem modDie_shared (d : Nat) (f : Die → Die) : (modDie s d f).shared = s.shared := rfl
@[simp] theorem modDie_time (d : Nat) (f : Die → Die) : (modDie s d f).time = s.time := rfl
@[simp] theorem modDie_fresh (d : Nat) (f : Die → Die) : (modDie s d f).fresh = s.fresh := rfl
@[simp] theorem modDie_issue (d : Nat) (f : Die → Die) : (modDie s d f).issue = s.issue := rfl
@[simp] theorem modDie_agenda (d : Nat) (f : Die → Die) : (modDie s d f).agenda = s.agenda := rfl
@[simp] theorem modDie_rota (d : Nat) (f : Die → Die) : (modDie s d f).rota = s.rota := rfl

@[simp] theorem sendFrame_cores (x : Frame) : (sendFrame s x).cores = s.cores := rfl
@[simp] theorem sendFrame_units (x : Frame) : (sendFrame s x).units = s.units := rfl
@[simp] theorem sendFrame_dies (x : Frame) : (sendFrame s x).dies = s.dies := rfl
@[simp] theorem sendFrame_doms (x : Frame) : (sendFrame s x).doms = s.doms := rfl
@[simp] theorem sendFrame_geckos (x : Frame) : (sendFrame s x).geckos = s.geckos := rfl
@[simp] theorem sendFrame_chans (x : Frame) : (sendFrame s x).chans = s.chans := rfl
@[simp] theorem sendFrame_mem (x : Frame) : (sendFrame s x).mem = s.mem := rfl
@[simp] theorem sendFrame_host (x : Frame) : (sendFrame s x).host = s.host := rfl
@[simp] theorem sendFrame_net (x : Frame) : (sendFrame s x).net = s.net := rfl
@[simp] theorem sendFrame_tasks (x : Frame) : (sendFrame s x).tasks = s.tasks := rfl
@[simp] theorem sendFrame_gov (x : Frame) : (sendFrame s x).gov = s.gov := rfl
@[simp] theorem sendFrame_regs (x : Frame) : (sendFrame s x).regs = s.regs := rfl
@[simp] theorem sendFrame_fab (x : Frame) : (sendFrame s x).fab = s.fab := rfl
@[simp] theorem sendFrame_boot (x : Frame) : (sendFrame s x).boot = s.boot := rfl
@[simp] theorem sendFrame_shared (x : Frame) : (sendFrame s x).shared = s.shared := rfl
@[simp] theorem sendFrame_time (x : Frame) : (sendFrame s x).time = s.time := rfl
@[simp] theorem sendFrame_fresh (x : Frame) : (sendFrame s x).fresh = s.fresh := rfl
@[simp] theorem sendFrame_issue (x : Frame) : (sendFrame s x).issue = s.issue := rfl
@[simp] theorem sendFrame_agenda (x : Frame) : (sendFrame s x).agenda = s.agenda := rfl
@[simp] theorem sendFrame_rota (x : Frame) : (sendFrame s x).rota = s.rota := rfl

@[simp] theorem postNotice_cores (d : Nat) (r : BitVec 256) : (postNotice s d r).cores = s.cores := rfl
@[simp] theorem postNotice_units (d : Nat) (r : BitVec 256) : (postNotice s d r).units = s.units := rfl
@[simp] theorem postNotice_dies (d : Nat) (r : BitVec 256) : (postNotice s d r).dies = s.dies := rfl
@[simp] theorem postNotice_doms (d : Nat) (r : BitVec 256) : (postNotice s d r).doms = s.doms := rfl
@[simp] theorem postNotice_geckos (d : Nat) (r : BitVec 256) : (postNotice s d r).geckos = s.geckos := rfl
@[simp] theorem postNotice_chans (d : Nat) (r : BitVec 256) : (postNotice s d r).chans = s.chans := rfl
@[simp] theorem postNotice_mem (d : Nat) (r : BitVec 256) : (postNotice s d r).mem = s.mem := rfl
@[simp] theorem postNotice_host (d : Nat) (r : BitVec 256) : (postNotice s d r).host = s.host := rfl
@[simp] theorem postNotice_net (d : Nat) (r : BitVec 256) : (postNotice s d r).net = s.net := rfl
@[simp] theorem postNotice_tasks (d : Nat) (r : BitVec 256) : (postNotice s d r).tasks = s.tasks := rfl
@[simp] theorem postNotice_gov (d : Nat) (r : BitVec 256) : (postNotice s d r).gov = s.gov := rfl
@[simp] theorem postNotice_regs (d : Nat) (r : BitVec 256) : (postNotice s d r).regs = s.regs := rfl
@[simp] theorem postNotice_fab (d : Nat) (r : BitVec 256) : (postNotice s d r).fab = s.fab := rfl
@[simp] theorem postNotice_boot (d : Nat) (r : BitVec 256) : (postNotice s d r).boot = s.boot := rfl
@[simp] theorem postNotice_shared (d : Nat) (r : BitVec 256) : (postNotice s d r).shared = s.shared := rfl
@[simp] theorem postNotice_time (d : Nat) (r : BitVec 256) : (postNotice s d r).time = s.time := rfl
@[simp] theorem postNotice_fresh (d : Nat) (r : BitVec 256) : (postNotice s d r).fresh = s.fresh := rfl
@[simp] theorem postNotice_issue (d : Nat) (r : BitVec 256) : (postNotice s d r).issue = s.issue := rfl
@[simp] theorem postNotice_agenda (d : Nat) (r : BitVec 256) : (postNotice s d r).agenda = s.agenda := rfl
@[simp] theorem postNotice_rota (d : Nat) (r : BitVec 256) : (postNotice s d r).rota = s.rota := rfl

@[simp] theorem bumpDev_cores (n : Nat) : (bumpDev s n).cores = s.cores := rfl
@[simp] theorem bumpDev_units (n : Nat) : (bumpDev s n).units = s.units := rfl
@[simp] theorem bumpDev_dies (n : Nat) : (bumpDev s n).dies = s.dies := rfl
@[simp] theorem bumpDev_doms (n : Nat) : (bumpDev s n).doms = s.doms := rfl
@[simp] theorem bumpDev_geckos (n : Nat) : (bumpDev s n).geckos = s.geckos := rfl
@[simp] theorem bumpDev_chans (n : Nat) : (bumpDev s n).chans = s.chans := rfl
@[simp] theorem bumpDev_mem (n : Nat) : (bumpDev s n).mem = s.mem := rfl
@[simp] theorem bumpDev_host (n : Nat) : (bumpDev s n).host = s.host := rfl
@[simp] theorem bumpDev_net (n : Nat) : (bumpDev s n).net = s.net := rfl
@[simp] theorem bumpDev_tasks (n : Nat) : (bumpDev s n).tasks = s.tasks := rfl
@[simp] theorem bumpDev_gov (n : Nat) : (bumpDev s n).gov = s.gov := rfl
@[simp] theorem bumpDev_regs (n : Nat) : (bumpDev s n).regs = s.regs := rfl
@[simp] theorem bumpDev_fab (n : Nat) : (bumpDev s n).fab = s.fab := rfl
@[simp] theorem bumpDev_chaez (n : Nat) : (bumpDev s n).chaez = s.chaez := rfl
@[simp] theorem bumpDev_boot (n : Nat) : (bumpDev s n).boot = s.boot := rfl
@[simp] theorem bumpDev_time (n : Nat) : (bumpDev s n).time = s.time := rfl
@[simp] theorem bumpDev_fresh (n : Nat) : (bumpDev s n).fresh = s.fresh := rfl
@[simp] theorem bumpDev_issue (n : Nat) : (bumpDev s n).issue = s.issue := rfl
@[simp] theorem bumpDev_agenda (n : Nat) : (bumpDev s n).agenda = s.agenda := rfl
@[simp] theorem bumpDev_rota (n : Nat) : (bumpDev s n).rota = s.rota := rfl

@[simp] theorem modUnit_cores (u : Nat) (f : XUnit → XUnit) : (modUnit s u f).cores = s.cores := rfl
@[simp] theorem modUnit_dies (u : Nat) (f : XUnit → XUnit) : (modUnit s u f).dies = s.dies := rfl
@[simp] theorem modUnit_doms (u : Nat) (f : XUnit → XUnit) : (modUnit s u f).doms = s.doms := rfl
@[simp] theorem modUnit_geckos (u : Nat) (f : XUnit → XUnit) : (modUnit s u f).geckos = s.geckos := rfl
@[simp] theorem modUnit_chans (u : Nat) (f : XUnit → XUnit) : (modUnit s u f).chans = s.chans := rfl
@[simp] theorem modUnit_mem (u : Nat) (f : XUnit → XUnit) : (modUnit s u f).mem = s.mem := rfl
@[simp] theorem modUnit_host (u : Nat) (f : XUnit → XUnit) : (modUnit s u f).host = s.host := rfl
@[simp] theorem modUnit_net (u : Nat) (f : XUnit → XUnit) : (modUnit s u f).net = s.net := rfl
@[simp] theorem modUnit_tasks (u : Nat) (f : XUnit → XUnit) : (modUnit s u f).tasks = s.tasks := rfl
@[simp] theorem modUnit_gov (u : Nat) (f : XUnit → XUnit) : (modUnit s u f).gov = s.gov := rfl
@[simp] theorem modUnit_regs (u : Nat) (f : XUnit → XUnit) : (modUnit s u f).regs = s.regs := rfl
@[simp] theorem modUnit_fab (u : Nat) (f : XUnit → XUnit) : (modUnit s u f).fab = s.fab := rfl
@[simp] theorem modUnit_chaez (u : Nat) (f : XUnit → XUnit) : (modUnit s u f).chaez = s.chaez := rfl
@[simp] theorem modUnit_boot (u : Nat) (f : XUnit → XUnit) : (modUnit s u f).boot = s.boot := rfl
@[simp] theorem modUnit_shared (u : Nat) (f : XUnit → XUnit) : (modUnit s u f).shared = s.shared := rfl
@[simp] theorem modUnit_time (u : Nat) (f : XUnit → XUnit) : (modUnit s u f).time = s.time := rfl
@[simp] theorem modUnit_fresh (u : Nat) (f : XUnit → XUnit) : (modUnit s u f).fresh = s.fresh := rfl
@[simp] theorem modUnit_issue (u : Nat) (f : XUnit → XUnit) : (modUnit s u f).issue = s.issue := rfl
@[simp] theorem modUnit_agenda (u : Nat) (f : XUnit → XUnit) : (modUnit s u f).agenda = s.agenda := rfl
@[simp] theorem modUnit_rota (u : Nat) (f : XUnit → XUnit) : (modUnit s u f).rota = s.rota := rfl

@[simp] theorem modGk_cores (g : Nat) (f : Gecko → Gecko) : (modGk s g f).cores = s.cores := rfl
@[simp] theorem modGk_units (g : Nat) (f : Gecko → Gecko) : (modGk s g f).units = s.units := rfl
@[simp] theorem modGk_dies (g : Nat) (f : Gecko → Gecko) : (modGk s g f).dies = s.dies := rfl
@[simp] theorem modGk_doms (g : Nat) (f : Gecko → Gecko) : (modGk s g f).doms = s.doms := rfl
@[simp] theorem modGk_chans (g : Nat) (f : Gecko → Gecko) : (modGk s g f).chans = s.chans := rfl
@[simp] theorem modGk_mem (g : Nat) (f : Gecko → Gecko) : (modGk s g f).mem = s.mem := rfl
@[simp] theorem modGk_host (g : Nat) (f : Gecko → Gecko) : (modGk s g f).host = s.host := rfl
@[simp] theorem modGk_net (g : Nat) (f : Gecko → Gecko) : (modGk s g f).net = s.net := rfl
@[simp] theorem modGk_tasks (g : Nat) (f : Gecko → Gecko) : (modGk s g f).tasks = s.tasks := rfl
@[simp] theorem modGk_gov (g : Nat) (f : Gecko → Gecko) : (modGk s g f).gov = s.gov := rfl
@[simp] theorem modGk_regs (g : Nat) (f : Gecko → Gecko) : (modGk s g f).regs = s.regs := rfl
@[simp] theorem modGk_fab (g : Nat) (f : Gecko → Gecko) : (modGk s g f).fab = s.fab := rfl
@[simp] theorem modGk_chaez (g : Nat) (f : Gecko → Gecko) : (modGk s g f).chaez = s.chaez := rfl
@[simp] theorem modGk_boot (g : Nat) (f : Gecko → Gecko) : (modGk s g f).boot = s.boot := rfl
@[simp] theorem modGk_shared (g : Nat) (f : Gecko → Gecko) : (modGk s g f).shared = s.shared := rfl
@[simp] theorem modGk_time (g : Nat) (f : Gecko → Gecko) : (modGk s g f).time = s.time := rfl
@[simp] theorem modGk_fresh (g : Nat) (f : Gecko → Gecko) : (modGk s g f).fresh = s.fresh := rfl
@[simp] theorem modGk_issue (g : Nat) (f : Gecko → Gecko) : (modGk s g f).issue = s.issue := rfl
@[simp] theorem modGk_agenda (g : Nat) (f : Gecko → Gecko) : (modGk s g f).agenda = s.agenda := rfl
@[simp] theorem modGk_rota (g : Nat) (f : Gecko → Gecko) : (modGk s g f).rota = s.rota := rfl

@[simp] theorem modChan_cores (c : Nat) (f : Channel → Channel) : (modChan s c f).cores = s.cores := rfl
@[simp] theorem modChan_units (c : Nat) (f : Channel → Channel) : (modChan s c f).units = s.units := rfl
@[simp] theorem modChan_dies (c : Nat) (f : Channel → Channel) : (modChan s c f).dies = s.dies := rfl
@[simp] theorem modChan_doms (c : Nat) (f : Channel → Channel) : (modChan s c f).doms = s.doms := rfl
@[simp] theorem modChan_geckos (c : Nat) (f : Channel → Channel) : (modChan s c f).geckos = s.geckos := rfl
@[simp] theorem modChan_mem (c : Nat) (f : Channel → Channel) : (modChan s c f).mem = s.mem := rfl
@[simp] theorem modChan_host (c : Nat) (f : Channel → Channel) : (modChan s c f).host = s.host := rfl
@[simp] theorem modChan_net (c : Nat) (f : Channel → Channel) : (modChan s c f).net = s.net := rfl
@[simp] theorem modChan_tasks (c : Nat) (f : Channel → Channel) : (modChan s c f).tasks = s.tasks := rfl
@[simp] theorem modChan_gov (c : Nat) (f : Channel → Channel) : (modChan s c f).gov = s.gov := rfl
@[simp] theorem modChan_regs (c : Nat) (f : Channel → Channel) : (modChan s c f).regs = s.regs := rfl
@[simp] theorem modChan_fab (c : Nat) (f : Channel → Channel) : (modChan s c f).fab = s.fab := rfl
@[simp] theorem modChan_chaez (c : Nat) (f : Channel → Channel) : (modChan s c f).chaez = s.chaez := rfl
@[simp] theorem modChan_boot (c : Nat) (f : Channel → Channel) : (modChan s c f).boot = s.boot := rfl
@[simp] theorem modChan_shared (c : Nat) (f : Channel → Channel) : (modChan s c f).shared = s.shared := rfl
@[simp] theorem modChan_time (c : Nat) (f : Channel → Channel) : (modChan s c f).time = s.time := rfl
@[simp] theorem modChan_fresh (c : Nat) (f : Channel → Channel) : (modChan s c f).fresh = s.fresh := rfl
@[simp] theorem modChan_issue (c : Nat) (f : Channel → Channel) : (modChan s c f).issue = s.issue := rfl
@[simp] theorem modChan_agenda (c : Nat) (f : Channel → Channel) : (modChan s c f).agenda = s.agenda := rfl
@[simp] theorem modChan_rota (c : Nat) (f : Channel → Channel) : (modChan s c f).rota = s.rota := rfl

@[simp] theorem modDom_cores (d : Nat) (f : Domain → Domain) : (modDom s d f).cores = s.cores := rfl
@[simp] theorem modDom_units (d : Nat) (f : Domain → Domain) : (modDom s d f).units = s.units := rfl
@[simp] theorem modDom_dies (d : Nat) (f : Domain → Domain) : (modDom s d f).dies = s.dies := rfl
@[simp] theorem modDom_geckos (d : Nat) (f : Domain → Domain) : (modDom s d f).geckos = s.geckos := rfl
@[simp] theorem modDom_chans (d : Nat) (f : Domain → Domain) : (modDom s d f).chans = s.chans := rfl
@[simp] theorem modDom_mem (d : Nat) (f : Domain → Domain) : (modDom s d f).mem = s.mem := rfl
@[simp] theorem modDom_host (d : Nat) (f : Domain → Domain) : (modDom s d f).host = s.host := rfl
@[simp] theorem modDom_net (d : Nat) (f : Domain → Domain) : (modDom s d f).net = s.net := rfl
@[simp] theorem modDom_tasks (d : Nat) (f : Domain → Domain) : (modDom s d f).tasks = s.tasks := rfl
@[simp] theorem modDom_gov (d : Nat) (f : Domain → Domain) : (modDom s d f).gov = s.gov := rfl
@[simp] theorem modDom_regs (d : Nat) (f : Domain → Domain) : (modDom s d f).regs = s.regs := rfl
@[simp] theorem modDom_fab (d : Nat) (f : Domain → Domain) : (modDom s d f).fab = s.fab := rfl
@[simp] theorem modDom_chaez (d : Nat) (f : Domain → Domain) : (modDom s d f).chaez = s.chaez := rfl
@[simp] theorem modDom_boot (d : Nat) (f : Domain → Domain) : (modDom s d f).boot = s.boot := rfl
@[simp] theorem modDom_shared (d : Nat) (f : Domain → Domain) : (modDom s d f).shared = s.shared := rfl
@[simp] theorem modDom_time (d : Nat) (f : Domain → Domain) : (modDom s d f).time = s.time := rfl
@[simp] theorem modDom_fresh (d : Nat) (f : Domain → Domain) : (modDom s d f).fresh = s.fresh := rfl
@[simp] theorem modDom_issue (d : Nat) (f : Domain → Domain) : (modDom s d f).issue = s.issue := rfl
@[simp] theorem modDom_agenda (d : Nat) (f : Domain → Domain) : (modDom s d f).agenda = s.agenda := rfl
@[simp] theorem modDom_rota (d : Nat) (f : Domain → Domain) : (modDom s d f).rota = s.rota := rfl

@[simp] theorem modHost_cores (f : HostPort → HostPort) : (modHost s f).cores = s.cores := rfl
@[simp] theorem modHost_units (f : HostPort → HostPort) : (modHost s f).units = s.units := rfl
@[simp] theorem modHost_dies (f : HostPort → HostPort) : (modHost s f).dies = s.dies := rfl
@[simp] theorem modHost_doms (f : HostPort → HostPort) : (modHost s f).doms = s.doms := rfl
@[simp] theorem modHost_geckos (f : HostPort → HostPort) : (modHost s f).geckos = s.geckos := rfl
@[simp] theorem modHost_chans (f : HostPort → HostPort) : (modHost s f).chans = s.chans := rfl
@[simp] theorem modHost_mem (f : HostPort → HostPort) : (modHost s f).mem = s.mem := rfl
@[simp] theorem modHost_net (f : HostPort → HostPort) : (modHost s f).net = s.net := rfl
@[simp] theorem modHost_tasks (f : HostPort → HostPort) : (modHost s f).tasks = s.tasks := rfl
@[simp] theorem modHost_gov (f : HostPort → HostPort) : (modHost s f).gov = s.gov := rfl
@[simp] theorem modHost_regs (f : HostPort → HostPort) : (modHost s f).regs = s.regs := rfl
@[simp] theorem modHost_fab (f : HostPort → HostPort) : (modHost s f).fab = s.fab := rfl
@[simp] theorem modHost_chaez (f : HostPort → HostPort) : (modHost s f).chaez = s.chaez := rfl
@[simp] theorem modHost_boot (f : HostPort → HostPort) : (modHost s f).boot = s.boot := rfl
@[simp] theorem modHost_shared (f : HostPort → HostPort) : (modHost s f).shared = s.shared := rfl
@[simp] theorem modHost_time (f : HostPort → HostPort) : (modHost s f).time = s.time := rfl
@[simp] theorem modHost_fresh (f : HostPort → HostPort) : (modHost s f).fresh = s.fresh := rfl
@[simp] theorem modHost_issue (f : HostPort → HostPort) : (modHost s f).issue = s.issue := rfl
@[simp] theorem modHost_agenda (f : HostPort → HostPort) : (modHost s f).agenda = s.agenda := rfl
@[simp] theorem modHost_rota (f : HostPort → HostPort) : (modHost s f).rota = s.rota := rfl

@[simp] theorem modTask_cores (a : Nat) (f : Task → Task) : (modTask s a f).cores = s.cores := rfl
@[simp] theorem modTask_units (a : Nat) (f : Task → Task) : (modTask s a f).units = s.units := rfl
@[simp] theorem modTask_dies (a : Nat) (f : Task → Task) : (modTask s a f).dies = s.dies := rfl
@[simp] theorem modTask_doms (a : Nat) (f : Task → Task) : (modTask s a f).doms = s.doms := rfl
@[simp] theorem modTask_geckos (a : Nat) (f : Task → Task) : (modTask s a f).geckos = s.geckos := rfl
@[simp] theorem modTask_chans (a : Nat) (f : Task → Task) : (modTask s a f).chans = s.chans := rfl
@[simp] theorem modTask_mem (a : Nat) (f : Task → Task) : (modTask s a f).mem = s.mem := rfl
@[simp] theorem modTask_host (a : Nat) (f : Task → Task) : (modTask s a f).host = s.host := rfl
@[simp] theorem modTask_net (a : Nat) (f : Task → Task) : (modTask s a f).net = s.net := rfl
@[simp] theorem modTask_gov (a : Nat) (f : Task → Task) : (modTask s a f).gov = s.gov := rfl
@[simp] theorem modTask_regs (a : Nat) (f : Task → Task) : (modTask s a f).regs = s.regs := rfl
@[simp] theorem modTask_fab (a : Nat) (f : Task → Task) : (modTask s a f).fab = s.fab := rfl
@[simp] theorem modTask_chaez (a : Nat) (f : Task → Task) : (modTask s a f).chaez = s.chaez := rfl
@[simp] theorem modTask_boot (a : Nat) (f : Task → Task) : (modTask s a f).boot = s.boot := rfl
@[simp] theorem modTask_shared (a : Nat) (f : Task → Task) : (modTask s a f).shared = s.shared := rfl
@[simp] theorem modTask_time (a : Nat) (f : Task → Task) : (modTask s a f).time = s.time := rfl
@[simp] theorem modTask_fresh (a : Nat) (f : Task → Task) : (modTask s a f).fresh = s.fresh := rfl
@[simp] theorem modTask_issue (a : Nat) (f : Task → Task) : (modTask s a f).issue = s.issue := rfl
@[simp] theorem modTask_agenda (a : Nat) (f : Task → Task) : (modTask s a f).agenda = s.agenda := rfl
@[simp] theorem modTask_rota (a : Nat) (f : Task → Task) : (modTask s a f).rota = s.rota := rfl

/-! ## A fibre leaves its strand, and parks -/

theorem leaveStrand_eq (c sl : Nat) : leaveStrand s c sl = { s with cores := (leaveStrand s c sl).cores } := by
  unfold leaveStrand
  split <;> (try split) <;> rfl

theorem parkFib_eq (c sl : Nat) (w : Park) (x : Wait) :
    parkFib s c sl w x = { s with cores := (parkFib s c sl w x).cores } := by
  unfold parkFib
  rw [leaveStrand_eq]
  rfl

/-! ## A request is sent, a notice goes out -/

theorem dropRow_eq (c : Nat) (loc : Loc) (n : Nat) :
    dropRow s c loc n = { s with cores := (dropRow s c loc n).cores } := by
  unfold dropRow
  split <;> rfl

theorem dropPlace_eq (c : Nat) (p : Place) : dropPlace s c p = { s with cores := (dropPlace s c p).cores } := by
  unfold dropPlace
  split <;> rfl

theorem passRow_eq (c sl : Nat) (p : Place) : passRow s c sl p = { s with cores := (passRow s c sl p).cores } := by
  unfold passRow
  split <;> rfl

/-- What a fibre's write does to the row cache of its core before it is sent. -/
theorem dropBoth_eq (b : Bool) (c : Nat) (loc : Loc) (n : Nat) (p : Place) :
    (if b then dropPlace (dropRow s c loc n) c p else s) =
      { s with cores := (if b then dropPlace (dropRow s c loc n) c p else s).cores } := by
  cases b
  · rfl
  · simp only [if_true]
    rw [dropPlace_eq, dropRow_eq]

theorem passIf_eq (b : Bool) (c sl : Nat) (p : Place) :
    (if b then passRow s c sl p else s) = { s with cores := (if b then passRow s c sl p else s).cores } := by
  cases b
  · rfl
  · simp only [if_true]
    exact passRow_eq s c sl p

theorem addReq_eq (r : Req) :
    addReq s r = { s with cores := (addReq s r).cores, net := (addReq s r).net } := by
  simp only [addReq]
  rw [passIf_eq, dropBoth_eq]
  generalize (if fibreRead _ r then _ else _ : State).cores = cs
  split <;> rfl

theorem answerReq_eq (n : Nat) (a : Answer) :
    answerReq s n a = { s with cores := (answerReq s n a).cores, net := (answerReq s n a).net } := by
  simp only [answerReq, answerMarks]
  repeat' split
  all_goals rfl

theorem sendNotice_eq : sendNotice s = { s with chaez := (sendNotice s).chaez } := by
  unfold sendNotice
  split <;> rfl

@[simp] theorem leaveStrand_units (c sl : Nat) : (leaveStrand s c sl).units = s.units := by rw [leaveStrand_eq]
@[simp] theorem leaveStrand_dies (c sl : Nat) : (leaveStrand s c sl).dies = s.dies := by rw [leaveStrand_eq]
@[simp] theorem leaveStrand_doms (c sl : Nat) : (leaveStrand s c sl).doms = s.doms := by rw [leaveStrand_eq]
@[simp] theorem leaveStrand_geckos (c sl : Nat) : (leaveStrand s c sl).geckos = s.geckos := by rw [leaveStrand_eq]
@[simp] theorem leaveStrand_chans (c sl : Nat) : (leaveStrand s c sl).chans = s.chans := by rw [leaveStrand_eq]
@[simp] theorem leaveStrand_mem (c sl : Nat) : (leaveStrand s c sl).mem = s.mem := by rw [leaveStrand_eq]
@[simp] theorem leaveStrand_host (c sl : Nat) : (leaveStrand s c sl).host = s.host := by rw [leaveStrand_eq]
@[simp] theorem leaveStrand_net (c sl : Nat) : (leaveStrand s c sl).net = s.net := by rw [leaveStrand_eq]
@[simp] theorem leaveStrand_tasks (c sl : Nat) : (leaveStrand s c sl).tasks = s.tasks := by rw [leaveStrand_eq]
@[simp] theorem leaveStrand_gov (c sl : Nat) : (leaveStrand s c sl).gov = s.gov := by rw [leaveStrand_eq]
@[simp] theorem leaveStrand_regs (c sl : Nat) : (leaveStrand s c sl).regs = s.regs := by rw [leaveStrand_eq]
@[simp] theorem leaveStrand_fab (c sl : Nat) : (leaveStrand s c sl).fab = s.fab := by rw [leaveStrand_eq]
@[simp] theorem leaveStrand_chaez (c sl : Nat) : (leaveStrand s c sl).chaez = s.chaez := by rw [leaveStrand_eq]
@[simp] theorem leaveStrand_boot (c sl : Nat) : (leaveStrand s c sl).boot = s.boot := by rw [leaveStrand_eq]
@[simp] theorem leaveStrand_shared (c sl : Nat) : (leaveStrand s c sl).shared = s.shared := by rw [leaveStrand_eq]
@[simp] theorem leaveStrand_time (c sl : Nat) : (leaveStrand s c sl).time = s.time := by rw [leaveStrand_eq]
@[simp] theorem leaveStrand_fresh (c sl : Nat) : (leaveStrand s c sl).fresh = s.fresh := by rw [leaveStrand_eq]
@[simp] theorem leaveStrand_issue (c sl : Nat) : (leaveStrand s c sl).issue = s.issue := by rw [leaveStrand_eq]
@[simp] theorem leaveStrand_agenda (c sl : Nat) : (leaveStrand s c sl).agenda = s.agenda := by rw [leaveStrand_eq]
@[simp] theorem leaveStrand_rota (c sl : Nat) : (leaveStrand s c sl).rota = s.rota := by rw [leaveStrand_eq]
@[simp] theorem parkFib_units (c sl : Nat) (w : Park) (x : Wait) : (parkFib s c sl w x).units = s.units := by rw [parkFib_eq]
@[simp] theorem parkFib_dies (c sl : Nat) (w : Park) (x : Wait) : (parkFib s c sl w x).dies = s.dies := by rw [parkFib_eq]
@[simp] theorem parkFib_doms (c sl : Nat) (w : Park) (x : Wait) : (parkFib s c sl w x).doms = s.doms := by rw [parkFib_eq]
@[simp] theorem parkFib_geckos (c sl : Nat) (w : Park) (x : Wait) : (parkFib s c sl w x).geckos = s.geckos := by rw [parkFib_eq]
@[simp] theorem parkFib_chans (c sl : Nat) (w : Park) (x : Wait) : (parkFib s c sl w x).chans = s.chans := by rw [parkFib_eq]
@[simp] theorem parkFib_mem (c sl : Nat) (w : Park) (x : Wait) : (parkFib s c sl w x).mem = s.mem := by rw [parkFib_eq]
@[simp] theorem parkFib_host (c sl : Nat) (w : Park) (x : Wait) : (parkFib s c sl w x).host = s.host := by rw [parkFib_eq]
@[simp] theorem parkFib_net (c sl : Nat) (w : Park) (x : Wait) : (parkFib s c sl w x).net = s.net := by rw [parkFib_eq]
@[simp] theorem parkFib_tasks (c sl : Nat) (w : Park) (x : Wait) : (parkFib s c sl w x).tasks = s.tasks := by rw [parkFib_eq]
@[simp] theorem parkFib_gov (c sl : Nat) (w : Park) (x : Wait) : (parkFib s c sl w x).gov = s.gov := by rw [parkFib_eq]
@[simp] theorem parkFib_regs (c sl : Nat) (w : Park) (x : Wait) : (parkFib s c sl w x).regs = s.regs := by rw [parkFib_eq]
@[simp] theorem parkFib_fab (c sl : Nat) (w : Park) (x : Wait) : (parkFib s c sl w x).fab = s.fab := by rw [parkFib_eq]
@[simp] theorem parkFib_chaez (c sl : Nat) (w : Park) (x : Wait) : (parkFib s c sl w x).chaez = s.chaez := by rw [parkFib_eq]
@[simp] theorem parkFib_boot (c sl : Nat) (w : Park) (x : Wait) : (parkFib s c sl w x).boot = s.boot := by rw [parkFib_eq]
@[simp] theorem parkFib_shared (c sl : Nat) (w : Park) (x : Wait) : (parkFib s c sl w x).shared = s.shared := by rw [parkFib_eq]
@[simp] theorem parkFib_time (c sl : Nat) (w : Park) (x : Wait) : (parkFib s c sl w x).time = s.time := by rw [parkFib_eq]
@[simp] theorem parkFib_fresh (c sl : Nat) (w : Park) (x : Wait) : (parkFib s c sl w x).fresh = s.fresh := by rw [parkFib_eq]
@[simp] theorem parkFib_issue (c sl : Nat) (w : Park) (x : Wait) : (parkFib s c sl w x).issue = s.issue := by rw [parkFib_eq]
@[simp] theorem parkFib_agenda (c sl : Nat) (w : Park) (x : Wait) : (parkFib s c sl w x).agenda = s.agenda := by rw [parkFib_eq]
@[simp] theorem parkFib_rota (c sl : Nat) (w : Park) (x : Wait) : (parkFib s c sl w x).rota = s.rota := by rw [parkFib_eq]
@[simp] theorem answerReq_units (n : Nat) (a : Answer) : (answerReq s n a).units = s.units := by rw [answerReq_eq]
@[simp] theorem addReq_units (r : Req) : (addReq s r).units = s.units := by rw [addReq_eq]
@[simp] theorem answerReq_dies (n : Nat) (a : Answer) : (answerReq s n a).dies = s.dies := by rw [answerReq_eq]
@[simp] theorem addReq_dies (r : Req) : (addReq s r).dies = s.dies := by rw [addReq_eq]
@[simp] theorem answerReq_doms (n : Nat) (a : Answer) : (answerReq s n a).doms = s.doms := by rw [answerReq_eq]
@[simp] theorem addReq_doms (r : Req) : (addReq s r).doms = s.doms := by rw [addReq_eq]
@[simp] theorem answerReq_geckos (n : Nat) (a : Answer) : (answerReq s n a).geckos = s.geckos := by rw [answerReq_eq]
@[simp] theorem addReq_geckos (r : Req) : (addReq s r).geckos = s.geckos := by rw [addReq_eq]
@[simp] theorem answerReq_chans (n : Nat) (a : Answer) : (answerReq s n a).chans = s.chans := by rw [answerReq_eq]
@[simp] theorem addReq_chans (r : Req) : (addReq s r).chans = s.chans := by rw [addReq_eq]
@[simp] theorem answerReq_mem (n : Nat) (a : Answer) : (answerReq s n a).mem = s.mem := by rw [answerReq_eq]
@[simp] theorem addReq_mem (r : Req) : (addReq s r).mem = s.mem := by rw [addReq_eq]
@[simp] theorem answerReq_host (n : Nat) (a : Answer) : (answerReq s n a).host = s.host := by rw [answerReq_eq]
@[simp] theorem addReq_host (r : Req) : (addReq s r).host = s.host := by rw [addReq_eq]
@[simp] theorem answerReq_tasks (n : Nat) (a : Answer) : (answerReq s n a).tasks = s.tasks := by rw [answerReq_eq]
@[simp] theorem addReq_tasks (r : Req) : (addReq s r).tasks = s.tasks := by rw [addReq_eq]
@[simp] theorem answerReq_gov (n : Nat) (a : Answer) : (answerReq s n a).gov = s.gov := by rw [answerReq_eq]
@[simp] theorem addReq_gov (r : Req) : (addReq s r).gov = s.gov := by rw [addReq_eq]
@[simp] theorem answerReq_regs (n : Nat) (a : Answer) : (answerReq s n a).regs = s.regs := by rw [answerReq_eq]
@[simp] theorem addReq_regs (r : Req) : (addReq s r).regs = s.regs := by rw [addReq_eq]
@[simp] theorem answerReq_fab (n : Nat) (a : Answer) : (answerReq s n a).fab = s.fab := by rw [answerReq_eq]
@[simp] theorem addReq_fab (r : Req) : (addReq s r).fab = s.fab := by rw [addReq_eq]
@[simp] theorem answerReq_chaez (n : Nat) (a : Answer) : (answerReq s n a).chaez = s.chaez := by rw [answerReq_eq]
@[simp] theorem addReq_chaez (r : Req) : (addReq s r).chaez = s.chaez := by rw [addReq_eq]
@[simp] theorem answerReq_boot (n : Nat) (a : Answer) : (answerReq s n a).boot = s.boot := by rw [answerReq_eq]
@[simp] theorem addReq_boot (r : Req) : (addReq s r).boot = s.boot := by rw [addReq_eq]
@[simp] theorem answerReq_shared (n : Nat) (a : Answer) : (answerReq s n a).shared = s.shared := by rw [answerReq_eq]
@[simp] theorem addReq_shared (r : Req) : (addReq s r).shared = s.shared := by rw [addReq_eq]
@[simp] theorem answerReq_time (n : Nat) (a : Answer) : (answerReq s n a).time = s.time := by rw [answerReq_eq]
@[simp] theorem addReq_time (r : Req) : (addReq s r).time = s.time := by rw [addReq_eq]
@[simp] theorem answerReq_fresh (n : Nat) (a : Answer) : (answerReq s n a).fresh = s.fresh := by rw [answerReq_eq]
@[simp] theorem addReq_fresh (r : Req) : (addReq s r).fresh = s.fresh := by rw [addReq_eq]
@[simp] theorem answerReq_issue (n : Nat) (a : Answer) : (answerReq s n a).issue = s.issue := by rw [answerReq_eq]
@[simp] theorem addReq_issue (r : Req) : (addReq s r).issue = s.issue := by rw [addReq_eq]
@[simp] theorem answerReq_agenda (n : Nat) (a : Answer) : (answerReq s n a).agenda = s.agenda := by rw [answerReq_eq]
@[simp] theorem addReq_agenda (r : Req) : (addReq s r).agenda = s.agenda := by rw [addReq_eq]
@[simp] theorem answerReq_rota (n : Nat) (a : Answer) : (answerReq s n a).rota = s.rota := by rw [answerReq_eq]
@[simp] theorem addReq_rota (r : Req) : (addReq s r).rota = s.rota := by rw [addReq_eq]
@[simp] theorem sendNotice_cores : (sendNotice s).cores = s.cores := by rw [sendNotice_eq]
@[simp] theorem sendNotice_units : (sendNotice s).units = s.units := by rw [sendNotice_eq]
@[simp] theorem sendNotice_dies : (sendNotice s).dies = s.dies := by rw [sendNotice_eq]
@[simp] theorem sendNotice_doms : (sendNotice s).doms = s.doms := by rw [sendNotice_eq]
@[simp] theorem sendNotice_geckos : (sendNotice s).geckos = s.geckos := by rw [sendNotice_eq]
@[simp] theorem sendNotice_chans : (sendNotice s).chans = s.chans := by rw [sendNotice_eq]
@[simp] theorem sendNotice_mem : (sendNotice s).mem = s.mem := by rw [sendNotice_eq]
@[simp] theorem sendNotice_host : (sendNotice s).host = s.host := by rw [sendNotice_eq]
@[simp] theorem sendNotice_net : (sendNotice s).net = s.net := by rw [sendNotice_eq]
@[simp] theorem sendNotice_tasks : (sendNotice s).tasks = s.tasks := by rw [sendNotice_eq]
@[simp] theorem sendNotice_gov : (sendNotice s).gov = s.gov := by rw [sendNotice_eq]
@[simp] theorem sendNotice_regs : (sendNotice s).regs = s.regs := by rw [sendNotice_eq]
@[simp] theorem sendNotice_fab : (sendNotice s).fab = s.fab := by rw [sendNotice_eq]
@[simp] theorem sendNotice_boot : (sendNotice s).boot = s.boot := by rw [sendNotice_eq]
@[simp] theorem sendNotice_shared : (sendNotice s).shared = s.shared := by rw [sendNotice_eq]
@[simp] theorem sendNotice_time : (sendNotice s).time = s.time := by rw [sendNotice_eq]
@[simp] theorem sendNotice_fresh : (sendNotice s).fresh = s.fresh := by rw [sendNotice_eq]
@[simp] theorem sendNotice_issue : (sendNotice s).issue = s.issue := by rw [sendNotice_eq]
@[simp] theorem sendNotice_agenda : (sendNotice s).agenda = s.agenda := by rw [sendNotice_eq]
@[simp] theorem sendNotice_rota : (sendNotice s).rota = s.rota := by rw [sendNotice_eq]

/-! ## What an update writes -/

@[simp] theorem setCore_cores (c : Nat) (k : Core) : (setCore s c k).cores = nput s.cores c k := rfl
@[simp] theorem modReqs_reqs (f : NMap Req → NMap Req) : (modReqs s f).net.reqs = f s.net.reqs := rfl
@[simp] theorem modTxns_txns (f : NMap Txn → NMap Txn) : (modTxns s f).net.txns = f s.net.txns := rfl
@[simp] theorem putMsg_msgs (n : Nat) (m : Msg) : (putMsg s n m).net.msgs = nput s.net.msgs n m := rfl
@[simp] theorem takeMsg_msgs (n : Nat) : (takeMsg s n).net.msgs = ndel s.net.msgs n := rfl
@[simp] theorem postMsg_msgs (m : Msg) : (postMsg s m).net.msgs = nput s.net.msgs s.net.next m := rfl
@[simp] theorem freshId_next : (freshId s).2.net.next = s.net.next + 1 := rfl
@[simp] theorem freshId_id : (freshId s).1 = s.net.next := rfl
@[simp] theorem freeVal_fresh : (freeVal s).2.fresh = s.fresh + 1 := rfl
@[simp] theorem freeVal_value : (freeVal s).1 = Config.freeValue s.fresh := rfl
@[simp] theorem modHost_host (f : HostPort → HostPort) : (modHost s f).host = f s.host := rfl
@[simp] theorem sendFrame_out (x : Frame) : (sendFrame s x).chaez.out = x :: s.chaez.out := rfl

end Sys2Proof.Machine
end

