-- ==== Sys2Proof/Laws/Access.lean ====
section
/-! SUPPORT. Accesses: resolving and sending them leaves the issue latch alone; what a load, a store and an access that
leaves the core answer when nothing stands in their way. -/

namespace Sys2Proof.Machine

theorem resolve_issue (s : State) (c slot : Nat) (p : Piece) : (resolve s c slot p).1.issue = s.issue := by
  unfold resolve
  split
  · rfl
  · rfl
  · unfold resolveVa
    dsimp only
    split
    · rfl
    · split
      · rfl
      · split
        · split <;> rfl
        · rfl

theorem plan_issue (s : State) (c slot : Nat) (ps : List Piece) : (plan s c slot ps).1.issue = s.issue := by
  induction ps generalizing s with
  | nil => rfl
  | cons p ps ih =>
    unfold plan
    split
    · rfl
    · exact ih s
    · split
      · rename_i s1 t h
        have := resolve_issue s c slot p
        rw [h] at this
        exact (ih s1).trans this
      · rename_i s1 h
        have := resolve_issue s c slot p
        rw [h] at this
        exact this
      · rename_i s1 e h
        have := resolve_issue s c slot p
        rw [h] at this
        exact this

theorem foldl_issue {α : Type} (f : State → α → State) (h : ∀ s x, (f s x).issue = s.issue) (l : List α) (s : State) :
    (l.foldl f s).issue = s.issue := by
  induction l generalizing s with
  | nil => rfl
  | cons x l ih => exact (ih (f s x)).trans (h s x)

theorem dropRow_issue (s : State) (c : Nat) (loc : Loc) (n : Nat) : (dropRow s c loc n).issue = s.issue := by
  rw [dropRow_eq]

theorem dropPlace_issue (s : State) (c : Nat) (p : Place) : (dropPlace s c p).issue = s.issue := by
  rw [dropPlace_eq]

theorem launch_issue (s : State) (id : Nat) : (launch s id).issue = s.issue := by
  unfold launch
  split
  · refine foldl_issue _ ?_ _ _
    intro s x
    exact addReq_issue _ _
  · rfl

theorem newTxn_issue (s : State) (who : Issuer) (dst : Dst) (n : Nat) (acq : Bool) (ps : List Piece) :
    (newTxn s who dst n acq ps).2.issue = s.issue := rfl

theorem missFills_issue (s : State) (c : Nat) (p : Req → Bool) : (missFills s c p).issue = s.issue := rfl

theorem sbEnter_issue (s : State) (who : Issuer) (parts : List (Loc × Acc1)) :
    (sbEnter s who parts).2.issue = s.issue := by
  refine foldl_issue _ ?_ parts s
  intro s x
  exact dropRow_issue _ _ _ _

theorem inHandler_of {s t : State} (h : t.issue = s.issue) : inHandler t = inHandler s := by
  simp only [inHandler, h]

/-- An access whose pieces all resolve leaves, and its fibre parks with reason 1. -/
theorem sendOff_next {s s' : State} {i : Instr} {dst : Dst} {n : Nat} {acq : Bool} {ps qs : List Piece}
    (hh : inHandler s = false) (hp : plan s s.issue.core s.issue.slot ps = (s', qs, none)) :
    sendOff s i dst n acq ps = (sentOff i s' dst n acq qs, .next) := by
  have hi : s'.issue = s.issue := by have := plan_issue s s.issue.core s.issue.slot ps; rw [hp] at this; exact this
  have hl := (launch_issue (newTxn s' (issuer s' i) dst n acq qs).2 (newTxn s' (issuer s' i) dst n acq qs).1).trans
    (newTxn_issue s' (issuer s' i) dst n acq qs)
  simp only [sendOff, hh, hp, if_false, Bool.false_eq_true, parkOn]
  rw [inHandler_of (hl.trans hi), hh, hl]
  rfl

/-- A load of bytes of the own tile. -/
theorem loadIssue_own {s : State} {i : Instr} {o n : Nat} {dst : Dst} {rc acq : Bool}
    {fin : State → Nat → State × Flow} (hb : rangeBusy s.issue.core (myCore s) o n = false) :
    loadIssue s i (.tile s.issue.core o) n dst rc false acq fin = fin s (Mem.rdN (myCore s).tile.mem o n) := by
  simp only [myCore] at hb
  simp [loadIssue, Loc.isOwn, Loc.tileOff, hb, tileLoad, myCore]

/-- Pieces whose bytes are at hand need no translation. -/
theorem plan_vals (s : State) (c sl : Nat) (ps : List Piece) (h : ∀ p ∈ ps, ∃ v, p.tgt = some (.val v)) :
    plan s c sl ps = (s, ps, none) := by
  induction ps with
  | nil => rfl
  | cons p ps ih =>
    obtain ⟨v, hv⟩ := h p (by simp)
    unfold plan
    rw [hv]
    simp only []
    rw [ih fun q hq => h q (by simp [hq])]

theorem valPieces_val (loc : Loc) (n v : Nat) : ∀ p ∈ valPieces loc n v, ∃ v, p.tgt = some (.val v) := by
  intro p hp
  simp only [valPieces, List.mem_map] at hp
  obtain ⟨x, _, rfl⟩ := hp
  exact ⟨_, rfl⟩

/-- An access whose translation is missing starts a walk, and its fibre parks with reason 5. -/
theorem sendOff_walk {s s' : State} {i : Instr} {dst : Dst} {n : Nat} {acq : Bool} {ps qs : List Piece} {p : Piece}
    (hh : inHandler s = false) (hp : plan s s.issue.core s.issue.slot ps = (s', qs, some (p, none))) :
    sendOff s i dst n acq ps = (walksOff i s' dst n acq qs p, .next) := by
  have hi : s'.issue = s.issue := by have := plan_issue s s.issue.core s.issue.slot ps; rw [hp] at this; exact this
  have hl : (startWalk (newTxn s' (issuer s' i) dst n acq qs).2 (issuer s' i) p.loc.va?.1
      (.txn (newTxn s' (issuer s' i) dst n acq qs).1 p.off) p.acc p.loc.va?.2 []).issue = s'.issue := rfl
  simp only [sendOff, hh, hp, if_false, Bool.false_eq_true, parkOn]
  rw [inHandler_of (hl.trans hi), hh, hl]
  rfl

/-- An access whose translation forbids it faults. -/
theorem sendOff_fault {s s' : State} {i : Instr} {dst : Dst} {n : Nat} {acq : Bool} {ps qs : List Piece} {p : Piece}
    {e : Err} (hh : inHandler s = false)
    (hp : plan s s.issue.core s.issue.slot ps = (s', qs, some (p, some e))) :
    sendOff s i dst n acq ps = faultHere s' i e.1 e.2.1 e.2.2 := by
  simp only [sendOff, hh, hp, if_false, Bool.false_eq_true]

theorem forward_issue {s t : State} {c sl n v : Nat} {loc : Loc} (h : forward s c sl loc n = some (t, v)) :
    t.issue = s.issue := by
  unfold forward at h
  split at h
  · cases h
  · split at h
    · cases h; rfl
    · cases h

theorem faultHere_stop (s : State) (i : Instr) (code : FCode) (kind : AKind) (a : Nat) :
    (faultHere s i code kind a).2 = .stop := by
  unfold faultHere
  first | rfl | (split <;> first | rfl | (split <;> rfl))

/-- A load that the own tile does not serve, in the words of the statements. -/
theorem loadIssue_far {s : State} {i : Instr} {loc : Loc} {n : Nat} {dst : Dst} {rc must acq : Bool}
    {fin : State → Nat → State} {eff : State → State × Flow} (hx : exec i s = run i s eff)
    (he : eff s = loadIssue s i loc n dst rc must acq fun t v => (fin t v, .next)) (hl : loc.isOwn s.issue.core = false) (hh : inHandler s = false)
    (hp : Passes i s) : FarLoad i s loc n dst rc must acq fin := by
  have now (t : State) (v : Nat) (ht : t.issue = s.issue) :
      (if must then sendOff t i dst n acq (valPieces loc n v) else (fin t v, Flow.next)) =
        (if must then sentOff i t dst n acq (valPieces loc n v) else fin t v, .next) := by
    cases must
    · rfl
    · exact sendOff_next ((inHandler_of ht).trans hh)
        (plan_vals t t.issue.core t.issue.slot _ (valPieces_val loc n v))
  have looked (b : Bool) (m : Nat) : (if b then bumpEv s s.issue.core m else s).issue = s.issue := by
    cases b <;> rfl
  refine ⟨fun t v h => ?_, fun v h1 h2 => ?_, fun t ps h1 h2 h3 => ?_, fun t ps p h1 h2 h3 => ?_,
    fun t ps p e h1 h2 h3 => ?_⟩
  · refine hx.trans (run_goesOn hp ?_)
    simp only [he, loadIssue, hl, hh, h, if_false, Bool.false_eq_true]
    exact now t v (forward_issue h)
  · refine hx.trans (run_goesOn hp ?_)
    simp only [he, loadIssue, hl, hh, h1, h2, if_false, Bool.false_eq_true]
    exact now _ v rfl
  · refine hx.trans (run_goesOn hp ?_)
    simp only [he, loadIssue, hl, hh, h1, h2, if_false, Bool.false_eq_true]
    exact sendOff_next ((inHandler_of (looked _ _)).trans hh) (by rw [looked]; exact h3)
  · refine hx.trans (run_goesOn hp ?_)
    simp only [he, loadIssue, hl, hh, h1, h2, if_false, Bool.false_eq_true]
    exact sendOff_walk ((inHandler_of (looked _ _)).trans hh) (by rw [looked]; exact h3)
  · refine hx.trans (run_stops hp ?_)
    simp only [he, loadIssue, hl, hh, h1, h2, if_false, Bool.false_eq_true]
    rw [sendOff_fault ((inHandler_of (looked _ _)).trans hh) (by rw [looked]; exact h3)]
    exact Prod.ext rfl (faultHere_stop _ _ _ _ _)

/-- A load that must park leaves the bytes to its reply. -/
theorem loadIssue_park_fin {s : State} {i : Instr} {loc : Loc} {n : Nat} {dst : Dst} {rc acq : Bool}
    {fin fin' : State → Nat → State × Flow} :
    loadIssue s i loc n dst rc true acq fin = loadIssue s i loc n dst rc true acq fin' := by
  simp only [loadIssue, if_true]

/-- A store of one part to the own tile. -/
theorem storeIssue_own {s : State} {i : Instr} {o : Nat} {acc : Acc1}
    (hb : rangeBusy s.issue.core (myCore s) o acc.size = false) :
    storeIssue s i [(.tile s.issue.core o, acc)] = ((tileDo s s.issue.core o acc s.issue.core).1, .next) := by
  simp only [myCore] at hb
  simp [storeIssue, storesBusy, ownStores, Loc.isOwn, Loc.tileOff, hb]

/-- A store whose parts enter the store buffer and are translated at once. -/
theorem storeIssue_far {s s' : State} {i : Instr} {parts : List (Loc × Acc1)}
    (h1 : parts.all (fun x => x.1.isOwn s.issue.core) = false) (h2 : inHandler s = false)
    (h3 : canTake s (.storeBuffer (partUnits parts)) = true)
    (h4 : storeFault s s.issue.core s.issue.slot parts = none)
    (h5 : sbResolve (sbEnter s (issuer s i) parts).2 s.issue.core s.issue.slot
      (sbGroup (getCore (sbEnter s (issuer s i) parts).2 s.issue.core) (sbEnter s (issuer s i) parts).1) = (s', none)) :
    storeIssue s i parts = (s', .next) := by
  simp only [storeIssue, h1, h2, h3, h4, if_false, Bool.false_eq_true, Bool.not_true]
  have hi := sbEnter_issue s (issuer s i) parts
  generalize sbEnter s (issuer s i) parts = e at h5 hi ⊢
  obtain ⟨g, u⟩ := e
  simp only at h5 hi ⊢
  rw [hi, h5]

/-- A read-modify-write of the own tile. -/
theorem rmwIssue_own {s : State} {i : Instr} {o : Nat} {acc : Acc1} {dst : Dst} {fin : State → Nat → State × Flow}
    (hb : rangeBusy s.issue.core (myCore s) o acc.size = false) :
    rmwIssue s i (.tile s.issue.core o) acc dst fin =
      fin (tileDo s s.issue.core o acc s.issue.core).1 (tileDo s s.issue.core o acc s.issue.core).2 := by
  simp only [myCore] at hb
  simp [rmwIssue, Loc.isOwn, Loc.tileOff, hb]

/-- A load of own tile bytes that has to park. -/
theorem loadIssue_park {s : State} {i : Instr} {o n : Nat} {dst : Dst} {rc acq : Bool}
    {fin : State → Nat → State × Flow} (hb : rangeBusy s.issue.core (myCore s) o n = false)
    (hh : inHandler s = false) :
    loadIssue s i (.tile s.issue.core o) n dst rc true acq fin =
      (sentOff i s dst n acq (valPieces (.tile s.issue.core o) n (Mem.rdN (myCore s).tile.mem o n)), .next) := by
  simp only [myCore] at hb
  have := sendOff_next (i := i) (dst := dst) (n := n) (acq := acq) hh (plan_vals s s.issue.core s.issue.slot _
    (valPieces_val (.tile s.issue.core o) n (Mem.rdN (myCore s).tile.mem o n)))
  simpa [loadIssue, Loc.isOwn, Loc.tileOff, hb, tileLoad, myCore] using this

/-- A wait for earlier writes with nothing outstanding. -/
theorem waitIssue_quiet {s : State} {i : Instr} {sc : Scope} {nx : Then} {go : State → State × Flow}
    (hd : drained s s.issue.core s.issue.slot sc = true) : waitIssue s i sc nx go = go s := by
  simp only [waitIssue, hd, if_true]

/-- A fence or release with no failure and nothing outstanding. -/
theorem releaseIssue_quiet {s : State} {i : Instr} {sc : Scope} {nx : Then} {go : State → State × Flow}
    (hf : failureNow s sc = none) (hd : drained s s.issue.core s.issue.slot sc = true) :
    releaseIssue s i sc nx go = go s := by
  simp only [releaseIssue, waitIssue_quiet hd, hf]

theorem releaseStore_quiet {s : State} {i : Instr} {sc : Scope} {loc : Loc} {acc : Acc1}
    (hh : (!loc.isOwn s.issue.core && inHandler s) = false)
    (hf : failureNow s sc = none) (hd : drained s s.issue.core s.issue.slot sc = true) :
    releaseStore s i sc loc acc = storeIssue s i [(loc, acc)] := by
  simp only [releaseStore, hh, if_false, Bool.false_eq_true, releaseIssue_quiet hf hd]

theorem parkOn_next {s : State} {i : Instr} {why : Park} {w : Wait} (h : inHandler s = false) :
    parkOn s i why w = (parkFib s s.issue.core s.issue.slot why w, .next) := by
  simp only [parkOn, h, if_false, Bool.false_eq_true]

theorem parkHere_stop {s : State} {i : Instr} {why : Park} {w : Wait} (h : inHandler s = false) :
    parkHere s i why w = (parkFib s s.issue.core s.issue.slot why w, .stop) := by
  simp only [parkHere, h, if_false, Bool.false_eq_true]

end Sys2Proof.Machine
end

