-- ==== Sys2Proof/Laws/Arms.lean ====
section
/-! SUPPORT. Each arm of exec as an equation, so that no proof unfolds the dispatch. -/

namespace Sys2Proof.Machine.Arm

@[simp] theorem add (p : PReg) (d : Reg) (a : Reg) (b : Reg) (v : SumVar) (s : State) : exec (.add p d a b v) s = execAdd p d a b v s := rfl
@[simp] theorem sub (p : PReg) (d : Reg) (a : Reg) (b : Reg) (v : SumVar) (s : State) : exec (.sub p d a b v) s = execSub p d a b v s := rfl
@[simp] theorem mul (p : PReg) (d : Reg) (a : Reg) (b : Reg) (v : Bool) (s : State) : exec (.mul p d a b v) s = execMul p d a b v s := rfl
@[simp] theorem mulh (p : PReg) (d : Reg) (a : Reg) (b : Reg) (v : Bool) (s : State) : exec (.mulh p d a b v) s = execMulh p d a b v s := rfl
@[simp] theorem div (p : PReg) (d : Reg) (a : Reg) (b : Reg) (v : DivVar) (s : State) : exec (.div p d a b v) s = execDiv p d a b v s := rfl
@[simp] theorem rem (p : PReg) (d : Reg) (a : Reg) (b : Reg) (v : DivVar) (s : State) : exec (.rem p d a b v) s = execRem p d a b v s := rfl
@[simp] theorem and (p : PReg) (d : Reg) (a : Reg) (b : Reg) (s : State) : exec (.and p d a b) s = execAnd p d a b s := rfl
@[simp] theorem or (p : PReg) (d : Reg) (a : Reg) (b : Reg) (s : State) : exec (.or p d a b) s = execOr p d a b s := rfl
@[simp] theorem xor (p : PReg) (d : Reg) (a : Reg) (b : Reg) (s : State) : exec (.xor p d a b) s = execXor p d a b s := rfl
@[simp] theorem andn (p : PReg) (d : Reg) (a : Reg) (b : Reg) (s : State) : exec (.andn p d a b) s = execAndn p d a b s := rfl
@[simp] theorem shl (p : PReg) (d : Reg) (a : Reg) (b : Reg) (v : Bool) (s : State) : exec (.shl p d a b v) s = execShl p d a b v s := rfl
@[simp] theorem shr (p : PReg) (d : Reg) (a : Reg) (b : Reg) (v : Bool) (s : State) : exec (.shr p d a b v) s = execShr p d a b v s := rfl
@[simp] theorem sra (p : PReg) (d : Reg) (a : Reg) (b : Reg) (v : Bool) (s : State) : exec (.sra p d a b v) s = execSra p d a b v s := rfl
@[simp] theorem rotl (p : PReg) (d : Reg) (a : Reg) (b : Reg) (v : Bool) (s : State) : exec (.rotl p d a b v) s = execRotl p d a b v s := rfl
@[simp] theorem min (p : PReg) (d : Reg) (a : Reg) (b : Reg) (v : Bool) (s : State) : exec (.min p d a b v) s = execMin p d a b v s := rfl
@[simp] theorem max (p : PReg) (d : Reg) (a : Reg) (b : Reg) (v : Bool) (s : State) : exec (.max p d a b v) s = execMax p d a b v s := rfl
@[simp] theorem clz (p : PReg) (d : Reg) (a : Reg) (v : Bool) (s : State) : exec (.clz p d a v) s = execClz p d a v s := rfl
@[simp] theorem ctz (p : PReg) (d : Reg) (a : Reg) (v : Bool) (s : State) : exec (.ctz p d a v) s = execCtz p d a v s := rfl
@[simp] theorem popc (p : PReg) (d : Reg) (a : Reg) (v : Bool) (s : State) : exec (.popc p d a v) s = execPopc p d a v s := rfl
@[simp] theorem bext (p : PReg) (d : Reg) (a : Reg) (b : Reg) (v : Bool) (s : State) : exec (.bext p d a b v) s = execBext p d a b v s := rfl
@[simp] theorem bins (p : PReg) (d : Reg) (a : Reg) (b : Reg) (s : State) : exec (.bins p d a b) s = execBins p d a b s := rfl
@[simp] theorem sel (p : PReg) (d : Reg) (a : Reg) (b : Reg) (q : PReg) (s : State) : exec (.sel p d a b q) s = execSel p d a b q s := rfl
@[simp] theorem cmp (p : PReg) (d : Reg) (a : Reg) (b : Reg) (v : Bool) (s : State) : exec (.cmp p d a b v) s = execCmp p d a b v s := rfl
@[simp] theorem hash64 (p : PReg) (d : Reg) (a : Reg) (b : Reg) (s : State) : exec (.hash64 p d a b) s = execHash64 p d a b s := rfl
@[simp] theorem movi (p : PReg) (d : Reg) (imm : BitVec 15) (s : State) : exec (.movi p d imm) s = execMovi p d imm s := rfl
@[simp] theorem movh (p : PReg) (d : Reg) (imm : BitVec 15) (s : State) : exec (.movh p d imm) s = execMovh p d imm s := rfl
@[simp] theorem pset (p : PReg) (pd : PReg) (a : Reg) (b : Reg) (c : ICond) (s : State) : exec (.pset p pd a b c) s = execPset p pd a b c s := rfl
@[simp] theorem pand (p : PReg) (pd : PReg) (pa : PReg) (pb : PReg) (na : Bool) (nb : Bool) (s : State) : exec (.pand p pd pa pb na nb) s = execPand p pd pa pb na nb s := rfl
@[simp] theorem por (p : PReg) (pd : PReg) (pa : PReg) (pb : PReg) (na : Bool) (nb : Bool) (s : State) : exec (.por p pd pa pb na nb) s = execPor p pd pa pb na nb s := rfl
@[simp] theorem pnot (p : PReg) (pd : PReg) (pa : PReg) (na : Bool) (s : State) : exec (.pnot p pd pa na) s = execPnot p pd pa na s := rfl
@[simp] theorem addImm (p : PReg) (d : Reg) (a : Reg) (imm : BitVec 10) (s : State) : exec (.addImm p d a imm) s = execAddImm p d a imm s := rfl
@[simp] theorem subImm (p : PReg) (d : Reg) (a : Reg) (imm : BitVec 10) (s : State) : exec (.subImm p d a imm) s = execSubImm p d a imm s := rfl
@[simp] theorem mulImm (p : PReg) (d : Reg) (a : Reg) (imm : BitVec 10) (s : State) : exec (.mulImm p d a imm) s = execMulImm p d a imm s := rfl
@[simp] theorem mulhImm (p : PReg) (d : Reg) (a : Reg) (imm : BitVec 10) (s : State) : exec (.mulhImm p d a imm) s = execMulhImm p d a imm s := rfl
@[simp] theorem divImm (p : PReg) (d : Reg) (a : Reg) (imm : BitVec 10) (s : State) : exec (.divImm p d a imm) s = execDivImm p d a imm s := rfl
@[simp] theorem remImm (p : PReg) (d : Reg) (a : Reg) (imm : BitVec 10) (s : State) : exec (.remImm p d a imm) s = execRemImm p d a imm s := rfl
@[simp] theorem andImm (p : PReg) (d : Reg) (a : Reg) (imm : BitVec 10) (s : State) : exec (.andImm p d a imm) s = execAndImm p d a imm s := rfl
@[simp] theorem orImm (p : PReg) (d : Reg) (a : Reg) (imm : BitVec 10) (s : State) : exec (.orImm p d a imm) s = execOrImm p d a imm s := rfl
@[simp] theorem xorImm (p : PReg) (d : Reg) (a : Reg) (imm : BitVec 10) (s : State) : exec (.xorImm p d a imm) s = execXorImm p d a imm s := rfl
@[simp] theorem andnImm (p : PReg) (d : Reg) (a : Reg) (imm : BitVec 10) (s : State) : exec (.andnImm p d a imm) s = execAndnImm p d a imm s := rfl
@[simp] theorem shlImm (p : PReg) (d : Reg) (a : Reg) (imm : BitVec 6) (s : State) : exec (.shlImm p d a imm) s = execShlImm p d a imm s := rfl
@[simp] theorem shrImm (p : PReg) (d : Reg) (a : Reg) (imm : BitVec 6) (s : State) : exec (.shrImm p d a imm) s = execShrImm p d a imm s := rfl
@[simp] theorem sraImm (p : PReg) (d : Reg) (a : Reg) (imm : BitVec 6) (s : State) : exec (.sraImm p d a imm) s = execSraImm p d a imm s := rfl
@[simp] theorem rotlImm (p : PReg) (d : Reg) (a : Reg) (imm : BitVec 6) (s : State) : exec (.rotlImm p d a imm) s = execRotlImm p d a imm s := rfl
@[simp] theorem minImm (p : PReg) (d : Reg) (a : Reg) (imm : BitVec 10) (s : State) : exec (.minImm p d a imm) s = execMinImm p d a imm s := rfl
@[simp] theorem maxImm (p : PReg) (d : Reg) (a : Reg) (imm : BitVec 10) (s : State) : exec (.maxImm p d a imm) s = execMaxImm p d a imm s := rfl
@[simp] theorem cmpImm (p : PReg) (d : Reg) (a : Reg) (imm : BitVec 10) (s : State) : exec (.cmpImm p d a imm) s = execCmpImm p d a imm s := rfl
@[simp] theorem fadd (p : PReg) (d : Reg) (a : Reg) (b : Reg) (s : State) : exec (.fadd p d a b) s = execFadd p d a b s := rfl
@[simp] theorem fsub (p : PReg) (d : Reg) (a : Reg) (b : Reg) (s : State) : exec (.fsub p d a b) s = execFsub p d a b s := rfl
@[simp] theorem fmul (p : PReg) (d : Reg) (a : Reg) (b : Reg) (s : State) : exec (.fmul p d a b) s = execFmul p d a b s := rfl
@[simp] theorem fma (p : PReg) (d : Reg) (a : Reg) (b : Reg) (c : Reg) (s : State) : exec (.fma p d a b c) s = execFma p d a b c s := rfl
@[simp] theorem fdiv (p : PReg) (d : Reg) (a : Reg) (b : Reg) (s : State) : exec (.fdiv p d a b) s = execFdiv p d a b s := rfl
@[simp] theorem frcp (p : PReg) (d : Reg) (a : Reg) (s : State) : exec (.frcp p d a) s = execFrcp p d a s := rfl
@[simp] theorem frsq (p : PReg) (d : Reg) (a : Reg) (s : State) : exec (.frsq p d a) s = execFrsq p d a s := rfl
@[simp] theorem fmin (p : PReg) (d : Reg) (a : Reg) (b : Reg) (v : Bool) (s : State) : exec (.fmin p d a b v) s = execFmin p d a b v s := rfl
@[simp] theorem fmax (p : PReg) (d : Reg) (a : Reg) (b : Reg) (v : Bool) (s : State) : exec (.fmax p d a b v) s = execFmax p d a b v s := rfl
@[simp] theorem fcmp (p : PReg) (pd : PReg) (a : Reg) (b : Reg) (c : FCond) (s : State) : exec (.fcmp p pd a b c) s = execFcmp p pd a b c s := rfl
@[simp] theorem fclass (p : PReg) (d : Reg) (a : Reg) (f : Fmt) (s : State) : exec (.fclass p d a f) s = execFclass p d a f s := rfl
@[simp] theorem fcvt (p : PReg) (d : Reg) (a : Reg) (src : Fmt) (dst : Fmt) (s : State) : exec (.fcvt p d a src dst) s = execFcvt p d a src dst s := rfl
@[simp] theorem fsgn (p : PReg) (d : Reg) (a : Reg) (b : Reg) (v : SgnVar) (s : State) : exec (.fsgn p d a b v) s = execFsgn p d a b v s := rfl
@[simp] theorem vadd (p : PReg) (vd : VReg) (va : VReg) (vb : VReg) (o : Bool) (f : Fmt) (s : State) : exec (.vadd p vd va vb o f) s = execVadd p vd va vb o f s := rfl
@[simp] theorem vsub (p : PReg) (vd : VReg) (va : VReg) (vb : VReg) (o : Bool) (f : Fmt) (s : State) : exec (.vsub p vd va vb o f) s = execVsub p vd va vb o f s := rfl
@[simp] theorem vmul (p : PReg) (vd : VReg) (va : VReg) (vb : VReg) (o : Bool) (f : Fmt) (s : State) : exec (.vmul p vd va vb o f) s = execVmul p vd va vb o f s := rfl
@[simp] theorem vmin (p : PReg) (vd : VReg) (va : VReg) (vb : VReg) (o : Bool) (f : Fmt) (s : State) : exec (.vmin p vd va vb o f) s = execVmin p vd va vb o f s := rfl
@[simp] theorem vmax (p : PReg) (vd : VReg) (va : VReg) (vb : VReg) (o : Bool) (f : Fmt) (s : State) : exec (.vmax p vd va vb o f) s = execVmax p vd va vb o f s := rfl
@[simp] theorem vsgn (p : PReg) (vd : VReg) (va : VReg) (vb : VReg) (o : Bool) (f : Fmt) (s : State) : exec (.vsgn p vd va vb o f) s = execVsgn p vd va vb o f s := rfl
@[simp] theorem vcmp (p : PReg) (vd : VReg) (va : VReg) (vb : VReg) (o : Bool) (f : Fmt) (s : State) : exec (.vcmp p vd va vb o f) s = execVcmp p vd va vb o f s := rfl
@[simp] theorem vfma (p : PReg) (vd : VReg) (va : VReg) (vb : VReg) (vc : VReg) (s : State) : exec (.vfma p vd va vb vc) s = execVfma p vd va vb vc s := rfl
@[simp] theorem vsel (p : PReg) (vd : VReg) (va : VReg) (vb : VReg) (vc : VReg) (s : State) : exec (.vsel p vd va vb vc) s = execVsel p vd va vb vc s := rfl
@[simp] theorem vcvt (p : PReg) (vd : VReg) (va : VReg) (src : Fmt) (dst : Fmt) (s : State) : exec (.vcvt p vd va src dst) s = execVcvt p vd va src dst s := rfl
@[simp] theorem vscl (p : PReg) (vd : VReg) (va : VReg) (vb : VReg) (s : State) : exec (.vscl p vd va vb) s = execVscl p vd va vb s := rfl
@[simp] theorem vred (p : PReg) (d : Reg) (va : VReg) (o : Bool) (f : Fmt) (s : State) : exec (.vred p d va o f) s = execVred p d va o f s := rfl
@[simp] theorem vbc (p : PReg) (vd : VReg) (a : Reg) (f : Fmt) (s : State) : exec (.vbc p vd a f) s = execVbc p vd a f s := rfl
@[simp] theorem vperm (p : PReg) (vd : VReg) (va : VReg) (vb : VReg) (f : Fmt) (s : State) : exec (.vperm p vd va vb f) s = execVperm p vd va vb f s := rfl
@[simp] theorem vmov (p : PReg) (vd : VReg) (va : VReg) (s : State) : exec (.vmov p vd va) s = execVmov p vd va s := rfl
@[simp] theorem vmovSr (p : PReg) (vd : VReg) (va : VReg) (f : Fmt) (s : State) : exec (.vmovSr p vd va f) s = execVmovSr p vd va f s := rfl
@[simp] theorem nop (s : State) : exec .nop s = execNop s := rfl
@[simp] theorem ret (s : State) : exec .ret s = execRet s := rfl
@[simp] theorem doneF (s : State) : exec .doneF s = execDoneF s := rfl
@[simp] theorem yieldF (s : State) : exec .yieldF s = execYieldF s := rfl
@[simp] theorem hret (s : State) : exec .hret s = execHret s := rfl
@[simp] theorem trigger (s : State) : exec .trigger s = execTrigger s := rfl
@[simp] theorem eret (s : State) : exec .eret s = execEret s := rfl
@[simp] theorem unfuse (s : State) : exec .unfuse s = execUnfuse s := rfl
@[simp] theorem rejoin (s : State) : exec .rejoin s = execRejoin s := rfl
@[simp] theorem br (p : PReg) (n : Bool) (imm : BitVec 19) (s : State) : exec (.br p n imm) s = execBr p n imm s := rfl
@[simp] theorem jmp (imm : BitVec 23) (s : State) : exec (.jmp imm) s = execJmp imm s := rfl
@[simp] theorem call (imm : BitVec 23) (s : State) : exec (.call imm) s = execCall imm s := rfl
@[simp] theorem jmpr (d : Reg) (a : Reg) (s : State) : exec (.jmpr d a) s = execJmpr d a s := rfl
@[simp] theorem loop (a : Reg) (imm : BitVec 18) (s : State) : exec (.loop a imm) s = execLoop a imm s := rfl
@[simp] theorem brk (code : BitVec 16) (s : State) : exec (.brk code) s = execBrk code s := rfl
@[simp] theorem trap (code : BitVec 16) (s : State) : exec (.trap code) s = execTrap code s := rfl
@[simp] theorem pfx (imm : BitVec 23) (s : State) : exec (.pfx imm) s = execPfx imm s := rfl
@[simp] theorem lea (r : Reg) (sg : Fin 8) (base : Reg) (sz : Size) (imm : BitVec 7) (s : State) : exec (.lea r sg base sz imm) s = execLea r sg base sz imm s := rfl
@[simp] theorem madv (d : Reg) (a : Reg) (b : Reg) (peq : PReg) (plt : PReg) (esz : Esz) (s : State) : exec (.madv d a b peq plt esz) s = execMadv d a b peq plt esz s := rfl
@[simp] theorem fwalk (d : Reg) (a : Reg) (b : Reg) (s : State) : exec (.fwalk d a b) s = execFwalk d a b s := rfl
@[simp] theorem brank (d : Reg) (a : Reg) (b : Reg) (pd : PReg) (s : State) : exec (.brank d a b pd) s = execBrank d a b pd s := rfl
@[simp] theorem ld (r : Reg) (sg : Fin 8) (base : Reg) (sz : Size) (x : Bool) (imm : BitVec 7) (s : State) : exec (.ld r sg base sz x imm) s = execLd r sg base sz x imm s := rfl
@[simp] theorem ldAcq (r : Reg) (sg : Fin 8) (base : Reg) (sz : Size) (x : Bool) (sc : Scope) (imm : BitVec 4) (s : State) : exec (.ldAcq r sg base sz x sc imm) s = execLdAcq r sg base sz x sc imm s := rfl
@[simp] theorem st (r : Reg) (sg : Fin 8) (base : Reg) (sz : Size) (imm : BitVec 7) (s : State) : exec (.st r sg base sz imm) s = execSt r sg base sz imm s := rfl
@[simp] theorem stRel (r : Reg) (sg : Fin 8) (base : Reg) (sz : Size) (sc : Scope) (imm : BitVec 4) (s : State) : exec (.stRel r sg base sz sc imm) s = execStRel r sg base sz sc imm s := rfl
@[simp] theorem ldp (r : Reg) (sg : Fin 8) (base : Reg) (imm : BitVec 7) (s : State) : exec (.ldp r sg base imm) s = execLdp r sg base imm s := rfl
@[simp] theorem stp (r : Reg) (sg : Fin 8) (base : Reg) (imm : BitVec 7) (s : State) : exec (.stp r sg base imm) s = execStp r sg base imm s := rfl
@[simp] theorem pf (sg : Fin 8) (base : Reg) (sz : Size) (imm : BitVec 7) (s : State) : exec (.pf sg base sz imm) s = execPf sg base sz imm s := rfl
@[simp] theorem fence (sc : Scope) (s : State) : exec (.fence sc) s = execFence sc s := rfl
@[simp] theorem amo (d : Reg) (sg : Fin 8) (base : Reg) (b : Reg) (op : AmoOp) (esz : Esz) (s : State) : exec (.amo d sg base b op esz) s = execAmo d sg base b op esz s := rfl
@[simp] theorem cas (d : Reg) (sg : Fin 8) (base : Reg) (b : Reg) (c : Reg) (s : State) : exec (.cas d sg base b c) s = execCas d sg base b c s := rfl
@[simp] theorem red (sg : Fin 8) (base : Reg) (b : Reg) (op : RedOp) (esz : Esz) (s : State) : exec (.red sg base b op esz) s = execRed sg base b op esz s := rfl
@[simp] theorem ldf (r : Reg) (sg : Fin 8) (base : Reg) (sc : Scope) (imm : BitVec 7) (s : State) : exec (.ldf r sg base sc imm) s = execLdf r sg base sc imm s := rfl
@[simp] theorem ldfe (r : Reg) (sg : Fin 8) (base : Reg) (sc : Scope) (imm : BitVec 7) (s : State) : exec (.ldfe r sg base sc imm) s = execLdfe r sg base sc imm s := rfl
@[simp] theorem stf (r : Reg) (sg : Fin 8) (base : Reg) (sc : Scope) (imm : BitVec 7) (s : State) : exec (.stf r sg base sc imm) s = execStf r sg base sc imm s := rfl
@[simp] theorem stfw (r : Reg) (sg : Fin 8) (base : Reg) (sc : Scope) (imm : BitVec 7) (s : State) : exec (.stfw r sg base sc imm) s = execStfw r sg base sc imm s := rfl
@[simp] theorem fest (full : Bool) (sg : Fin 8) (base : Reg) (sc : Scope) (imm : BitVec 7) (s : State) : exec (.fest full sg base sc imm) s = execFest full sg base sc imm s := rfl
@[simp] theorem st4 (r : Reg) (sg : Fin 8) (base : Reg) (hi : Bool) (imm : BitVec 7) (s : State) : exec (.st4 r sg base hi imm) s = execSt4 r sg base hi imm s := rfl
@[simp] theorem aqPush (sg : Fin 8) (base : Reg) (sz : Size) (x : Bool) (imm : BitVec 7) (s : State) : exec (.aqPush sg base sz x imm) s = execAqPush sg base sz x imm s := rfl
@[simp] theorem aqList (r : Reg) (sg : Fin 8) (base : Reg) (sz : Size) (x : Bool) (imm : BitVec 7) (s : State) : exec (.aqList r sg base sz x imm) s = execAqList r sg base sz x imm s := rfl
@[simp] theorem dqPop (d : Reg) (two : Bool) (s : State) : exec (.dqPop d two) s = execDqPop d two s := rfl
@[simp] theorem dqCnt (d : Reg) (s : State) : exec (.dqCnt d) s = execDqCnt d s := rfl
@[simp] theorem spawn (d : Reg) (a : Reg) (imm : BitVec 13) (s : State) : exec (.spawn d a imm) s = execSpawn d a imm s := rfl
@[simp] theorem migr (d : Reg) (a : Reg) (s : State) : exec (.migr d a) s = execMigr d a s := rfl
@[simp] theorem send (d : Reg) (a : Reg) (b : Reg) (n : BitVec 2) (s : State) : exec (.send d a b n) s = execSend d a b n s := rfl
@[simp] theorem sendQ (d : Reg) (a : Reg) (b : Reg) (n : BitVec 2) (s : State) : exec (.sendQ d a b n) s = execSendQ d a b n s := rfl
@[simp] theorem sendR (d : Reg) (b : Reg) (s : State) : exec (.sendR d b) s = execSendR d b s := rfl
@[simp] theorem rqPush (n : BitVec 3) (s : State) : exec (.rqPush n) s = execRqPush n s := rfl
@[simp] theorem rqTry (d : Reg) (n : BitVec 2) (s : State) : exec (.rqTry d n) s = execRqTry d n s := rfl
@[simp] theorem rqStat (d : Reg) (a : Reg) (k : BitVec 3) (s : State) : exec (.rqStat d a k) s = execRqStat d a k s := rfl
@[simp] theorem tlaunch (d : Reg) (a : Reg) (sg : Fin 8) (s : State) : exec (.tlaunch d a sg) s = execTlaunch d a sg s := rfl
@[simp] theorem twait (d : Reg) (a : Reg) (s : State) : exec (.twait d a) s = execTwait d a s := rfl
@[simp] theorem segld (a : Reg) (k : Fin 8) (s : State) : exec (.segld a k) s = execSegld a k s := rfl
@[simp] theorem segrd (d : Reg) (t : Bool) (k : Fin 8) (s : State) : exec (.segrd d t k) s = execSegrd d t k s := rfl
@[simp] theorem dtld (sg : Fin 8) (base : Reg) (imm : BitVec 7) (s : State) : exec (.dtld sg base imm) s = execDtld sg base imm s := rfl
@[simp] theorem tbld (r : Reg) (sg : Fin 8) (base : Reg) (imm : BitVec 7) (s : State) : exec (.tbld r sg base imm) s = execTbld r sg base imm s := rfl
@[simp] theorem xpld (sg : Fin 8) (base : Reg) (imm : BitVec 7) (s : State) : exec (.xpld sg base imm) s = execXpld sg base imm s := rfl
@[simp] theorem gkbind (a : Reg) (b : Reg) (tag : BitVec 6) (ctx : BitVec 3) (s : State) : exec (.gkbind a b tag ctx) s = execGkbind a b tag ctx s := rfl
@[simp] theorem ptinvPage (a : Reg) (b : Reg) (sc : Scope) (s : State) : exec (.ptinvPage a b sc) s = execPtinvPage a b sc s := rfl
@[simp] theorem ptinvAsid (b : Reg) (sc : Scope) (s : State) : exec (.ptinvAsid b sc) s = execPtinvAsid b sc s := rfl
@[simp] theorem ptinvAll (sc : Scope) (s : State) : exec (.ptinvAll sc) s = execPtinvAll sc s := rfl
@[simp] theorem dwait (k : Fin 8) (imm : BitVec 20) (s : State) : exec (.dwait k imm) s = execDwait k imm s := rfl
@[simp] theorem await (k : Fin 8) (imm : BitVec 20) (s : State) : exec (.await k imm) s = execAwait k imm s := rfl
@[simp] theorem dset (k : Fin 8) (a : Reg) (s : State) : exec (.dset k a) s = execDset k a s := rfl
@[simp] theorem dadd (k : Fin 8) (a : Reg) (s : State) : exec (.dadd k a) s = execDadd k a s := rfl
@[simp] theorem acbind (k : Fin 8) (a : Reg) (s : State) : exec (.acbind k a) s = execAcbind k a s := rfl
@[simp] theorem bar (kind : BarKind) (d : Reg) (pd : PReg) (s : State) : exec (.bar kind d pd) s = execBar kind d pd s := rfl
@[simp] theorem tread (d : Reg) (s : State) : exec (.tread d) s = execTread d s := rfl
@[simp] theorem erd (d : Reg) (k : BitVec 2) (s : State) : exec (.erd d k) s = execErd d k s := rfl
@[simp] theorem pcrd (d : Reg) (a : Reg) (s : State) : exec (.pcrd d a) s = execPcrd d a s := rfl
@[simp] theorem sysrd (r : Reg) (x : SysReg) (s : State) : exec (.sysrd r x) s = execSysrd r x s := rfl
@[simp] theorem syswr (r : Reg) (x : SysReg) (s : State) : exec (.syswr r x) s = execSyswr r x s := rfl
@[simp] theorem rndset (d : Reg) (a : Reg) (sd : Bool) (m : Bool) (fz : Bool) (rm : BitVec 3) (s : State) : exec (.rndset d a sd m fz rm) s = execRndset d a sd m fz rm s := rfl
@[simp] theorem wake (d : Reg) (a : Reg) (skip : Bool) (s : State) : exec (.wake d a skip) s = execWake d a skip s := rfl
@[simp] theorem vld (v : VReg) (sg : Fin 8) (base : Reg) (imm : BitVec 10) (s : State) : exec (.vld v sg base imm) s = execVld v sg base imm s := rfl
@[simp] theorem vst (v : VReg) (sg : Fin 8) (base : Reg) (imm : BitVec 10) (s : State) : exec (.vst v sg base imm) s = execVst v sg base imm s := rfl
@[simp] theorem vldg (v : VReg) (sg : Fin 8) (base : Reg) (vi : VReg) (esz : Esz) (s : State) : exec (.vldg v sg base vi esz) s = execVldg v sg base vi esz s := rfl
@[simp] theorem vsts (v : VReg) (sg : Fin 8) (base : Reg) (vi : VReg) (esz : Esz) (s : State) : exec (.vsts v sg base vi esz) s = execVsts v sg base vi esz s := rfl
@[simp] theorem mzero (acc : Acc) (s : State) : exec (.mzero acc) s = execMzero acc s := rfl
@[simp] theorem mldb (f : Fmt) (sg : Fin 8) (base : Reg) (imm : BitVec 10) (s : State) : exec (.mldb f sg base imm) s = execMldb f sg base imm s := rfl
@[simp] theorem mma (acc : Acc) (va : VReg) (fa : Fmt) (fb : Fmt) (cnt : BitVec 8) (s : State) : exec (.mma acc va fa fb cnt) s = execMma acc va fa fb cnt s := rfl
@[simp] theorem mrot (cnt : BitVec 8) (s : State) : exec (.mrot cnt) s = execMrot cnt s := rfl
@[simp] theorem mdrain (acc : Acc) (v : VReg) (f : Fmt) (row : BitVec 6) (s : State) : exec (.mdrain acc v f row) s = execMdrain acc v f row s := rfl
@[simp] theorem mxch (acc : Acc) (entry : BitVec 8) (s : State) : exec (.mxch acc entry) s = execMxch acc entry s := rfl
@[simp] theorem fuse (size : FuseSize) (s : State) : exec (.fuse size) s = execFuse size s := rfl
@[simp] theorem gather (core : Nat) (entry : Nat) (s : State) : exec (.gather core entry) s = execGather core entry s := rfl
@[simp] theorem scatter (core : Nat) (entry : Nat) (s : State) : exec (.scatter core entry) s = execScatter core entry s := rfl
@[simp] theorem accum (core : Nat) (entry : Nat) (s : State) : exec (.accum core entry) s = execAccum core entry s := rfl
@[simp] theorem dedup (core : Nat) (entry : Nat) (s : State) : exec (.dedup core entry) s = execDedup core entry s := rfl
@[simp] theorem reduce (core : Nat) (entry : Nat) (s : State) : exec (.reduce core entry) s = execReduce core entry s := rfl
@[simp] theorem copy (core : Nat) (entry : Nat) (s : State) : exec (.copy core entry) s = execCopy core entry s := rfl
@[simp] theorem walk (core : Nat) (entry : Nat) (s : State) : exec (.walk core entry) s = execWalk core entry s := rfl
@[simp] theorem fill (core : Nat) (entry : Nat) (s : State) : exec (.fill core entry) s = execFill core entry s := rfl
@[simp] theorem coll (core : Nat) (entry : Nat) (s : State) : exec (.coll core entry) s = execColl core entry s := rfl
@[simp] theorem res (core : Nat) (entry : Nat) (s : State) : exec (.res core entry) s = execRes core entry s := rfl
@[simp] theorem abt (core : Nat) (entry : Nat) (s : State) : exec (.abt core entry) s = execAbt core entry s := rfl
@[simp] theorem commandStart (core : Nat) (s : State) : exec (.commandStart core) s = execCommandStart core s := rfl
@[simp] theorem commandRetire (core : Nat) (entry : Nat) (s : State) : exec (.commandRetire core entry) s = execCommandRetire core entry s := rfl
@[simp] theorem commandStop (core : Nat) (entry : Nat) (s : State) : exec (.commandStop core entry) s = execCommandStop core entry s := rfl
@[simp] theorem sequencerCycle (core : Nat) (s : State) : exec (.sequencerCycle core) s = execSequencerCycle core s := rfl
@[simp] theorem quantumEnd (core : Nat) (strand : Nat) (s : State) : exec (.quantumEnd core strand) s = execQuantumEnd core strand s := rfl
@[simp] theorem waitTimeout (core : Nat) (slot : Nat) (s : State) : exec (.waitTimeout core slot) s = execWaitTimeout core slot s := rfl
@[simp] theorem accessReply (id : Nat) (s : State) : exec (.accessReply id) s = execAccessReply id s := rfl
@[simp] theorem replyForward (id : Nat) (s : State) : exec (.replyForward id) s = execReplyForward id s := rfl
@[simp] theorem icacheFill (id : Nat) (s : State) : exec (.icacheFill id) s = execIcacheFill id s := rfl
@[simp] theorem tlbLookup (id : Nat) (s : State) : exec (.tlbLookup id) s = execTlbLookup id s := rfl
@[simp] theorem walkEnd (id : Nat) (s : State) : exec (.walkEnd id) s = execWalkEnd id s := rfl
@[simp] theorem handlerStart (core : Nat) (s : State) : exec (.handlerStart core) s = execHandlerStart core s := rfl
@[simp] theorem inboxReservation (id : Nat) (s : State) : exec (.inboxReservation id) s = execInboxReservation id s := rfl
@[simp] theorem messageWrite (id : Nat) (s : State) : exec (.messageWrite id) s = execMessageWrite id s := rfl
@[simp] theorem migrationReserve (id : Nat) (s : State) : exec (.migrationReserve id) s = execMigrationReserve id s := rfl
@[simp] theorem migrationArrival (id : Nat) (s : State) : exec (.migrationArrival id) s = execMigrationArrival id s := rfl
@[simp] theorem wakeDelivery (id : Nat) (s : State) : exec (.wakeDelivery id) s = execWakeDelivery id s := rfl
@[simp] theorem remoteTileAccess (id : Nat) (s : State) : exec (.remoteTileAccess id) s = execRemoteTileAccess id s := rfl
@[simp] theorem feWithdrawal (id : Nat) (s : State) : exec (.feWithdrawal id) s = execFeWithdrawal id s := rfl
@[simp] theorem storeBufferSend (core : Nat) (id : Nat) (s : State) : exec (.storeBufferSend core id) s = execStoreBufferSend core id s := rfl
@[simp] theorem storeAck (id : Nat) (s : State) : exec (.storeAck id) s = execStoreAck id s := rfl
@[simp] theorem controllerIssue (id : Nat) (s : State) : exec (.controllerIssue id) s = execControllerIssue id s := rfl
@[simp] theorem accumulateAccept (id : Nat) (s : State) : exec (.accumulateAccept id) s = execAccumulateAccept id s := rfl
@[simp] theorem combiningDrain (ctrl : Nat) (atom : Nat) (s : State) : exec (.combiningDrain ctrl atom) s = execCombiningDrain ctrl atom s := rfl
@[simp] theorem geckoToken (id : Nat) (s : State) : exec (.geckoToken id) s = execGeckoToken id s := rfl
@[simp] theorem rowCacheExpiry (core : Nat) (atom : Nat) (s : State) : exec (.rowCacheExpiry core atom) s = execRowCacheExpiry core atom s := rfl
@[simp] theorem promotionEpoch (chan : Nat) (s : State) : exec (.promotionEpoch chan) s = execPromotionEpoch chan s := rfl
@[simp] theorem scrub (atom : Nat) (s : State) : exec (.scrub atom) s = execScrub atom s := rfl
@[simp] theorem refresh (chan : Nat) (bank : Nat) (row : Nat) (s : State) : exec (.refresh chan bank row) s = execRefresh chan bank row s := rfl
@[simp] theorem stackTemperatureReport (stack : Nat) (temp : Int) (s : State) : exec (.stackTemperatureReport stack temp) s = execStackTemperatureReport stack temp s := rfl
@[simp] theorem hostSnoop (line : Nat) (own : Bool) (s : State) : exec (.hostSnoop line own) s = execHostSnoop line own s := rfl
@[simp] theorem snoopApply (s : State) : exec .snoopApply s = execSnoopApply s := rfl
@[simp] theorem hostResponse (id : Nat) (grantE : Bool) (line : Option W512) (s : State) : exec (.hostResponse id grantE line) s = execHostResponse id grantE line s := rfl
@[simp] theorem cxlLinkDown (s : State) : exec .cxlLinkDown s = execCxlLinkDown s := rfl
@[simp] theorem cxlLinkRetrain (s : State) : exec .cxlLinkRetrain s = execCxlLinkRetrain s := rfl
@[simp] theorem hostRegisterAccess (off : Nat) (size : Nat) (wr : Option W64) (s : State) : exec (.hostRegisterAccess off size wr) s = execHostRegisterAccess off size wr s := rfl
@[simp] theorem mmaStep (core : Nat) (strand : Nat) (s : State) : exec (.mmaStep core strand) s = execMmaStep core strand s := rfl
@[simp] theorem mrotComplete (id : Nat) (s : State) : exec (.mrotComplete id) s = execMrotComplete id s := rfl
@[simp] theorem mxchComplete (id : Nat) (s : State) : exec (.mxchComplete id) s = execMxchComplete id s := rfl
@[simp] theorem rejoinLineHigh (core : Nat) (strand : Nat) (s : State) : exec (.rejoinLineHigh core strand) s = execRejoinLineHigh core strand s := rfl
@[simp] theorem barrierComplete (core : Nat) (kind : BarKind) (s : State) : exec (.barrierComplete core kind) s = execBarrierComplete core kind s := rfl
@[simp] theorem timeTick (s : State) : exec .timeTick s = execTimeTick s := rfl
@[simp] theorem governorWindow (u : Nat) (s : State) : exec (.governorWindow u) s = execGovernorWindow u s := rfl
@[simp] theorem vfEvaluate (dom : Nat) (spend : Nat) (s : State) : exec (.vfEvaluate dom spend) s = execVfEvaluate dom spend s := rfl
@[simp] theorem energyExhausted (dom : Nat) (s : State) : exec (.energyExhausted dom) s = execEnergyExhausted dom s := rfl
@[simp] theorem equalisation (lanes : List Nat) (s : State) : exec (.equalisation lanes) s = execEqualisation lanes s := rfl
@[simp] theorem dispatch (plan : Plan) (s : State) : exec (.dispatch plan) s = execDispatch plan s := rfl
@[simp] theorem preempt (tid : Nat) (s : State) : exec (.preempt tid) s = execPreempt tid s := rfl
@[simp] theorem taskComplete (tid : Nat) (energy : Nat) (s : State) : exec (.taskComplete tid energy) s = execTaskComplete tid energy s := rfl
@[simp] theorem fqgetWrite (die : Nat) (value : Nat) (s : State) : exec (.fqgetWrite die value) s = execFqgetWrite die value s := rfl
@[simp] theorem registerWrite (id : Nat) (s : State) : exec (.registerWrite id) s = execRegisterWrite id s := rfl
@[simp] theorem broadcastWrite (off : Nat) (value : W64) (s : State) : exec (.broadcastWrite off value) s = execBroadcastWrite off value s := rfl
@[simp] theorem inspectionAccess (core : Nat) (off : Nat) (wr : Option W64) (s : State) : exec (.inspectionAccess core off wr) s = execInspectionAccess core off wr s := rfl
@[simp] theorem chaezWrite (pa : Nat) (data : List W64) (s : State) : exec (.chaezWrite pa data) s = execChaezWrite pa data s := rfl
@[simp] theorem chaezRead (pa : Nat) (dwords : Nat) (s : State) : exec (.chaezRead pa dwords) s = execChaezRead pa dwords s := rfl
@[simp] theorem release (target : CtlTarget) (s : State) : exec (.release target) s = execRelease target s := rfl
@[simp] theorem releaseSkip (target : CtlTarget) (s : State) : exec (.releaseSkip target) s = execReleaseSkip target s := rfl
@[simp] theorem endTask (target : CtlTarget) (s : State) : exec (.endTask target) s = execEndTask target s := rfl
@[simp] theorem digestReset (desc : Nat) (s : State) : exec (.digestReset desc) s = execDigestReset desc s := rfl
@[simp] theorem unfence (port : Nat) (s : State) : exec (.unfence port) s = execUnfence port s := rfl
@[simp] theorem timeref (dom : Nat) (s : State) : exec (.timeref dom) s = execTimeref dom s := rfl
@[simp] theorem checkpoint (name : Nat) (tier : Nat) (s : State) : exec (.checkpoint name tier) s = execCheckpoint name tier s := rfl
@[simp] theorem checkpointRestore (chunks : List Chunk) (s : State) : exec (.checkpointRestore chunks) s = execCheckpointRestore chunks s := rfl
@[simp] theorem reset (s : State) : exec .reset s = execReset s := rfl
@[simp] theorem recovery (piece : List Byte) (s : State) : exec (.recovery piece) s = execRecovery piece s := rfl
@[simp] theorem statusReport (io : Int) (modl : Int) (s : State) : exec (.statusReport io modl) s = execStatusReport io modl s := rfl
@[simp] theorem powerOn (s : State) : exec .powerOn s = execPowerOn s := rfl
@[simp] theorem thermalTrip (temp : Int) (s : State) : exec (.thermalTrip temp) s = execThermalTrip temp s := rfl
@[simp] theorem attestNonceWrite (nonce : BitVec 256) (s : State) : exec (.attestNonceWrite nonce) s = execAttestNonceWrite nonce s := rfl
@[simp] theorem attestTidWrite (value : W64) (s : State) : exec (.attestTidWrite value) s = execAttestTidWrite value s := rfl
@[simp] theorem attestReportRead (s : State) : exec .attestReportRead s = execAttestReportRead s := rfl
@[simp] theorem rowPacket (pkt : RowPkt) (s : State) : exec (.rowPacket pkt) s = execRowPacket pkt s := rfl
@[simp] theorem switchRowPacket (id : Nat) (s : State) : exec (.switchRowPacket id) s = execSwitchRowPacket id s := rfl
@[simp] theorem peerAccessPacket (pkt : PeerPkt) (s : State) : exec (.peerAccessPacket pkt) s = execPeerAccessPacket pkt s := rfl
@[simp] theorem fabricTimeout (id : Nat) (s : State) : exec (.fabricTimeout id) s = execFabricTimeout id s := rfl
@[simp] theorem collOutcome (core : Nat) (entry : Nat) (others : List CollShare) (s : State) : exec (.collOutcome core entry others) s = execCollOutcome core entry others s := rfl
@[simp] theorem timeBeacon (ref : Nat) (ahead : Int) (s : State) : exec (.timeBeacon ref ahead) s = execTimeBeacon ref ahead s := rfl
@[simp] theorem domainJoin (dom : Nat) (time : W64) (s : State) : exec (.domainJoin dom time) s = execDomainJoin dom time s := rfl
@[simp] theorem referenceLoss (dom : Nat) (s : State) : exec (.referenceLoss dom) s = execReferenceLoss dom s := rfl
@[simp] theorem computeDieTemperature (die : Nat) (temp : Int) (s : State) : exec (.computeDieTemperature die temp) s = execComputeDieTemperature die temp s := rfl

end Sys2Proof.Machine.Arm
end

