-- ==== Sys2Proof/Laws/Codes.lean ====
section
/-! SUPPORT. The codes of the encodings: each name's code is within its field and reads back as the name, and how
a decoder reads a word whose fields are known. -/

namespace Sys2Proof.Laws

theorem regOf_code (r : Reg) : regOf r.code = some r := by
  cases r with
  | g n => revert n; decide
  | s n => revert n; decide
  | _ => rfl

theorem reg_code_lt (r : Reg) : r.code < 32 := by cases r <;> simp only [Reg.code] <;> omega

theorem flagOf_toNat (b : Bool) : flagOf b.toNat = some b := by cases b <;> rfl

theorem toNat_lt_two (b : Bool) : b.toNat < 2 := by cases b <;> decide

theorem toNat_lt_32 (b : Bool) : b.toNat < 32 := by cases b <;> decide

theorem sumVarOf_code (v : SumVar) : sumVarOf v.code = some v := by cases v <;> rfl

theorem sumVar_code_lt (v : SumVar) : v.code < 32 := by cases v <;> decide

theorem divVarOf_code (v : DivVar) : divVarOf v.code = some v := by cases v <;> rfl

theorem divVar_code_lt (v : DivVar) : v.code < 32 := by cases v <;> decide

theorem sgnVarOf_code (v : SgnVar) : sgnVarOf v.code = some v := by cases v <;> rfl

theorem sgnVar_code_lt (v : SgnVar) : v.code < 32 := by cases v <;> decide

theorem iCondOf_code (v : ICond) : iCondOf v.code = some v := by cases v <;> rfl

theorem iCond_code_lt (v : ICond) : v.code < 32 := by cases v <;> decide

theorem fCondOf_code (v : FCond) : fCondOf v.code = some v := by cases v <;> rfl

theorem fCond_code_lt (v : FCond) : v.code < 32 := by cases v <;> decide

theorem amoOpOf_code (v : AmoOp) : amoOpOf v.code = some v := by cases v <;> rfl

theorem amoOp_code_lt (v : AmoOp) : v.code < 8 := by cases v <;> decide

theorem redOpOf_code (v : RedOp) : redOpOf v.code = some v := by cases v <;> rfl

theorem redOp_code_lt (v : RedOp) : v.code < 8 := by cases v <;> decide

theorem barKindOf_code (v : BarKind) : barKindOf v.code = some v := by cases v <;> rfl

theorem barKind_code_lt (v : BarKind) : v.code < 4 := by cases v <;> decide

theorem fmtOf_code (v : Fmt) : fmtOf v.code = some v := by cases v <;> rfl

theorem fmt_code_lt (v : Fmt) : v.code < 16 := by cases v <;> decide

theorem sizeOf_code (v : Size) : sizeOf v.code = some v := by cases v <;> rfl

theorem size_code_lt (v : Size) : v.code < 4 := by cases v <;> decide

theorem eszOf_code (v : Esz) : eszOf v.code = some v := by cases v <;> rfl

theorem esz_code_lt (v : Esz) : v.code < 4 := by cases v <;> decide

theorem scopeOf_code (v : Scope) : scopeOf v.code = some v := by cases v <;> rfl

theorem scope_code_lt (v : Scope) : v.code < 8 := by cases v <;> decide

theorem fuseSizeOf_code (v : FuseSize) : fuseSizeOf v.code = some v := by cases v <;> rfl

theorem fuseSize_code_lt (v : FuseSize) : v.code < 8 := by cases v <;> decide

theorem sysRegOf_code (v : SysReg) : sysRegOf v.code = some v := by cases v <;> rfl

theorem sysReg_code_lt (v : SysReg) : v.code < 1024 := by cases v <;> decide

/-- A field that is a register number. -/
theorem finF_eq {w lo len : Nat} {x : Fin (2 ^ len)} (h : fld w lo len = x.val) : finF w lo len = x := Fin.ext h

/-- A field that is a raw value. -/
theorem bitsF_eq {w lo len : Nat} {x : BitVec len} (h : fld w lo len = x.toNat) : bitsF w lo len = x := by
  unfold bitsF
  rw [h, BitVec.ofNat_toNat, BitVec.setWidth_eq]

/-- A field that is a flag. -/
theorem bitF_eq {w lo : Nat} {b : Bool} (h : fld w lo 1 = b.toNat) : bitF w lo = b := by
  unfold bitF
  rw [h]
  cases b <;> rfl

/-- A word whose opcode map reads a well-formed instruction decodes to it. -/
theorem decode_of_map {i : Instr} {w k op : Nat} (hw : i.wf = true) (hk : fld w 30 1 = k) (ho : fld w 23 7 = op)
    (h : (if k = 1 then decA op w else decC op w) = some i) : decodeWord w = some i := by
  subst hk ho
  simp only [decodeWord, h, Option.filter_some, hw, if_true]

/-- The lowest field of a word. -/
theorem fld_here {x y : Nat} (n : Nat) (h : y < 2 ^ n) : fld (x * 2 ^ n + y) 0 n = y := by
  unfold fld
  rw [Nat.pow_zero, Nat.div_one, Nat.mul_comm, Nat.mul_add_mod, Nat.mod_eq_of_lt h]

/-- A field above the lowest n bits of a word. -/
theorem fld_up {x y z lo len : Nat} (n : Nat) (h : y < 2 ^ n) (k : fld x lo len = z) :
    fld (x * 2 ^ n + y) (lo + n) len = z := by
  rw [← k]
  unfold fld
  rw [Nat.add_comm lo, Nat.pow_add, ← Nat.div_div_eq_div_mul, Nat.mul_comm, Nat.mul_add_div (Nat.two_pow_pos n),
    Nat.div_eq_of_lt h, Nat.add_zero]

/-- A field of a word that is known in another form. -/
theorem fld_of {w x z lo len : Nat} (e : w = x) (k : fld x lo len = z) : fld w lo len = z := e ▸ k

/-! What the opcode maps read for each opcode. -/

theorem decA_0 (w : Nat) : decA 0 w =
    (do let d ← regOf (fld w 15 5); let a ← regOf (fld w 10 5); let b ← regOf (fld w 5 5); let v ← sumVarOf (fld w 0 5); some (.add (finF w 20 3) d a b v)) := rfl

theorem decA_1 (w : Nat) : decA 1 w =
    (do let d ← regOf (fld w 15 5); let a ← regOf (fld w 10 5); let b ← regOf (fld w 5 5); let v ← sumVarOf (fld w 0 5); some (.sub (finF w 20 3) d a b v)) := rfl

theorem decA_2 (w : Nat) : decA 2 w =
    (do let d ← regOf (fld w 15 5); let a ← regOf (fld w 10 5); let b ← regOf (fld w 5 5); let v ← flagOf (fld w 0 5); some (.mul (finF w 20 3) d a b v)) := rfl

theorem decA_3 (w : Nat) : decA 3 w =
    (do let d ← regOf (fld w 15 5); let a ← regOf (fld w 10 5); let b ← regOf (fld w 5 5); let v ← flagOf (fld w 0 5); some (.mulh (finF w 20 3) d a b v)) := rfl

theorem decA_4 (w : Nat) : decA 4 w =
    (do let d ← regOf (fld w 15 5); let a ← regOf (fld w 10 5); let b ← regOf (fld w 5 5); let v ← divVarOf (fld w 0 5); some (.div (finF w 20 3) d a b v)) := rfl

theorem decA_5 (w : Nat) : decA 5 w =
    (do let d ← regOf (fld w 15 5); let a ← regOf (fld w 10 5); let b ← regOf (fld w 5 5); let v ← divVarOf (fld w 0 5); some (.rem (finF w 20 3) d a b v)) := rfl

theorem decA_6 (w : Nat) : decA 6 w =
    (if fld w 0 5 = 0 then (do let d ← regOf (fld w 15 5); let a ← regOf (fld w 10 5); let b ← regOf (fld w 5 5); some (.and (finF w 20 3) d a b)) else none) := rfl

theorem decA_7 (w : Nat) : decA 7 w =
    (if fld w 0 5 = 0 then (do let d ← regOf (fld w 15 5); let a ← regOf (fld w 10 5); let b ← regOf (fld w 5 5); some (.or (finF w 20 3) d a b)) else none) := rfl

theorem decA_8 (w : Nat) : decA 8 w =
    (if fld w 0 5 = 0 then (do let d ← regOf (fld w 15 5); let a ← regOf (fld w 10 5); let b ← regOf (fld w 5 5); some (.xor (finF w 20 3) d a b)) else none) := rfl

theorem decA_9 (w : Nat) : decA 9 w =
    (if fld w 0 5 = 0 then (do let d ← regOf (fld w 15 5); let a ← regOf (fld w 10 5); let b ← regOf (fld w 5 5); some (.andn (finF w 20 3) d a b)) else none) := rfl

theorem decA_10 (w : Nat) : decA 10 w =
    (do let d ← regOf (fld w 15 5); let a ← regOf (fld w 10 5); let b ← regOf (fld w 5 5); let v ← flagOf (fld w 0 5); some (.shl (finF w 20 3) d a b v)) := rfl

theorem decA_11 (w : Nat) : decA 11 w =
    (do let d ← regOf (fld w 15 5); let a ← regOf (fld w 10 5); let b ← regOf (fld w 5 5); let v ← flagOf (fld w 0 5); some (.shr (finF w 20 3) d a b v)) := rfl

theorem decA_12 (w : Nat) : decA 12 w =
    (do let d ← regOf (fld w 15 5); let a ← regOf (fld w 10 5); let b ← regOf (fld w 5 5); let v ← flagOf (fld w 0 5); some (.sra (finF w 20 3) d a b v)) := rfl

theorem decA_13 (w : Nat) : decA 13 w =
    (do let d ← regOf (fld w 15 5); let a ← regOf (fld w 10 5); let b ← regOf (fld w 5 5); let v ← flagOf (fld w 0 5); some (.rotl (finF w 20 3) d a b v)) := rfl

theorem decA_14 (w : Nat) : decA 14 w =
    (do let d ← regOf (fld w 15 5); let a ← regOf (fld w 10 5); let b ← regOf (fld w 5 5); let v ← flagOf (fld w 0 5); some (.min (finF w 20 3) d a b v)) := rfl

theorem decA_15 (w : Nat) : decA 15 w =
    (do let d ← regOf (fld w 15 5); let a ← regOf (fld w 10 5); let b ← regOf (fld w 5 5); let v ← flagOf (fld w 0 5); some (.max (finF w 20 3) d a b v)) := rfl

theorem decA_16 (w : Nat) : decA 16 w =
    (if fld w 5 5 = 0 then (do let d ← regOf (fld w 15 5); let a ← regOf (fld w 10 5); let v ← flagOf (fld w 0 5); some (.clz (finF w 20 3) d a v)) else none) := rfl

theorem decA_17 (w : Nat) : decA 17 w =
    (if fld w 5 5 = 0 then (do let d ← regOf (fld w 15 5); let a ← regOf (fld w 10 5); let v ← flagOf (fld w 0 5); some (.ctz (finF w 20 3) d a v)) else none) := rfl

theorem decA_18 (w : Nat) : decA 18 w =
    (if fld w 5 5 = 0 then (do let d ← regOf (fld w 15 5); let a ← regOf (fld w 10 5); let v ← flagOf (fld w 0 5); some (.popc (finF w 20 3) d a v)) else none) := rfl

theorem decA_19 (w : Nat) : decA 19 w =
    (do let d ← regOf (fld w 15 5); let a ← regOf (fld w 10 5); let b ← regOf (fld w 5 5); let v ← flagOf (fld w 0 5); some (.bext (finF w 20 3) d a b v)) := rfl

theorem decA_20 (w : Nat) : decA 20 w =
    (if fld w 0 5 = 0 then (do let d ← regOf (fld w 15 5); let a ← regOf (fld w 10 5); let b ← regOf (fld w 5 5); some (.bins (finF w 20 3) d a b)) else none) := rfl

theorem decA_21 (w : Nat) : decA 21 w =
    (if fld w 3 2 = 0 then (do let d ← regOf (fld w 15 5); let a ← regOf (fld w 10 5); let b ← regOf (fld w 5 5); some (.sel (finF w 20 3) d a b (finF w 0 3))) else none) := rfl

theorem decA_22 (w : Nat) : decA 22 w =
    (do let d ← regOf (fld w 15 5); let a ← regOf (fld w 10 5); let b ← regOf (fld w 5 5); let v ← flagOf (fld w 0 5); some (.cmp (finF w 20 3) d a b v)) := rfl

theorem decA_23 (w : Nat) : decA 23 w =
    (if fld w 0 5 = 0 then (do let d ← regOf (fld w 15 5); let a ← regOf (fld w 10 5); let b ← regOf (fld w 5 5); some (.hash64 (finF w 20 3) d a b)) else none) := rfl

theorem decA_24 (w : Nat) : decA 24 w =
    (do let d ← regOf (fld w 15 5); some (.movi (finF w 20 3) d (bitsF w 0 15))) := rfl

theorem decA_25 (w : Nat) : decA 25 w =
    (do let d ← regOf (fld w 15 5); some (.movh (finF w 20 3) d (bitsF w 0 15))) := rfl

theorem decA_26 (w : Nat) : decA 26 w =
    (if fld w 15 2 = 0 then (do let a ← regOf (fld w 10 5); let b ← regOf (fld w 5 5); let c ← iCondOf (fld w 0 5); some (.pset (finF w 20 3) (finF w 17 3) a b c)) else none) := rfl

theorem decA_27 (w : Nat) : decA 27 w =
    (if fld w 0 9 = 0 then (some (.pand (finF w 20 3) (finF w 17 3) (finF w 14 3) (finF w 11 3) (bitF w 10) (bitF w 9))) else none) := rfl

theorem decA_28 (w : Nat) : decA 28 w =
    (if fld w 0 9 = 0 then (some (.por (finF w 20 3) (finF w 17 3) (finF w 14 3) (finF w 11 3) (bitF w 10) (bitF w 9))) else none) := rfl

theorem decA_29 (w : Nat) : decA 29 w =
    (if fld w 11 3 = 0 ∧ fld w 9 1 = 0 ∧ fld w 0 9 = 0 then (some (.pnot (finF w 20 3) (finF w 17 3) (finF w 14 3) (bitF w 10))) else none) := rfl

theorem decA_32 (w : Nat) : decA 32 w =
    (if fld w 0 5 = 0 then (do let d ← regOf (fld w 15 5); let a ← regOf (fld w 10 5); let b ← regOf (fld w 5 5); some (.fadd (finF w 20 3) d a b)) else none) := rfl

theorem decA_33 (w : Nat) : decA 33 w =
    (if fld w 0 5 = 0 then (do let d ← regOf (fld w 15 5); let a ← regOf (fld w 10 5); let b ← regOf (fld w 5 5); some (.fsub (finF w 20 3) d a b)) else none) := rfl

theorem decA_34 (w : Nat) : decA 34 w =
    (if fld w 0 5 = 0 then (do let d ← regOf (fld w 15 5); let a ← regOf (fld w 10 5); let b ← regOf (fld w 5 5); some (.fmul (finF w 20 3) d a b)) else none) := rfl

theorem decA_35 (w : Nat) : decA 35 w =
    (do let d ← regOf (fld w 15 5); let a ← regOf (fld w 10 5); let b ← regOf (fld w 5 5); let c ← regOf (fld w 0 5); some (.fma (finF w 20 3) d a b c)) := rfl

theorem decA_36 (w : Nat) : decA 36 w =
    (if fld w 0 5 = 0 then (do let d ← regOf (fld w 15 5); let a ← regOf (fld w 10 5); let b ← regOf (fld w 5 5); some (.fdiv (finF w 20 3) d a b)) else none) := rfl

theorem decA_37 (w : Nat) : decA 37 w =
    (if fld w 5 5 = 0 ∧ fld w 0 5 = 0 then (do let d ← regOf (fld w 15 5); let a ← regOf (fld w 10 5); some (.frcp (finF w 20 3) d a)) else none) := rfl

theorem decA_38 (w : Nat) : decA 38 w =
    (if fld w 5 5 = 0 ∧ fld w 0 5 = 0 then (do let d ← regOf (fld w 15 5); let a ← regOf (fld w 10 5); some (.frsq (finF w 20 3) d a)) else none) := rfl

theorem decA_39 (w : Nat) : decA 39 w =
    (do let d ← regOf (fld w 15 5); let a ← regOf (fld w 10 5); let b ← regOf (fld w 5 5); let v ← flagOf (fld w 0 5); some (.fmin (finF w 20 3) d a b v)) := rfl

theorem decA_40 (w : Nat) : decA 40 w =
    (do let d ← regOf (fld w 15 5); let a ← regOf (fld w 10 5); let b ← regOf (fld w 5 5); let v ← flagOf (fld w 0 5); some (.fmax (finF w 20 3) d a b v)) := rfl

theorem decA_41 (w : Nat) : decA 41 w =
    (if fld w 15 2 = 0 then (do let a ← regOf (fld w 10 5); let b ← regOf (fld w 5 5); let c ← fCondOf (fld w 0 5); some (.fcmp (finF w 20 3) (finF w 17 3) a b c)) else none) := rfl

theorem decA_42 (w : Nat) : decA 42 w =
    (if fld w 5 5 = 0 ∧ fld w 4 1 = 0 then (do let d ← regOf (fld w 15 5); let a ← regOf (fld w 10 5); let f ← fmtOf (fld w 0 4); some (.fclass (finF w 20 3) d a f)) else none) := rfl

theorem decA_43 (w : Nat) : decA 43 w =
    (if fld w 9 1 = 0 ∧ fld w 4 1 = 0 then (do let d ← regOf (fld w 15 5); let a ← regOf (fld w 10 5); let src ← fmtOf (fld w 5 4); let dst ← fmtOf (fld w 0 4); some (.fcvt (finF w 20 3) d a src dst)) else none) := rfl

theorem decA_44 (w : Nat) : decA 44 w =
    (do let d ← regOf (fld w 15 5); let a ← regOf (fld w 10 5); let b ← regOf (fld w 5 5); let v ← sgnVarOf (fld w 0 5); some (.fsgn (finF w 20 3) d a b v)) := rfl

theorem decA_48 (w : Nat) : decA 48 w =
    (do let f ← fmtOf (fld w 0 4); some (.vadd (finF w 20 3) (finF w 15 5) (finF w 10 5) (finF w 5 5) (bitF w 4) f)) := rfl

theorem decA_49 (w : Nat) : decA 49 w =
    (do let f ← fmtOf (fld w 0 4); some (.vsub (finF w 20 3) (finF w 15 5) (finF w 10 5) (finF w 5 5) (bitF w 4) f)) := rfl

theorem decA_50 (w : Nat) : decA 50 w =
    (do let f ← fmtOf (fld w 0 4); some (.vmul (finF w 20 3) (finF w 15 5) (finF w 10 5) (finF w 5 5) (bitF w 4) f)) := rfl

theorem decA_51 (w : Nat) : decA 51 w =
    (some (.vfma (finF w 20 3) (finF w 15 5) (finF w 10 5) (finF w 5 5) (finF w 0 5))) := rfl

theorem decA_52 (w : Nat) : decA 52 w =
    (do let f ← fmtOf (fld w 0 4); some (.vmin (finF w 20 3) (finF w 15 5) (finF w 10 5) (finF w 5 5) (bitF w 4) f)) := rfl

theorem decA_53 (w : Nat) : decA 53 w =
    (do let f ← fmtOf (fld w 0 4); some (.vmax (finF w 20 3) (finF w 15 5) (finF w 10 5) (finF w 5 5) (bitF w 4) f)) := rfl

theorem decA_54 (w : Nat) : decA 54 w =
    (do let f ← fmtOf (fld w 0 4); some (.vsgn (finF w 20 3) (finF w 15 5) (finF w 10 5) (finF w 5 5) (bitF w 4) f)) := rfl

theorem decA_55 (w : Nat) : decA 55 w =
    (if fld w 9 1 = 0 ∧ fld w 4 1 = 0 then (do let src ← fmtOf (fld w 5 4); let dst ← fmtOf (fld w 0 4); some (.vcvt (finF w 20 3) (finF w 15 5) (finF w 10 5) src dst)) else none) := rfl

theorem decA_56 (w : Nat) : decA 56 w =
    (if fld w 0 5 = 0 then (some (.vscl (finF w 20 3) (finF w 15 5) (finF w 10 5) (finF w 5 5))) else none) := rfl

theorem decA_57 (w : Nat) : decA 57 w =
    (if fld w 5 5 = 0 then (do let d ← regOf (fld w 15 5); let f ← fmtOf (fld w 0 4); some (.vred (finF w 20 3) d (finF w 10 5) (bitF w 4) f)) else none) := rfl

theorem decA_58 (w : Nat) : decA 58 w =
    (do let f ← fmtOf (fld w 0 4); some (.vcmp (finF w 20 3) (finF w 15 5) (finF w 10 5) (finF w 5 5) (bitF w 4) f)) := rfl

theorem decA_59 (w : Nat) : decA 59 w =
    (some (.vsel (finF w 20 3) (finF w 15 5) (finF w 10 5) (finF w 5 5) (finF w 0 5))) := rfl

theorem decA_60 (w : Nat) : decA 60 w =
    (if fld w 5 5 = 0 ∧ fld w 4 1 = 0 then (do let a ← regOf (fld w 10 5); let f ← fmtOf (fld w 0 4); some (.vbc (finF w 20 3) (finF w 15 5) a f)) else none) := rfl

theorem decA_61 (w : Nat) : decA 61 w =
    (if fld w 4 1 = 0 then (do let f ← fmtOf (fld w 0 4); some (.vperm (finF w 20 3) (finF w 15 5) (finF w 10 5) (finF w 5 5) f)) else none) := rfl

theorem decA_62 (w : Nat) : decA 62 w =
    ((if fld w 5 5 = 0 ∧ fld w 0 5 = 0 then (some (.vmov (finF w 20 3) (finF w 15 5) (finF w 10 5))) else none) <|>      (if fld w 5 5 = 0 ∧ fld w 4 1 = 1 then (do let f ← fmtOf (fld w 0 4); some (.vmovSr (finF w 20 3) (finF w 15 5) (finF w 10 5) f)) else none)) := rfl

theorem decA_64 (w : Nat) : decA 64 w =
    (do let d ← regOf (fld w 15 5); let a ← regOf (fld w 10 5); some (.addImm (finF w 20 3) d a (bitsF w 0 10))) := rfl

theorem decA_65 (w : Nat) : decA 65 w =
    (do let d ← regOf (fld w 15 5); let a ← regOf (fld w 10 5); some (.subImm (finF w 20 3) d a (bitsF w 0 10))) := rfl

theorem decA_66 (w : Nat) : decA 66 w =
    (do let d ← regOf (fld w 15 5); let a ← regOf (fld w 10 5); some (.mulImm (finF w 20 3) d a (bitsF w 0 10))) := rfl

theorem decA_67 (w : Nat) : decA 67 w =
    (do let d ← regOf (fld w 15 5); let a ← regOf (fld w 10 5); some (.mulhImm (finF w 20 3) d a (bitsF w 0 10))) := rfl

theorem decA_68 (w : Nat) : decA 68 w =
    (do let d ← regOf (fld w 15 5); let a ← regOf (fld w 10 5); some (.divImm (finF w 20 3) d a (bitsF w 0 10))) := rfl

theorem decA_69 (w : Nat) : decA 69 w =
    (do let d ← regOf (fld w 15 5); let a ← regOf (fld w 10 5); some (.remImm (finF w 20 3) d a (bitsF w 0 10))) := rfl

theorem decA_70 (w : Nat) : decA 70 w =
    (do let d ← regOf (fld w 15 5); let a ← regOf (fld w 10 5); some (.andImm (finF w 20 3) d a (bitsF w 0 10))) := rfl

theorem decA_71 (w : Nat) : decA 71 w =
    (do let d ← regOf (fld w 15 5); let a ← regOf (fld w 10 5); some (.orImm (finF w 20 3) d a (bitsF w 0 10))) := rfl

theorem decA_72 (w : Nat) : decA 72 w =
    (do let d ← regOf (fld w 15 5); let a ← regOf (fld w 10 5); some (.xorImm (finF w 20 3) d a (bitsF w 0 10))) := rfl

theorem decA_73 (w : Nat) : decA 73 w =
    (do let d ← regOf (fld w 15 5); let a ← regOf (fld w 10 5); some (.andnImm (finF w 20 3) d a (bitsF w 0 10))) := rfl

theorem decA_74 (w : Nat) : decA 74 w =
    (if fld w 6 4 = 0 then (do let d ← regOf (fld w 15 5); let a ← regOf (fld w 10 5); some (.shlImm (finF w 20 3) d a (bitsF w 0 6))) else none) := rfl

theorem decA_75 (w : Nat) : decA 75 w =
    (if fld w 6 4 = 0 then (do let d ← regOf (fld w 15 5); let a ← regOf (fld w 10 5); some (.shrImm (finF w 20 3) d a (bitsF w 0 6))) else none) := rfl

theorem decA_76 (w : Nat) : decA 76 w =
    (if fld w 6 4 = 0 then (do let d ← regOf (fld w 15 5); let a ← regOf (fld w 10 5); some (.sraImm (finF w 20 3) d a (bitsF w 0 6))) else none) := rfl

theorem decA_77 (w : Nat) : decA 77 w =
    (if fld w 6 4 = 0 then (do let d ← regOf (fld w 15 5); let a ← regOf (fld w 10 5); some (.rotlImm (finF w 20 3) d a (bitsF w 0 6))) else none) := rfl

theorem decA_78 (w : Nat) : decA 78 w =
    (do let d ← regOf (fld w 15 5); let a ← regOf (fld w 10 5); some (.minImm (finF w 20 3) d a (bitsF w 0 10))) := rfl

theorem decA_79 (w : Nat) : decA 79 w =
    (do let d ← regOf (fld w 15 5); let a ← regOf (fld w 10 5); some (.maxImm (finF w 20 3) d a (bitsF w 0 10))) := rfl

theorem decA_86 (w : Nat) : decA 86 w =
    (do let d ← regOf (fld w 15 5); let a ← regOf (fld w 10 5); some (.cmpImm (finF w 20 3) d a (bitsF w 0 10))) := rfl

theorem decC_0 (w : Nat) : decC 0 w =
    (if fld w 0 23 = 0 then (some .nop) else none) := rfl

theorem decC_1 (w : Nat) : decC 1 w =
    (some (.br (finF w 20 3) (bitF w 19) (bitsF w 0 19))) := rfl

theorem decC_2 (w : Nat) : decC 2 w =
    (some (.jmp (bitsF w 0 23))) := rfl

theorem decC_3 (w : Nat) : decC 3 w =
    (if fld w 8 5 = 0 ∧ fld w 0 8 = 0 then (do let d ← regOf (fld w 18 5); let a ← regOf (fld w 13 5); some (.jmpr d a)) else none) := rfl

theorem decC_4 (w : Nat) : decC 4 w =
    (some (.call (bitsF w 0 23))) := rfl

theorem decC_5 (w : Nat) : decC 5 w =
    (if fld w 0 23 = 0 then (some .ret) else none) := rfl

theorem decC_6 (w : Nat) : decC 6 w =
    (do let a ← regOf (fld w 18 5); some (.loop a (bitsF w 0 18))) := rfl

theorem decC_7 (w : Nat) : decC 7 w =
    (if fld w 0 23 = 0 then (some .doneF) else none) := rfl

theorem decC_8 (w : Nat) : decC 8 w =
    (if fld w 0 23 = 0 then (some .yieldF) else none) := rfl

theorem decC_9 (w : Nat) : decC 9 w =
    (if fld w 16 7 = 0 then (some (.brk (bitsF w 0 16))) else none) := rfl

theorem decC_10 (w : Nat) : decC 10 w =
    (if fld w 7 1 = 0 then (do let r ← regOf (fld w 18 5); let base ← regOf (fld w 10 5); let sz ← sizeOf (fld w 8 2); some (.lea r (finF w 15 3) base sz (bitsF w 0 7))) else none) := rfl

theorem decC_13 (w : Nat) : decC 13 w =
    (do let d ← regOf (fld w 18 5); let a ← regOf (fld w 13 5); let b ← regOf (fld w 8 5); let esz ← eszOf (fld w 0 2); some (.madv d a b (finF w 5 3) (finF w 2 3) esz)) := rfl

theorem decC_14 (w : Nat) : decC 14 w =
    (if fld w 0 8 = 0 then (do let d ← regOf (fld w 18 5); let a ← regOf (fld w 13 5); let b ← regOf (fld w 8 5); some (.fwalk d a b)) else none) := rfl

theorem decC_15 (w : Nat) : decC 15 w =
    (if fld w 3 5 = 0 then (do let d ← regOf (fld w 18 5); let a ← regOf (fld w 13 5); let b ← regOf (fld w 8 5); some (.brank d a b (finF w 0 3))) else none) := rfl

theorem decC_16 (w : Nat) : decC 16 w =
    (do let r ← regOf (fld w 18 5); let base ← regOf (fld w 10 5); let sz ← sizeOf (fld w 8 2); some (.ld r (finF w 15 3) base sz (bitF w 7) (bitsF w 0 7))) := rfl

theorem decC_17 (w : Nat) : decC 17 w =
    (do let r ← regOf (fld w 18 5); let base ← regOf (fld w 10 5); let sz ← sizeOf (fld w 8 2); let sc ← scopeOf (fld w 4 3); some (.ldAcq r (finF w 15 3) base sz (bitF w 7) sc (bitsF w 0 4))) := rfl

theorem decC_18 (w : Nat) : decC 18 w =
    (if fld w 7 1 = 0 then (do let r ← regOf (fld w 18 5); let base ← regOf (fld w 10 5); let sz ← sizeOf (fld w 8 2); some (.st r (finF w 15 3) base sz (bitsF w 0 7))) else none) := rfl

theorem decC_19 (w : Nat) : decC 19 w =
    (if fld w 7 1 = 0 then (do let r ← regOf (fld w 18 5); let base ← regOf (fld w 10 5); let sz ← sizeOf (fld w 8 2); let sc ← scopeOf (fld w 4 3); some (.stRel r (finF w 15 3) base sz sc (bitsF w 0 4))) else none) := rfl

theorem decC_20 (w : Nat) : decC 20 w =
    (if fld w 8 2 = 3 ∧ fld w 7 1 = 0 then (do let r ← regOf (fld w 18 5); let base ← regOf (fld w 10 5); some (.ldp r (finF w 15 3) base (bitsF w 0 7))) else none) := rfl

theorem decC_21 (w : Nat) : decC 21 w =
    (if fld w 8 2 = 3 ∧ fld w 7 1 = 0 then (do let r ← regOf (fld w 18 5); let base ← regOf (fld w 10 5); some (.stp r (finF w 15 3) base (bitsF w 0 7))) else none) := rfl

theorem decC_22 (w : Nat) : decC 22 w =
    (if fld w 18 5 = 0 ∧ fld w 7 1 = 0 then (do let base ← regOf (fld w 10 5); let sz ← sizeOf (fld w 8 2); some (.pf (finF w 15 3) base sz (bitsF w 0 7))) else none) := rfl

theorem decC_23 (w : Nat) : decC 23 w =
    (if fld w 0 20 = 0 then (do let sc ← scopeOf (fld w 20 3); some (.fence sc)) else none) := rfl

theorem decC_24 (w : Nat) : decC 24 w =
    (do let d ← regOf (fld w 18 5); let base ← regOf (fld w 10 5); let b ← regOf (fld w 5 5); let op ← amoOpOf (fld w 2 3); let esz ← eszOf (fld w 0 2); some (.amo d (finF w 15 3) base b op esz)) := rfl

theorem decC_25 (w : Nat) : decC 25 w =
    (do let d ← regOf (fld w 18 5); let base ← regOf (fld w 10 5); let b ← regOf (fld w 5 5); let c ← regOf (fld w 0 5); some (.cas d (finF w 15 3) base b c)) := rfl

theorem decC_26 (w : Nat) : decC 26 w =
    (if fld w 18 5 = 0 then (do let base ← regOf (fld w 10 5); let b ← regOf (fld w 5 5); let op ← redOpOf (fld w 2 3); let esz ← eszOf (fld w 0 2); some (.red (finF w 15 3) base b op esz)) else none) := rfl

theorem decC_32 (w : Nat) : decC 32 w =
    (do let r ← regOf (fld w 18 5); let base ← regOf (fld w 10 5); let sc ← scopeOf (fld w 7 3); some (.ldf r (finF w 15 3) base sc (bitsF w 0 7))) := rfl

theorem decC_33 (w : Nat) : decC 33 w =
    (do let r ← regOf (fld w 18 5); let base ← regOf (fld w 10 5); let sc ← scopeOf (fld w 7 3); some (.ldfe r (finF w 15 3) base sc (bitsF w 0 7))) := rfl

theorem decC_34 (w : Nat) : decC 34 w =
    (do let r ← regOf (fld w 18 5); let base ← regOf (fld w 10 5); let sc ← scopeOf (fld w 7 3); some (.stf r (finF w 15 3) base sc (bitsF w 0 7))) := rfl

theorem decC_35 (w : Nat) : decC 35 w =
    (do let r ← regOf (fld w 18 5); let base ← regOf (fld w 10 5); let sc ← scopeOf (fld w 7 3); some (.stfw r (finF w 15 3) base sc (bitsF w 0 7))) := rfl

theorem decC_36 (w : Nat) : decC 36 w =
    (if fld w 19 4 = 0 then (do let base ← regOf (fld w 10 5); let sc ← scopeOf (fld w 7 3); some (.fest (bitF w 18) (finF w 15 3) base sc (bitsF w 0 7))) else none) := rfl

theorem decC_37 (w : Nat) : decC 37 w =
    (if fld w 8 2 = 0 then (do let r ← regOf (fld w 18 5); let base ← regOf (fld w 10 5); some (.st4 r (finF w 15 3) base (bitF w 7) (bitsF w 0 7))) else none) := rfl

theorem decC_40 (w : Nat) : decC 40 w =
    (if fld w 18 5 = 0 then (do let base ← regOf (fld w 10 5); let sz ← sizeOf (fld w 8 2); some (.aqPush (finF w 15 3) base sz (bitF w 7) (bitsF w 0 7))) else none) := rfl

theorem decC_41 (w : Nat) : decC 41 w =
    (do let r ← regOf (fld w 18 5); let base ← regOf (fld w 10 5); let sz ← sizeOf (fld w 8 2); some (.aqList r (finF w 15 3) base sz (bitF w 7) (bitsF w 0 7))) := rfl

theorem decC_42 (w : Nat) : decC 42 w =
    (if fld w 13 5 = 0 ∧ fld w 8 5 = 0 ∧ fld w 1 7 = 0 then (do let d ← regOf (fld w 18 5); some (.dqPop d (bitF w 0))) else none) := rfl

theorem decC_43 (w : Nat) : decC 43 w =
    (if fld w 0 18 = 0 then (do let d ← regOf (fld w 18 5); some (.dqCnt d)) else none) := rfl

theorem decC_44 (w : Nat) : decC 44 w =
    (do let d ← regOf (fld w 18 5); let a ← regOf (fld w 13 5); some (.spawn d a (bitsF w 0 13))) := rfl

theorem decC_45 (w : Nat) : decC 45 w =
    (if fld w 0 13 = 0 then (do let d ← regOf (fld w 18 5); let a ← regOf (fld w 13 5); some (.migr d a)) else none) := rfl

theorem decC_46 (w : Nat) : decC 46 w =
    ((if fld w 2 6 = 0 then (do let d ← regOf (fld w 18 5); let a ← regOf (fld w 13 5); let b ← regOf (fld w 8 5); some (.send d a b (bitsF w 0 2))) else none) <|>      (if fld w 3 5 = 0 ∧ fld w 2 1 = 1 then (do let d ← regOf (fld w 18 5); let a ← regOf (fld w 13 5); let b ← regOf (fld w 8 5); some (.sendQ d a b (bitsF w 0 2))) else none) <|>      (if fld w 13 5 = 0 ∧ fld w 0 8 = 8 then (do let d ← regOf (fld w 18 5); let b ← regOf (fld w 8 5); some (.sendR d b)) else none)) := rfl

theorem decC_47 (w : Nat) : decC 47 w =
    (if fld w 0 23 = 0 then (some .hret) else none) := rfl

theorem decC_48 (w : Nat) : decC 48 w =
    (if fld w 0 20 = 0 then (some (.rqPush (bitsF w 20 3))) else none) := rfl

theorem decC_49 (w : Nat) : decC 49 w =
    (if fld w 2 16 = 0 then (do let d ← regOf (fld w 18 5); some (.rqTry d (bitsF w 0 2))) else none) := rfl

theorem decC_50 (w : Nat) : decC 50 w =
    (if fld w 3 10 = 0 then (do let d ← regOf (fld w 18 5); let a ← regOf (fld w 13 5); some (.rqStat d a (bitsF w 0 3))) else none) := rfl

theorem decC_51 (w : Nat) : decC 51 w =
    (if fld w 3 10 = 0 then (do let d ← regOf (fld w 18 5); let a ← regOf (fld w 13 5); some (.tlaunch d a (finF w 0 3))) else none) := rfl

theorem decC_52 (w : Nat) : decC 52 w =
    (if fld w 0 23 = 0 then (some .trigger) else none) := rfl

theorem decC_53 (w : Nat) : decC 53 w =
    (if fld w 0 13 = 0 then (do let d ← regOf (fld w 18 5); let a ← regOf (fld w 13 5); some (.twait d a)) else none) := rfl

theorem decC_56 (w : Nat) : decC 56 w =
    (if fld w 18 5 = 0 ∧ fld w 3 10 = 0 then (do let a ← regOf (fld w 13 5); some (.segld a (finF w 0 3))) else none) := rfl

theorem decC_57 (w : Nat) : decC 57 w =
    (if fld w 4 14 = 0 then (do let d ← regOf (fld w 18 5); some (.segrd d (bitF w 3) (finF w 0 3))) else none) := rfl

theorem decC_58 (w : Nat) : decC 58 w =
    (if fld w 18 5 = 0 ∧ fld w 8 2 = 3 ∧ fld w 7 1 = 0 then (do let base ← regOf (fld w 10 5); some (.dtld (finF w 15 3) base (bitsF w 0 7))) else none) := rfl

theorem decC_59 (w : Nat) : decC 59 w =
    (if fld w 8 2 = 3 ∧ fld w 7 1 = 0 then (do let r ← regOf (fld w 18 5); let base ← regOf (fld w 10 5); some (.tbld r (finF w 15 3) base (bitsF w 0 7))) else none) := rfl

theorem decC_60 (w : Nat) : decC 60 w =
    (if fld w 18 5 = 0 ∧ fld w 8 2 = 3 ∧ fld w 7 1 = 0 then (do let base ← regOf (fld w 10 5); some (.xpld (finF w 15 3) base (bitsF w 0 7))) else none) := rfl

theorem decC_61 (w : Nat) : decC 61 w =
    (if fld w 0 4 = 0 then (do let a ← regOf (fld w 18 5); let b ← regOf (fld w 13 5); some (.gkbind a b (bitsF w 7 6) (bitsF w 4 3))) else none) := rfl

theorem decC_62 (w : Nat) : decC 62 w =
    ((if fld w 18 5 = 0 ∧ fld w 5 3 = 0 ∧ fld w 3 2 = 0 then (do let a ← regOf (fld w 13 5); let b ← regOf (fld w 8 5); let sc ← scopeOf (fld w 0 3); some (.ptinvPage a b sc)) else none) <|>      (if fld w 18 5 = 0 ∧ fld w 13 5 = 0 ∧ fld w 5 3 = 0 ∧ fld w 3 2 = 1 then (do let b ← regOf (fld w 8 5); let sc ← scopeOf (fld w 0 3); some (.ptinvAsid b sc)) else none) <|>      (if fld w 18 5 = 0 ∧ fld w 13 5 = 0 ∧ fld w 8 5 = 0 ∧ fld w 5 3 = 0 ∧ fld w 3 2 = 2 then (do let sc ← scopeOf (fld w 0 3); some (.ptinvAll sc)) else none)) := rfl

theorem decC_64 (w : Nat) : decC 64 w =
    (some (.dwait (finF w 20 3) (bitsF w 0 20))) := rfl

theorem decC_65 (w : Nat) : decC 65 w =
    (if fld w 0 15 = 0 then (do let a ← regOf (fld w 15 5); some (.dset (finF w 20 3) a)) else none) := rfl

theorem decC_66 (w : Nat) : decC 66 w =
    (if fld w 0 15 = 0 then (do let a ← regOf (fld w 15 5); some (.dadd (finF w 20 3) a)) else none) := rfl

theorem decC_67 (w : Nat) : decC 67 w =
    (if fld w 0 15 = 0 then (do let a ← regOf (fld w 15 5); some (.acbind (finF w 20 3) a)) else none) := rfl

theorem decC_68 (w : Nat) : decC 68 w =
    (some (.await (finF w 20 3) (bitsF w 0 20))) := rfl

theorem decC_69 (w : Nat) : decC 69 w =
    (if fld w 0 13 = 0 then (do let kind ← barKindOf (fld w 21 2); let d ← regOf (fld w 16 5); some (.bar kind d (finF w 13 3))) else none) := rfl

theorem decC_70 (w : Nat) : decC 70 w =
    (if fld w 0 18 = 0 then (do let d ← regOf (fld w 18 5); some (.tread d)) else none) := rfl

theorem decC_71 (w : Nat) : decC 71 w =
    (if fld w 2 16 = 0 then (do let d ← regOf (fld w 18 5); some (.erd d (bitsF w 0 2))) else none) := rfl

theorem decC_72 (w : Nat) : decC 72 w =
    (if fld w 0 13 = 0 then (do let d ← regOf (fld w 18 5); let a ← regOf (fld w 13 5); some (.pcrd d a)) else none) := rfl

theorem decC_80 (w : Nat) : decC 80 w =
    (if fld w 0 8 = 0 then (do let r ← regOf (fld w 18 5); let x ← sysRegOf (fld w 8 10); some (.sysrd r x)) else none) := rfl

theorem decC_81 (w : Nat) : decC 81 w =
    (if fld w 0 8 = 0 then (do let r ← regOf (fld w 18 5); let x ← sysRegOf (fld w 8 10); some (.syswr r x)) else none) := rfl

theorem decC_82 (w : Nat) : decC 82 w =
    (some (.pfx (bitsF w 0 23))) := rfl

theorem decC_83 (w : Nat) : decC 83 w =
    (if fld w 8 5 = 0 ∧ fld w 4 2 = 0 then (do let d ← regOf (fld w 18 5); let a ← regOf (fld w 13 5); some (.rndset d a (bitF w 7) (bitF w 6) (bitF w 3) (bitsF w 0 3))) else none) := rfl

theorem decC_84 (w : Nat) : decC 84 w =
    (if fld w 16 7 = 0 then (some (.trap (bitsF w 0 16))) else none) := rfl

theorem decC_85 (w : Nat) : decC 85 w =
    (if fld w 0 23 = 0 then (some .eret) else none) := rfl

theorem decC_86 (w : Nat) : decC 86 w =
    (if fld w 1 12 = 0 then (do let d ← regOf (fld w 18 5); let a ← regOf (fld w 13 5); some (.wake d a (bitF w 0))) else none) := rfl

theorem decC_88 (w : Nat) : decC 88 w =
    (do let base ← regOf (fld w 10 5); some (.vld (finF w 18 5) (finF w 15 3) base (bitsF w 0 10))) := rfl

theorem decC_89 (w : Nat) : decC 89 w =
    (do let base ← regOf (fld w 10 5); some (.vst (finF w 18 5) (finF w 15 3) base (bitsF w 0 10))) := rfl

theorem decC_90 (w : Nat) : decC 90 w =
    (if fld w 0 3 = 0 then (do let base ← regOf (fld w 10 5); let esz ← eszOf (fld w 3 2); some (.vldg (finF w 18 5) (finF w 15 3) base (finF w 5 5) esz)) else none) := rfl

theorem decC_91 (w : Nat) : decC 91 w =
    (if fld w 0 3 = 0 then (do let base ← regOf (fld w 10 5); let esz ← eszOf (fld w 3 2); some (.vsts (finF w 18 5) (finF w 15 3) base (finF w 5 5) esz)) else none) := rfl

theorem decC_96 (w : Nat) : decC 96 w =
    (if fld w 0 21 = 0 then (some (.mzero (finF w 21 2))) else none) := rfl

theorem decC_97 (w : Nat) : decC 97 w =
    (if fld w 18 1 = 0 then (do let f ← fmtOf (fld w 19 4); let base ← regOf (fld w 10 5); some (.mldb f (finF w 15 3) base (bitsF w 0 10))) else none) := rfl

theorem decC_98 (w : Nat) : decC 98 w =
    (do let fa ← fmtOf (fld w 12 4); let fb ← fmtOf (fld w 8 4); some (.mma (finF w 21 2) (finF w 16 5) fa fb (bitsF w 0 8))) := rfl

theorem decC_99 (w : Nat) : decC 99 w =
    (if fld w 8 15 = 0 then (some (.mrot (bitsF w 0 8))) else none) := rfl

theorem decC_100 (w : Nat) : decC 100 w =
    (if fld w 0 6 = 0 then (do let f ← fmtOf (fld w 12 4); some (.mdrain (finF w 21 2) (finF w 16 5) f (bitsF w 6 6))) else none) := rfl

theorem decC_101 (w : Nat) : decC 101 w =
    (if fld w 0 13 = 0 then (some (.mxch (finF w 21 2) (bitsF w 13 8))) else none) := rfl

theorem decC_104 (w : Nat) : decC 104 w =
    (if fld w 0 20 = 0 then (do let size ← fuseSizeOf (fld w 20 3); some (.fuse size)) else none) := rfl

theorem decC_105 (w : Nat) : decC 105 w =
    (if fld w 0 23 = 0 then (some .unfuse) else none) := rfl

theorem decC_106 (w : Nat) : decC 106 w =
    (if fld w 0 23 = 0 then (some .rejoin) else none) := rfl

end Sys2Proof.Laws
end

