-- ==== Sys2Proof/Laws/Commit.lean ====
section
/-! SUPPORT. What the commit of a word does to its fibre, and that putting a fibre or capturing a result leaves the
other parts of a core alone. -/

namespace Sys2Proof.Machine

/-- The commit of a word that is no prefix, on the fibre that issues it. -/
theorem retire_of {s : State} {f : Fibre} {i : Instr} {o : Option W64}
    (h : getFib s s.issue.core s.issue.slot = some f) (hr : Issuing s) (hi : ∀ x, i ≠ .pfx x) :
    dropResv (retire s i o) = withFibre s (afterWord s (o.getD (afterPc s)) f) := by
  have h0 : (match i with | .pfx imm => some imm | _ => none) = (none : Option (BitVec 23)) := by
    cases i <;> first | rfl | exact absurd rfl (hi _)
  have e : dropResv (retire s i o)
      = modFib (modFib s s.issue.core s.issue.slot _) s.issue.core s.issue.slot _ := rfl
  rw [e, modFib_of_some _ h, modFib_putFib]
  simp only [withFibre]
  congr 1
  simp only [Issuing, me_of h] at hr
  simp only [afterWord, afterPc, timerAfter]
  rcases hr with hr | ⟨hr, -⟩
  · cases s.issue.snap.isSome <;> simp [hr]
  · simp [hr]

/-- The commit of a prefix. -/
theorem retire_pfx {s : State} {f : Fibre} {x : BitVec 23} (h : getFib s s.issue.core s.issue.slot = some f)
    (hr : Issuing s) :
    goesOn (.pfx x) s = withFibre s
      { afterWord s (afterPc s) f with ctl := { (afterWord s (afterPc s) f).ctl with pp := true, pfxv := x } } := by
  have e : goesOn (.pfx x) s = modFib (modFib s s.issue.core s.issue.slot _) s.issue.core s.issue.slot _ := rfl
  rw [e, modFib_of_some _ h, modFib_putFib]
  simp only [withFibre]
  congr 1
  simp only [Issuing, me_of h] at hr
  simp only [afterWord, afterPc, timerAfter]
  rcases hr with hr | ⟨hr, -⟩
  · cases s.issue.snap.isSome <;> simp [hr]
  · simp [hr]

/-- The commit of a word whose fibre has left its slot changes no core. -/
theorem retire_none {s : State} {i : Instr} {o : Option W64} (h : getFib s s.issue.core s.issue.slot = none) (c : Nat) :
    getCore (dropResv (retire s i o)) c = getCore s c := by
  have hn : nget (getCore s s.issue.core).fibres s.issue.slot = none := h
  have e : dropResv (retire s i o)
      = modFib (modFib s s.issue.core s.issue.slot _) s.issue.core s.issue.slot _ := rfl
  rw [e]
  by_cases hc : c = s.issue.core
  · subst hc; simp [modFib, nmod_of_none, hn]
  · simp [modFib, getCore_modCore_other _ _ _ _ hc]

theorem captured_withFibre (s : State) (f : Fibre) (v : W64) :
    captured (withFibre s f) v = withFibre (captured s v) f :=
  modCore_putFib (s := s) (c := s.issue.core) (fun _ _ => rfl) (fun _ => rfl)

/-- A part of a core other than its fibres is unchanged by putting a fibre. -/
theorem putFib_part {α : Type} (s : State) (c sl : Nat) (f : Fibre) (p : Core → α)
    (hp : ∀ k m, p { k with fibres := m } = p k) (d : Nat) :
    p (getCore (putFib s c sl f) d) = p (getCore s d) := by
  by_cases h : d = c
  · subst h; simp [putFib, hp]
  · simp [putFib, getCore_modCore_other _ _ _ _ h]

/-- A part of a core other than its sequencer is unchanged by capturing a result. -/
theorem captured_part {α : Type} (s : State) (v : W64) (p : Core → α) (hp : ∀ k q, p { k with seq := q } = p k)
    (d : Nat) : p (getCore (captured s v) d) = p (getCore s d) := by
  by_cases h : d = s.issue.core
  · subst h; simp only [captured, getCore_modCore_self]; exact hp _ _
  · simp [captured, getCore_modCore_other _ _ _ _ h]

end Sys2Proof.Machine
end

