-- ==== Sys2Proof/Laws/Engine.lean ====
section
/-! SUPPORT. The row engine: what a command whose turn it is has in its words, and an element whose parts resolve. -/

namespace Sys2Proof.Machine

/-- The command whose next element comes has the code asked for, and the send cycle. -/
theorem nextElem_some {s : State} {c e code elem : Nat} {x : Cmd} (h : nextElem s c e code = some (x, elem)) :
    elemReady s c e = some (x, elem) ∧ cmdCode x.w = code ∧ sendTurn s c e = true := by
  unfold nextElem at h
  split at h
  · split at h
    · rename_i hc
      simp only [Bool.and_eq_true, beq_iff_eq] at hc
      cases h
      exact ⟨‹_›, hc.1, hc.2⟩
    · cases h
  · cases h

theorem nextElem_code {s : State} {c e code elem : Nat} {x : Cmd} (h : nextElem s c e code = some (x, elem)) :
    cmdCode x.w = code := (nextElem_some h).2.1

/-- An element whose parts all resolve is sent. -/
theorem sendElem_ok {s t : State} {c e elem g3 : Nat} {x : Cmd} {ps : List Part} {qs : List (Part × Option Tgt)}
    (h : resolveParts s c e ps = (t, qs, none)) : sendElem s c e x elem g3 ps = sentElem t c e x elem qs := by
  simp only [sendElem, h]; rfl

/-- What every step of a fold keeps, the fold keeps. -/
theorem foldl_holds {α β : Type} {P : β → Prop} {f : β → α → β} (h : ∀ b x, P b → P (f b x)) (l : List α) (b : β)
    (hb : P b) : P (l.foldl f b) := by
  induction l generalizing b with
  | nil => exact hb
  | cons x l ih => exact ih _ (h b x hb)

/-- Only walks may have started since a state. -/
abbrev OnlyWalks (u v : State) : Prop :=
  v.cores = u.cores ∧ v.mem = u.mem ∧ v.tasks = u.tasks ∧ v.net.reqs = u.net.reqs ∧ v.net.txns = u.net.txns

theorem walkAhead_frame {u s : State} (c e : Nat) (x : Cmd) (va : Nat) (h : OnlyWalks u s) :
    OnlyWalks u (walkAhead s c e x va) := by
  unfold walkAhead
  dsimp only
  split
  · exact h
  · exact h

/-- Lookahead only starts walks. -/
theorem lookAhead_frame (s : State) (c e : Nat) (x : Cmd) (elem : Nat) (places : State → Nat → List Loc) :
    OnlyWalks s (lookAhead s c e x elem places) := by
  unfold lookAhead iter
  dsimp only
  split
  · exact ⟨rfl, rfl, rfl, rfl, rfl⟩
  · refine foldl_holds (fun t j h => ?_) _ _ ⟨rfl, rfl, rfl, rfl, rfl⟩
    split
    · refine foldl_holds (fun t loc h => ?_) _ _ h
      split
      · exact walkAhead_frame _ _ _ _ h
      all_goals exact h
    · exact h

end Sys2Proof.Machine
end

