-- ==== Sys2Proof/Laws/Memory.lean ====
section
/-! SUPPORT. Memories: reading after writing, and that every memory operation keeps the canonical form. -/

namespace Sys2Proof.Machine

/-! ## Reading after writing -/

theorem Mem.rd_put_self (m : Mem) (a : Nat) (v : Byte) : Mem.rd (Mem.put m a v) a = v := by
  induction m with
  | nil => simp [Mem.put, Mem.rd]
  | cons x m ih =>
    obtain ⟨k, w⟩ := x
    simp only [Mem.put]
    split
    · simp [Mem.rd]
    · split
      · simp [Mem.rd]
      · simp [Mem.rd, *]

theorem Mem.rd_put_other (m : Mem) (a b : Nat) (v : Byte) (h : b ≠ a) : Mem.rd (Mem.put m a v) b = Mem.rd m b := by
  induction m with
  | nil => simp [Mem.put, Mem.rd, h]
  | cons x m ih =>
    obtain ⟨k, w⟩ := x
    simp only [Mem.put]
    split
    · simp [Mem.rd, h]
    · split
      · rename_i h2; subst h2; simp [Mem.rd, h]
      · simp [Mem.rd, ih]

theorem Mem.rd_filter (m : Mem) (p : Nat → Bool) (a : Nat) :
    Mem.rd (m.filter fun c => p c.1) a = if p a then Mem.rd m a else 0 := by
  induction m with
  | nil => simp [Mem.rd]
  | cons x m ih =>
    obtain ⟨k, w⟩ := x
    simp only [List.filter_cons, Mem.rd]
    by_cases hk : a = k
    · subst hk; by_cases hp : p a = true <;> simp_all [Mem.rd]
    · by_cases hp : p k = true <;> simp [Mem.rd, ih, hk, hp]

@[simp] theorem Mem.rd_wr_self (m : Mem) (a : Nat) (v : Byte) : Mem.rd (Mem.wr m a v) a = v := by
  unfold Mem.wr
  split
  · rename_i h; rw [Mem.rd_filter m (fun k => k != a)]; simp [h]
  · exact Mem.rd_put_self m a v

theorem Mem.rd_wr_other (m : Mem) (a b : Nat) (v : Byte) (h : b ≠ a) : Mem.rd (Mem.wr m a v) b = Mem.rd m b := by
  unfold Mem.wr
  split
  · rw [Mem.rd_filter m (fun k => k != a)]; simp [h]
  · exact Mem.rd_put_other m a b v h

theorem Mem.rd_wrN_other (m : Mem) (a v n b : Nat) (h : b < a ∨ a + n ≤ b) :
    Mem.rd (Mem.wrN m a v n) b = Mem.rd m b := by
  induction n generalizing m a v with
  | zero => rfl
  | succ n ih =>
    rw [Mem.wrN, ih _ _ _ (by omega), Mem.rd_wr_other _ _ _ _ (by omega)]

theorem Mem.rd_wrN (m : Mem) (a v n j : Nat) (h : j < n) :
    Mem.rd (Mem.wrN m a v n) (a + j) = BitVec.ofNat 8 (v / 2 ^ (8 * j)) := by
  induction n generalizing m a v j with
  | zero => omega
  | succ n ih =>
    rw [Mem.wrN]
    cases j with
    | zero => rw [Mem.rd_wrN_other _ _ _ _ _ (by omega)]; simp
    | succ j =>
      rw [show a + (j + 1) = a + 1 + j by omega, ih _ _ _ _ (by omega), Nat.div_div_eq_div_mul]
      congr 2
      rw [show 8 * (j + 1) = 8 * j + 8 by omega, Nat.pow_add]
      omega

theorem Mem.rdN_lt (m : Mem) (a n : Nat) : Mem.rdN m a n < 2 ^ (8 * n) := by
  induction n generalizing a with
  | zero => simp [Mem.rdN]
  | succ n ih =>
    have h1 := ih (a + 1)
    have h2 := (Mem.rd m a).isLt
    rw [Mem.rdN, show 8 * (n + 1) = 8 * n + 8 by omega, Nat.pow_add]
    omega

theorem Mem.rdN_congr {m m' : Mem} {a n : Nat} (h : ∀ j, j < n → Mem.rd m (a + j) = Mem.rd m' (a + j)) :
    Mem.rdN m a n = Mem.rdN m' a n := by
  induction n generalizing a with
  | zero => rfl
  | succ n ih =>
    rw [Mem.rdN, Mem.rdN, show Mem.rd m a = Mem.rd m' a from h 0 (by omega),
      ih fun j hj => by rw [show a + 1 + j = a + (j + 1) by omega]; exact h (j + 1) (by omega)]

/-- Reading the bytes that have been stored. -/
theorem Mem.rdN_wrN (m : Mem) (a v n : Nat) : Mem.rdN (Mem.wrN m a v n) a n = v % 2 ^ (8 * n) := by
  induction n generalizing m a v with
  | zero => simp [Mem.rdN, Nat.mod_one]
  | succ n ih =>
    rw [Mem.wrN, Mem.rdN, ih, Mem.rd_wrN_other _ _ _ _ _ (by omega), Mem.rd_wr_self, BitVec.toNat_ofNat,
      show 8 * (n + 1) = 8 * n + 8 by omega, Nat.pow_add, Nat.mul_comm (2 ^ (8 * n)), Nat.mod_mul]

/-- Reading bytes away from those that have been stored. -/
theorem Mem.rdN_wrN_other (m : Mem) (a v n b k : Nat) (h : b + k ≤ a ∨ a + n ≤ b) :
    Mem.rdN (Mem.wrN m a v n) b k = Mem.rdN m b k :=
  Mem.rdN_congr fun _ _ => Mem.rd_wrN_other _ _ _ _ _ (by omega)

/-! ## The canonical form -/

theorem Mem.wfFrom_le {m : Mem} {lo hi : Nat} (h : Mem.wfFrom hi m = true) (hl : lo ≤ hi) : Mem.wfFrom lo m = true := by
  cases m with
  | nil => rfl
  | cons x m =>
    simp only [Mem.wfFrom, Bool.and_eq_true, decide_eq_true_eq] at h ⊢
    exact ⟨⟨by omega, h.1.2⟩, h.2⟩

theorem Mem.wfFrom_filter {m : Mem} {lo : Nat} (p : Host.Cell → Bool) (h : Mem.wfFrom lo m = true) :
    Mem.wfFrom lo (m.filter p) = true := by
  induction m generalizing lo with
  | nil => rfl
  | cons x m ih =>
    simp only [Mem.wfFrom, Bool.and_eq_true, decide_eq_true_eq] at h
    rw [List.filter_cons]
    split
    · simp only [Mem.wfFrom, Bool.and_eq_true, decide_eq_true_eq]; exact ⟨h.1, ih h.2⟩
    · exact Mem.wfFrom_le (ih h.2) (by omega)

theorem Mem.wfFrom_put {m : Mem} {lo a : Nat} {v : Byte} (h : Mem.wfFrom lo m = true) (hl : lo ≤ a) (hv : v ≠ 0) :
    Mem.wfFrom lo (Mem.put m a v) = true := by
  induction m generalizing lo with
  | nil => simpa [Mem.put, Mem.wfFrom, hl] using hv
  | cons x m ih =>
    obtain ⟨k, w⟩ := x
    simp only [Mem.wfFrom, Bool.and_eq_true, decide_eq_true_eq] at h
    simp only [Mem.put]
    split
    · simp only [Mem.wfFrom, Bool.and_eq_true, decide_eq_true_eq, bne_iff_ne]
      exact ⟨⟨hl, hv⟩, ⟨by omega, by simpa using h.1.2⟩, h.2⟩
    · split
      · rename_i h2; subst h2
        simp only [Mem.wfFrom, Bool.and_eq_true, decide_eq_true_eq, bne_iff_ne]
        exact ⟨⟨hl, hv⟩, h.2⟩
      · simp only [Mem.wfFrom, Bool.and_eq_true, decide_eq_true_eq]
        exact ⟨h.1, ih h.2 (by omega)⟩

theorem Mem.wf_wr {m : Mem} (a : Nat) (v : Byte) (h : Mem.wf m = true) : Mem.wf (Mem.wr m a v) = true := by
  unfold Mem.wr
  split
  · exact Mem.wfFrom_filter _ h
  · rename_i hv; exact Mem.wfFrom_put h (by omega) hv

theorem Mem.wf_wrN {m : Mem} (a v n : Nat) (h : Mem.wf m = true) : Mem.wf (Mem.wrN m a v n) = true := by
  induction n generalizing m a v with
  | zero => exact h
  | succ n ih => exact ih _ _ (Mem.wf_wr _ _ h)

theorem Mem.wf_wr64 {m : Mem} (a : Nat) (v : W64) (h : Mem.wf m = true) : Mem.wf (Mem.wr64 m a v) = true :=
  Mem.wf_wrN _ _ _ h

theorem Mem.wf_wrBytes {m : Mem} (a : Nat) (l : List Byte) (h : Mem.wf m = true) : Mem.wf (Mem.wrBytes m a l) = true := by
  induction l generalizing m a with
  | nil => exact h
  | cons b l ih => exact ih _ (Mem.wf_wr _ _ h)

theorem Mem.wf_clear {m : Mem} (lo n : Nat) (h : Mem.wf m = true) : Mem.wf (Mem.clear m lo n) = true :=
  Mem.wfFrom_filter _ h

theorem Mem.wf_paste {m : Mem} (a : Nat) (x : Mem) (h : Mem.wf m = true) : Mem.wf (Mem.paste m a x) = true := by
  unfold Mem.paste
  induction x generalizing m with
  | nil => exact h
  | cons b x ih => exact ih (Mem.wf_wr _ _ h)

theorem Mem.wfFrom_shift {m : Mem} {lo k : Nat} (h : Mem.wfFrom (lo + k) m = true) :
    Mem.wfFrom lo (m.map fun c => (c.1 - k, c.2)) = true := by
  induction m generalizing lo with
  | nil => rfl
  | cons x m ih =>
    simp only [List.map_cons, Mem.wfFrom, Bool.and_eq_true, decide_eq_true_eq] at h ⊢
    refine ⟨⟨by omega, h.1.2⟩, ?_⟩
    exact ih (by rw [show x.1 - k + 1 + k = x.1 + 1 by omega]; exact h.2)

theorem Mem.wfFrom_raise {m : Mem} {lo hi : Nat} (h : Mem.wfFrom lo m = true) (ha : ∀ c ∈ m, hi ≤ c.1) :
    Mem.wfFrom hi m = true := by
  cases m with
  | nil => rfl
  | cons x m =>
    simp only [Mem.wfFrom, Bool.and_eq_true, decide_eq_true_eq] at h ⊢
    exact ⟨⟨ha x (by simp), h.1.2⟩, h.2⟩

theorem Mem.wf_cut {m : Mem} (lo n : Nat) (h : Mem.wf m = true) : Mem.wf (Mem.cut m lo n) = true := by
  refine Mem.wfFrom_shift (Mem.wfFrom_raise (Mem.wfFrom_filter _ h) ?_)
  intro c hc
  simp only [List.mem_filter, Bool.and_eq_true, decide_eq_true_eq] at hc
  omega

end Sys2Proof.Machine
end

