-- ==== Sys2Proof/Laws/Keep.lean ====
section
/-! SUPPORT. What a step keeps of the memories: one lemma `<function>_keeps` for each function of the model
that answers a state. Each says that memory which has its canonical form (`Safety.lean`'s `MemOk`, the tile memories among it) has it
after the function too, whatever the other arguments. A proof about `exec` cites the lemma of the function
its arm calls. The predicates `OptOk`, `PairOk`, `ExOk` and `OutOk` say it of an answer that carries a state. -/
namespace Sys2Proof.Machine
def OptOk : Option State → Prop
  | some t => MemOk t
  | none => True
def OptOk1 {α : Type} : Option (State × α) → Prop
  | some x => MemOk x.1
  | none => True
def PairOk {α : Type} (p : State × α) : Prop := MemOk p.1
def PairOkR {α : Type} (p : α × State) : Prop := MemOk p.2
def ExOk {ε α : Type} : Except ε (State × α) → Prop
  | .ok x => MemOk x.1
  | .error _ => True
def OutOk : Host.Outcome State Fault Refusal → Prop
  | .next t => MemOk t
  | _ => True
def MOk (m : MemSys) (cs : NMap Core) : Prop :=
  Mem.wf m.dram = true ∧ Mem.wf m.scratch = true ∧ ∀ x ∈ cs, TileOk x.2
theorem memOk_mk (a b c d e f g h i j k l m n o p q r u v w) :
  MemOk (State.mk a b c d e f g h i j k l m n o p q r u v w) = MOk g a := rfl
theorem mOk_mem (s : State) : MOk s.mem s.cores = MemOk s := rfl
theorem mOk_mix {s t : State} (hs : MemOk s) (ht : MemOk t) : MOk s.mem t.cores := ⟨hs.1, hs.2.1, ht.2.2⟩
/-- What a change of a core keeps. -/
def CoreKeep (f : Core → Core) : Prop := ∀ k, TileOk k → TileOk (f k)
theorem coreKeep_same {f : Core → Core} (h : ∀ k, (f k).tile.mem = k.tile.mem) : CoreKeep f := fun k hk => by
  rw [TileOk, h]; exact hk
theorem coreKeep_of {f : Core → Core} (h : ∀ k, TileOk k → TileOk (f k)) : CoreKeep f := h
theorem blank_ok (c : Nat) : TileOk (Core.blank c) := rfl
theorem nget_ok {s : State} (hs : MemOk s) {c : Nat} {k : Core} (h : nget s.cores c = some k) : TileOk k := by
  obtain ⟨x, hx, rfl⟩ := mem_of_nget h
  exact hs.2.2 x hx
theorem core_ok {s : State} (hs : MemOk s) (c : Nat) : TileOk (getCore s c) := by
  unfold getCore ngetD
  cases h : nget s.cores c with
  | none => exact blank_ok c
  | some k => exact nget_ok hs h
theorem mOk_cores {m : MemSys} {cs ds : NMap Core} (h : MOk m cs) (hd : ∀ x ∈ ds, TileOk x.2) : MOk m ds := ⟨h.1, h.2.1, hd⟩
theorem cores_map {cs : NMap Core} {f : Nat × Core → Nat × Core} (hc : ∀ x ∈ cs, TileOk x.2)
    (h : ∀ x, TileOk x.2 → TileOk (f x).2) : ∀ x ∈ cs.map f, TileOk x.2 := by
  intro x hx
  obtain ⟨y, hy, rfl⟩ := List.mem_map.1 hx
  exact h y (hc y hy)
theorem outOk_next {t : State} (h : MemOk t) : OutOk (.next t) := h
theorem outOk_fault {f : Fault} : OutOk (.fault f) := trivial
theorem memOk_ite {c : Prop} [Decidable c] {a b : State} (ha : MemOk a) (hb : MemOk b) : MemOk (if c then a else b) := by split <;> assumption
theorem pairOk_ite {α : Type} {c : Prop} [Decidable c] {a b : State × α} (ha : PairOk a) (hb : PairOk b) : PairOk (if c then a else b) := by split <;> assumption
theorem optOk_some {t : State} (h : MemOk t) : OptOk (some t) := h
theorem optOk1_some {α : Type} (p : State × α) : OptOk1 (some p) = PairOk p := rfl
theorem optOk_none : OptOk none := trivial
theorem optOk1_none {α : Type} : OptOk1 (none : Option (State × α)) := trivial
theorem exOk_ok {ε α : Type} (p : State × α) : ExOk (.ok p : Except ε _) = PairOk p := rfl
theorem exOk_error {ε α : Type} {e : ε} : ExOk (.error e : Except ε (State × α)) := trivial
theorem mOk_wr {m : MemSys} {cs a v b w} (h : MOk m cs) : MOk ⟨Mem.wr m.dram a v, m.scratch, b, w⟩ cs := ⟨Mem.wf_wr _ _ h.1, h.2⟩
theorem mOk_wrN {m : MemSys} {cs a v n b w} (h : MOk m cs) : MOk ⟨Mem.wrN m.dram a v n, m.scratch, b, w⟩ cs := ⟨Mem.wf_wrN _ _ _ h.1, h.2⟩
theorem mOk_scratch {m : MemSys} {cs a v n b w} (h : MOk m cs) : MOk ⟨m.dram, Mem.wrN m.scratch a v n, b, w⟩ cs :=
  ⟨h.1, Mem.wf_wrN _ _ _ h.2.1, h.2.2⟩
theorem mOk_marks {m : MemSys} {cs b w} (h : MOk m cs) : MOk ⟨m.dram, m.scratch, b, w⟩ cs := h
theorem wf_foldl {α : Type} {f : Mem → α → Mem} (h : ∀ m x, Mem.wf m = true → Mem.wf (f m x) = true) (l : List α) (m : Mem) (hm : Mem.wf m = true) :
    Mem.wf (l.foldl f m) = true := by
  induction l generalizing m with
  | nil => exact hm
  | cons x l ih => exact ih _ (h m x hm)
theorem pairOk_mk {α : Type} (t : State) (x : α) : PairOk (t, x) = MemOk t := rfl
theorem pairOkR_mk {α : Type} (t : State) (x : α) : PairOkR (x, t) = MemOk t := rfl
theorem memOk_fst {α : Type} (p : State × α) : MemOk p.1 = PairOk p := rfl
theorem memOk_snd {α : Type} (p : α × State) : MemOk p.2 = PairOkR p := rfl
theorem pairOk_swap {α : Type} {p : α × State} (h : PairOkR p) : PairOk p.swap := h
theorem pair_of {α : Type} {p : State × α} {t : State} {x : α} (e : p = (t, x)) (h : PairOk p) : MemOk t := by subst e; exact h
theorem pair_ofr {α : Type} {p : α × State} {t : State} {x : α} (e : p = (x, t)) (h : PairOkR p) : MemOk t := by subst e; exact h
theorem opt_of {o : Option State} {t : State} (e : o = some t) (h : OptOk o) : MemOk t := by subst e; exact h
theorem opt_of1 {α : Type} {o : Option (State × α)} {t : State} {x : α} (e : o = some (t, x)) (h : OptOk1 o) : MemOk t := by subst e; exact h
theorem ex_of {ε α : Type} {o : Except ε (State × α)} {t : State} {x : α} (e : o = .ok (t, x)) (h : ExOk o) : MemOk t := by subst e; exact h
theorem out_of {o : Host.Outcome State Fault Refusal} {t : State} (e : o = .next t) (h : OutOk o) : MemOk t := by subst e; exact h
theorem keep_foldl {α : Type} {f : State → α → State} (h : ∀ s x, MemOk s → MemOk (f s x)) (l : List α) (s : State) (hs : MemOk s) :
    MemOk (l.foldl f s) := by
  induction l generalizing s with
  | nil => exact hs
  | cons x l ih => exact ih _ (h s x hs)
theorem keep_foldl1 {α β : Type} {f : State × β → α → State × β} (h : ∀ p x, PairOk p → PairOk (f p x)) (l : List α) (p : State × β) (hs : PairOk p) :
    PairOk (l.foldl f p) := by
  induction l generalizing p with
  | nil => exact hs
  | cons x l ih => exact ih _ (h p x hs)
theorem keep_foldl2 {α β : Type} {f : β × State → α → β × State} (h : ∀ p x, PairOkR p → PairOkR (f p x)) (l : List α) (p : β × State) (hs : PairOkR p) :
    PairOkR (l.foldl f p) := by
  induction l generalizing p with
  | nil => exact hs
  | cons x l ih => exact ih _ (h p x hs)
theorem keep_iter {f : Nat → State → State} (h : ∀ n s, MemOk s → MemOk (f n s)) (n : Nat) (s : State) (hs : MemOk s) :
    MemOk (iter n f s) := keep_foldl (fun s k hs => h k s hs) _ _ hs
theorem keep_iter1 {β : Type} {f : Nat → State × β → State × β} (h : ∀ n p, PairOk p → PairOk (f n p)) (n : Nat) (p : State × β) (hs : PairOk p) :
    PairOk (iter n f p) := keep_foldl1 (fun p k hs => h k p hs) _ _ hs
theorem keep_iter2 {β : Type} {f : Nat → β × State → β × State} (h : ∀ n p, PairOkR p → PairOkR (f n p)) (n : Nat) (p : β × State) (hs : PairOkR p) :
    PairOkR (iter n f p) := keep_foldl2 (fun p k hs => h k p hs) _ _ hs

/-! ## What changes a core -/
theorem tile_iter {f : Nat → Core → Core} (h : ∀ n k, (f n k).tile.mem = k.tile.mem) (l : List Nat) (k : Core) :
    (l.foldl (fun k n => f n k) k).tile.mem = k.tile.mem := by
  induction l generalizing k with
  | nil => rfl
  | cons n l ih => rw [List.foldl_cons, ih, h]
theorem setFulls_mem (l : List Nat) (g : Nat → Nat) (b : Nat → Bool) (t : Tile) :
    (l.foldl (fun t n => setFull t (g n) (b n)) t).mem = t.mem := by
  induction l generalizing t with
  | nil => rfl
  | cons n l ih => rw [List.foldl_cons, ih]; rfl
theorem fePut_mem (t : Tile) (j : Nat) (v : W64) : (fePut t j v).mem = t.mem := setFulls_mem _ _ _ t
theorem spareKeep_mem (k : Core) (j n : Nat) (v : Nat → W64) : (spareKeep k j n v).tile.mem = k.tile.mem :=
  tile_iter (f := fun i k => sparePut k (j + i) (v i)) (fun _ _ => rfl) (upto n) k
theorem slotFibre_mem (k : Core) (slot age : Nat) (f : Fibre) (r : Bool) : (slotFibre k slot age f r).tile.mem = k.tile.mem := rfl
theorem slotPut_mem (c : Nat) (k : Core) (slot w : Nat) : (slotPut c k slot w).tile.mem = k.tile.mem := by
  unfold slotPut; dsimp only
  repeat' split
  all_goals first | rfl | (rw [slotFibre_mem, spareKeep_mem]; rfl) | (rw [spareKeep_mem]; rfl)
theorem poolPut_mem (c : Nat) (k : Core) (e j : Nat) (v : W64) : (poolPut c k e j v).tile.mem = k.tile.mem := by
  unfold poolPut poolSet; dsimp only; repeat' (first | rfl | split)
theorem fifoPut_mem (c : Nat) (k : Core) (e j : Nat) (v : W64) : (fifoPut c k e j v).tile.mem = k.tile.mem := by
  unfold fifoPut; dsimp only
  repeat' split
  all_goals first | rfl | (rw [spareKeep_mem]; rfl) | (rw [spareKeep_mem])
theorem fusePut_tile (k : Core) (j : Nat) (v : W64) : (fusePut k j v).tile.mem = k.tile.mem := by
  unfold fusePut
  split
  · rfl
  · exact tile_iter (f := fun i k => modStrand k i fun t =>
        { t with fuse := bf v (4 * i) 4, lock := bitAt v (32 + i), alone := bitAt v (40 + i) })
      (fun _ _ => rfl) (upto 8) k
theorem blockPut_ok (c : Nat) {k : Core} (j : Nat) (v : W64) (hk : TileOk k) : TileOk (blockPut c k j v) := by
  unfold blockPut TileOk; dsimp only
  split
  · exact Mem.wf_wr64 _ _ hk
  · dsimp only; rw [fePut_mem]; exact hk
  · split <;> exact hk
  · rw [slotPut_mem, slotPut_mem]; exact hk
  · rw [poolPut_mem]; exact hk
  · exact hk
  · rw [fusePut_tile]; exact hk
  · split <;> exact hk
  · exact hk
  · rw [fifoPut_mem]; exact hk
  all_goals first | exact hk | (split <;> exact hk)
theorem rowPut_tile (k : Core) (x : RowEnt) : (rowPut k x).tile = k.tile := by
  unfold rowPut; repeat' (first | rfl | split | dsimp only)
theorem loadSlot_tile {k k' : Core} {slot v : Nat} {src : Loc} {ok : Bool} (h : loadSlot k slot v src = some (k', ok)) :
    k'.tile = k.tile := by
  unfold loadSlot at h
  dsimp only at h
  split at h
  · cases h; rfl
  · split at h
    · cases h
    · cases h; rfl
theorem tileImage_ok (l : List (Sec × Mem)) (crew : Nat) : Mem.wf (tileImage l crew) = true := by
  unfold tileImage
  split
  · exact Mem.wf_paste _ _ rfl
  · rfl
theorem freshCore_ok (t : Task) (a : Nat) (bases : List Nat) (l : List (Sec × Mem)) (j : Nat) (x : Seat) (c : Nat)
    (old : Core) : TileOk (freshCore t a bases l j x c old) := by
  unfold freshCore TileOk
  dsimp only
  split
  · exact tileImage_ok _ _
  · rfl
theorem vacant_tile (c : Nat) (k : Core) : (vacant c k).tile.mem = k.tile.mem := rfl
theorem bootCore_ok (n : Nat) : TileOk (bootCore n) := rfl
theorem lateCore_tile (s : State) (c : Nat) (k : Core) : (lateCore s c k).tile = k.tile := rfl
theorem ptCore_tile (kind va asid : Nat) (k : Core) : (ptCore kind va asid k).tile = k.tile := rfl
theorem restCore_tile (old t : Task) (a j : Nat) (x : Seat) (c : Nat) (k : Core) : (restCore old t a j x c k).tile = k.tile := rfl
theorem mmaRow_tile (k : Core) (f : Fibre) (a : Fin 4) (va : Nat) (fa fb : Fmt) (n : Nat) :
    (mmaRow k f a va fa fb n).1.tile = k.tile := rfl
theorem iter_inv {β : Type} {P : β → Prop} {f : Nat → β → β} (h : ∀ n b, P b → P (f n b)) (n : Nat) (b : β) (hb : P b) :
    P (iter n f b) := foldl_holds (fun b n hb => h n b hb) _ _ hb
theorem modDie_keeps (s : State) (d : Nat) (f : Die → Die) (hs : MemOk s) : MemOk (modDie s d f) := hs
theorem putAtom_keeps (s : State) (atom : Nat) (v : Nat) (hs : MemOk s) : MemOk (putAtom s atom v) := by
  unfold putAtom; with_reducible repeat' (first | assumption | dsimp only [memOk_mk, mOk_mem, memOk_fst, memOk_snd, pairOk_mk, pairOkR_mk, optOk1_some, exOk_ok] | apply mOk_wrN)
theorem modChan_keeps (s : State) (c : Nat) (f : Channel → Channel) (hs : MemOk s) : MemOk (modChan s c f) := hs
theorem bumpDev_keeps (s : State) (sel : Nat) (hs : MemOk s) : MemOk (bumpDev s sel) := hs
theorem touch_keeps (s : State) (a : Nat) (write : Bool) (hs : MemOk s) : MemOk (touch s a write) := by
  unfold touch; with_reducible repeat' (first | assumption | dsimp only | apply modChan_keeps | apply bumpDev_keeps | split)
theorem modGk_keeps (s : State) (g : Nat) (f : Gecko → Gecko) (hs : MemOk s) : MemOk (modGk s g f) := hs
theorem freeEntry_keeps (s : State) (atom : Nat) (hs : MemOk s) : MemOk (freeEntry s atom) := hs
theorem drainTo_keeps (s : State) (atom : Nat) (e : CbEntry) (hs : MemOk s) : MemOk (drainTo s atom e) := by
  unfold drainTo; with_reducible repeat' (first | assumption | dsimp only [memOk_mk, mOk_mem, memOk_fst, memOk_snd, pairOk_mk, pairOkR_mk, optOk1_some, exOk_ok] | apply putAtom_keeps | apply touch_keeps | split)
theorem drainFree_keeps (s : State) (atom : Nat) (hs : MemOk s) : MemOk (drainFree s atom) := by
  unfold drainFree; with_reducible repeat' (first | assumption | dsimp only [memOk_mk, mOk_mem, memOk_fst, memOk_snd, pairOk_mk, pairOkR_mk, optOk1_some, exOk_ok] | apply freeEntry_keeps | apply drainTo_keeps | split)
theorem writeAtom_keeps (s : State) (atom : Nat) (v : Nat) (hs : MemOk s) : MemOk (writeAtom s atom v) := by
  unfold writeAtom; with_reducible repeat' (first | assumption | dsimp only [memOk_mk, mOk_mem, memOk_fst, memOk_snd, pairOk_mk, pairOkR_mk, optOk1_some, exOk_ok] | apply putAtom_keeps | apply touch_keeps | apply drainFree_keeps | split)
theorem setCore_keeps (s : State) (c : Nat) (k : Core) (hk : TileOk k) (hs : MemOk s) : MemOk (setCore s c k) := by
  refine mOk_cores hs fun x hx => ?_
  rcases mem_nput hx with rfl | h
  · exact hk
  · exact hs.2.2 x h
theorem modCore_keeps (s : State) (c : Nat) (f : Core → Core) (hf : CoreKeep f) (hs : MemOk s) : MemOk (modCore s c f) := by
  exact setCore_keeps s c _ (hf _ (core_ok hs c)) hs
theorem bumpService_keeps (s : State) (d : Nat) (hs : MemOk s) : MemOk (bumpService s d) := by
  unfold bumpService; with_reducible repeat' (first | assumption | with_unfolding_all exact coreKeep_same fun _ => rfl | intro _ | dsimp only [memOk_mk, mOk_mem, memOk_fst, memOk_snd, pairOk_mk, pairOkR_mk, optOk1_some, exOk_ok] | refine keep_iter ?_ _ _ ?_ | apply modCore_keeps | split)
theorem postNotice_keeps (s : State) (die : Nat) (r : BitVec 256) (hs : MemOk s) : MemOk (postNotice s die r) := hs
theorem appendNow_keeps (s : State) (d : Nat) (key : Nat) (r : FaultRec) (hs : MemOk s) : MemOk (appendNow s d key r) := by
  unfold appendNow; with_reducible repeat' (first | assumption | dsimp only [memOk_mk, mOk_mem, memOk_fst, memOk_snd, pairOk_mk, pairOkR_mk, optOk1_some, exOk_ok] | apply writeAtom_keeps | apply modDie_keeps | apply bumpService_keeps | apply postNotice_keeps | split)
theorem appendRec_keeps (s : State) (d : Nat) (key : Nat) (r : FaultRec) (hs : MemOk s) : MemOk (appendRec s d key r) := by
  unfold appendRec; with_reducible repeat' (first | assumption | apply modDie_keeps | apply appendNow_keeps | split)
theorem unlockOthers_keeps (s : State) (c : Nat) (hs : MemOk s) : MemOk (unlockOthers s c) := by
  unfold unlockOthers; with_reducible repeat' (first | assumption | with_unfolding_all exact coreKeep_same fun _ => rfl | intro _ | dsimp only [memOk_mk, mOk_mem, memOk_fst, memOk_snd, pairOk_mk, pairOkR_mk, optOk1_some, exOk_ok] | refine keep_foldl ?_ _ _ ?_ | refine keep_iter ?_ _ _ ?_ | apply modCore_keeps | split)
theorem freshId_keeps (s : State) (hs : MemOk s) : PairOkR (freshId s) := hs
theorem postMsg_keeps (s : State) (m : Msg) (hs : MemOk s) : MemOk (postMsg s m) := hs
theorem answerCredit_keeps (s : State) (c : Nat) (hs : MemOk s) : MemOk (answerCredit s c) := by
  unfold answerCredit; with_reducible repeat' (first | assumption | with_unfolding_all exact coreKeep_same fun _ => rfl | dsimp only [memOk_mk, mOk_mem, memOk_fst, memOk_snd, pairOk_mk, pairOkR_mk, optOk1_some, exOk_ok] | apply postMsg_keeps | apply modCore_keeps | split)
theorem freezeOne_keeps (s : State) (c : Nat) (fr : Frozen) (hs : MemOk s) : MemOk (freezeOne s c fr) := by
  unfold freezeOne; with_reducible repeat' (first | assumption | with_unfolding_all exact coreKeep_same fun _ => rfl | dsimp only [memOk_mk, mOk_mem, memOk_fst, memOk_snd, pairOk_mk, pairOkR_mk, optOk1_some, exOk_ok] | apply unlockOthers_keeps | apply answerCredit_keeps | apply modCore_keeps | split)
theorem freezeCore_keeps (s : State) (c : Nat) (fr : Frozen) (hs : MemOk s) : MemOk (freezeCore s c fr) := by
  unfold freezeCore; with_reducible repeat' (first | assumption | with_unfolding_all exact coreKeep_same fun _ => rfl | intro _ | dsimp only [memOk_mk, mOk_mem, memOk_fst, memOk_snd, pairOk_mk, pairOkR_mk, optOk1_some, exOk_ok] | refine keep_foldl ?_ _ _ ?_ | apply freezeOne_keeps | apply modCore_keeps | split)
theorem violate_keeps (s : State) (c : Nat) (slot : Nat) (code : FCode) (pc : W64) (ak : AKind) (addr : Nat) (info : Nat) (behind : Bool) (hs : MemOk s) : MemOk (violate s c slot code pc ak addr info behind) := by
  unfold violate; with_reducible repeat' (first | assumption | apply appendRec_keeps | apply freezeCore_keeps)
theorem modFib_keeps (s : State) (c : Nat) (slot : Nat) (f : Fibre → Fibre) (hs : MemOk s) : MemOk (modFib s c slot f) := by
  unfold modFib; with_reducible repeat' (first | assumption | with_unfolding_all exact coreKeep_same fun _ => rfl | dsimp only [memOk_mk, mOk_mem, memOk_fst, memOk_snd, pairOk_mk, pairOkR_mk, optOk1_some, exOk_ok] | apply modCore_keeps | split)
theorem leaveStrand_keeps (s : State) (c : Nat) (slot : Nat) (hs : MemOk s) : MemOk (leaveStrand s c slot) := by
  unfold leaveStrand; with_reducible repeat' (first | assumption | with_unfolding_all exact coreKeep_same fun _ => rfl | dsimp only [memOk_mk, mOk_mem, memOk_fst, memOk_snd, pairOk_mk, pairOkR_mk, optOk1_some, exOk_ok] | apply modCore_keeps | split)
theorem bumpEv_keeps (s : State) (c : Nat) (sel : Nat) (hs : MemOk s) : MemOk (bumpEv s c sel) := by
  unfold bumpEv; with_reducible repeat' (first | assumption | with_unfolding_all exact coreKeep_same fun _ => rfl | dsimp only [memOk_mk, mOk_mem, memOk_fst, memOk_snd, pairOk_mk, pairOkR_mk, optOk1_some, exOk_ok] | apply modCore_keeps | split)
theorem parkFib_keeps (s : State) (c : Nat) (slot : Nat) (why : Park) (w : Wait) (hs : MemOk s) : MemOk (parkFib s c slot why w) := by
  unfold parkFib; with_reducible repeat' (first | assumption | apply leaveStrand_keeps | apply bumpEv_keeps | apply modFib_keeps)
theorem parkFault_keeps (s : State) (c : Nat) (slot : Nat) (code : FCode) (pc : W64) (ak : AKind) (addr : Nat) (info : Nat) (hs : MemOk s) : MemOk (parkFault s c slot code pc ak addr info) := by
  unfold parkFault; with_reducible repeat' (first | assumption | apply modFib_keeps | apply parkFib_keeps | apply appendRec_keeps)
theorem takeFault_keeps (s : State) (c : Nat) (slot : Nat) (code : FCode) (pc : W64) (ak : AKind) (addr : Nat) (info : Nat) (hs : MemOk s) : MemOk (takeFault s c slot code pc ak addr info) := by
  unfold takeFault; with_reducible repeat' (first | assumption | apply violate_keeps | apply parkFault_keeps | split)
theorem faultHere_keeps (s : State) (i : Instr) (code : FCode) (ak : AKind) (addr : Nat) (hs : MemOk s) : PairOk (faultHere s i code ak addr) := by
  unfold faultHere; with_reducible repeat' (first | assumption | dsimp only [memOk_mk, mOk_mem, memOk_fst, memOk_snd, pairOk_mk, pairOkR_mk, optOk1_some, exOk_ok] | apply takeFault_keeps)
theorem modMe_keeps (s : State) (f : Fibre → Fibre) (hs : MemOk s) : MemOk (modMe s f) := by
  unfold modMe; with_reducible repeat' (first | assumption | dsimp only [memOk_mk, mOk_mem, memOk_fst, memOk_snd, pairOk_mk, pairOkR_mk, optOk1_some, exOk_ok] | apply modFib_keeps | split)
theorem dropResv_keeps (s : State) (hs : MemOk s) : MemOk (dropResv s) := by
  unfold dropResv; with_reducible repeat' (first | assumption | dsimp only [memOk_mk, mOk_mem, memOk_fst, memOk_snd, pairOk_mk, pairOkR_mk, optOk1_some, exOk_ok] | apply modMe_keeps | split)
theorem retire_keeps (s : State) (i : Instr) (target : Option W64) (hs : MemOk s) : MemOk (retire s i target) := by
  unfold retire; with_reducible repeat' (first | assumption | dsimp only [memOk_mk, mOk_mem, memOk_fst, memOk_snd, pairOk_mk, pairOkR_mk, optOk1_some, exOk_ok] | apply modMe_keeps | split)
theorem run_keeps (i : Instr) (s : State) (eff : State → State × Flow) (heff : ∀ s, MemOk s → PairOk (eff s)) (hs : MemOk s) : OutOk (run i s eff) := by
  unfold run; with_reducible repeat' (first | assumption | apply heff | dsimp only [memOk_mk, mOk_mem, memOk_fst, memOk_snd, pairOk_mk, pairOkR_mk, optOk1_some, exOk_ok] | apply outOk_next | exact outOk_fault | apply faultHere_keeps | apply dropResv_keeps | apply retire_keeps | refine pair_of (by assumption) ?_ | split)
theorem wr_keeps (s : State) (r : Reg) (v : W64) (hs : MemOk s) : MemOk (wr s r v) := by
  unfold wr; with_reducible repeat' (first | assumption | dsimp only [memOk_mk, mOk_mem, memOk_fst, memOk_snd, pairOk_mk, pairOkR_mk, optOk1_some, exOk_ok] | apply modMe_keeps | split)
theorem modHost_keeps (s : State) (f : HostPort → HostPort) (hs : MemOk s) : MemOk (modHost s f) := hs
theorem snoopAll_keeps (s : State) (hs : MemOk s) : MemOk (snoopAll s) := hs
theorem parkHere_keeps (s : State) (i : Instr) (why : Park) (w : Wait) (hs : MemOk s) : PairOk (parkHere s i why w) := by
  unfold parkHere; with_reducible repeat' (first | assumption | dsimp only [memOk_mk, mOk_mem, memOk_fst, memOk_snd, pairOk_mk, pairOkR_mk, optOk1_some, exOk_ok] | apply faultHere_keeps | apply parkFib_keeps | split)
theorem startTimer_keeps (s : State) (hs : MemOk s) : MemOk (startTimer s) := by
  unfold startTimer; with_reducible repeat' (first | assumption | dsimp only [memOk_mk, mOk_mem, memOk_fst, memOk_snd, pairOk_mk, pairOkR_mk, optOk1_some, exOk_ok] | apply modMe_keeps | split)
theorem execTwait_keeps (d : Reg) (a : Reg) (s : State) (hs : MemOk s) : OutOk (execTwait d a s) := by
  unfold execTwait; with_reducible repeat' (first | assumption | intro _ | dsimp only [memOk_mk, mOk_mem, memOk_fst, memOk_snd, pairOk_mk, pairOkR_mk, optOk1_some, exOk_ok] | apply run_keeps | apply wr_keeps | apply snoopAll_keeps | apply parkHere_keeps | apply startTimer_keeps | split)
theorem modWalk_keeps (s : State) (id_ : Nat) (f : WalkReq → WalkReq) (hs : MemOk s) : MemOk (modWalk s id_ f) := hs
theorem modUnit_keeps (s : State) (u : Nat) (f : XUnit → XUnit) (hs : MemOk s) : MemOk (modUnit s u f) := hs
theorem takeWalkers_keeps (s : State) (die : Nat) (x2 : NMap WalkReq) (hs : MemOk s) : MemOk (takeWalkers s die x2) := by
  induction x2 generalizing s die with
  | nil => exact hs
  | cons x_ l_ ih =>
    unfold takeWalkers; with_reducible repeat' (first | assumption | apply ih | dsimp only | apply modWalk_keeps | apply modUnit_keeps | split)
theorem capture_keeps (s : State) (v : W64) (hs : MemOk s) : MemOk (capture s v) := by
  unfold capture; with_reducible repeat' (first | assumption | with_unfolding_all exact coreKeep_same fun _ => rfl | dsimp only [memOk_mk, mOk_mem, memOk_fst, memOk_snd, pairOk_mk, pairOkR_mk, optOk1_some, exOk_ok] | apply modCore_keeps | split)
theorem aluOp_keeps (i : Instr) (p : PReg) (d : Reg) (s : State) (res : State → W64) (hs : MemOk s) : OutOk (aluOp i p d s res) := by
  unfold aluOp; with_reducible repeat' (first | assumption | intro _ | dsimp only [memOk_mk, mOk_mem, memOk_fst, memOk_snd, pairOk_mk, pairOkR_mk, optOk1_some, exOk_ok] | apply run_keeps | apply capture_keeps | apply wr_keeps | split)
theorem execMulh_keeps (p : PReg) (d : Reg) (a : Reg) (b : Reg) (v : Bool) (s : State) (hs : MemOk s) : OutOk (execMulh p d a b v s) := by
  unfold execMulh; with_reducible repeat' (first | assumption | apply aluOp_keeps)
theorem drainEntry_keeps (s : State) (atom : Nat) (hs : MemOk s) : MemOk (drainEntry s atom) := by
  unfold drainEntry; with_reducible repeat' (first | assumption | dsimp only [memOk_mk, mOk_mem, memOk_fst, memOk_snd, pairOk_mk, pairOkR_mk, optOk1_some, exOk_ok] | apply modGk_keeps | apply drainTo_keeps | split)
theorem demote_keeps (s : State) (a : Nat) (hs : MemOk s) : MemOk (demote s a) := by
  unfold demote; with_reducible repeat' (first | assumption | dsimp only | apply modChan_keeps | split)
theorem eccRead_keeps (s : State) (atom : Nat) (hs : MemOk s) : OptOk (eccRead s atom) := by
  unfold eccRead; with_reducible repeat' (first | assumption | dsimp only [memOk_mk, mOk_mem, memOk_fst, memOk_snd, pairOk_mk, pairOkR_mk, optOk1_some, exOk_ok] | exact optOk_none | apply optOk_some | apply mOk_marks | apply bumpDev_keeps | apply demote_keeps | split)
theorem dramLoad_keeps (s : State) (a : Nat) (n : Nat) (stale : Nat) (hs : MemOk s) : PairOk (dramLoad s a n stale) := by
  unfold dramLoad; with_reducible repeat' (first | assumption | dsimp only [memOk_mk, mOk_mem, memOk_fst, memOk_snd, pairOk_mk, pairOkR_mk, optOk1_some, exOk_ok] | apply drainEntry_keeps | apply eccRead_keeps | refine opt_of (by assumption) ?_ | split)
theorem tcTouch_keeps (s : State) (c : Nat) (x : Xlate) (hs : MemOk s) : MemOk (tcTouch s c x) := by
  unfold tcTouch; with_reducible repeat' (first | assumption | with_unfolding_all exact coreKeep_same fun _ => rfl | dsimp only [memOk_mk, mOk_mem, memOk_fst, memOk_snd, pairOk_mk, pairOkR_mk, optOk1_some, exOk_ok] | apply modCore_keeps | split)
theorem resolveVa_keeps (s : State) (c : Nat) (slot : Nat) (va : Nat) (acc : Acc1) (tagged : Bool) (hs : MemOk s) : PairOk (resolveVa s c slot va acc tagged) := by
  unfold resolveVa; with_reducible repeat' (first | assumption | dsimp only [memOk_mk, mOk_mem, memOk_fst, memOk_snd, pairOk_mk, pairOkR_mk, optOk1_some, exOk_ok] | apply tcTouch_keeps | split)
theorem resolve_keeps (s : State) (c : Nat) (slot : Nat) (p : Piece) (hs : MemOk s) : PairOk (resolve s c slot p) := by
  unfold resolve; with_reducible repeat' (first | assumption | dsimp only [memOk_mk, mOk_mem, memOk_fst, memOk_snd, pairOk_mk, pairOkR_mk, optOk1_some, exOk_ok] | apply resolveVa_keeps | split)
theorem resolveParts_keeps (s : State) (c : Nat) (e : Nat) (x3 : List Part) (hs : MemOk s) : PairOk (resolveParts s c e x3) := by
  induction x3 generalizing s c e with
  | nil => unfold resolveParts; with_reducible repeat' (first | assumption | apply ih | dsimp only [memOk_mk, mOk_mem, memOk_fst, memOk_snd, pairOk_mk, pairOkR_mk, optOk1_some, exOk_ok] | apply resolve_keeps | refine pair_of (by assumption) ?_ | split)
  | cons x_ l_ ih =>
    unfold resolveParts; with_reducible repeat' (first | assumption | apply ih | dsimp only [memOk_mk, mOk_mem, memOk_fst, memOk_snd, pairOk_mk, pairOkR_mk, optOk1_some, exOk_ok] | apply resolve_keeps | refine pair_of (by assumption) ?_ | split)
theorem startWalk_keeps (s : State) (who : Issuer) (va : Nat) (wants : WalkFor) (acc : Acc1) (tagged : Option Nat) (more : List Nat) (hs : MemOk s) : MemOk (startWalk s who va wants acc tagged more) := hs
theorem modCmd_keeps (s : State) (c : Nat) (e : Nat) (f : Cmd → Cmd) (hs : MemOk s) : MemOk (modCmd s c e f) := by
  unfold modCmd; with_reducible repeat' (first | assumption | with_unfolding_all exact coreKeep_same fun _ => rfl | dsimp only [memOk_mk, mOk_mem, memOk_fst, memOk_snd, pairOk_mk, pairOkR_mk, optOk1_some, exOk_ok] | apply modCore_keeps | split)
theorem entryViolates_keeps (s : State) (c : Nat) (e : Nat) (code : FCode) (ak : AKind) (addr : Nat) (info : Nat) (hs : MemOk s) : MemOk (entryViolates s c e code ak addr info) := by
  unfold entryViolates; with_reducible repeat' (first | assumption | apply appendRec_keeps | apply freezeCore_keeps | split)
theorem elemFault_keeps (s : State) (c : Nat) (e : Nat) (elem : Nat) (er : Err) (g3 : Nat) (hs : MemOk s) : MemOk (elemFault s c e elem er g3) := by
  unfold elemFault; with_reducible repeat' (first | assumption | apply modCmd_keeps | apply entryViolates_keeps | split)
theorem missFills_keeps (s : State) (c : Nat) (p : Req → Bool) (hs : MemOk s) : MemOk (missFills s c p) := by
  unfold missFills; with_reducible repeat' (first | assumption | with_unfolding_all exact coreKeep_same fun _ => rfl | dsimp only [memOk_mk, mOk_mem, memOk_fst, memOk_snd, pairOk_mk, pairOkR_mk, optOk1_some, exOk_ok] | apply modCore_keeps | split)
theorem dropPlace_keeps (s : State) (c : Nat) (p : Place) (hs : MemOk s) : MemOk (dropPlace s c p) := by
  unfold dropPlace; with_reducible repeat' (first | assumption | with_unfolding_all exact coreKeep_same fun _ => rfl | dsimp only [memOk_mk, mOk_mem, memOk_fst, memOk_snd, pairOk_mk, pairOkR_mk, optOk1_some, exOk_ok] | apply modCore_keeps | apply missFills_keeps | split)
theorem dropRow_keeps (s : State) (c : Nat) (loc : Loc) (n : Nat) (hs : MemOk s) : MemOk (dropRow s c loc n) := by
  unfold dropRow; with_reducible repeat' (first | assumption | with_unfolding_all exact coreKeep_same fun _ => rfl | dsimp only [memOk_mk, mOk_mem, memOk_fst, memOk_snd, pairOk_mk, pairOkR_mk, optOk1_some, exOk_ok] | apply modCore_keeps | apply missFills_keeps | split)
theorem passRow_keeps (s : State) (c : Nat) (slot : Nat) (p : Place) (hs : MemOk s) : MemOk (passRow s c slot p) := by
  unfold passRow; with_reducible repeat' (first | assumption | with_unfolding_all exact coreKeep_same fun _ => rfl | dsimp only [memOk_mk, mOk_mem, memOk_fst, memOk_snd, pairOk_mk, pairOkR_mk, optOk1_some, exOk_ok] | apply modCore_keeps | apply missFills_keeps | split)
theorem modReqs_keeps (s : State) (f : NMap Req → NMap Req) (hs : MemOk s) : MemOk (modReqs s f) := hs
theorem addReq_keeps (s : State) (r : Req) (hs : MemOk s) : MemOk (addReq s r) := by
  unfold addReq; with_reducible repeat' (first | assumption | with_unfolding_all exact coreKeep_same fun _ => rfl | dsimp only [memOk_mk, mOk_mem, memOk_fst, memOk_snd, pairOk_mk, pairOkR_mk, optOk1_some, exOk_ok] | apply dropPlace_keeps | apply dropRow_keeps | apply passRow_keeps | apply freshId_keeps | apply modCore_keeps | apply modReqs_keeps | split)
theorem countArrivals_keeps (s : State) (c : Nat) (producer : Nat) (n : Nat) (hs : MemOk s) : MemOk (countArrivals s c producer n) := by
  unfold countArrivals; with_reducible repeat' (first | assumption | with_unfolding_all exact coreKeep_same fun _ => rfl | dsimp only [memOk_mk, mOk_mem, memOk_fst, memOk_snd, pairOk_mk, pairOkR_mk, optOk1_some, exOk_ok] | apply modCore_keeps | split)
theorem modTile_keeps (s : State) (c : Nat) (f : Tile → Tile) (hf : ∀ t, Mem.wf t.mem = true → Mem.wf (f t).mem = true) (hs : MemOk s) : MemOk (modTile s c f) := by
  exact modCore_keeps s c _ (fun k h => hf k.tile h) hs
theorem tileStore_keeps (s : State) (c : Nat) (off : Nat) (n : Nat) (v : Nat) (producer : Nat) (hs : MemOk s) : MemOk (tileStore s c off n v producer) := by
  exact countArrivals_keeps _ _ _ _ (modTile_keeps _ _ _ (fun t h => Mem.wf_wrN _ _ _ h) hs)
theorem landBytes_keeps (s : State) (c : Nat) (e : Nat) (d : Nat) (n : Nat) (v : Nat) (hs : MemOk s) : MemOk (landBytes s c e d n v) := by
  unfold landBytes; with_reducible repeat' (first | assumption | apply modCmd_keeps | apply tileStore_keeps | split)
theorem tileDo_keeps (s : State) (c : Nat) (off : Nat) (acc : Acc1) (producer : Nat) (hs : MemOk s) : PairOk (tileDo s c off acc producer) := by
  unfold tileDo; with_reducible repeat' (first | assumption | dsimp only [memOk_mk, mOk_mem, memOk_fst, memOk_snd, pairOk_mk, pairOkR_mk, optOk1_some, exOk_ok] | apply tileStore_keeps | split)
theorem ownPart_keeps (pre : State) (s : State) (c : Nat) (e : Nat) (p : Part) (hpre : MemOk pre) (hs : MemOk s) : MemOk (ownPart pre s c e p) := by
  unfold ownPart; with_reducible repeat' (first | assumption | dsimp only [memOk_mk, mOk_mem, memOk_fst, memOk_snd, pairOk_mk, pairOkR_mk, optOk1_some, exOk_ok] | apply landBytes_keeps | apply tileDo_keeps | split)
theorem elemDone_keeps (s : State) (c : Nat) (e : Nat) (elem : Nat) (hs : MemOk s) : MemOk (elemDone s c e elem) := by
  unfold elemDone; with_reducible repeat' (first | assumption | dsimp only | apply modCmd_keeps | apply bumpEv_keeps | split)
theorem walkWrite_keeps (s : State) (c : Nat) (x : Cmd) (elem : Nat) (b : Nat) (lo : Nat) (hi : Nat) (hs : MemOk s) : MemOk (walkWrite s c x elem b lo hi) := by
  unfold walkWrite; with_reducible repeat' (first | assumption | intro _ | dsimp only | refine keep_iter ?_ _ _ ?_ | apply tileStore_keeps | split)
theorem walkOut_keeps (s : State) (c : Nat) (x : Cmd) (elem : Nat) (hs : MemOk s) : MemOk (walkOut s c x elem) := by
  unfold walkOut; with_reducible repeat' (first | assumption | apply walkWrite_keeps)
theorem elemEnd_keeps (s : State) (c : Nat) (e : Nat) (elem : Nat) (hs : MemOk s) : MemOk (elemEnd s c e elem) := by
  unfold elemEnd; with_reducible repeat' (first | assumption | apply modCmd_keeps | apply elemDone_keeps | apply walkOut_keeps | split)
theorem sendElem_keeps (s : State) (c : Nat) (e : Nat) (x : Cmd) (elem : Nat) (g3 : Nat) (ps : List Part) (hs : MemOk s) : MemOk (sendElem s c e x elem g3 ps) := by
  unfold sendElem; with_reducible repeat' (first | assumption | intro _ | dsimp only | refine keep_foldl ?_ _ _ ?_ | apply resolveParts_keeps | apply startWalk_keeps | apply elemFault_keeps | apply modCmd_keeps | apply addReq_keeps | apply ownPart_keeps | apply elemEnd_keeps | refine pair_of (by assumption) ?_ | split)
theorem takeWalk_keeps (s : State) (id_ : Nat) (hs : MemOk s) : MemOk (takeWalk s id_) := hs
theorem sendFrame_keeps (s : State) (f : Frame) (hs : MemOk s) : MemOk (sendFrame s f) := hs
theorem sendStatus_keeps (s : State) (hs : MemOk s) : MemOk (sendStatus s) := hs
theorem setTemp_keeps (s : State) (sensor : Nat) (t : Int) (hs : MemOk s) : MemOk (setTemp s sensor t) := hs
theorem tripDevice_keeps (s : State) (hs : MemOk s) : MemOk (tripDevice s) := by
  unfold tripDevice; with_reducible repeat' (first | assumption | dsimp only [memOk_mk, mOk_mem, memOk_fst, memOk_snd, pairOk_mk, pairOkR_mk, optOk1_some, exOk_ok] | split)
theorem moduleTemp_keeps (s : State) (temp : Int) (hs : MemOk s) : MemOk (moduleTemp s temp) := by
  unfold moduleTemp; with_reducible repeat' (first | assumption | dsimp only [memOk_mk, mOk_mem, memOk_fst, memOk_snd, pairOk_mk, pairOkR_mk, optOk1_some, exOk_ok] | apply setTemp_keeps | apply tripDevice_keeps | split)
theorem execThermalTrip_keeps (temp : Int) (s : State) (hs : MemOk s) : OutOk (execThermalTrip temp s) := by
  unfold execThermalTrip; with_reducible repeat' (first | assumption | dsimp only [memOk_mk, mOk_mem, memOk_fst, memOk_snd, pairOk_mk, pairOkR_mk, optOk1_some, exOk_ok] | apply outOk_next | apply sendStatus_keeps | apply moduleTemp_keeps | split)
theorem plan_keeps (s : State) (c : Nat) (slot : Nat) (x3 : List Piece) (hs : MemOk s) : PairOk (plan s c slot x3) := by
  induction x3 generalizing s c slot with
  | nil => exact hs
  | cons x_ l_ ih =>
    unfold plan; with_reducible repeat' (first | assumption | apply ih | dsimp only [memOk_mk, mOk_mem, memOk_fst, memOk_snd, pairOk_mk, pairOkR_mk, optOk1_some, exOk_ok] | apply resolve_keeps | refine pair_of (by assumption) ?_ | split)
theorem modTxns_keeps (s : State) (f : NMap Txn → NMap Txn) (hs : MemOk s) : MemOk (modTxns s f) := hs
theorem setWait_keeps (s : State) (c : Nat) (slot : Nat) (why : Park) (w : Wait) (hs : MemOk s) : MemOk (setWait s c slot why w) := by
  unfold setWait; with_reducible repeat' (first | assumption | dsimp only [memOk_mk, mOk_mem, memOk_fst, memOk_snd, pairOk_mk, pairOkR_mk, optOk1_some, exOk_ok] | apply modFib_keeps | split)
theorem launch_keeps (s : State) (id_ : Nat) (hs : MemOk s) : MemOk (launch s id_) := by
  unfold launch; with_reducible repeat' (first | assumption | intro _ | dsimp only | refine keep_foldl ?_ _ _ ?_ | apply addReq_keeps | apply missOf_keeps | apply modTxns_keeps | split)
theorem oweGroup_keeps (s : State) (c : Nat) (slot : Nat) (hs : MemOk s) : MemOk (oweGroup s c slot) := by
  unfold oweGroup; with_reducible repeat' (first | assumption | with_unfolding_all exact coreKeep_same fun _ => rfl | dsimp only [memOk_mk, mOk_mem, memOk_fst, memOk_snd, pairOk_mk, pairOkR_mk, optOk1_some, exOk_ok] | apply modCore_keeps | split)
theorem makeReady_keeps (s : State) (c : Nat) (slot : Nat) (hs : MemOk s) : MemOk (makeReady s c slot) := by
  unfold makeReady; with_reducible repeat' (first | assumption | dsimp only [memOk_mk, mOk_mem, memOk_fst, memOk_snd, pairOk_mk, pairOkR_mk, optOk1_some, exOk_ok] | apply modFib_keeps | split)
theorem faultBack_keeps (s : State) (w : Issuer) (code : FCode) (ak : AKind) (addr : Nat) (hs : MemOk s) : MemOk (faultBack s w code ak addr) := by
  unfold faultBack; with_reducible repeat' (first | assumption | apply modFib_keeps | apply oweGroup_keeps | apply parkFault_keeps | apply violate_keeps | apply makeReady_keeps | split)
theorem advanceTxn_keeps (s : State) (id_ : Nat) (hs : MemOk s) : MemOk (advanceTxn s id_) := by
  unfold advanceTxn; with_reducible repeat' (first | assumption | dsimp only [memOk_mk, mOk_mem, memOk_fst, memOk_snd, pairOk_mk, pairOkR_mk, optOk1_some, exOk_ok] | apply plan_keeps | apply modTxns_keeps | apply setWait_keeps | apply launch_keeps | apply startWalk_keeps | apply faultBack_keeps | split)
theorem execMulImm_keeps (p : PReg) (d : Reg) (a : Reg) (imm : BitVec 10) (s : State) (hs : MemOk s) : OutOk (execMulImm p d a imm s) := by
  unfold execMulImm; with_reducible repeat' (first | assumption | apply aluOp_keeps)
theorem newTxn_keeps (s : State) (who : Issuer) (dst : Dst) (size : Nat) (acq : Bool) (ps : List Piece) (hs : MemOk s) : PairOkR (newTxn s who dst size acq ps) := hs
theorem freeVal_keeps (s : State) (hs : MemOk s) : PairOkR (freeVal s) := hs
theorem nodeNotice_keeps (s : State) (code : FCode) (pa : Nat) (hs : MemOk s) : MemOk (nodeNotice s code pa) := hs
theorem nodeStep_keeps (s : State) (id_ : Nat) (t : Txn) (p : Piece) (rest : List Piece) (a : Answer) (hs : MemOk s) : MemOk (nodeStep s id_ t p rest a) := by
  unfold nodeStep; with_reducible repeat' (first | assumption | apply modTxns_keeps | apply sendFrame_keeps | apply nodeNotice_keeps | split)
theorem digest_keeps (s : State) (rbit : Bool) (atom : Nat) (old : Nat) (new : Nat) (hs : MemOk s) : MemOk (digest s rbit atom old new) := by
  unfold digest; with_reducible repeat' (first | assumption | apply modGk_keeps | split)
theorem dramWrite_keeps (s : State) (acc : Acc1) (a : Nat) (rbit : Bool) (hs : MemOk s) : PairOk (dramWrite s acc a rbit) := by
  unfold dramWrite; with_reducible repeat' (first | assumption | dsimp only [memOk_mk, mOk_mem, memOk_fst, memOk_snd, pairOk_mk, pairOkR_mk, optOk1_some, exOk_ok] | apply optOk_some | apply drainFree_keeps | apply eccRead_keeps | apply putAtom_keeps | apply digest_keeps | refine opt_of (by assumption) ?_ | split)
theorem dramAccess_keeps (s : State) (acc : Acc1) (a : Nat) (rbit : Bool) (stale : Nat) (hs : MemOk s) : PairOk (dramAccess s acc a rbit stale) := by
  unfold dramAccess; with_reducible repeat' (first | assumption | apply touch_keeps | apply dramLoad_keeps | apply dramWrite_keeps | split)
theorem freeNum_keeps (s : State) (hs : MemOk s) : PairOkR (freeNum s) := by
  unfold freeNum; with_reducible repeat' (first | assumption | intro _ | dsimp only [memOk_mk, mOk_mem, memOk_fst, memOk_snd, pairOk_mk, pairOkR_mk, optOk1_some, exOk_ok] | refine keep_iter2 ?_ _ _ ?_ | apply freeVal_keeps)
theorem placeRead_keeps (s : State) (p : Place) (n : Nat) (stale : Nat) (hs : MemOk s) : PairOk (placeRead s p n stale) := by
  unfold placeRead; with_reducible repeat' (first | assumption | dsimp only [memOk_mk, mOk_mem, memOk_fst, memOk_snd, pairOk_mk, pairOkR_mk, optOk1_some, exOk_ok] | apply freeNum_keeps | apply dramAccess_keeps | apply modHost_keeps | refine pair_of (by assumption) ?_ | split)
theorem walkFrom_keeps (s : State) (x1 : Nat) (x2 : Nat) (x3 : Nat) (x4 : Nat) (hs : MemOk s) : PairOk (walkFrom s x1 x2 x3 x4) := by
  induction x1 generalizing s x2 x3 x4 with
  | zero => exact hs
  | succ n_ ih =>
    unfold walkFrom; with_reducible repeat' (first | assumption | apply ih | dsimp only [memOk_mk, mOk_mem, memOk_fst, memOk_snd, pairOk_mk, pairOkR_mk, optOk1_some, exOk_ok] | apply dramAccess_keeps | refine pair_of (by assumption) ?_ | split)
theorem walkTables_keeps (s : State) (asid : Nat) (va : Nat) (hs : MemOk s) : PairOk (walkTables s asid va) := by
  unfold walkTables; with_reducible repeat' (first | assumption | dsimp only [memOk_mk, mOk_mem, memOk_fst, memOk_snd, pairOk_mk, pairOkR_mk, optOk1_some, exOk_ok] | apply walkFrom_keeps | split)
theorem orLeaf_keeps (s : State) (x : Xlate) (write : Bool) (va : Nat) (hs : MemOk s) : PairOk (orLeaf s x write va) := by
  unfold orLeaf; with_reducible repeat' (first | assumption | dsimp only [memOk_mk, mOk_mem, memOk_fst, memOk_snd, pairOk_mk, pairOkR_mk, optOk1_some, exOk_ok] | apply dramLoad_keeps | apply touch_keeps | apply dramAccess_keeps | refine pair_of (by assumption) ?_ | split)
theorem locRead_keeps (s : State) (asid : Nat) (loc : Loc) (n : Nat) (hs : MemOk s) : PairOk (locRead s asid loc n) := by
  unfold locRead; with_reducible repeat' (first | assumption | dsimp only [memOk_mk, mOk_mem, memOk_fst, memOk_snd, pairOk_mk, pairOkR_mk, optOk1_some, exOk_ok] | apply placeRead_keeps | apply walkTables_keeps | apply orLeaf_keeps | refine pair_of (by assumption) ?_ | split)
theorem rangeRead_keeps (s : State) (asid : Nat) (loc : Loc) (n : Nat) (hs : MemOk s) : PairOk (rangeRead s asid loc n) := by
  unfold rangeRead; with_reducible repeat' (first | assumption | intro _ | dsimp only [memOk_mk, mOk_mem, memOk_fst, memOk_snd, pairOk_mk, pairOkR_mk, optOk1_some, exOk_ok] | refine keep_foldl1 ?_ _ _ ?_ | apply locRead_keeps | refine pair_of (by assumption) ?_ | split)
theorem imageDigest_keeps (s : State) (t : Task) (hs : MemOk s) : PairOk (imageDigest s t) := by
  unfold imageDigest; with_reducible repeat' (first | assumption | dsimp only [memOk_mk, mOk_mem, memOk_fst, memOk_snd, pairOk_mk, pairOkR_mk, optOk1_some, exOk_ok] | apply rangeRead_keeps | refine pair_of (by assumption) ?_ | split)
theorem attestedDigest_keeps (s : State) (hs : MemOk s) : PairOk (attestedDigest s) := by
  unfold attestedDigest; with_reducible repeat' (first | assumption | dsimp only [memOk_mk, mOk_mem, memOk_fst, memOk_snd, pairOk_mk, pairOkR_mk, optOk1_some, exOk_ok] | apply imageDigest_keeps | split)
theorem report_keeps (s : State) (hs : MemOk s) : PairOk (report s) := by
  unfold report; with_reducible repeat' (first | assumption | dsimp only [memOk_mk, mOk_mem, memOk_fst, memOk_snd, pairOk_mk, pairOkR_mk, optOk1_some, exOk_ok] | apply attestedDigest_keeps | refine pair_of (by assumption) ?_ | split)
theorem globalGet_keeps (s : State) (o : Nat) (hs : MemOk s) : PairOk (globalGet s o) := by
  unfold globalGet; with_reducible repeat' (first | exact hs | apply freeVal_keeps | exact pair_of (by assumption) (report_keeps s hs) | apply pairOk_ite | dsimp only [pairOk_mk, memOk_snd] | split)
theorem regGet_keeps (s : State) (a : Nat) (node : Bool) (hs : MemOk s) : PairOk (regGet s a node) := by
  unfold regGet; with_reducible repeat' (first | assumption | dsimp only [memOk_mk, mOk_mem, memOk_fst, memOk_snd, pairOk_mk, pairOkR_mk, optOk1_some, exOk_ok] | apply globalGet_keeps | split)
theorem appendHeld_keeps (s : State) (d : Nat) (hs : MemOk s) : MemOk (appendHeld s d) := by
  unfold appendHeld; with_reducible repeat' (first | assumption | intro _ | dsimp only | refine keep_foldl ?_ _ _ ?_ | apply appendRec_keeps | apply modDie_keeps)
theorem setGet_keeps (s : State) (d : Nat) (v : Nat) (hs : MemOk s) : MemOk (setGet s d v) := by
  unfold setGet; with_reducible repeat' (first | assumption | apply appendHeld_keeps | apply modDie_keeps)
theorem globalPut_keeps (s : State) (o : Nat) (v : W64) (mask : W64) (hs : MemOk s) : MemOk (globalPut s o v mask) := by
  unfold globalPut; with_reducible repeat' (first | exact hs | apply setGet_keeps | apply modDie_keeps | apply memOk_ite | (rw [memOk_mk, mOk_mem]) | dsimp only)
theorem ctrlPut_keeps (s : State) (c : Nat) (o : Nat) (v : W64) (mask : W64) (hs : MemOk s) : MemOk (ctrlPut s c o v mask) := by
  unfold ctrlPut; with_reducible repeat' (first | assumption | apply modGk_keeps | split)
theorem bcastPut_keeps (s : State) (o : Nat) (v : W64) (mask : W64) (hs : MemOk s) : MemOk (bcastPut s o v mask) := by
  unfold bcastPut; with_reducible repeat' (first | assumption | intro _ | dsimp only | refine keep_iter ?_ _ _ ?_ | apply ctrlPut_keeps)
theorem windowPut_keeps (s : State) (c : Nat) (o : Nat) (v : W64) (mask : W64) (hs : MemOk s) : MemOk (windowPut s c o v mask) := by
  unfold windowPut; dsimp only; split; exact hs; exact setCore_keeps _ _ _ (blockPut_ok _ _ _ (core_ok hs _)) hs
theorem regPut_keeps (s : State) (a : Nat) (v : W64) (mask : W64) (node : Bool) (hs : MemOk s) : OptOk (regPut s a v mask node) := by
  unfold regPut; with_reducible repeat' (first | assumption | exact optOk_none | apply optOk_some | apply globalPut_keeps | apply ctrlPut_keeps | apply bcastPut_keeps | apply windowPut_keeps | split)
theorem regAccess_keeps (s : State) (a : Nat) (size : Nat) (wr : Option W64) (node : Bool) (hs : MemOk s) : PairOk (regAccess s a size wr node) := by
  unfold regAccess; with_reducible repeat' (first | assumption | dsimp only [memOk_mk, mOk_mem, memOk_fst, memOk_snd, pairOk_mk, pairOkR_mk, optOk1_some, exOk_ok] | apply regGet_keeps | apply regPut_keeps | refine pair_of (by assumption) ?_ | refine opt_of (by assumption) ?_ | split)
theorem nodeRun_keeps (x0 : Nat) (x1 : State) (x2 : Nat) (hx1 : MemOk x1) : MemOk (nodeRun x0 x1 x2) := by
  induction x0 generalizing x1 x2 with
  | zero => exact hx1
  | succ n_ ih =>
    unfold nodeRun; with_reducible repeat' (first | assumption | apply ih | dsimp only [memOk_mk, mOk_mem, memOk_fst, memOk_snd, pairOk_mk, pairOkR_mk, optOk1_some, exOk_ok] | apply modTxns_keeps | apply sendFrame_keeps | apply nodeStep_keeps | apply dramAccess_keeps | apply regAccess_keeps | apply addReq_keeps | refine pair_of (by assumption) ?_ | split)
theorem nodeFrame_keeps (s : State) (write : Bool) (pa : Nat) (accs : List Acc1) (hs : MemOk s) : MemOk (nodeFrame s write pa accs) := by
  unfold nodeFrame; with_reducible repeat' (first | assumption | dsimp only [memOk_mk, mOk_mem, memOk_fst, memOk_snd, pairOk_mk, pairOkR_mk, optOk1_some, exOk_ok] | apply newTxn_keeps | apply nodeRun_keeps)
theorem writeLost_keeps (s : State) (code : FCode) (a : Nat) (hs : MemOk s) : MemOk (writeLost s code a) := by
  unfold writeLost; with_reducible repeat' (first | assumption | dsimp only [memOk_mk, mOk_mem, memOk_fst, memOk_snd, pairOk_mk, pairOkR_mk, optOk1_some, exOk_ok] | apply appendRec_keeps | split)
theorem takeTurn_keeps (s : State) (c : Nat) (st : Nat) (hs : MemOk s) : MemOk (takeTurn s c st) := by
  unfold takeTurn; with_reducible repeat' (first | assumption | with_unfolding_all exact coreKeep_same fun _ => rfl | dsimp only [memOk_mk, mOk_mem, memOk_fst, memOk_snd, pairOk_mk, pairOkR_mk, optOk1_some, exOk_ok] | apply modCore_keeps | split)
theorem passTurn_keeps (s : State) (c : Nat) (st : Nat) (hs : MemOk s) : MemOk (passTurn s c st) := by
  unfold passTurn; with_reducible repeat' (first | assumption | with_unfolding_all exact coreKeep_same fun _ => rfl | dsimp only [memOk_mk, mOk_mem, memOk_fst, memOk_snd, pairOk_mk, pairOkR_mk, optOk1_some, exOk_ok] | apply modCore_keeps | split)
theorem execMmaStep_keeps (core : Nat) (strand : Nat) (s : State) (hs : MemOk s) : OutOk (execMmaStep core strand s) := by
  unfold execMmaStep; with_reducible repeat' (first | assumption | dsimp only | apply outOk_next | apply passTurn_keeps | apply setWait_keeps | apply takeTurn_keeps | apply makeReady_keeps | apply modFib_keeps | apply setCore_keeps | with_unfolding_all exact core_ok (takeTurn_keeps s core strand hs) core | split)
theorem wrP_keeps (s : State) (p : PReg) (b : Bool) (hs : MemOk s) : MemOk (wrP s p b) := by
  unfold wrP; with_reducible repeat' (first | assumption | dsimp only [memOk_mk, mOk_mem, memOk_fst, memOk_snd, pairOk_mk, pairOkR_mk, optOk1_some, exOk_ok] | apply modMe_keeps | split)
theorem answerPacket_keeps (s : State) (dev : Nat) (tag : BitVec 16) (code : Nat) (data : List Byte) (hs : MemOk s) : MemOk (answerPacket s dev tag code data) := hs
theorem ownerPlace_keeps (s : State) (asid : Nat) (va : Nat) (acc : Acc1) (tagged : Bool) (hs : MemOk s) : ExOk (ownerPlace s asid va acc tagged) := by
  unfold ownerPlace; with_reducible repeat' (first | assumption | dsimp only [memOk_mk, mOk_mem, memOk_fst, memOk_snd, pairOk_mk, pairOkR_mk, optOk1_some, exOk_ok] | exact exOk_error | apply walkTables_keeps | apply orLeaf_keeps | refine pair_of (by assumption) ?_ | split)
theorem ownerPieces_keeps (asid : Nat) (x1 : State) (x2 : List Piece) (hx1 : MemOk x1) : ExOk (ownerPieces asid x1 x2) := by
  induction x2 generalizing asid x1 with
  | nil => exact hx1
  | cons x_ l_ ih =>
    unfold ownerPieces; with_reducible repeat' (first | assumption | apply ih | dsimp only [memOk_mk, mOk_mem, memOk_fst, memOk_snd, pairOk_mk, pairOkR_mk, optOk1_some, exOk_ok] | exact exOk_error | apply ownerPlace_keeps | refine ex_of (by assumption) ?_ | split)
theorem serveRow_keeps (s : State) (p : RowPkt) (hs : MemOk s) : MemOk (serveRow s p) := by
  unfold serveRow; with_reducible repeat' (first | assumption | dsimp only [memOk_mk, mOk_mem, memOk_fst, memOk_snd, pairOk_mk, pairOkR_mk, optOk1_some, exOk_ok] | apply answerPacket_keeps | apply ownerPieces_keeps | apply newTxn_keeps | apply launch_keeps | refine ex_of (by assumption) ?_ | split)
theorem hold_keeps (s : State) (i : Instr) (hs : MemOk s) : MemOk (hold s i) := hs
theorem replyStatus_keeps (s : State) (st : Nat) (hs : MemOk s) : MemOk (replyStatus s st) := hs
theorem complete_keeps (s : State) (i : Instr) (st : Nat) (hs : MemOk s) : MemOk (complete s i st) := by
  unfold complete; with_reducible repeat' (first | assumption | intro _ | dsimp only [memOk_mk, mOk_mem, memOk_fst, memOk_snd, pairOk_mk, pairOkR_mk, optOk1_some, exOk_ok] | refine keep_iter ?_ _ _ ?_ | apply replyStatus_keeps)
theorem haltDispatch_keeps (s : State) (b : Bool) (hs : MemOk s) : MemOk (haltDispatch s b) := by
  unfold haltDispatch; with_reducible repeat' (first | assumption | dsimp only [memOk_mk, mOk_mem, memOk_fst, memOk_snd, pairOk_mk, pairOkR_mk, optOk1_some, exOk_ok] | split)
theorem pend_keeps (s : State) (i : Instr) (hs : MemOk s) : MemOk (pend s i) := by
  unfold pend; with_reducible repeat' (first | assumption | dsimp only [memOk_mk, mOk_mem, memOk_fst, memOk_snd, pairOk_mk, pairOkR_mk, optOk1_some, exOk_ok] | split)
theorem streamAt_keeps (s : State) (ds : Option (List W512)) (hs : MemOk s) : MemOk (streamAt s ds) := by
  unfold streamAt; with_reducible repeat' (first | assumption | dsimp only [memOk_mk, mOk_mem, memOk_fst, memOk_snd, pairOk_mk, pairOkR_mk, optOk1_some, exOk_ok] | split)
theorem drainAll_keeps (s : State) (hs : MemOk s) : MemOk (drainAll s) := by
  unfold drainAll; with_reducible repeat' (first | assumption | intro _ | dsimp only | refine keep_foldl ?_ _ _ ?_ | apply drainEntry_keeps)
theorem freeAtom_keeps (x : Mem × State) (a : Nat) (hx : PairOkR x) : PairOkR (freeAtom x a) := by
  unfold PairOkR freeAtom at *
  refine iter_inv (P := fun p : Mem × State => MemOk p.2) (fun j p hp => ?_) _ _ hx
  exact freeVal_keeps p.2 hp
theorem chunkRead_keeps (s : State) (j : Nat) (hs : MemOk s) : PairOkR (chunkRead s j) := by
  have e : ∀ t a, MemOk t → MemOk ((eccRead t a).getD t) := fun t a ht => by
    have h := eccRead_keeps t a ht
    cases e : eccRead t a with
    | none => exact ht
    | some u => rw [e] at h; exact h
  exact keep_foldl (fun t a ht => nodeNotice_keeps t _ _ ht) _ _ (keep_foldl2 (fun x a hx => freeAtom_keeps x a hx) _ _ (keep_foldl e _ _ hs))
theorem sendChunk_keeps (s : State) (name : Nat) (tier : Nat) (ds : List W512) (hs : MemOk s) : MemOk (sendChunk s name tier ds) := by
  unfold sendChunk; with_reducible repeat' (first | assumption | dsimp only [memOk_mk, mOk_mem, memOk_fst, memOk_snd, pairOk_mk, pairOkR_mk, optOk1_some, exOk_ok] | apply chunkRead_keeps | apply drainAll_keeps | apply streamAt_keeps | apply sendFrame_keeps | split)
theorem sendFinal_keeps (s : State) (name : Nat) (tier : Nat) (ds : List W512) (hs : MemOk s) : MemOk (sendFinal s name tier ds) := by
  unfold sendFinal; with_reducible repeat' (first | assumption | dsimp only [memOk_mk, mOk_mem, memOk_fst, memOk_snd, pairOk_mk, pairOkR_mk, optOk1_some, exOk_ok] | apply streamAt_keeps | apply sendFrame_keeps | split)
theorem execCheckpoint_keeps (name : Nat) (tier : Nat) (s : State) (hs : MemOk s) : OutOk (execCheckpoint name tier s) := by
  unfold execCheckpoint; with_reducible repeat' (first | assumption | dsimp only [memOk_mk, mOk_mem, memOk_fst, memOk_snd, pairOk_mk, pairOkR_mk, optOk1_some, exOk_ok] | apply outOk_next | apply hold_keeps | apply complete_keeps | apply haltDispatch_keeps | apply pend_keeps | apply streamAt_keeps | apply drainAll_keeps | apply sendChunk_keeps | apply sendFinal_keeps | split)
theorem execPromotionEpoch_keeps (chan : Nat) (s : State) (hs : MemOk s) : OutOk (execPromotionEpoch chan s) := hs
theorem bootFirmware_keeps (s : State) (hs : MemOk s) : MemOk (bootFirmware s) := by
  unfold bootFirmware
  rw [memOk_mk, mOk_mem]
  refine keep_foldl (fun s d h => modDie_keeps _ _ _ h) _ _ ?_
  rw [memOk_mk]
  exact ⟨wf_foldl (fun m c hm => by split; exact Mem.wf_wr _ _ hm; exact hm) _ _ rfl, hs.2⟩
theorem execRecovery_keeps (piece : List Byte) (s : State) (hs : MemOk s) : OutOk (execRecovery piece s) := by
  unfold execRecovery; with_reducible repeat' (first | assumption | dsimp only [memOk_mk, mOk_mem, memOk_fst, memOk_snd, pairOk_mk, pairOkR_mk, optOk1_some, exOk_ok] | apply outOk_next | apply bootFirmware_keeps | split)
theorem modQ_keeps (s : State) (c : Nat) (f : Queues → Queues) (hs : MemOk s) : MemOk (modQ s c f) := by
  unfold modQ; with_reducible repeat' (first | assumption | with_unfolding_all exact coreKeep_same fun _ => rfl | dsimp only [memOk_mk, mOk_mem, memOk_fst, memOk_snd, pairOk_mk, pairOkR_mk, optOk1_some, exOk_ok] | apply modCore_keeps | split)
theorem closeTxn_keeps (s : State) (id_ : Nat) (t : Txn) (hs : MemOk s) : MemOk (closeTxn s id_ t) := by
  unfold closeTxn; with_reducible repeat' (first | assumption | dsimp only [memOk_mk, mOk_mem, memOk_fst, memOk_snd, pairOk_mk, pairOkR_mk, optOk1_some, exOk_ok] | apply modTxns_keeps | apply modQ_keeps | apply modFib_keeps | split)
theorem doneTxn_keeps (s : State) (id_ : Nat) (t : Txn) (f : Fibre → Fibre) (hs : MemOk s) : MemOk (doneTxn s id_ t f) := by
  unfold doneTxn; with_reducible repeat' (first | assumption | dsimp only [memOk_mk, mOk_mem, memOk_fst, memOk_snd, pairOk_mk, pairOkR_mk, optOk1_some, exOk_ok] | apply makeReady_keeps | apply modFib_keeps | apply closeTxn_keeps | split)
theorem modMx_keeps (s : State) (c : Nat) (f : Matrix → Matrix) (hs : MemOk s) : MemOk (modMx s c f) := by
  unfold modMx; with_reducible repeat' (first | assumption | with_unfolding_all exact coreKeep_same fun _ => rfl | dsimp only [memOk_mk, mOk_mem, memOk_fst, memOk_snd, pairOk_mk, pairOkR_mk, optOk1_some, exOk_ok] | apply modCore_keeps | split)
theorem failTxn_keeps (s : State) (id_ : Nat) (t : Txn) (e : Err) (hs : MemOk s) : MemOk (failTxn s id_ t e) := by
  unfold failTxn; with_reducible repeat' (first | assumption | apply answerPacket_keeps | apply modTxns_keeps | apply faultBack_keeps | apply closeTxn_keeps | split)
theorem forward_keeps (s : State) (c : Nat) (slot : Nat) (loc : Loc) (n : Nat) (hs : MemOk s) : OptOk1 (forward s c slot loc n) := by
  unfold forward; with_reducible repeat' (first | assumption | dsimp only [memOk_mk, mOk_mem, memOk_fst, memOk_snd, pairOk_mk, pairOkR_mk, optOk1_some, exOk_ok] | exact optOk1_none | apply modFib_keeps | split)
theorem readPiece_keeps (s : State) (c : Nat) (slot : Nat) (loc : Loc) (n : Nat) (off : Nat) (hs : MemOk s) : PairOk (readPiece s c slot loc n off) := by
  unfold readPiece; with_reducible repeat' (first | assumption | dsimp only [memOk_mk, mOk_mem, memOk_fst, memOk_snd, pairOk_mk, pairOkR_mk, optOk1_some, exOk_ok] | apply forward_keeps | apply bumpEv_keeps | refine opt_of1 (by assumption) ?_ | split)
theorem readPieces_keeps (s : State) (c : Nat) (slot : Nat) (k : Core) (sg : Fin 8) (n : Nat) (x6 : List (Nat × Nat)) (hs : MemOk s) : PairOk (readPieces s c slot k sg n x6) := by
  induction x6 generalizing s c slot k sg n with
  | nil => exact hs
  | cons x_ l_ ih =>
    unfold readPieces; with_reducible repeat' (first | assumption | apply ih | dsimp only [memOk_mk, mOk_mem, memOk_fst, memOk_snd, pairOk_mk, pairOkR_mk, optOk1_some, exOk_ok] | apply readPiece_keeps | split)
theorem levelPieces_keeps (s : State) (c : Nat) (slot : Nat) (sg : Fin 8) (offs : List Nat) (hs : MemOk s) : PairOk (levelPieces s c slot sg offs) := by
  unfold levelPieces; with_reducible repeat' (first | assumption | apply readPieces_keeps)
theorem reissue_keeps (s : State) (w : Issuer) (hs : MemOk s) : MemOk (reissue s w) := by
  unfold reissue; with_reducible repeat' (first | assumption | apply makeReady_keeps | apply modFib_keeps | apply oweGroup_keeps)
theorem fwalkNext_keeps (s : State) (id_ : Nat) (t : Txn) (d : Reg) (roff : Nat) (b : W64) (hs : MemOk s) : MemOk (fwalkNext s id_ t d roff b) := by
  unfold fwalkNext; with_reducible repeat' (first | assumption | dsimp only [memOk_mk, mOk_mem, memOk_fst, memOk_snd, pairOk_mk, pairOkR_mk, optOk1_some, exOk_ok] | apply failTxn_keeps | apply doneTxn_keeps | apply levelPieces_keeps | apply setWait_keeps | apply reissue_keeps | apply closeTxn_keeps | apply advanceTxn_keeps | apply modTxns_keeps | split)
theorem loadDtab_keeps (s : State) (c : Nat) (v : Nat) (src : Loc) (hs : MemOk s) : MemOk (loadDtab s c v src) := by
  unfold loadDtab; with_reducible repeat' (first | assumption | with_unfolding_all exact coreKeep_same fun _ => rfl | dsimp only [memOk_mk, mOk_mem, memOk_fst, memOk_snd, pairOk_mk, pairOkR_mk, optOk1_some, exOk_ok] | apply modCore_keeps | split)
theorem loadXtab_keeps (s : State) (c : Nat) (v : Nat) (src : Loc) (hs : MemOk s) : MemOk (loadXtab s c v src) := by
  unfold loadXtab; with_reducible repeat' (first | assumption | dsimp only [memOk_mk, mOk_mem, memOk_fst, memOk_snd, pairOk_mk, pairOkR_mk, optOk1_some, exOk_ok])
theorem allGeckos_keeps (s : State) (f : Gecko → Gecko) (hs : MemOk s) : MemOk (allGeckos s f) := by
  unfold allGeckos; rw [memOk_mk]; exact hs
theorem gkBind_keeps (s : State) (tag : Nat) (ctx : Nat) (lo : Nat) (hi : Nat) (im : BitVec 4096) (hs : MemOk s) : MemOk (gkBind s tag ctx lo hi im) := by
  unfold gkBind; with_reducible repeat' (first | assumption | apply allGeckos_keeps)
theorem gkUnbind_keeps (s : State) (tag : Nat) (hs : MemOk s) : MemOk (gkUnbind s tag) := by
  unfold gkUnbind; with_reducible repeat' (first | assumption | apply allGeckos_keeps)
theorem dropHeld_keeps (s : State) (c : Nat) (slot : Nat) (hs : MemOk s) : MemOk (dropHeld s c slot) := by
  unfold dropHeld; with_reducible repeat' (first | assumption | with_unfolding_all exact coreKeep_same fun _ => rfl | dsimp only [memOk_mk, mOk_mem, memOk_fst, memOk_snd, pairOk_mk, pairOkR_mk, optOk1_some, exOk_ok] | apply modCore_keeps | split)
theorem endWalks_keeps (s : State) (a : Nat) (hs : MemOk s) : MemOk (endWalks s a) := by
  unfold endWalks; with_reducible repeat' (first | assumption | intro _ | dsimp only [memOk_mk, mOk_mem, memOk_fst, memOk_snd, pairOk_mk, pairOkR_mk, optOk1_some, exOk_ok] | refine keep_foldl ?_ _ _ ?_ | apply takeWalkers_keeps | split)
theorem ptFills_keeps (s : State) (kind : Nat) (va : Nat) (asid : Nat) (c : Nat) (hs : MemOk s) : MemOk (ptFills s kind va asid c) := by
  unfold ptFills; with_reducible repeat' (first | assumption | with_unfolding_all exact coreKeep_same fun _ => rfl | dsimp only [memOk_mk, mOk_mem, memOk_fst, memOk_snd, pairOk_mk, pairOkR_mk, optOk1_some, exOk_ok] | apply modCore_keeps | split)
theorem ptDiscard_keeps (s : State) (c : Nat) (sc : Scope) (kind : Nat) (va : Nat) (asid : Nat) (hs : MemOk s) : PairOk (ptDiscard s c sc kind va asid) := by
  have h1 := keep_foldl (f := fun s x => if ptIn c sc x.1 then ptFills s kind va asid x.1 else s)
    (fun s (x : Nat × Core) hs => by split; exact ptFills_keeps _ _ _ _ _ hs; exact hs) s.cores s hs
  exact mOk_cores h1 (cores_map h1.2.2 fun x hx => by split <;> exact hx)
theorem takeEntry_keeps (s : State) (hs : MemOk s) : PairOkR (takeEntry s) := by
  unfold takeEntry; with_reducible repeat' (first | assumption | dsimp only [memOk_mk, mOk_mem, memOk_fst, memOk_snd, pairOk_mk, pairOkR_mk, optOk1_some, exOk_ok] | apply endWalks_keeps | apply ptDiscard_keeps | split)
theorem clearPred_keeps (s : State) (tid : Nat) (hs : MemOk s) : MemOk (clearPred s tid) := hs
theorem advanceTasks_keeps (s : State) (hs : MemOk s) : MemOk (advanceTasks s) := hs
theorem modTask_keeps (s : State) (a : Nat) (f : Task → Task) (hs : MemOk s) : MemOk (modTask s a f) := hs
theorem finishTask_keeps (s : State) (a : Nat) (hs : MemOk s) : MemOk (finishTask s a) := by
  unfold finishTask; with_reducible repeat' (first | assumption | dsimp only [memOk_mk, mOk_mem, memOk_fst, memOk_snd, pairOk_mk, pairOkR_mk, optOk1_some, exOk_ok] | apply clearPred_keeps | apply advanceTasks_keeps | apply modTask_keeps | split)
theorem placeStore_keeps (s : State) (p : Place) (rbit : Bool) (v : W64) (tid : Nat) (hs : MemOk s) : MemOk (placeStore s p rbit v tid) := by
  unfold placeStore; with_reducible repeat' (first | assumption | dsimp only [memOk_mk, mOk_mem, memOk_fst, memOk_snd, pairOk_mk, pairOkR_mk, optOk1_some, exOk_ok] | apply dramAccess_keeps | apply writeLost_keeps | apply addReq_keeps | refine pair_of (by assumption) ?_ | split)
theorem writeRecord_keeps (s : State) (t : Task) (energy : Nat) (hs : MemOk s) : MemOk (writeRecord s t energy) := by
  unfold writeRecord; with_reducible repeat' (first | assumption | apply placeStore_keeps)
theorem completeTask_keeps (s : State) (a : Nat) (status : Nat) (energy : Nat) (hs : MemOk s) : MemOk (completeTask s a status energy) := by
  unfold completeTask; with_reducible repeat' (first | assumption | dsimp only [memOk_mk, mOk_mem, memOk_fst, memOk_snd, pairOk_mk, pairOkR_mk, optOk1_some, exOk_ok] | apply finishTask_keeps | apply writeRecord_keeps | apply modTask_keeps | split)
theorem acceptTask_keeps (s : State) (home : Nat) (seg : W128) (m : Mem) (d : Nat) (compl : Place × Bool) (hs : MemOk s) : PairOkR (acceptTask s home seg m d compl) := by
  unfold acceptTask; with_reducible repeat' (first | assumption | dsimp only [memOk_mk, mOk_mem, memOk_fst, memOk_snd, pairOk_mk, pairOkR_mk, optOk1_some, exOk_ok] | apply takeEntry_keeps | apply completeTask_keeps | apply modTask_keeps | apply advanceTasks_keeps | split)
theorem launchStep_keeps (x0 : Nat) (x1 : State) (x2 : Nat) (x3 : Txn) (x4 : Reg) (x5 : Fin 8) (x6 : Nat) (x7 : Nat) (hx1 : MemOk x1) : MemOk (launchStep x0 x1 x2 x3 x4 x5 x6 x7) := by
  induction x0 generalizing x1 x2 x3 x4 x5 x6 x7 with
  | zero => unfold launchStep; with_reducible repeat' (first | assumption | apply ih | dsimp only [memOk_mk, mOk_mem, memOk_fst, memOk_snd, pairOk_mk, pairOkR_mk, optOk1_some, exOk_ok] | apply makeReady_keeps | apply modFib_keeps | apply modTxns_keeps | apply faultBack_keeps | apply advanceTxn_keeps | apply resolveVa_keeps | apply dropHeld_keeps | apply setWait_keeps | apply startWalk_keeps | apply acceptTask_keeps | refine pair_of (by assumption) ?_ | split)
  | succ n_ ih =>
    unfold launchStep; with_reducible repeat' (first | assumption | apply ih | dsimp only [memOk_mk, mOk_mem, memOk_fst, memOk_snd, pairOk_mk, pairOkR_mk, optOk1_some, exOk_ok] | apply makeReady_keeps | apply modFib_keeps | apply modTxns_keeps | apply faultBack_keeps | apply advanceTxn_keeps | apply resolveVa_keeps | apply dropHeld_keeps | apply setWait_keeps | apply startWalk_keeps | apply acceptTask_keeps | refine pair_of (by assumption) ?_ | split)
theorem finishTxn_keeps (s : State) (id_ : Nat) (t : Txn) (hs : MemOk s) : MemOk (finishTxn s id_ t) := by
  unfold finishTxn; with_reducible repeat' (first | assumption | dsimp only [memOk_mk, mOk_mem, memOk_fst, memOk_snd, pairOk_mk, pairOkR_mk, optOk1_some, exOk_ok] | with_unfolding_all exact core_ok (by assumption) _ | (rw [TileOk, loadSlot_tile (by assumption)]) | apply doneTxn_keeps | apply modMx_keeps | apply fwalkNext_keeps | apply loadDtab_keeps | apply setCore_keeps | apply failTxn_keeps | apply loadXtab_keeps | apply gkBind_keeps | apply gkUnbind_keeps | apply launchStep_keeps | apply answerPacket_keeps | apply modTxns_keeps | split)
theorem landLatches_keeps (s : State) (c : Nat) (hs : MemOk s) : MemOk (landLatches s c) := by
  unfold landLatches; with_reducible repeat' (first | assumption | intro _ | dsimp only | refine keep_foldl ?_ _ _ ?_ | apply finishTxn_keeps | apply modMx_keeps | split)
theorem answerMarks_keeps (s : State) (id_ : Nat) (r : Req) (a : Answer) (hs : MemOk s) : MemOk (answerMarks s id_ r a) := by
  unfold answerMarks; with_reducible repeat' (first | assumption | with_unfolding_all exact coreKeep_same fun _ => rfl | dsimp only [memOk_mk, mOk_mem, memOk_fst, memOk_snd, pairOk_mk, pairOkR_mk, optOk1_some, exOk_ok] | apply modCore_keeps | split)
theorem answerReq_keeps (s : State) (id_ : Nat) (a : Answer) (hs : MemOk s) : MemOk (answerReq s id_ a) := by
  unfold answerReq; with_reducible repeat' (first | assumption | dsimp only [memOk_mk, mOk_mem, memOk_fst, memOk_snd, pairOk_mk, pairOkR_mk, optOk1_some, exOk_ok] | apply answerMarks_keeps | apply modReqs_keeps | split)
theorem hostReply_keeps (s : State) (id_ : Nat) (r : Req) (ha : Nat) (cached : Bool) (grantE : Bool) (x6 : Option W512) (hs : MemOk s) : MemOk (hostReply s id_ r ha cached grantE x6) := by
  unfold hostReply; with_reducible repeat' (first | assumption | dsimp only [memOk_mk, mOk_mem, memOk_fst, memOk_snd, pairOk_mk, pairOkR_mk, optOk1_some, exOk_ok] | apply answerReq_keeps | split)
theorem takeCredit_keeps (s : State) (who : Issuer) (x2 : Option Nat) (hs : MemOk s) : MemOk (takeCredit s who x2) := by
  unfold takeCredit; with_reducible repeat' (first | assumption | apply modFib_keeps | apply modQ_keeps | split)
theorem noteRound_keeps (s : State) (fl : BitVec 5) (n : Nat) (hs : MemOk s) : MemOk (noteRound s fl n) := by
  unfold noteRound; with_reducible repeat' (first | assumption | dsimp only [memOk_mk, mOk_mem, memOk_fst, memOk_snd, pairOk_mk, pairOkR_mk, optOk1_some, exOk_ok] | apply modMe_keeps | split)
theorem floatOp_keeps (i : Instr) (p : PReg) (d : Reg) (n : Nat) (s : State) (res : State → RMode → FRes) (wide : Nat → W64) (hs : MemOk s) : OutOk (floatOp i p d n s res wide) := by
  unfold floatOp; with_reducible repeat' (first | assumption | intro _ | dsimp only [memOk_mk, mOk_mem, memOk_fst, memOk_snd, pairOk_mk, pairOkR_mk, optOk1_some, exOk_ok] | apply run_keeps | apply capture_keeps | apply wr_keeps | apply noteRound_keeps | split)
theorem execFadd_keeps (p : PReg) (d : Reg) (a : Reg) (b : Reg) (s : State) (hs : MemOk s) : OutOk (execFadd p d a b s) := by
  unfold execFadd; with_reducible repeat' (first | assumption | apply floatOp_keeps)
theorem writeElem_keeps (s : State) (c : Nat) (e : Nat) (x : Cmd) (elem : Nat) (v : W64) (hs : MemOk s) : MemOk (writeElem s c e x elem v) := by
  unfold writeElem; with_reducible repeat' (first | assumption | dsimp only | apply elemFault_keeps | apply sendElem_keeps | split)
theorem dropOlder_keeps (s : State) (c : Nat) (atom : Nat) (before : List Nat) (hs : MemOk s) : MemOk (dropOlder s c atom before) := by
  unfold dropOlder; with_reducible repeat' (first | assumption | with_unfolding_all exact coreKeep_same fun _ => rfl | dsimp only [memOk_mk, mOk_mem, memOk_fst, memOk_snd, pairOk_mk, pairOkR_mk, optOk1_some, exOk_ok] | apply modCore_keeps | split)
theorem readReturns_keeps (s : State) (id_ : Nat) (r : Req) (hs : MemOk s) : MemOk (readReturns s id_ r) := by
  unfold readReturns; with_reducible repeat' (first | assumption | dsimp only [memOk_mk, mOk_mem, memOk_fst, memOk_snd, pairOk_mk, pairOkR_mk, optOk1_some, exOk_ok] | apply dropOlder_keeps | split)
theorem take_keeps (s : State) (i : Instr) (hs : MemOk s) : PairOkR (take s i) := by
  unfold take; with_reducible repeat' (first | assumption | dsimp only [memOk_mk, mOk_mem, memOk_fst, memOk_snd, pairOk_mk, pairOkR_mk, optOk1_some, exOk_ok] | apply hold_keeps | split)
theorem dqValue_keeps (s : State) (c : Nat) (slot : Nat) (loc : Loc) (n : Nat) (hs : MemOk s) : PairOk (dqValue s c slot loc n) := by
  unfold dqValue; with_reducible repeat' (first | assumption | dsimp only [memOk_mk, mOk_mem, memOk_fst, memOk_snd, pairOk_mk, pairOkR_mk, optOk1_some, exOk_ok] | apply forward_keeps | apply bumpEv_keeps | refine opt_of1 (by assumption) ?_ | split)
theorem resendList_keeps (s : State) (who : Issuer) (x2 : List Nat) (hs : MemOk s) : PairOk (resendList s who x2) := by
  induction x2 generalizing s who with
  | nil => exact hs
  | cons x_ l_ ih =>
    unfold resendList; with_reducible repeat' (first | assumption | apply ih | dsimp only [memOk_mk, mOk_mem, memOk_fst, memOk_snd, pairOk_mk, pairOkR_mk, optOk1_some, exOk_ok] | apply modQ_keeps | apply dqValue_keeps | apply resolve_keeps | apply addReq_keeps | apply missOf_keeps | refine pair_of (by assumption) ?_ | split)
theorem resendFault_keeps (s : State) (who : Issuer) (k : Nat) (e : Nat) (er : Err) (hs : MemOk s) : MemOk (resendFault s who k e er) := by
  unfold resendFault; with_reducible repeat' (first | assumption | apply modQ_keeps | apply takeFault_keeps | apply modFib_keeps | split)
theorem resendHeads_keeps (s : State) (who : Issuer) (k : Nat) (hs : MemOk s) : MemOk (resendHeads s who k) := by
  unfold resendHeads; with_reducible repeat' (first | assumption | apply resendList_keeps | apply makeReady_keeps | apply setWait_keeps | apply startWalk_keeps | apply resendFault_keeps | refine pair_of (by assumption) ?_ | split)
theorem addUnack_keeps (s : State) (c : Nat) (slot : Nat) (f : Nat → Nat) (hs : MemOk s) : MemOk (addUnack s c slot f) := by
  unfold addUnack; with_reducible repeat' (first | assumption | dsimp only [memOk_mk, mOk_mem, memOk_fst, memOk_snd, pairOk_mk, pairOkR_mk, optOk1_some, exOk_ok] | apply modFib_keeps | split)
theorem modSb_keeps (s : State) (c : Nat) (f : NMap SbEntry → NMap SbEntry) (hs : MemOk s) : MemOk (modSb s c f) := by
  unfold modSb; with_reducible repeat' (first | assumption | with_unfolding_all exact coreKeep_same fun _ => rfl | dsimp only [memOk_mk, mOk_mem, memOk_fst, memOk_snd, pairOk_mk, pairOkR_mk, optOk1_some, exOk_ok] | apply modCore_keeps | split)
theorem sbWithdraw_keeps (s : State) (c : Nat) (slot : Nat) (grp : Nat) (hs : MemOk s) : MemOk (sbWithdraw s c slot grp) := by
  unfold sbWithdraw; with_reducible repeat' (first | assumption | dsimp only [memOk_mk, mOk_mem, memOk_fst, memOk_snd, pairOk_mk, pairOkR_mk, optOk1_some, exOk_ok] | apply addUnack_keeps | apply modSb_keeps | split)
theorem dropOnce_keeps (s : State) (c : Nat) (slot : Nat) (hs : MemOk s) : MemOk (dropOnce s c slot) := by
  unfold dropOnce; with_reducible repeat' (first | assumption | with_unfolding_all exact coreKeep_same fun _ => rfl | dsimp only [memOk_mk, mOk_mem, memOk_fst, memOk_snd, pairOk_mk, pairOkR_mk, optOk1_some, exOk_ok] | apply modCore_keeps | split)
theorem fetchFault_keeps (s : State) (who : Issuer) (e : Err) (hs : MemOk s) : MemOk (fetchFault s who e) := by
  unfold fetchFault; with_reducible repeat' (first | assumption | dsimp only [memOk_mk, mOk_mem, memOk_fst, memOk_snd, pairOk_mk, pairOkR_mk, optOk1_some, exOk_ok] | apply takeFault_keeps | apply dropOnce_keeps | split)
theorem dropPf_keeps (s : State) (c : Nat) (hs : MemOk s) : MemOk (dropPf s c) := by
  unfold dropPf; with_reducible repeat' (first | assumption | apply bumpEv_keeps | split)
theorem modPf_keeps (s : State) (c : Nat) (f : List Nat → List Nat) (hs : MemOk s) : MemOk (modPf s c f) := by
  unfold modPf; with_reducible repeat' (first | assumption | with_unfolding_all exact coreKeep_same fun _ => rfl | dsimp only [memOk_mk, mOk_mem, memOk_fst, memOk_snd, pairOk_mk, pairOkR_mk, optOk1_some, exOk_ok] | apply modCore_keeps | split)
theorem walkFault_keeps (s : State) (w : WalkReq) (e : Err) (hs : MemOk s) : MemOk (walkFault s w e) := by
  unfold walkFault; with_reducible repeat' (first | assumption | dsimp only | apply failTxn_keeps | apply faultBack_keeps | apply sbWithdraw_keeps | apply takeFault_keeps | apply dropHeld_keeps | apply resendFault_keeps | apply fetchFault_keeps | apply dropPf_keeps | apply modPf_keeps | apply elemFault_keeps | split)
theorem writeChunk_keeps (s : State) (x : Chunk) (hs : MemOk s) : MemOk (writeChunk s x) := by
  unfold writeChunk; with_reducible repeat' (first | assumption | intro _ | dsimp only [memOk_mk, mOk_mem, memOk_fst, memOk_snd, pairOk_mk, pairOkR_mk, optOk1_some, exOk_ok] | refine keep_iter ?_ _ _ ?_ | apply dramAccess_keeps)
theorem parkRange_keeps (s : State) (i : Instr) (off : Nat) (n : Nat) (hs : MemOk s) : PairOk (parkRange s i off n) := by
  unfold parkRange; with_reducible repeat' (first | assumption | apply parkHere_keeps)
theorem parkOn_keeps (s : State) (i : Instr) (why : Park) (w : Wait) (hs : MemOk s) : PairOk (parkOn s i why w) := by
  unfold parkOn; with_reducible repeat' (first | assumption | dsimp only [memOk_mk, mOk_mem, memOk_fst, memOk_snd, pairOk_mk, pairOkR_mk, optOk1_some, exOk_ok] | apply faultHere_keeps | apply parkFib_keeps | split)
theorem sendOff_keeps (s : State) (i : Instr) (dst : Dst) (size : Nat) (acq : Bool) (ps : List Piece) (hs : MemOk s) : PairOk (sendOff s i dst size acq ps) := by
  unfold sendOff; with_reducible repeat' (first | assumption | dsimp only [memOk_mk, mOk_mem, memOk_fst, memOk_snd, pairOk_mk, pairOkR_mk, optOk1_some, exOk_ok] | apply faultHere_keeps | apply plan_keeps | apply newTxn_keeps | apply parkOn_keeps | apply launch_keeps | apply startWalk_keeps | split)
theorem rmwIssue_keeps (s : State) (i : Instr) (loc : Loc) (acc : Acc1) (dst : Dst) (fin : State → Nat → State × Flow) (hfin : ∀ s n, MemOk s → PairOk (fin s n)) (hs : MemOk s) : PairOk (rmwIssue s i loc acc dst fin) := by
  unfold rmwIssue; with_reducible repeat' (first | assumption | apply hfin | dsimp only [memOk_mk, mOk_mem, memOk_fst, memOk_snd, pairOk_mk, pairOkR_mk, optOk1_some, exOk_ok] | apply parkRange_keeps | apply tileDo_keeps | apply faultHere_keeps | apply sendOff_keeps | apply dropRow_keeps | split)
theorem execAmo_keeps (d : Reg) (sg : Fin 8) (base : Reg) (b : Reg) (op : AmoOp) (esz : Esz) (s : State) (hs : MemOk s) : OutOk (execAmo d sg base b op esz s) := by
  unfold execAmo; with_reducible repeat' (first | assumption | intro _ | dsimp only [memOk_mk, mOk_mem, memOk_fst, memOk_snd, pairOk_mk, pairOkR_mk, optOk1_some, exOk_ok] | apply run_keeps | apply faultHere_keeps | apply rmwIssue_keeps | apply wr_keeps | split)
theorem execAndImm_keeps (p : PReg) (d : Reg) (a : Reg) (imm : BitVec 10) (s : State) (hs : MemOk s) : OutOk (execAndImm p d a imm s) := by
  unfold execAndImm; with_reducible repeat' (first | assumption | apply aluOp_keeps)
theorem execStatusReport_keeps (io : Int) (modl : Int) (s : State) (hs : MemOk s) : OutOk (execStatusReport io modl s) := by
  unfold execStatusReport; with_reducible repeat' (first | assumption | dsimp only [memOk_mk, mOk_mem, memOk_fst, memOk_snd, pairOk_mk, pairOkR_mk, optOk1_some, exOk_ok] | apply outOk_next | apply sendStatus_keeps | apply moduleTemp_keeps | apply setTemp_keeps | split)
theorem cmdAbort_keeps (s : State) (c : Nat) (e : Nat) (hs : MemOk s) : MemOk (cmdAbort s c e) := by
  unfold cmdAbort; with_reducible repeat' (first | assumption | dsimp only [memOk_mk, mOk_mem, memOk_fst, memOk_snd, pairOk_mk, pairOkR_mk, optOk1_some, exOk_ok] | apply modCmd_keeps | split)
theorem abortDiverged_keeps (s : State) (c : Nat) (hs : MemOk s) : MemOk (abortDiverged s c) := by
  unfold abortDiverged; with_reducible repeat' (first | assumption | intro _ | dsimp only | refine keep_foldl ?_ _ _ ?_ | apply cmdAbort_keeps | split)
theorem thaw_keeps (s : State) (c : Nat) (hs : MemOk s) : MemOk (thaw s c) := by
  unfold thaw; with_reducible repeat' (first | assumption | with_unfolding_all exact coreKeep_same fun _ => rfl | dsimp only [memOk_mk, mOk_mem, memOk_fst, memOk_snd, pairOk_mk, pairOkR_mk, optOk1_some, exOk_ok] | apply modCore_keeps | split)
theorem delFib_keeps (s : State) (c : Nat) (slot : Nat) (hs : MemOk s) : MemOk (delFib s c slot) := by
  unfold delFib; with_reducible repeat' (first | assumption | with_unfolding_all exact coreKeep_same fun _ => rfl | dsimp only [memOk_mk, mOk_mem, memOk_fst, memOk_snd, pairOk_mk, pairOkR_mk, optOk1_some, exOk_ok] | apply modCore_keeps | split)
theorem endHandler_keeps (s : State) (c : Nat) (v : Option W64) (hs : MemOk s) : MemOk (endHandler s c v) := by
  unfold endHandler; with_reducible repeat' (first | assumption | with_unfolding_all exact coreKeep_same fun _ => rfl | dsimp only [memOk_mk, mOk_mem, memOk_fst, memOk_snd, pairOk_mk, pairOkR_mk, optOk1_some, exOk_ok] | apply postMsg_keeps | apply delFib_keeps | apply modCore_keeps | split)
theorem skipFrozen_keeps (s : State) (c : Nat) (slot : Nat) (hs : MemOk s) : MemOk (skipFrozen s c slot) := by
  unfold skipFrozen; with_reducible repeat' (first | assumption | dsimp only [memOk_mk, mOk_mem, memOk_fst, memOk_snd, pairOk_mk, pairOkR_mk, optOk1_some, exOk_ok] | apply modFib_keeps | split)
theorem reportStop_keeps (s : State) (c : Nat) (e : Nat) (x : Cmd) (er : Err) (g3 : Nat) (hs : MemOk s) : MemOk (reportStop s c e x er g3) := by
  unfold reportStop; with_reducible repeat' (first | assumption | dsimp only [memOk_mk, mOk_mem, memOk_fst, memOk_snd, pairOk_mk, pairOkR_mk, optOk1_some, exOk_ok] | apply appendRec_keeps | apply entryViolates_keeps | apply modQ_keeps | split)
theorem releaseCore_keeps (s : State) (skip : Bool) (c : Nat) (hs : MemOk s) : MemOk (releaseCore s skip c) := by
  unfold releaseCore; with_reducible repeat' (first | assumption | dsimp only | apply abortDiverged_keeps | apply thaw_keeps | apply endHandler_keeps | apply skipFrozen_keeps | apply reportStop_keeps | split)
theorem execXorImm_keeps (p : PReg) (d : Reg) (a : Reg) (imm : BitVec 10) (s : State) (hs : MemOk s) : OutOk (execXorImm p d a imm s) := by
  unfold execXorImm; with_reducible repeat' (first | assumption | apply aluOp_keeps)
theorem execPfx_keeps (imm : BitVec 23) (s : State) (hs : MemOk s) : OutOk (execPfx imm s) := by
  unfold execPfx; with_reducible repeat' (first | assumption | intro _ | dsimp only [memOk_mk, mOk_mem, memOk_fst, memOk_snd, pairOk_mk, pairOkR_mk, optOk1_some, exOk_ok] | apply run_keeps)
theorem scratchDo_keeps (s : State) (a : Nat) (acc : Acc1) (hs : MemOk s) : PairOk (scratchDo s a acc) := by
  unfold scratchDo; with_reducible repeat' (first | assumption | dsimp only [memOk_mk, mOk_mem, memOk_fst, memOk_snd, pairOk_mk, pairOkR_mk, optOk1_some, exOk_ok] | apply mOk_scratch | split)
theorem locWrite_keeps (s : State) (asid : Nat) (loc : Loc) (n : Nat) (v : Nat) (hs : MemOk s) : MemOk (locWrite s asid loc n v) := by
  unfold locWrite; with_reducible repeat' (first | assumption | dsimp only [memOk_mk, mOk_mem, memOk_fst, memOk_snd, pairOk_mk, pairOkR_mk, optOk1_some, exOk_ok] | apply tileStore_keeps | apply scratchDo_keeps | apply walkTables_keeps | apply orLeaf_keeps | apply dramAccess_keeps | apply writeLost_keeps | apply modHost_keeps | refine pair_of (by assumption) ?_ | split)
theorem rangeWrite_keeps (s : State) (asid : Nat) (loc : Loc) (n : Nat) (m : Mem) (hs : MemOk s) : MemOk (rangeWrite s asid loc n m) := by
  unfold rangeWrite; with_reducible repeat' (first | assumption | intro _ | dsimp only | refine keep_foldl ?_ _ _ ?_ | apply locWrite_keeps)
theorem execCall_keeps (imm : BitVec 23) (s : State) (hs : MemOk s) : OutOk (execCall imm s) := by
  unfold execCall; with_reducible repeat' (first | assumption | intro _ | dsimp only [memOk_mk, mOk_mem, memOk_fst, memOk_snd, pairOk_mk, pairOkR_mk, optOk1_some, exOk_ok] | apply run_keeps | apply wr_keeps)
theorem sendRow_keeps (s : State) (c : Nat) (e : Nat) (x : Cmd) (elem : Nat) (dev : Nat) (table : Nat) (id_ : Nat) (soff : Nat) (acc : Acc1) (dst : Option Nat) (bytes : List Byte) (hs : MemOk s) : MemOk (sendRow s c e x elem dev table id_ soff acc dst bytes) := by
  unfold sendRow; with_reducible repeat' (first | assumption | dsimp only [memOk_mk, mOk_mem, memOk_fst, memOk_snd, pairOk_mk, pairOkR_mk, optOk1_some, exOk_ok] | apply addReq_keeps | apply modCmd_keeps)
theorem walkAhead_keeps (s : State) (c : Nat) (e : Nat) (x : Cmd) (va : Nat) (hs : MemOk s) : MemOk (walkAhead s c e x va) := by
  unfold walkAhead; with_reducible repeat' (first | assumption | dsimp only | apply startWalk_keeps | split)
theorem lookAhead_keeps (s : State) (c : Nat) (e : Nat) (x : Cmd) (elem : Nat) (places : State → Nat → List Loc) (hs : MemOk s) : MemOk (lookAhead s c e x elem places) := by
  unfold lookAhead; with_reducible repeat' (first | assumption | intro _ | dsimp only [memOk_mk, mOk_mem, memOk_fst, memOk_snd, pairOk_mk, pairOkR_mk, optOk1_some, exOk_ok] | refine keep_foldl ?_ _ _ ?_ | refine keep_iter ?_ _ _ ?_ | apply walkAhead_keeps | split)
theorem rowElem_keeps (s : State) (c : Nat) (e : Nat) (x : Cmd) (elem : Nat) (hs : MemOk s) : MemOk (rowElem s c e x elem) := by
  unfold rowElem; with_reducible repeat' (first | assumption | dsimp only | apply elemFault_keeps | apply sendRow_keeps | apply sendElem_keeps | split)
theorem rowStep_keeps (s : State) (c : Nat) (e : Nat) (x : Cmd) (elem : Nat) (hs : MemOk s) : MemOk (rowStep s c e x elem) := by
  unfold rowStep; with_reducible repeat' (first | assumption | dsimp only [memOk_mk, mOk_mem, memOk_fst, memOk_snd, pairOk_mk, pairOkR_mk, optOk1_some, exOk_ok] | apply lookAhead_keeps | apply rowElem_keeps | split)
theorem wrV_keeps (s : State) (v : VReg) (x : W512) (hs : MemOk s) : MemOk (wrV s v x) := by
  unfold wrV; with_reducible repeat' (first | assumption | dsimp only [memOk_mk, mOk_mem, memOk_fst, memOk_snd, pairOk_mk, pairOkR_mk, optOk1_some, exOk_ok] | apply modMe_keeps | split)
theorem endFabric_keeps (s : State) (id_ : Nat) (hs : MemOk s) : MemOk (endFabric s id_) := by
  unfold endFabric; with_reducible repeat' (first | assumption | dsimp only [memOk_mk, mOk_mem, memOk_fst, memOk_snd, pairOk_mk, pairOkR_mk, optOk1_some, exOk_ok] | apply answerReq_keeps | split)
theorem endFenced_keeps (s : State) (port : Nat) (hs : MemOk s) : MemOk (endFenced s port) := by
  unfold endFenced; with_reducible repeat' (first | assumption | intro _ | dsimp only | refine keep_foldl ?_ _ _ ?_ | apply endFabric_keeps | split)
theorem execUnfence_keeps (port : Nat) (s : State) (hs : MemOk s) : OutOk (execUnfence port s) := by
  unfold execUnfence; with_reducible repeat' (first | assumption | dsimp only [memOk_mk, mOk_mem, memOk_fst, memOk_snd, pairOk_mk, pairOkR_mk, optOk1_some, exOk_ok] | apply outOk_next | apply hold_keeps | apply replyStatus_keeps | apply endFenced_keeps | split)
theorem regOp_keeps (i : Instr) (d : Reg) (s : State) (res : State → W64) (hs : MemOk s) : OutOk (regOp i d s res) := by
  unfold regOp; with_reducible repeat' (first | assumption | intro _ | dsimp only [memOk_mk, mOk_mem, memOk_fst, memOk_snd, pairOk_mk, pairOkR_mk, optOk1_some, exOk_ok] | apply run_keeps | apply wr_keeps)
theorem execDqCnt_keeps (d : Reg) (s : State) (hs : MemOk s) : OutOk (execDqCnt d s) := by
  unfold execDqCnt; with_reducible repeat' (first | assumption | apply regOp_keeps)
theorem execSubImm_keeps (p : PReg) (d : Reg) (a : Reg) (imm : BitVec 10) (s : State) (hs : MemOk s) : OutOk (execSubImm p d a imm s) := by
  unfold execSubImm; with_reducible repeat' (first | assumption | apply aluOp_keeps)
theorem counterWait_keeps (s : State) (i : Instr) (ok : Bool) (w : Wait) (hs : MemOk s) : PairOk (counterWait s i ok w) := by
  unfold counterWait; with_reducible repeat' (first | assumption | dsimp only [memOk_mk, mOk_mem, memOk_fst, memOk_snd, pairOk_mk, pairOkR_mk, optOk1_some, exOk_ok] | apply wrP_keeps | apply parkHere_keeps | apply startTimer_keeps | split)
theorem ringStart_keeps (s : State) (id_ : Nat) (r : RingOp) (hs : MemOk s) : MemOk (ringStart s id_ r) := by
  unfold ringStart; with_reducible repeat' (first | assumption | intro _ | dsimp only [memOk_mk, mOk_mem, memOk_fst, memOk_snd, pairOk_mk, pairOkR_mk, optOk1_some, exOk_ok] | refine keep_foldl ?_ _ _ ?_ | apply modMx_keeps)
theorem ringsStart_keeps (s : State) (hs : MemOk s) : MemOk (ringsStart s) := by
  unfold ringsStart; with_reducible repeat' (first | assumption | intro _ | dsimp only | refine keep_foldl ?_ _ _ ?_ | apply ringStart_keeps | split)
theorem ringReady_keeps (s : State) (id_ : Nat) (r : RingOp) (hs : MemOk s) : MemOk (ringReady s id_ r) := by
  unfold ringReady; with_reducible repeat' (first | assumption | intro _ | dsimp only | refine keep_foldl ?_ _ _ ?_ | apply makeReady_keeps | split)
theorem ringEnd_keeps (s : State) (id_ : Nat) (r : RingOp) (hs : MemOk s) : MemOk (ringEnd s id_ r) := by
  unfold ringEnd; with_reducible repeat' (first | assumption | intro _ | dsimp only [memOk_mk, mOk_mem, memOk_fst, memOk_snd, pairOk_mk, pairOkR_mk, optOk1_some, exOk_ok] | refine keep_foldl ?_ _ _ ?_ | apply ringsStart_keeps | apply landLatches_keeps | apply ringReady_keeps)
theorem rotateLatches_keeps (s : State) (r : RingOp) (hs : MemOk s) : MemOk (rotateLatches s r) := by
  unfold rotateLatches; with_reducible repeat' (first | assumption | intro _ | dsimp only | refine keep_foldl ?_ _ _ ?_ | apply modMx_keeps)
theorem execMrotComplete_keeps (id_ : Nat) (s : State) (hs : MemOk s) : OutOk (execMrotComplete id_ s) := by
  unfold execMrotComplete; with_reducible repeat' (first | assumption | apply outOk_next | apply ringEnd_keeps | apply rotateLatches_keeps | split)
theorem physStore_keeps (s : State) (pa : Nat) (v : W64) (hs : MemOk s) : MemOk (physStore s pa v) := by
  unfold physStore; with_reducible repeat' (first | assumption | apply placeStore_keeps | split)
theorem readSecs_keeps (s : State) (t : Task) (hs : MemOk s) : PairOk (readSecs s t) := by
  unfold readSecs; with_reducible repeat' (first | assumption | intro _ | dsimp only [memOk_mk, mOk_mem, memOk_fst, memOk_snd, pairOk_mk, pairOkR_mk, optOk1_some, exOk_ok] | refine keep_foldl1 ?_ _ _ ?_ | apply rangeRead_keeps | refine pair_of (by assumption) ?_ | split)
theorem vacate_keeps (s : State) (c : Nat) (hs : MemOk s) : MemOk (vacate s c) := by
  unfold vacate; with_reducible repeat' (first | assumption | dsimp only [memOk_mk, mOk_mem, memOk_fst, memOk_snd, pairOk_mk, pairOkR_mk, optOk1_some, exOk_ok] | with_unfolding_all exact core_ok (by assumption) _ | apply setCore_keeps | split)
theorem endAtDispatch_keeps (s : State) (a : Nat) (t : Task) (hs : MemOk s) : MemOk (endAtDispatch s a t) := by
  unfold endAtDispatch; with_reducible repeat' (first | assumption | intro _ | dsimp only | refine keep_foldl ?_ _ _ ?_ | apply completeTask_keeps | apply modTask_keeps | apply vacate_keeps)
theorem resetXtab_keeps (s : State) (cl : Nat) (hs : MemOk s) : MemOk (resetXtab s cl) := hs
theorem loadCrews_keeps (s : State) (a : Nat) (t : Task) (bases : List Nat) (l : List (Sec × Mem)) (hs : MemOk s) : MemOk (loadCrews s a t bases l) := by
  unfold loadCrews
  exact keep_foldl (fun s y h => setCore_keeps _ _ _ (freshCore_ok _ _ _ _ _ _ _ _) h) _ _ (keep_foldl (fun s c h => resetXtab_keeps s c h) _ _ hs)
theorem writeImages_keeps (s : State) (a : Nat) (t : Task) (bases : List Nat) (l : List (Sec × Mem)) (hs : MemOk s) : MemOk (writeImages s a t bases l) := by
  unfold writeImages; with_reducible repeat' (first | assumption | intro _ | dsimp only | refine keep_foldl ?_ _ _ ?_ | apply rangeWrite_keeps | split)
theorem alsoDo_keeps (p : State × Bool) (go : State → State × Bool) (hgo : ∀ s, MemOk s → PairOk (go s)) (hp : PairOk p) : PairOk (alsoDo p go) := by
  exact hgo _ hp
theorem readBlockOf_keeps (s : State) (t : Task) (j : Nat) (c : Nat) (k : Core) (hs : MemOk s) : PairOk (readBlockOf s t j c k) := by
  unfold readBlockOf; with_reducible repeat' (first | assumption | intro _ | dsimp only [memOk_mk, mOk_mem, memOk_fst, memOk_snd, pairOk_mk, pairOkR_mk, optOk1_some, exOk_ok] | refine keep_iter1 ?_ _ _ ?_ | apply locRead_keeps | refine pair_of (by assumption) ?_ | split)
theorem putBack_keeps (old t : Task) (a j : Nat) (x : Seat) (c : Nat) (s : State) (k : Core) (hk : TileOk k) (hs : MemOk s) : MemOk (putBack s old t a j x c k) := by
  exact setCore_keeps _ _ _ hk hs
theorem readBlockOf_ok (s : State) (t : Task) (j c : Nat) (k : Core) : TileOk (readBlockOf s t j c k).2.1 := by
  unfold readBlockOf
  refine iter_inv (P := fun p : State × Core × Bool => TileOk p.2.1) (fun i p hp => ?_) _ _ rfl
  split
  · exact blockPut_ok _ _ _ hp
  · exact hp
theorem restoreCore_keeps (s : State) (old : Task) (t : Task) (a : Nat) (j : Nat) (x : Seat) (c : Nat) (k : Core) (hs : MemOk s) : PairOk (restoreCore s old t a j x c k) := by
  exact putBack_keeps _ _ _ _ _ _ _ _ (readBlockOf_ok s t j c k) (readBlockOf_keeps s t j c k hs)
theorem restoreScratch_keeps (s : State) (t : Task) (hs : MemOk s) : PairOk (restoreScratch s t) := by
  unfold restoreScratch
  refine keep_foldl1 (fun p x hp => ?_) _ _ hs
  dsimp only
  split
  · have h := pair_of ‹_› (rangeRead_keeps _ _ _ _ hp)
    exact ⟨h.1, Mem.wf_paste _ _ (Mem.wf_clear _ _ h.2.1), h.2.2⟩
  · exact pair_of ‹_› (rangeRead_keeps _ _ _ _ hp)
theorem reloadXtabs_keeps (s : State) (t : Task) (hs : MemOk s) : PairOk (reloadXtabs s t) := by
  unfold reloadXtabs; with_reducible repeat' (first | assumption | intro _ | dsimp only [memOk_mk, mOk_mem, memOk_fst, memOk_snd, pairOk_mk, pairOkR_mk, optOk1_some, exOk_ok] | refine keep_foldl ?_ _ _ ?_ | refine keep_foldl1 ?_ _ _ ?_ | apply rangeRead_keeps | apply loadXtab_keeps | apply resetXtab_keeps | refine pair_of (by assumption) ?_ | split)
theorem reloadTabs_keeps (s : State) (t : Task) (c : Nat) (hs : MemOk s) : PairOk (reloadTabs s t c) := by
  have fin : ∀ {l : List (Nat × Nat × Loc)} {f : State × Core × Bool → Nat × Nat × Loc → State × Core × Bool} {p : State × Core × Bool},
      (∀ b a, MemOk b.1 ∧ TileOk b.2.1 → MemOk (f b a).1 ∧ TileOk (f b a).2.1) → MemOk p.1 ∧ TileOk p.2.1 →
      MemOk (setCore (l.foldl f p).1 c (l.foldl f p).2.1) := fun hf hp =>
    have h := foldl_holds (P := fun p : State × Core × Bool => MemOk p.1 ∧ TileOk p.2.1) hf _ _ hp
    setCore_keeps _ _ _ h.2 h.1
  unfold reloadTabs
  dsimp only
  refine fin (fun b a hb => ?_) ?_
  · split
    · exact ⟨pair_of ‹_› (rangeRead_keeps _ _ _ _ hb.1), hb.2⟩
    · exact ⟨pair_of ‹_› (rangeRead_keeps _ _ _ _ hb.1), hb.2⟩
  · split
    · exact ⟨hs, core_ok hs c⟩
    · split
      · exact ⟨pair_of ‹_› (rangeRead_keeps _ _ _ _ hs), core_ok hs c⟩
      · exact ⟨pair_of ‹_› (rangeRead_keeps _ _ _ _ hs), core_ok hs c⟩
theorem resendSaved_keeps (s : State) (c : Nat) (hs : MemOk s) : MemOk (resendSaved s c) := by
  unfold resendSaved; with_reducible repeat' (first | assumption | intro _ | dsimp only | refine keep_foldl ?_ _ _ ?_ | apply resendHeads_keeps | split)
theorem reportAgain_keeps (s : State) (c : Nat) (hs : MemOk s) : MemOk (reportAgain s c) := by
  unfold reportAgain; with_reducible repeat' (first | assumption | intro _ | dsimp only | refine keep_foldl ?_ _ _ ?_ | apply appendRec_keeps | apply modFib_keeps | split)
theorem restoreCrews_keeps (s : State) (old : Task) (t : Task) (a : Nat) (hs : MemOk s) : PairOk (restoreCrews s old t a) := by
  unfold restoreCrews; with_reducible repeat' (first | assumption | intro _ | dsimp only [memOk_mk, mOk_mem, memOk_fst, memOk_snd, pairOk_mk, pairOkR_mk, optOk1_some, exOk_ok] | refine keep_foldl ?_ _ _ ?_ | refine keep_foldl1 ?_ _ _ ?_ | apply alsoDo_keeps | apply restoreCore_keeps | apply restoreScratch_keeps | apply reloadXtabs_keeps | apply reloadTabs_keeps | apply resendSaved_keeps | apply reportAgain_keeps | split)
theorem dispatchOn_keeps (s : State) (a : Nat) (old : Task) (plan : Plan) (vs : List Nat) (cs : List Nat) (hs : MemOk s) : MemOk (dispatchOn s a old plan vs cs) := by
  unfold dispatchOn; with_reducible repeat' (first | assumption | intro _ | dsimp only [memOk_mk, mOk_mem, memOk_fst, memOk_snd, pairOk_mk, pairOkR_mk, optOk1_some, exOk_ok] | refine keep_foldl ?_ _ _ ?_ | apply modTask_keeps | apply physStore_keeps | apply readSecs_keeps | apply endAtDispatch_keeps | apply snoopAll_keeps | apply loadCrews_keeps | apply writeImages_keeps | apply restoreCrews_keeps | refine pair_of (by assumption) ?_ | split)
theorem recordDone_keeps (s : State) (tid : Nat) (hs : MemOk s) : MemOk (recordDone s tid) := by
  unfold recordDone; with_reducible repeat' (first | assumption | dsimp only [memOk_mk, mOk_mem, memOk_fst, memOk_snd, pairOk_mk, pairOkR_mk, optOk1_some, exOk_ok] | apply finishTask_keeps | split)
theorem writeBlockOf_keeps (s : State) (t : Task) (place : Nat) (c : Nat) (k : Core) (hs : MemOk s) : MemOk (writeBlockOf s t place c k) := by
  unfold writeBlockOf; with_reducible repeat' (first | assumption | intro _ | dsimp only [memOk_mk, mOk_mem, memOk_fst, memOk_snd, pairOk_mk, pairOkR_mk, optOk1_some, exOk_ok] | refine keep_iter ?_ _ _ ?_ | apply freeVal_keeps | apply locWrite_keeps | split)
theorem finishTxns_keeps (s : State) (ids : List Nat) (hs : MemOk s) : MemOk (finishTxns s ids) := by
  unfold finishTxns; with_reducible repeat' (first | assumption | intro _ | dsimp only | refine keep_foldl ?_ _ _ ?_ | apply finishTxn_keeps | split)
theorem acquiresGoOn_keeps (s : State) (hs : MemOk s) : MemOk (acquiresGoOn s) := finishTxns_keeps _ _ hs
theorem execSnoopApply_keeps (s : State) (hs : MemOk s) : OutOk (execSnoopApply s) := acquiresGoOn_keeps _ hs
theorem execHostSnoop_keeps (line : Nat) (own : Bool) (s : State) (hs : MemOk s) : OutOk (execHostSnoop line own s) := by
  unfold execHostSnoop; with_reducible repeat' (first | assumption | apply outOk_next | apply modHost_keeps | split)
theorem execCombiningDrain_keeps (ctrl : Nat) (atom : Nat) (s : State) (hs : MemOk s) : OutOk (execCombiningDrain ctrl atom s) := by
  unfold execCombiningDrain; with_reducible repeat' (first | assumption | apply outOk_next | apply drainEntry_keeps | apply touch_keeps | split)
theorem modDom_keeps (s : State) (d : Nat) (f : Domain → Domain) (hs : MemOk s) : MemOk (modDom s d f) := hs
theorem gateDom_keeps (s : State) (dom : Nat) (hs : MemOk s) : MemOk (gateDom s dom) := hs
theorem execEnergyExhausted_keeps (dom : Nat) (s : State) (hs : MemOk s) : OutOk (execEnergyExhausted dom s) := by
  unfold execEnergyExhausted; with_reducible repeat' (first | assumption | dsimp only | apply outOk_next | apply gateDom_keeps | split)
theorem execSub_keeps (p : PReg) (d : Reg) (a : Reg) (b : Reg) (v : SumVar) (s : State) (hs : MemOk s) : OutOk (execSub p d a b v s) := by
  unfold execSub; with_reducible repeat' (first | assumption | apply aluOp_keeps)
theorem standAt_keeps (s : State) (w : Issuer) (hs : MemOk s) : MemOk (standAt s w) := by
  unfold standAt; with_reducible repeat' (first | assumption | apply reissue_keeps)
theorem modCtr_keeps (s : State) (c : Nat) (f : Counters → Counters) (hs : MemOk s) : MemOk (modCtr s c f) := by
  unfold modCtr; with_reducible repeat' (first | assumption | with_unfolding_all exact coreKeep_same fun _ => rfl | dsimp only [memOk_mk, mOk_mem, memOk_fst, memOk_snd, pairOk_mk, pairOkR_mk, optOk1_some, exOk_ok] | apply modCore_keeps | split)
theorem modBar_keeps (s : State) (c : Nat) (k : BarKind) (f : Nat → Nat) (hs : MemOk s) : MemOk (modBar s c k f) := by
  unfold modBar; with_reducible repeat' (first | assumption | dsimp only [memOk_mk, mOk_mem, memOk_fst, memOk_snd, pairOk_mk, pairOkR_mk, optOk1_some, exOk_ok] | apply modCtr_keeps | split)
theorem dropSendSlot_keeps (s : State) (c : Nat) (hs : MemOk s) : MemOk (dropSendSlot s c) := by
  unfold dropSendSlot; with_reducible repeat' (first | assumption | dsimp only [memOk_mk, mOk_mem, memOk_fst, memOk_snd, pairOk_mk, pairOkR_mk, optOk1_some, exOk_ok] | apply modQ_keeps | split)
theorem takeMsg_keeps (s : State) (id_ : Nat) (hs : MemOk s) : MemOk (takeMsg s id_) := hs
theorem withdrawMsg_keeps (s : State) (id_ : Nat) (hs : MemOk s) : MemOk (withdrawMsg s id_) := by
  unfold withdrawMsg; with_reducible repeat' (first | assumption | apply dropSendSlot_keeps | apply takeMsg_keeps | apply modQ_keeps | apply modFib_keeps | apply standAt_keeps | split)
theorem takeReq_keeps (s : State) (id_ : Nat) (hs : MemOk s) : MemOk (takeReq s id_) := hs
theorem fePerform_keeps (s : State) (c : Nat) (w : Nat) (acc : Acc1) (producer : Nat) (hs : MemOk s) : PairOk (fePerform s c w acc producer) := by
  unfold fePerform; with_reducible repeat' (first | assumption | dsimp only [memOk_mk, mOk_mem, memOk_fst, memOk_snd, pairOk_mk, pairOkR_mk, optOk1_some, exOk_ok] | apply tileStore_keeps | apply countArrivals_keeps | apply modTile_keeps | (intro _ h; with_unfolding_all exact h) | split)
theorem feServe_keeps (x0 : Nat) (x1 : State) (x2 : Nat) (x3 : Nat) (hx1 : MemOk x1) : MemOk (feServe x0 x1 x2 x3) := by
  induction x0 generalizing x1 x2 x3 with
  | zero => unfold feServe; with_reducible repeat' (first | assumption | apply ih | intro _ | dsimp only [memOk_mk, mOk_mem, memOk_fst, memOk_snd, pairOk_mk, pairOkR_mk, optOk1_some, exOk_ok] | apply modTile_keeps | apply fePerform_keeps | apply answerReq_keeps | apply makeReady_keeps | split)
  | succ n_ ih =>
    unfold feServe; with_reducible repeat' (first | assumption | apply ih | intro _ | dsimp only [memOk_mk, mOk_mem, memOk_fst, memOk_snd, pairOk_mk, pairOkR_mk, optOk1_some, exOk_ok] | apply modTile_keeps | apply fePerform_keeps | apply answerReq_keeps | apply makeReady_keeps | split)
theorem serveWord_keeps (s : State) (c : Nat) (w : Nat) (hs : MemOk s) : MemOk (serveWord s c w) := by
  unfold serveWord; with_reducible repeat' (first | assumption | apply feServe_keeps)
theorem withdrawReq_keeps (s : State) (id_ : Nat) (r : Req) (hs : MemOk s) : MemOk (withdrawReq s id_ r) := by
  unfold withdrawReq; with_reducible repeat' (first | assumption | intro _ | dsimp only [memOk_mk, mOk_mem, memOk_fst, memOk_snd, pairOk_mk, pairOkR_mk, optOk1_some, exOk_ok] | apply modTile_keeps | apply takeReq_keeps | apply serveWord_keeps | split)
theorem withdrawTxn_keeps (s : State) (id_ : Nat) (hs : MemOk s) : MemOk (withdrawTxn s id_) := by
  unfold withdrawTxn; with_reducible repeat' (first | assumption | intro _ | dsimp only | refine keep_foldl ?_ _ _ ?_ | apply withdrawReq_keeps | apply modTxns_keeps | apply modQ_keeps | apply standAt_keeps | split)
theorem feLeave_keeps (s : State) (c : Nat) (slot : Nat) (w : Nat) (hs : MemOk s) : MemOk (feLeave s c slot w) := by
  unfold feLeave; with_reducible repeat' (first | assumption | intro _ | dsimp only [memOk_mk, mOk_mem, memOk_fst, memOk_snd, pairOk_mk, pairOkR_mk, optOk1_some, exOk_ok] | apply serveWord_keeps | apply modTile_keeps | split)
theorem unpark_keeps (s : State) (c : Nat) (slot : Nat) (hs : MemOk s) : MemOk (unpark s c slot) := by
  unfold unpark; with_reducible repeat' (first | assumption | apply standAt_keeps | apply modBar_keeps | apply withdrawMsg_keeps | apply withdrawTxn_keeps | apply feLeave_keeps | split)
theorem takeWalks_keeps (s : State) (p : Nat → WalkReq → Bool) (hs : MemOk s) : PairOk (takeWalks s p) := by
  unfold takeWalks; with_reducible repeat' (first | assumption | dsimp only [memOk_mk, mOk_mem, memOk_fst, memOk_snd, pairOk_mk, pairOkR_mk, optOk1_some, exOk_ok] | split)
theorem loadIssue_keeps (s : State) (i : Instr) (loc : Loc) (n : Nat) (dst : Dst) (rc : Bool) (mustPark : Bool) (acq : Bool) (fin : State → Nat → State × Flow) (hfin : ∀ s n, MemOk s → PairOk (fin s n)) (hs : MemOk s) : PairOk (loadIssue s i loc n dst rc mustPark acq fin) := by
  unfold loadIssue; with_reducible repeat' (first | assumption | apply hfin | dsimp only | apply sendOff_keeps | apply parkRange_keeps | apply faultHere_keeps | apply forward_keeps | apply bumpEv_keeps | refine opt_of1 (by assumption) ?_ | split)
theorem tableLoad_keeps (s : State) (i : Instr) (sg : Fin 8) (off : Nat) (n : Nat) (align : Nat) (dst : Dst) (fin : State → Loc → Nat → State × Flow) (hfin : ∀ s l n, MemOk s → PairOk (fin s l n)) (hs : MemOk s) : PairOk (tableLoad s i sg off n align dst fin) := by
  unfold tableLoad; with_reducible repeat' (first | assumption | apply hfin | intro _ | dsimp only | apply faultHere_keeps | apply loadIssue_keeps | split)
theorem execDtld_keeps (sg : Fin 8) (base : Reg) (imm : BitVec 7) (s : State) (hs : MemOk s) : OutOk (execDtld sg base imm s) := by
  unfold execDtld; with_reducible repeat' (first | assumption | intro _ | dsimp only [memOk_mk, mOk_mem, memOk_fst, memOk_snd, pairOk_mk, pairOkR_mk, optOk1_some, exOk_ok] | apply run_keeps | apply tableLoad_keeps | apply loadDtab_keeps)
theorem savedPoke_keeps (s : State) (t : Task) (place : Nat) (j : Nat) (mask : W64) (v : W64) (hs : MemOk s) : MemOk (savedPoke s t place j mask v) := by
  unfold savedPoke; with_reducible repeat' (first | assumption | dsimp only [memOk_mk, mOk_mem, memOk_fst, memOk_snd, pairOk_mk, pairOkR_mk, optOk1_some, exOk_ok] | apply locWrite_keeps | apply locRead_keeps | refine pair_of (by assumption) ?_ | split)
theorem execWake_keeps (d : Reg) (a : Reg) (skip : Bool) (s : State) (hs : MemOk s) : OutOk (execWake d a skip s) := by
  unfold execWake; with_reducible repeat' (first | assumption | intro _ | dsimp only | apply run_keeps | apply parkOn_keeps | apply postMsg_keeps)
theorem execMdrain_keeps (acc : Sys2Proof.Acc) (v : VReg) (f : Fmt) (row : BitVec 6) (s : State) (hs : MemOk s) : OutOk (execMdrain acc v f row s) := by
  unfold execMdrain; with_reducible repeat' (first | assumption | intro _ | dsimp only [memOk_mk, mOk_mem, memOk_fst, memOk_snd, pairOk_mk, pairOkR_mk, optOk1_some, exOk_ok] | apply run_keeps | apply parkHere_keeps | apply modMe_keeps | split)
theorem execFcmp_keeps (p : PReg) (pd : PReg) (a : Reg) (b : Reg) (c : FCond) (s : State) (hs : MemOk s) : OutOk (execFcmp p pd a b c s) := by
  unfold execFcmp; with_reducible repeat' (first | assumption | intro _ | dsimp only [memOk_mk, mOk_mem, memOk_fst, memOk_snd, pairOk_mk, pairOkR_mk, optOk1_some, exOk_ok] | apply run_keeps | apply wrP_keeps | apply noteRound_keeps | split)
theorem execJmpr_keeps (d : Reg) (a : Reg) (s : State) (hs : MemOk s) : OutOk (execJmpr d a s) := by
  unfold execJmpr; with_reducible repeat' (first | assumption | intro _ | dsimp only [memOk_mk, mOk_mem, memOk_fst, memOk_snd, pairOk_mk, pairOkR_mk, optOk1_some, exOk_ok] | apply run_keeps | apply wr_keeps)
theorem putFib_keeps (s : State) (c : Nat) (slot : Nat) (f : Fibre) (hs : MemOk s) : MemOk (putFib s c slot f) := by
  unfold putFib; with_reducible repeat' (first | assumption | with_unfolding_all exact coreKeep_same fun _ => rfl | dsimp only [memOk_mk, mOk_mem, memOk_fst, memOk_snd, pairOk_mk, pairOkR_mk, optOk1_some, exOk_ok] | apply modCore_keeps | split)
theorem putMsg_keeps (s : State) (id_ : Nat) (m : Msg) (hs : MemOk s) : MemOk (putMsg s id_ m) := hs
theorem grantSlot_keeps (s : State) (id_ : Nat) (who : Issuer) (dest : Nat) (words : List W64) (credit : Option Nat) (asked : Bool) (d : Reg) (hs : MemOk s) : MemOk (grantSlot s id_ who dest words credit asked d) := by
  unfold grantSlot; with_reducible repeat' (first | assumption | apply modQ_keeps | apply putMsg_keeps | apply takeCredit_keeps)
theorem grantNext_keeps (s : State) (dest : Nat) (hs : MemOk s) : MemOk (grantNext s dest) := by
  unfold grantNext; with_reducible repeat' (first | assumption | dsimp only | apply modQ_keeps | apply grantSlot_keeps | split)
theorem execHandlerStart_keeps (core : Nat) (s : State) (hs : MemOk s) : OutOk (execHandlerStart core s) := by
  unfold execHandlerStart; with_reducible repeat' (first | assumption | with_unfolding_all exact coreKeep_same fun _ => rfl | dsimp only [memOk_mk, mOk_mem, memOk_fst, memOk_snd, pairOk_mk, pairOkR_mk, optOk1_some, exOk_ok] | apply outOk_next | apply modQ_keeps | apply putFib_keeps | apply modCore_keeps | apply grantNext_keeps | split)
theorem ownStores_keeps (s : State) (c : Nat) (parts : List (Loc × Acc1)) (hs : MemOk s) : MemOk (ownStores s c parts) := by
  unfold ownStores; with_reducible repeat' (first | assumption | intro _ | dsimp only [memOk_mk, mOk_mem, memOk_fst, memOk_snd, pairOk_mk, pairOkR_mk, optOk1_some, exOk_ok] | refine keep_foldl ?_ _ _ ?_ | apply tileDo_keeps)
theorem sbEnter_keeps (s : State) (who : Issuer) (parts : List (Loc × Acc1)) (hs : MemOk s) : PairOkR (sbEnter s who parts) := by
  unfold sbEnter; with_reducible repeat' (first | assumption | intro _ | dsimp only [memOk_mk, mOk_mem, memOk_fst, memOk_snd, pairOk_mk, pairOkR_mk, optOk1_some, exOk_ok] | refine keep_foldl ?_ _ _ ?_ | apply freshId_keeps | apply dropRow_keeps | apply modSb_keeps | apply addUnack_keeps)
theorem sbResolve_keeps (s : State) (c : Nat) (slot : Nat) (x3 : NMap SbEntry) (hs : MemOk s) : PairOk (sbResolve s c slot x3) := by
  induction x3 generalizing s c slot with
  | nil => unfold sbResolve; with_reducible repeat' (first | assumption | apply ih | dsimp only [memOk_mk, mOk_mem, memOk_fst, memOk_snd, pairOk_mk, pairOkR_mk, optOk1_some, exOk_ok] | apply resolve_keeps | apply dropPlace_keeps | apply modSb_keeps | refine pair_of (by assumption) ?_ | split)
  | cons x_ l_ ih =>
    unfold sbResolve; with_reducible repeat' (first | assumption | apply ih | dsimp only [memOk_mk, mOk_mem, memOk_fst, memOk_snd, pairOk_mk, pairOkR_mk, optOk1_some, exOk_ok] | apply resolve_keeps | apply dropPlace_keeps | apply modSb_keeps | refine pair_of (by assumption) ?_ | split)
theorem storeIssue_keeps (s : State) (i : Instr) (parts : List (Loc × Acc1)) (hs : MemOk s) : PairOk (storeIssue s i parts) := by
  unfold storeIssue; with_reducible repeat' (first | assumption | dsimp only [memOk_mk, mOk_mem, memOk_fst, memOk_snd, pairOk_mk, pairOkR_mk, optOk1_some, exOk_ok] | apply parkRange_keeps | apply ownStores_keeps | apply faultHere_keeps | apply parkHere_keeps | apply sbEnter_keeps | apply sbResolve_keeps | apply parkOn_keeps | apply startWalk_keeps | refine pair_of (by assumption) ?_ | split)
theorem execVst_keeps (v : VReg) (sg : Fin 8) (base : Reg) (imm : BitVec 10) (s : State) (hs : MemOk s) : OutOk (execVst v sg base imm s) := by
  unfold execVst; with_reducible repeat' (first | assumption | intro _ | dsimp only | apply run_keeps | apply faultHere_keeps | apply storeIssue_keeps | split)
theorem vecOp_keeps (i : Instr) (p : PReg) (vd : VReg) (w : Nat) (n : Nat) (k : Nat) (s : State) (g : State → RMode → Nat → FRes) (hs : MemOk s) : OutOk (vecOp i p vd w n k s g) := by
  unfold vecOp; with_reducible repeat' (first | assumption | intro _ | dsimp only [memOk_mk, mOk_mem, memOk_fst, memOk_snd, pairOk_mk, pairOkR_mk, optOk1_some, exOk_ok] | apply run_keeps | apply wrV_keeps | apply noteRound_keeps | split)
theorem vec2_keeps (i : Instr) (p : PReg) (vd : VReg) (va : VReg) (vb : VReg) (f : Fmt) (rounds : Bool) (s : State) (fp : RMode → Nat → Nat → FRes) (int : Nat → Nat → Nat) (hs : MemOk s) : OutOk (vec2 i p vd va vb f rounds s fp int) := by
  unfold vec2; with_reducible repeat' (first | assumption | apply vecOp_keeps)
theorem xlateDrop_keeps (s : State) (c : Nat) (u : Nat) (x : Xlate) (hs : MemOk s) : MemOk (xlateDrop s c u x) := by
  unfold xlateDrop; with_reducible repeat' (first | assumption | with_unfolding_all exact coreKeep_same fun _ => rfl | dsimp only [memOk_mk, mOk_mem, memOk_fst, memOk_snd, pairOk_mk, pairOkR_mk, optOk1_some, exOk_ok] | apply modUnit_keeps | apply modCore_keeps | split)
theorem failWalks_keeps (s : State) (ws : List WalkReq) (e : Err) (hs : MemOk s) : MemOk (failWalks s ws e) := by
  unfold failWalks; with_reducible repeat' (first | assumption | intro _ | dsimp only [memOk_mk, mOk_mem, memOk_fst, memOk_snd, pairOk_mk, pairOkR_mk, optOk1_some, exOk_ok] | refine keep_foldl ?_ _ _ ?_ | apply walkFault_keeps | split)
theorem leafFails_keeps (s : State) (w : WalkReq) (x : Xlate) (e : Err) (hs : MemOk s) : MemOk (leafFails s w x e) := by
  unfold leafFails; with_reducible repeat' (first | assumption | dsimp only [memOk_mk, mOk_mem, memOk_fst, memOk_snd, pairOk_mk, pairOkR_mk, optOk1_some, exOk_ok] | apply takeWalks_keeps | apply xlateDrop_keeps | apply failWalks_keeps | split)
theorem execPowerOn_keeps (s : State) (hs : MemOk s) : OutOk (execPowerOn s) := by
  unfold execPowerOn; with_reducible repeat' (first | assumption | dsimp only [memOk_mk, mOk_mem, memOk_fst, memOk_snd, pairOk_mk, pairOkR_mk, optOk1_some, exOk_ok] | apply outOk_next | apply bootFirmware_keeps | split)
theorem execClz_keeps (p : PReg) (d : Reg) (a : Reg) (v : Bool) (s : State) (hs : MemOk s) : OutOk (execClz p d a v s) := by
  unfold execClz; with_reducible repeat' (first | assumption | apply aluOp_keeps)
theorem dropQueue_keeps (s : State) (c : Nat) (slot : Nat) (hs : MemOk s) : MemOk (dropQueue s c slot) := by
  unfold dropQueue; with_reducible repeat' (first | assumption | with_unfolding_all exact coreKeep_same fun _ => rfl | dsimp only [memOk_mk, mOk_mem, memOk_fst, memOk_snd, pairOk_mk, pairOkR_mk, optOk1_some, exOk_ok] | apply modCore_keeps | split)
theorem lateWaits_keeps (s : State) (hs : MemOk s) : MemOk (lateWaits s) := by
  exact mOk_cores hs (cores_map hs.2.2 fun x hx => by split <;> exact hx)
theorem freeBits_keeps (s : State) (hs : MemOk s) : PairOkR (freeBits s) := by
  unfold freeBits; with_reducible repeat' (first | assumption | intro _ | dsimp only [memOk_mk, mOk_mem, memOk_fst, memOk_snd, pairOk_mk, pairOkR_mk, optOk1_some, exOk_ok] | refine keep_foldl2 ?_ _ _ ?_ | apply freeVal_keeps)
theorem deferReq_keeps (s : State) (id_ : Nat) (hs : MemOk s) : MemOk (deferReq s id_) := hs
theorem performReg_keeps (s : State) (id_ : Nat) (r : Req) (a : Nat) (hs : MemOk s) : MemOk (performReg s id_ r a) := by
  unfold performReg; with_reducible repeat' (first | assumption | dsimp only [memOk_mk, mOk_mem, memOk_fst, memOk_snd, pairOk_mk, pairOkR_mk, optOk1_some, exOk_ok] | apply regAccess_keeps | apply answerReq_keeps)
theorem answerMerged_keeps (s : State) (id_ : Nat) (a : Answer) (hs : MemOk s) : MemOk (answerMerged s id_ a) := by
  unfold answerMerged; with_reducible repeat' (first | assumption | intro _ | dsimp only [memOk_mk, mOk_mem, memOk_fst, memOk_snd, pairOk_mk, pairOkR_mk, optOk1_some, exOk_ok] | refine keep_foldl ?_ _ _ ?_ | apply answerReq_keeps)
theorem askPeer_keeps (s : State) (id_ : Nat) (r : Req) (row : Option Nat) (hs : MemOk s) : MemOk (askPeer s id_ r row) := by
  unfold askPeer; with_reducible repeat' (first | assumption | dsimp only [memOk_mk, mOk_mem, memOk_fst, memOk_snd, pairOk_mk, pairOkR_mk, optOk1_some, exOk_ok] | apply freeVal_keeps | apply answerMerged_keeps | apply freeBits_keeps | split)
theorem performPlain_keeps (s : State) (id_ : Nat) (hs : MemOk s) : MemOk (performPlain s id_) := by
  unfold performPlain; with_reducible repeat' (first | assumption | dsimp only [memOk_mk, mOk_mem, memOk_fst, memOk_snd, pairOk_mk, pairOkR_mk, optOk1_some, exOk_ok] | apply scratchDo_keeps | apply answerReq_keeps | apply deferReq_keeps | apply performReg_keeps | apply askPeer_keeps | apply answerMerged_keeps | split)
theorem waitIssue_keeps (s : State) (i : Instr) (sc : Scope) (next : Then) (go : State → State × Flow) (hgo : ∀ s, MemOk s → PairOk (go s)) (hs : MemOk s) : PairOk (waitIssue s i sc next go) := by
  unfold waitIssue; with_reducible repeat' (first | assumption | apply hgo | apply parkOn_keeps | split)
theorem dropFailure_keeps (s : State) (c : Nat) (slot : Nat) (x : FCode × Nat × FailKind) (hs : MemOk s) : MemOk (dropFailure s c slot x) := by
  unfold dropFailure; with_reducible repeat' (first | assumption | dsimp only [memOk_mk, mOk_mem, memOk_fst, memOk_snd, pairOk_mk, pairOkR_mk, optOk1_some, exOk_ok] | apply modFib_keeps | split)
theorem releaseIssue_keeps (s : State) (i : Instr) (sc : Scope) (next : Then) (go : State → State × Flow) (hgo : ∀ s, MemOk s → PairOk (go s)) (hs : MemOk s) : PairOk (releaseIssue s i sc next go) := by
  unfold releaseIssue; with_reducible repeat' (first | assumption | apply hgo | intro _ | dsimp only | apply waitIssue_keeps | apply faultHere_keeps | apply dropFailure_keeps | split)
theorem releaseStore_keeps (s : State) (i : Instr) (sc : Scope) (loc : Loc) (acc : Acc1) (hs : MemOk s) : PairOk (releaseStore s i sc loc acc) := by
  unfold releaseStore; with_reducible repeat' (first | assumption | intro _ | dsimp only | apply parkRange_keeps | apply faultHere_keeps | apply releaseIssue_keeps | apply storeIssue_keeps | split)
theorem execSegld_keeps (a : Reg) (k : Fin 8) (s : State) (hs : MemOk s) : OutOk (execSegld a k s) := by
  unfold execSegld; with_reducible repeat' (first | assumption | with_unfolding_all exact coreKeep_same fun _ => rfl | intro _ | dsimp only [memOk_mk, mOk_mem, memOk_fst, memOk_snd, pairOk_mk, pairOkR_mk, optOk1_some, exOk_ok] | apply run_keeps | apply faultHere_keeps | apply modCore_keeps | split)
theorem execRed_keeps (sg : Fin 8) (base : Reg) (b : Reg) (op : RedOp) (esz : Esz) (s : State) (hs : MemOk s) : OutOk (execRed sg base b op esz s) := by
  unfold execRed; with_reducible repeat' (first | assumption | intro _ | dsimp only | apply run_keeps | apply faultHere_keeps | apply storeIssue_keeps | split)
theorem execAttestNonceWrite_keeps (nonce : BitVec 256) (s : State) (hs : MemOk s) : OutOk (execAttestNonceWrite nonce s) := hs
theorem cmdResume_keeps (s : State) (c : Nat) (e : Nat) (hs : MemOk s) : MemOk (cmdResume s c e) := by
  unfold cmdResume; with_reducible repeat' (first | assumption | dsimp only [memOk_mk, mOk_mem, memOk_fst, memOk_snd, pairOk_mk, pairOkR_mk, optOk1_some, exOk_ok] | apply freshId_keeps | apply modCmd_keeps | split)
theorem advanceStore_keeps (s : State) (who : Issuer) (grp : Nat) (hs : MemOk s) : MemOk (advanceStore s who grp) := by
  unfold advanceStore; with_reducible repeat' (first | assumption | apply sbResolve_keeps | apply makeReady_keeps | apply setWait_keeps | apply startWalk_keeps | apply faultBack_keeps | apply sbWithdraw_keeps | refine pair_of (by assumption) ?_ | split)
theorem reissueNext_keeps (s : State) (w : WalkReq) (hs : MemOk s) : MemOk (reissueNext s w) := by
  unfold reissueNext; with_reducible repeat' (first | assumption | dsimp only | apply startWalk_keeps | apply makeReady_keeps | split)
theorem sendFill_keeps (s : State) (who : Issuer) (p : Place) (va : Nat) (bits : Nat) (hs : MemOk s) : MemOk (sendFill s who p va bits) := by
  unfold sendFill; with_reducible repeat' (first | assumption | apply addReq_keeps)
theorem sendPf_keeps (s : State) (who : Issuer) (x : Xlate) (va : Nat) (hs : MemOk s) : MemOk (sendPf s who x va) := by
  unfold sendPf; with_reducible repeat' (first | assumption | apply addReq_keeps)
theorem awaitData_keeps (s : State) (c : Nat) (e : Nat) (elem : Nat) (hs : MemOk s) : MemOk (awaitData s c e elem) := hs
theorem copyElem_keeps (s : State) (c : Nat) (e : Nat) (x : Cmd) (elem : Nat) (hs : MemOk s) : MemOk (copyElem s c e x elem) := by
  unfold copyElem; with_reducible repeat' (first | assumption | dsimp only | apply elemFault_keeps | apply sendElem_keeps | apply awaitData_keeps | split)
theorem walkElem_keeps (s : State) (c : Nat) (e : Nat) (x : Cmd) (elem : Nat) (hs : MemOk s) : MemOk (walkElem s c e x elem) := by
  unfold walkElem; with_reducible repeat' (first | assumption | dsimp only | apply elemFault_keeps | apply modCmd_keeps | apply walkWrite_keeps | apply elemDone_keeps | apply sendElem_keeps | split)
theorem collRead_keeps (s : State) (c : Nat) (e : Nat) (x : Cmd) (elem : Nat) (hs : MemOk s) : MemOk (collRead s c e x elem) := by
  unfold collRead; with_reducible repeat' (first | assumption | dsimp only | apply elemFault_keeps | apply sendElem_keeps | split)
theorem collElem_keeps (s : State) (c : Nat) (e : Nat) (x : Cmd) (elem : Nat) (hs : MemOk s) : MemOk (collElem s c e x elem) := by
  unfold collElem; with_reducible repeat' (first | assumption | dsimp only [memOk_mk, mOk_mem, memOk_fst, memOk_snd, pairOk_mk, pairOkR_mk, optOk1_some, exOk_ok] | apply writeElem_keeps | apply collRead_keeps | split)
theorem elemStep_keeps (s : State) (c : Nat) (e : Nat) (x : Cmd) (elem : Nat) (hs : MemOk s) : MemOk (elemStep s c e x elem) := by
  unfold elemStep; with_reducible repeat' (first | assumption | dsimp only [memOk_mk, mOk_mem, memOk_fst, memOk_snd, pairOk_mk, pairOkR_mk, optOk1_some, exOk_ok] | apply rowStep_keeps | apply lookAhead_keeps | apply copyElem_keeps | apply writeElem_keeps | apply walkElem_keeps | apply collElem_keeps | split)
theorem walkDone_keeps (s : State) (w : WalkReq) (x : Xlate) (hs : MemOk s) : MemOk (walkDone s w x) := by
  unfold walkDone; with_reducible repeat' (first | assumption | with_unfolding_all exact coreKeep_same fun _ => rfl | dsimp only [memOk_mk, mOk_mem, memOk_fst, memOk_snd, pairOk_mk, pairOkR_mk, optOk1_some, exOk_ok] | apply modCore_keeps | apply dropHeld_keeps | apply advanceTxn_keeps | apply advanceStore_keeps | apply reissueNext_keeps | apply resendHeads_keeps | apply sendFill_keeps | apply setWait_keeps | apply fetchFault_keeps | apply dropPf_keeps | apply modPf_keeps | apply sendPf_keeps | apply elemStep_keeps | split)
theorem execRndset_keeps (d : Reg) (a : Reg) (sd : Bool) (m : Bool) (fz : Bool) (rm : BitVec 3) (s : State) (hs : MemOk s) : OutOk (execRndset d a sd m fz rm s) := by
  unfold execRndset; with_reducible repeat' (first | assumption | intro _ | dsimp only [memOk_mk, mOk_mem, memOk_fst, memOk_snd, pairOk_mk, pairOkR_mk, optOk1_some, exOk_ok] | apply run_keeps | apply modMe_keeps | apply wr_keeps)
theorem execCas_keeps (d : Reg) (sg : Fin 8) (base : Reg) (b : Reg) (c : Reg) (s : State) (hs : MemOk s) : OutOk (execCas d sg base b c s) := by
  unfold execCas; with_reducible repeat' (first | assumption | intro _ | dsimp only [memOk_mk, mOk_mem, memOk_fst, memOk_snd, pairOk_mk, pairOkR_mk, optOk1_some, exOk_ok] | apply run_keeps | apply faultHere_keeps | apply rmwIssue_keeps | apply wr_keeps | split)
theorem execDadd_keeps (k : Fin 8) (a : Reg) (s : State) (hs : MemOk s) : OutOk (execDadd k a s) := by
  unfold execDadd; with_reducible repeat' (first | assumption | intro _ | dsimp only [memOk_mk, mOk_mem, memOk_fst, memOk_snd, pairOk_mk, pairOkR_mk, optOk1_some, exOk_ok] | apply run_keeps | apply modCtr_keeps)
theorem execVmovSr_keeps (p : PReg) (vd : VReg) (va : VReg) (f : Fmt) (s : State) (hs : MemOk s) : OutOk (execVmovSr p vd va f s) := by
  unfold execVmovSr; with_reducible repeat' (first | assumption | intro _ | dsimp only [memOk_mk, mOk_mem, memOk_fst, memOk_snd, pairOk_mk, pairOkR_mk, optOk1_some, exOk_ok] | apply run_keeps | apply wrV_keeps | split)
theorem cbRoom_keeps (s : State) (g : Nat) (hs : MemOk s) : MemOk (cbRoom s g) := by
  unfold cbRoom; with_reducible repeat' (first | assumption | dsimp only [memOk_mk, mOk_mem, memOk_fst, memOk_snd, pairOk_mk, pairOkR_mk, optOk1_some, exOk_ok] | apply drainFree_keeps | apply bumpDev_keeps | apply freeEntry_keeps | split)
theorem cbOpen_keeps (s : State) (atom : Nat) (stale : Nat) (hs : MemOk s) : PairOk (cbOpen s atom stale) := by
  unfold cbOpen; with_reducible repeat' (first | assumption | dsimp only [memOk_mk, mOk_mem, memOk_fst, memOk_snd, pairOk_mk, pairOkR_mk, optOk1_some, exOk_ok] | apply cbRoom_keeps | apply eccRead_keeps | apply modGk_keeps | apply touch_keeps | refine opt_of (by assumption) ?_ | split)
theorem ctrlNotice_keeps (s : State) (atom : Nat) (who : Issuer) (addr : Nat) (hs : MemOk s) : MemOk (ctrlNotice s atom who addr) := by
  unfold ctrlNotice; with_reducible repeat' (first | assumption | apply appendRec_keeps)
theorem redFailed_keeps (s : State) (r : Req) (a : Nat) (hs : MemOk s) : MemOk (redFailed s r a) := by
  unfold redFailed; with_reducible repeat' (first | assumption | apply postMsg_keeps | apply ctrlNotice_keeps | split)
theorem applyRed_keeps (s : State) (r : Req) (a : Nat) (hs : MemOk s) : MemOk (applyRed s r a) := by
  unfold applyRed; with_reducible repeat' (first | assumption | dsimp only [memOk_mk, mOk_mem, memOk_fst, memOk_snd, pairOk_mk, pairOkR_mk, optOk1_some, exOk_ok] | apply modGk_keeps | apply digest_keeps | split)
theorem acceptRed_keeps (s : State) (id_ : Nat) (r : Req) (a : Nat) (hs : MemOk s) : MemOk (acceptRed s id_ r a) := by
  unfold acceptRed; with_reducible repeat' (first | assumption | dsimp only [memOk_mk, mOk_mem, memOk_fst, memOk_snd, pairOk_mk, pairOkR_mk, optOk1_some, exOk_ok] | apply cbOpen_keeps | apply answerReq_keeps | apply redFailed_keeps | apply applyRed_keeps | refine pair_of (by assumption) ?_ | split)
theorem issueDram_keeps (s : State) (id_ : Nat) (r : Req) (a : Nat) (hs : MemOk s) : MemOk (issueDram s id_ r a) := by
  unfold issueDram; with_reducible repeat' (first | assumption | dsimp only [memOk_mk, mOk_mem, memOk_fst, memOk_snd, pairOk_mk, pairOkR_mk, optOk1_some, exOk_ok] | apply dramAccess_keeps | apply answerReq_keeps | split)
theorem performDram_keeps (s : State) (id_ : Nat) (r : Req) (a : Nat) (hs : MemOk s) : MemOk (performDram s id_ r a) := by
  unfold performDram; with_reducible repeat' (first | assumption | apply acceptRed_keeps | apply issueDram_keeps | split)
theorem tokRead_keeps (s : State) (atom : Nat) (hs : MemOk s) : PairOk (tokRead s atom) := by
  unfold tokRead; with_reducible repeat' (first | assumption | dsimp only [memOk_mk, mOk_mem, memOk_fst, memOk_snd, pairOk_mk, pairOkR_mk, optOk1_some, exOk_ok] | apply touch_keeps | apply eccRead_keeps | refine opt_of (by assumption) ?_ | split)
theorem tokReads_keeps (s : State) (x1 : List Nat) (hs : MemOk s) : PairOk (tokReads s x1) := by
  induction x1 generalizing s with
  | nil => unfold tokReads; with_reducible repeat' (first | assumption | apply ih | dsimp only [memOk_mk, mOk_mem, memOk_fst, memOk_snd, pairOk_mk, pairOkR_mk, optOk1_some, exOk_ok] | apply tokRead_keeps | refine pair_of (by assumption) ?_ | split)
  | cons x_ l_ ih =>
    unfold tokReads; with_reducible repeat' (first | assumption | apply ih | dsimp only [memOk_mk, mOk_mem, memOk_fst, memOk_snd, pairOk_mk, pairOkR_mk, optOk1_some, exOk_ok] | apply tokRead_keeps | refine pair_of (by assumption) ?_ | split)
theorem tokWrite_keeps (s : State) (rbit : Bool) (atom : Nat) (v : Nat) (hs : MemOk s) : MemOk (tokWrite s rbit atom v) := by
  unfold tokWrite; with_reducible repeat' (first | assumption | apply drainFree_keeps | apply putAtom_keeps | apply digest_keeps | apply touch_keeps)
theorem tokSideWrites_keeps (s : State) (im : BitVec 4096) (r : Req) (g : GIn) (ps : List Lanes) (sides : List Side) (hs : MemOk s) : MemOk (tokSideWrites s im r g ps sides) := by
  unfold tokSideWrites; with_reducible repeat' (first | assumption | intro _ | dsimp only | refine keep_foldl ?_ _ _ ?_ | apply tokWrite_keeps | split)
theorem tokEval_keeps (s : State) (id_ : Nat) (r : Req) (a : Nat) (ctx : Nat) (c : GkCtx) (sides : List Side) (hs : MemOk s) : MemOk (tokEval s id_ r a ctx c sides) := by
  unfold tokEval; with_reducible repeat' (first | assumption | apply touch_keeps | apply tokWrite_keeps | apply tokSideWrites_keeps | apply modGk_keeps | apply answerReq_keeps | split)
theorem token_keeps (s : State) (id_ : Nat) (r : Req) (a : Nat) (tag : Nat) (hs : MemOk s) : MemOk (token s id_ r a tag) := by
  unfold token; with_reducible repeat' (first | assumption | dsimp only [memOk_mk, mOk_mem, memOk_fst, memOk_snd, pairOk_mk, pairOkR_mk, optOk1_some, exOk_ok] | apply answerReq_keeps | apply performDram_keeps | apply tokReads_keeps | apply tokEval_keeps | refine pair_of (by assumption) ?_ | split)
theorem execGeckoToken_keeps (id_ : Nat) (s : State) (hs : MemOk s) : OutOk (execGeckoToken id_ s) := by
  unfold execGeckoToken; with_reducible repeat' (first | assumption | apply outOk_next | apply token_keeps | split)
theorem openIssue_keeps (s : State) (c : Nat) (st : Nat) (slot : Nat) (pc : W64) (words : Nat) (todo : List Instr) (group : List Nat) (follower : Bool) (leadPc : Option W64) (hs : MemOk s) : MemOk (openIssue s c st slot pc words todo group follower leadPc) := by
  unfold openIssue; with_reducible repeat' (first | assumption | with_unfolding_all exact coreKeep_same fun _ => rfl | dsimp only [memOk_mk, mOk_mem, memOk_fst, memOk_snd, pairOk_mk, pairOkR_mk, optOk1_some, exOk_ok] | apply takeTurn_keeps | apply bumpEv_keeps | apply dropOnce_keeps | apply modFib_keeps | apply modCore_keeps | split)
theorem nextMember_keeps (s : State) (hs : MemOk s) : OptOk (nextMember s) := by
  unfold nextMember; with_reducible repeat' (first | assumption | dsimp only [memOk_mk, mOk_mem, memOk_fst, memOk_snd, pairOk_mk, pairOkR_mk, optOk1_some, exOk_ok] | exact optOk_none | apply optOk_some | apply openIssue_keeps | apply takeFault_keeps | split)
theorem freshRows_keeps (s : State) (c : Nat) (slot : Nat) (hs : MemOk s) : MemOk (freshRows s c slot) := by
  unfold freshRows; with_reducible repeat' (first | assumption | with_unfolding_all exact coreKeep_same fun _ => rfl | dsimp only [memOk_mk, mOk_mem, memOk_fst, memOk_snd, pairOk_mk, pairOkR_mk, optOk1_some, exOk_ok] | apply modCore_keeps | apply missFills_keeps | split)
theorem execMigrationArrival_keeps (id_ : Nat) (s : State) (hs : MemOk s) : OutOk (execMigrationArrival id_ s) := by
  unfold execMigrationArrival; with_reducible repeat' (first | assumption | apply outOk_next | apply modQ_keeps | apply putFib_keeps | apply takeMsg_keeps | apply makeReady_keeps | apply freshRows_keeps | split)
theorem ptIssue_keeps (s : State) (i : Instr) (sc : Scope) (kind : Nat) (va : Nat) (asid : Nat) (hs : MemOk s) : PairOk (ptIssue s i sc kind va asid) := by
  unfold ptIssue; with_reducible repeat' (first | assumption | intro _ | dsimp only [memOk_mk, mOk_mem, memOk_fst, memOk_snd, pairOk_mk, pairOkR_mk, optOk1_some, exOk_ok] | apply waitIssue_keeps | apply ptDiscard_keeps | apply parkOn_keeps | refine pair_of (by assumption) ?_ | split)
theorem execPtinvAll_keeps (sc : Scope) (s : State) (hs : MemOk s) : OutOk (execPtinvAll sc s) := by
  unfold execPtinvAll; with_reducible repeat' (first | assumption | intro _ | dsimp only | apply run_keeps | apply ptIssue_keeps)
theorem feJoin_keeps (s : State) (c : Nat) (slot : Nat) (w : Nat) (op : AccOp) (hs : MemOk s) : MemOk (feJoin s c slot w op) := by
  unfold feJoin; with_reducible repeat' (first | assumption | intro _ | dsimp only [memOk_mk, mOk_mem, memOk_fst, memOk_snd, pairOk_mk, pairOkR_mk, optOk1_some, exOk_ok] | apply modTile_keeps | split)
theorem dqFree_keeps (s : State) (c : Nat) (slot : Nat) (n : Nat) (hs : MemOk s) : MemOk (dqFree s c slot n) := by
  unfold dqFree; with_reducible repeat' (first | assumption | apply modQ_keeps | apply modFib_keeps | split)
theorem execDqPop_keeps (d : Reg) (two : Bool) (s : State) (hs : MemOk s) : OutOk (execDqPop d two s) := by
  unfold execDqPop; with_reducible repeat' (first | assumption | intro _ | dsimp only [memOk_mk, mOk_mem, memOk_fst, memOk_snd, pairOk_mk, pairOkR_mk, optOk1_some, exOk_ok] | apply run_keeps | apply faultHere_keeps | apply parkHere_keeps | apply modFib_keeps | apply dqFree_keeps | apply wr_keeps | split)
theorem endRemote_keeps (s : State) (c : Nat) (hs : MemOk s) : MemOk (endRemote s c) := by
  unfold endRemote; with_reducible repeat' (first | assumption | intro _ | dsimp only | refine keep_foldl ?_ _ _ ?_ | apply answerReq_keeps | split)
theorem execFdiv_keeps (p : PReg) (d : Reg) (a : Reg) (b : Reg) (s : State) (hs : MemOk s) : OutOk (execFdiv p d a b s) := by
  unfold execFdiv; with_reducible repeat' (first | assumption | apply floatOp_keeps)
theorem chosen_keeps (s : State) (hs : MemOk s) : PairOkR (chosen s) := by
  unfold chosen; with_reducible repeat' (first | assumption | dsimp only [memOk_mk, mOk_mem, memOk_fst, memOk_snd, pairOk_mk, pairOkR_mk, optOk1_some, exOk_ok] | apply take_keeps | split)
theorem comesNext_keeps (s : State) (hs : MemOk s) : PairOkR (comesNext s) := by
  unfold comesNext; with_reducible repeat' (first | assumption | dsimp only [memOk_mk, mOk_mem, memOk_fst, memOk_snd, pairOk_mk, pairOkR_mk, optOk1_some, exOk_ok] | apply chosen_keeps | split)
theorem nextStep_keeps (s : State) (hs : MemOk s) : PairOkR (nextStep s) := by
  unfold nextStep; with_reducible repeat' (first | assumption | dsimp only [memOk_mk, mOk_mem, memOk_fst, memOk_snd, pairOk_mk, pairOkR_mk, optOk1_some, exOk_ok] | apply comesNext_keeps)
theorem execShlImm_keeps (p : PReg) (d : Reg) (a : Reg) (imm : BitVec 6) (s : State) (hs : MemOk s) : OutOk (execShlImm p d a imm s) := by
  unfold execShlImm; with_reducible repeat' (first | assumption | apply aluOp_keeps)
theorem execFqgetWrite_keeps (die : Nat) (value : Nat) (s : State) (hs : MemOk s) : OutOk (execFqgetWrite die value s) := by
  unfold execFqgetWrite; with_reducible repeat' (first | assumption | apply outOk_next | apply setGet_keeps | split)
theorem closeIssue_keeps (s : State) (hs : MemOk s) : MemOk (closeIssue s) := hs
theorem execAdd_keeps (p : PReg) (d : Reg) (a : Reg) (b : Reg) (v : SumVar) (s : State) (hs : MemOk s) : OutOk (execAdd p d a b v s) := by
  unfold execAdd; with_reducible repeat' (first | assumption | apply aluOp_keeps)
theorem execMul_keeps (p : PReg) (d : Reg) (a : Reg) (b : Reg) (v : Bool) (s : State) (hs : MemOk s) : OutOk (execMul p d a b v s) := by
  unfold execMul; with_reducible repeat' (first | assumption | apply aluOp_keeps)
theorem execDiv_keeps (p : PReg) (d : Reg) (a : Reg) (b : Reg) (v : DivVar) (s : State) (hs : MemOk s) : OutOk (execDiv p d a b v s) := by
  unfold execDiv; with_reducible repeat' (first | assumption | apply aluOp_keeps)
theorem execRem_keeps (p : PReg) (d : Reg) (a : Reg) (b : Reg) (v : DivVar) (s : State) (hs : MemOk s) : OutOk (execRem p d a b v s) := by
  unfold execRem; with_reducible repeat' (first | assumption | apply aluOp_keeps)
theorem execAnd_keeps (p : PReg) (d : Reg) (a : Reg) (b : Reg) (s : State) (hs : MemOk s) : OutOk (execAnd p d a b s) := by
  unfold execAnd; with_reducible repeat' (first | assumption | apply aluOp_keeps)
theorem execOr_keeps (p : PReg) (d : Reg) (a : Reg) (b : Reg) (s : State) (hs : MemOk s) : OutOk (execOr p d a b s) := by
  unfold execOr; with_reducible repeat' (first | assumption | apply aluOp_keeps)
theorem execXor_keeps (p : PReg) (d : Reg) (a : Reg) (b : Reg) (s : State) (hs : MemOk s) : OutOk (execXor p d a b s) := by
  unfold execXor; with_reducible repeat' (first | assumption | apply aluOp_keeps)
theorem execAndn_keeps (p : PReg) (d : Reg) (a : Reg) (b : Reg) (s : State) (hs : MemOk s) : OutOk (execAndn p d a b s) := by
  unfold execAndn; with_reducible repeat' (first | assumption | apply aluOp_keeps)
theorem execShl_keeps (p : PReg) (d : Reg) (a : Reg) (b : Reg) (v : Bool) (s : State) (hs : MemOk s) : OutOk (execShl p d a b v s) := by
  unfold execShl; with_reducible repeat' (first | assumption | apply aluOp_keeps)
theorem execShr_keeps (p : PReg) (d : Reg) (a : Reg) (b : Reg) (v : Bool) (s : State) (hs : MemOk s) : OutOk (execShr p d a b v s) := by
  unfold execShr; with_reducible repeat' (first | assumption | apply aluOp_keeps)
theorem execSra_keeps (p : PReg) (d : Reg) (a : Reg) (b : Reg) (v : Bool) (s : State) (hs : MemOk s) : OutOk (execSra p d a b v s) := by
  unfold execSra; with_reducible repeat' (first | assumption | apply aluOp_keeps)
theorem execRotl_keeps (p : PReg) (d : Reg) (a : Reg) (b : Reg) (v : Bool) (s : State) (hs : MemOk s) : OutOk (execRotl p d a b v s) := by
  unfold execRotl; with_reducible repeat' (first | assumption | apply aluOp_keeps)
theorem execMin_keeps (p : PReg) (d : Reg) (a : Reg) (b : Reg) (v : Bool) (s : State) (hs : MemOk s) : OutOk (execMin p d a b v s) := by
  unfold execMin; with_reducible repeat' (first | assumption | apply aluOp_keeps)
theorem execMax_keeps (p : PReg) (d : Reg) (a : Reg) (b : Reg) (v : Bool) (s : State) (hs : MemOk s) : OutOk (execMax p d a b v s) := by
  unfold execMax; with_reducible repeat' (first | assumption | apply aluOp_keeps)
theorem execCtz_keeps (p : PReg) (d : Reg) (a : Reg) (v : Bool) (s : State) (hs : MemOk s) : OutOk (execCtz p d a v s) := by
  unfold execCtz; with_reducible repeat' (first | assumption | apply aluOp_keeps)
theorem execPopc_keeps (p : PReg) (d : Reg) (a : Reg) (v : Bool) (s : State) (hs : MemOk s) : OutOk (execPopc p d a v s) := by
  unfold execPopc; with_reducible repeat' (first | assumption | apply aluOp_keeps)
theorem execBext_keeps (p : PReg) (d : Reg) (a : Reg) (b : Reg) (v : Bool) (s : State) (hs : MemOk s) : OutOk (execBext p d a b v s) := by
  unfold execBext; with_reducible repeat' (first | assumption | apply aluOp_keeps)
theorem execBins_keeps (p : PReg) (d : Reg) (a : Reg) (b : Reg) (s : State) (hs : MemOk s) : OutOk (execBins p d a b s) := by
  unfold execBins; with_reducible repeat' (first | assumption | apply aluOp_keeps)
theorem execSel_keeps (p : PReg) (d : Reg) (a : Reg) (b : Reg) (q : PReg) (s : State) (hs : MemOk s) : OutOk (execSel p d a b q s) := by
  unfold execSel; with_reducible repeat' (first | assumption | apply aluOp_keeps)
theorem execCmp_keeps (p : PReg) (d : Reg) (a : Reg) (b : Reg) (v : Bool) (s : State) (hs : MemOk s) : OutOk (execCmp p d a b v s) := by
  unfold execCmp; with_reducible repeat' (first | assumption | apply aluOp_keeps)
theorem execHash64_keeps (p : PReg) (d : Reg) (a : Reg) (b : Reg) (s : State) (hs : MemOk s) : OutOk (execHash64 p d a b s) := by
  unfold execHash64; with_reducible repeat' (first | assumption | apply aluOp_keeps)
theorem execMovi_keeps (p : PReg) (d : Reg) (imm : BitVec 15) (s : State) (hs : MemOk s) : OutOk (execMovi p d imm s) := by
  unfold execMovi; with_reducible repeat' (first | assumption | apply aluOp_keeps)
theorem execMovh_keeps (p : PReg) (d : Reg) (imm : BitVec 15) (s : State) (hs : MemOk s) : OutOk (execMovh p d imm s) := by
  unfold execMovh; with_reducible repeat' (first | assumption | apply aluOp_keeps)
theorem predOp_keeps (i : Instr) (p : PReg) (pd : PReg) (s : State) (res : State → Bool) (hs : MemOk s) : OutOk (predOp i p pd s res) := by
  unfold predOp; with_reducible repeat' (first | assumption | intro _ | dsimp only [memOk_mk, mOk_mem, memOk_fst, memOk_snd, pairOk_mk, pairOkR_mk, optOk1_some, exOk_ok] | apply run_keeps | apply wrP_keeps | split)
theorem execPset_keeps (p : PReg) (pd : PReg) (a : Reg) (b : Reg) (c : ICond) (s : State) (hs : MemOk s) : OutOk (execPset p pd a b c s) := by
  unfold execPset; with_reducible repeat' (first | assumption | apply predOp_keeps)
theorem execPand_keeps (p : PReg) (pd : PReg) (pa : PReg) (pb : PReg) (na : Bool) (nb : Bool) (s : State) (hs : MemOk s) : OutOk (execPand p pd pa pb na nb s) := by
  unfold execPand; with_reducible repeat' (first | assumption | apply predOp_keeps)
theorem execPor_keeps (p : PReg) (pd : PReg) (pa : PReg) (pb : PReg) (na : Bool) (nb : Bool) (s : State) (hs : MemOk s) : OutOk (execPor p pd pa pb na nb s) := by
  unfold execPor; with_reducible repeat' (first | assumption | apply predOp_keeps)
theorem execPnot_keeps (p : PReg) (pd : PReg) (pa : PReg) (na : Bool) (s : State) (hs : MemOk s) : OutOk (execPnot p pd pa na s) := by
  unfold execPnot; with_reducible repeat' (first | assumption | apply predOp_keeps)
theorem execAddImm_keeps (p : PReg) (d : Reg) (a : Reg) (imm : BitVec 10) (s : State) (hs : MemOk s) : OutOk (execAddImm p d a imm s) := by
  unfold execAddImm; with_reducible repeat' (first | assumption | apply aluOp_keeps)
theorem execMulhImm_keeps (p : PReg) (d : Reg) (a : Reg) (imm : BitVec 10) (s : State) (hs : MemOk s) : OutOk (execMulhImm p d a imm s) := by
  unfold execMulhImm; with_reducible repeat' (first | assumption | apply aluOp_keeps)
theorem execDivImm_keeps (p : PReg) (d : Reg) (a : Reg) (imm : BitVec 10) (s : State) (hs : MemOk s) : OutOk (execDivImm p d a imm s) := by
  unfold execDivImm; with_reducible repeat' (first | assumption | apply aluOp_keeps)
theorem execRemImm_keeps (p : PReg) (d : Reg) (a : Reg) (imm : BitVec 10) (s : State) (hs : MemOk s) : OutOk (execRemImm p d a imm s) := by
  unfold execRemImm; with_reducible repeat' (first | assumption | apply aluOp_keeps)
theorem execOrImm_keeps (p : PReg) (d : Reg) (a : Reg) (imm : BitVec 10) (s : State) (hs : MemOk s) : OutOk (execOrImm p d a imm s) := by
  unfold execOrImm; with_reducible repeat' (first | assumption | apply aluOp_keeps)
theorem execAndnImm_keeps (p : PReg) (d : Reg) (a : Reg) (imm : BitVec 10) (s : State) (hs : MemOk s) : OutOk (execAndnImm p d a imm s) := by
  unfold execAndnImm; with_reducible repeat' (first | assumption | apply aluOp_keeps)
theorem execShrImm_keeps (p : PReg) (d : Reg) (a : Reg) (imm : BitVec 6) (s : State) (hs : MemOk s) : OutOk (execShrImm p d a imm s) := by
  unfold execShrImm; with_reducible repeat' (first | assumption | apply aluOp_keeps)
theorem execSraImm_keeps (p : PReg) (d : Reg) (a : Reg) (imm : BitVec 6) (s : State) (hs : MemOk s) : OutOk (execSraImm p d a imm s) := by
  unfold execSraImm; with_reducible repeat' (first | assumption | apply aluOp_keeps)
theorem execRotlImm_keeps (p : PReg) (d : Reg) (a : Reg) (imm : BitVec 6) (s : State) (hs : MemOk s) : OutOk (execRotlImm p d a imm s) := by
  unfold execRotlImm; with_reducible repeat' (first | assumption | apply aluOp_keeps)
theorem execMinImm_keeps (p : PReg) (d : Reg) (a : Reg) (imm : BitVec 10) (s : State) (hs : MemOk s) : OutOk (execMinImm p d a imm s) := by
  unfold execMinImm; with_reducible repeat' (first | assumption | apply aluOp_keeps)
theorem execMaxImm_keeps (p : PReg) (d : Reg) (a : Reg) (imm : BitVec 10) (s : State) (hs : MemOk s) : OutOk (execMaxImm p d a imm s) := by
  unfold execMaxImm; with_reducible repeat' (first | assumption | apply aluOp_keeps)
theorem execCmpImm_keeps (p : PReg) (d : Reg) (a : Reg) (imm : BitVec 10) (s : State) (hs : MemOk s) : OutOk (execCmpImm p d a imm s) := by
  unfold execCmpImm; with_reducible repeat' (first | assumption | apply aluOp_keeps)
theorem execFsub_keeps (p : PReg) (d : Reg) (a : Reg) (b : Reg) (s : State) (hs : MemOk s) : OutOk (execFsub p d a b s) := by
  unfold execFsub; with_reducible repeat' (first | assumption | apply floatOp_keeps)
theorem execFmul_keeps (p : PReg) (d : Reg) (a : Reg) (b : Reg) (s : State) (hs : MemOk s) : OutOk (execFmul p d a b s) := by
  unfold execFmul; with_reducible repeat' (first | assumption | apply floatOp_keeps)
theorem execFma_keeps (p : PReg) (d : Reg) (a : Reg) (b : Reg) (c : Reg) (s : State) (hs : MemOk s) : OutOk (execFma p d a b c s) := by
  unfold execFma; with_reducible repeat' (first | assumption | apply floatOp_keeps)
theorem execFrcp_keeps (p : PReg) (d : Reg) (a : Reg) (s : State) (hs : MemOk s) : OutOk (execFrcp p d a s) := by
  unfold execFrcp; with_reducible repeat' (first | assumption | apply floatOp_keeps)
theorem execFrsq_keeps (p : PReg) (d : Reg) (a : Reg) (s : State) (hs : MemOk s) : OutOk (execFrsq p d a s) := by
  unfold execFrsq; with_reducible repeat' (first | assumption | apply floatOp_keeps)
theorem execFmin_keeps (p : PReg) (d : Reg) (a : Reg) (b : Reg) (v : Bool) (s : State) (hs : MemOk s) : OutOk (execFmin p d a b v s) := by
  unfold execFmin; with_reducible repeat' (first | assumption | apply floatOp_keeps)
theorem execFmax_keeps (p : PReg) (d : Reg) (a : Reg) (b : Reg) (v : Bool) (s : State) (hs : MemOk s) : OutOk (execFmax p d a b v s) := by
  unfold execFmax; with_reducible repeat' (first | assumption | apply floatOp_keeps)
theorem execFclass_keeps (p : PReg) (d : Reg) (a : Reg) (f : Fmt) (s : State) (hs : MemOk s) : OutOk (execFclass p d a f s) := by
  unfold execFclass; with_reducible repeat' (first | assumption | apply floatOp_keeps)
theorem execFcvt_keeps (p : PReg) (d : Reg) (a : Reg) (sf : Fmt) (df : Fmt) (s : State) (hs : MemOk s) : OutOk (execFcvt p d a sf df s) := by
  unfold execFcvt; with_reducible repeat' (first | assumption | apply floatOp_keeps)
theorem execFsgn_keeps (p : PReg) (d : Reg) (a : Reg) (b : Reg) (v : SgnVar) (s : State) (hs : MemOk s) : OutOk (execFsgn p d a b v s) := by
  unfold execFsgn; with_reducible repeat' (first | assumption | apply floatOp_keeps)
theorem execVadd_keeps (p : PReg) (vd : VReg) (va : VReg) (vb : VReg) (o : Bool) (f : Fmt) (s : State) (hs : MemOk s) : OutOk (execVadd p vd va vb o f s) := by
  unfold execVadd; with_reducible repeat' (first | assumption | apply vec2_keeps)
theorem execVsub_keeps (p : PReg) (vd : VReg) (va : VReg) (vb : VReg) (o : Bool) (f : Fmt) (s : State) (hs : MemOk s) : OutOk (execVsub p vd va vb o f s) := by
  unfold execVsub; with_reducible repeat' (first | assumption | apply vec2_keeps)
theorem execVmul_keeps (p : PReg) (vd : VReg) (va : VReg) (vb : VReg) (o : Bool) (f : Fmt) (s : State) (hs : MemOk s) : OutOk (execVmul p vd va vb o f s) := by
  unfold execVmul; with_reducible repeat' (first | assumption | apply vec2_keeps)
theorem execVmin_keeps (p : PReg) (vd : VReg) (va : VReg) (vb : VReg) (o : Bool) (f : Fmt) (s : State) (hs : MemOk s) : OutOk (execVmin p vd va vb o f s) := by
  unfold execVmin; with_reducible repeat' (first | assumption | apply vec2_keeps)
theorem execVmax_keeps (p : PReg) (vd : VReg) (va : VReg) (vb : VReg) (o : Bool) (f : Fmt) (s : State) (hs : MemOk s) : OutOk (execVmax p vd va vb o f s) := by
  unfold execVmax; with_reducible repeat' (first | assumption | apply vec2_keeps)
theorem execVsgn_keeps (p : PReg) (vd : VReg) (va : VReg) (vb : VReg) (o : Bool) (f : Fmt) (s : State) (hs : MemOk s) : OutOk (execVsgn p vd va vb o f s) := by
  unfold execVsgn; with_reducible repeat' (first | assumption | apply vecOp_keeps)
theorem execVcmp_keeps (p : PReg) (vd : VReg) (va : VReg) (vb : VReg) (o : Bool) (f : Fmt) (s : State) (hs : MemOk s) : OutOk (execVcmp p vd va vb o f s) := by
  unfold execVcmp; with_reducible repeat' (first | assumption | apply vec2_keeps)
theorem execVfma_keeps (p : PReg) (vd : VReg) (va : VReg) (vb : VReg) (vc : VReg) (s : State) (hs : MemOk s) : OutOk (execVfma p vd va vb vc s) := by
  unfold execVfma; with_reducible repeat' (first | assumption | apply vecOp_keeps)
theorem execVsel_keeps (p : PReg) (vd : VReg) (va : VReg) (vb : VReg) (vc : VReg) (s : State) (hs : MemOk s) : OutOk (execVsel p vd va vb vc s) := by
  unfold execVsel; with_reducible repeat' (first | assumption | apply vecOp_keeps)
theorem execVcvt_keeps (p : PReg) (vd : VReg) (va : VReg) (sf : Fmt) (df : Fmt) (s : State) (hs : MemOk s) : OutOk (execVcvt p vd va sf df s) := by
  unfold execVcvt; with_reducible repeat' (first | assumption | intro _ | dsimp only [memOk_mk, mOk_mem, memOk_fst, memOk_snd, pairOk_mk, pairOkR_mk, optOk1_some, exOk_ok] | apply run_keeps | apply wrV_keeps | apply noteRound_keeps | split)
theorem execVscl_keeps (p : PReg) (vd : VReg) (va : VReg) (vb : VReg) (s : State) (hs : MemOk s) : OutOk (execVscl p vd va vb s) := by
  unfold execVscl; with_reducible repeat' (first | assumption | apply vecOp_keeps)
theorem execVred_keeps (p : PReg) (d : Reg) (va : VReg) (o : Bool) (f : Fmt) (s : State) (hs : MemOk s) : OutOk (execVred p d va o f s) := by
  unfold execVred; with_reducible repeat' (first | assumption | intro _ | dsimp only [memOk_mk, mOk_mem, memOk_fst, memOk_snd, pairOk_mk, pairOkR_mk, optOk1_some, exOk_ok] | apply run_keeps | apply capture_keeps | apply wr_keeps | apply noteRound_keeps | split)
theorem execVbc_keeps (p : PReg) (vd : VReg) (a : Reg) (f : Fmt) (s : State) (hs : MemOk s) : OutOk (execVbc p vd a f s) := by
  unfold execVbc; with_reducible repeat' (first | assumption | apply vecOp_keeps)
theorem execVperm_keeps (p : PReg) (vd : VReg) (va : VReg) (vb : VReg) (f : Fmt) (s : State) (hs : MemOk s) : OutOk (execVperm p vd va vb f s) := by
  unfold execVperm; with_reducible repeat' (first | assumption | apply vecOp_keeps)
theorem execVmov_keeps (p : PReg) (vd : VReg) (va : VReg) (s : State) (hs : MemOk s) : OutOk (execVmov p vd va s) := by
  unfold execVmov; with_reducible repeat' (first | assumption | intro _ | dsimp only [memOk_mk, mOk_mem, memOk_fst, memOk_snd, pairOk_mk, pairOkR_mk, optOk1_some, exOk_ok] | apply run_keeps | apply wrV_keeps | split)
theorem execNop_keeps (s : State) (hs : MemOk s) : OutOk (execNop s) := by
  unfold execNop; with_reducible repeat' (first | assumption | intro _ | dsimp only [memOk_mk, mOk_mem, memOk_fst, memOk_snd, pairOk_mk, pairOkR_mk, optOk1_some, exOk_ok] | apply run_keeps)
theorem execRet_keeps (s : State) (hs : MemOk s) : OutOk (execRet s) := by
  unfold execRet; with_reducible repeat' (first | assumption | intro _ | dsimp only [memOk_mk, mOk_mem, memOk_fst, memOk_snd, pairOk_mk, pairOkR_mk, optOk1_some, exOk_ok] | apply run_keeps)
theorem emptyStrand_keeps (s : State) (c : Nat) (st : Nat) (hs : MemOk s) : MemOk (emptyStrand s c st) := by
  unfold emptyStrand; with_reducible repeat' (first | assumption | with_unfolding_all exact coreKeep_same fun _ => rfl | dsimp only [memOk_mk, mOk_mem, memOk_fst, memOk_snd, pairOk_mk, pairOkR_mk, optOk1_some, exOk_ok] | apply modCore_keeps | split)
theorem flushFailed_keeps (s : State) (c : Nat) (slot : Nat) (hs : MemOk s) : MemOk (flushFailed s c slot) := by
  unfold flushFailed; with_reducible repeat' (first | assumption | intro _ | dsimp only | refine keep_foldl ?_ _ _ ?_ | apply appendRec_keeps | split)
theorem bindBarriers_keeps (s : State) (c : Nat) (hs : MemOk s) : MemOk (bindBarriers s c) := by
  unfold bindBarriers; with_reducible repeat' (first | assumption | intro _ | dsimp only [memOk_mk, mOk_mem, memOk_fst, memOk_snd, pairOk_mk, pairOkR_mk, optOk1_some, exOk_ok] | refine keep_foldl ?_ _ _ ?_ | split)
theorem endTrapOf_keeps (s : State) (c : Nat) (slot : Nat) (hs : MemOk s) : MemOk (endTrapOf s c slot) := by
  exact modCore_keeps _ _ _ (coreKeep_of fun k h => by dsimp only; split <;> exact h) hs
theorem disown_keeps (s : State) (c : Nat) (slot : Nat) (hs : MemOk s) : MemOk (disown s c slot) := by
  unfold disown; with_reducible repeat' (first | assumption | with_unfolding_all exact coreKeep_same fun _ => rfl | dsimp only [memOk_mk, mOk_mem, memOk_fst, memOk_snd, pairOk_mk, pairOkR_mk, optOk1_some, exOk_ok] | apply modCore_keeps | split)
theorem retireFibre_keeps (s : State) (c : Nat) (slot : Nat) (hs : MemOk s) : MemOk (retireFibre s c slot) := by
  unfold retireFibre; with_reducible repeat' (first | assumption | apply flushFailed_keeps | apply leaveStrand_keeps | apply bindBarriers_keeps | apply delFib_keeps | apply endTrapOf_keeps | apply disown_keeps | apply dropQueue_keeps)
theorem execDoneF_keeps (s : State) (hs : MemOk s) : OutOk (execDoneF s) := by
  unfold execDoneF; with_reducible repeat' (first | assumption | intro _ | dsimp only [memOk_mk, mOk_mem, memOk_fst, memOk_snd, pairOk_mk, pairOkR_mk, optOk1_some, exOk_ok] | apply run_keeps | apply emptyStrand_keeps | apply retireFibre_keeps)
theorem requeue_keeps (s : State) (c : Nat) (slot : Nat) (hs : MemOk s) : MemOk (requeue s c slot) := by
  unfold requeue; with_reducible repeat' (first | assumption | dsimp only [memOk_mk, mOk_mem, memOk_fst, memOk_snd, pairOk_mk, pairOkR_mk, optOk1_some, exOk_ok] | apply modFib_keeps | apply makeReady_keeps | split)
theorem execYieldF_keeps (s : State) (hs : MemOk s) : OutOk (execYieldF s) := by
  unfold execYieldF; with_reducible repeat' (first | assumption | intro _ | dsimp only [memOk_mk, mOk_mem, memOk_fst, memOk_snd, pairOk_mk, pairOkR_mk, optOk1_some, exOk_ok] | apply run_keeps | apply requeue_keeps | apply leaveStrand_keeps | apply modMe_keeps | split)
theorem execHret_keeps (s : State) (hs : MemOk s) : OutOk (execHret s) := by
  unfold execHret; with_reducible repeat' (first | assumption | intro _ | dsimp only [memOk_mk, mOk_mem, memOk_fst, memOk_snd, pairOk_mk, pairOkR_mk, optOk1_some, exOk_ok] | apply run_keeps | apply faultHere_keeps | apply endHandler_keeps | split)
theorem triggerTask_keeps (s : State) (tid : Nat) (hs : MemOk s) : MemOk (triggerTask s tid) := by
  unfold triggerTask; with_reducible repeat' (first | assumption | apply clearPred_keeps | apply advanceTasks_keeps | apply modTask_keeps | split)
theorem execTrigger_keeps (s : State) (hs : MemOk s) : OutOk (execTrigger s) := by
  unfold execTrigger; with_reducible repeat' (first | assumption | intro _ | dsimp only [memOk_mk, mOk_mem, memOk_fst, memOk_snd, pairOk_mk, pairOkR_mk, optOk1_some, exOk_ok] | apply run_keeps | apply waitIssue_keeps | apply triggerTask_keeps)
theorem trapReturn_keeps (s : State) (i : Instr) (hs : MemOk s) : PairOk (trapReturn s i) := by
  unfold trapReturn; with_reducible repeat' (first | assumption | with_unfolding_all exact coreKeep_same fun _ => rfl | dsimp only [memOk_mk, mOk_mem, memOk_fst, memOk_snd, pairOk_mk, pairOkR_mk, optOk1_some, exOk_ok] | apply faultHere_keeps | apply modCore_keeps | apply modMe_keeps | split)
theorem execEret_keeps (s : State) (hs : MemOk s) : OutOk (execEret s) := by
  unfold execEret; with_reducible repeat' (first | assumption | intro _ | dsimp only | apply run_keeps | apply trapReturn_keeps)
theorem modMyStrand_keeps (s : State) (f : Strand → Strand) (hs : MemOk s) : MemOk (modMyStrand s f) := by
  unfold modMyStrand; with_reducible repeat' (first | assumption | with_unfolding_all exact coreKeep_same fun _ => rfl | dsimp only [memOk_mk, mOk_mem, memOk_fst, memOk_snd, pairOk_mk, pairOkR_mk, optOk1_some, exOk_ok] | apply modCore_keeps | split)
theorem execUnfuse_keeps (s : State) (hs : MemOk s) : OutOk (execUnfuse s) := by
  unfold execUnfuse; with_reducible repeat' (first | assumption | intro _ | dsimp only [memOk_mk, mOk_mem, memOk_fst, memOk_snd, pairOk_mk, pairOkR_mk, optOk1_some, exOk_ok] | apply run_keeps | apply modMyStrand_keeps)
theorem execRejoin_keeps (s : State) (hs : MemOk s) : OutOk (execRejoin s) := by
  unfold execRejoin; with_reducible repeat' (first | assumption | intro _ | dsimp only [memOk_mk, mOk_mem, memOk_fst, memOk_snd, pairOk_mk, pairOkR_mk, optOk1_some, exOk_ok] | apply run_keeps | apply wrP_keeps | apply modMyStrand_keeps | apply parkHere_keeps | apply startTimer_keeps | split)
theorem execBr_keeps (p : PReg) (n : Bool) (imm : BitVec 19) (s : State) (hs : MemOk s) : OutOk (execBr p n imm s) := by
  unfold execBr; with_reducible repeat' (first | assumption | intro _ | dsimp only [memOk_mk, mOk_mem, memOk_fst, memOk_snd, pairOk_mk, pairOkR_mk, optOk1_some, exOk_ok] | apply run_keeps)
theorem execJmp_keeps (imm : BitVec 23) (s : State) (hs : MemOk s) : OutOk (execJmp imm s) := by
  unfold execJmp; with_reducible repeat' (first | assumption | intro _ | dsimp only [memOk_mk, mOk_mem, memOk_fst, memOk_snd, pairOk_mk, pairOkR_mk, optOk1_some, exOk_ok] | apply run_keeps)
theorem execLoop_keeps (a : Reg) (imm : BitVec 18) (s : State) (hs : MemOk s) : OutOk (execLoop a imm s) := by
  unfold execLoop; with_reducible repeat' (first | assumption | intro _ | dsimp only [memOk_mk, mOk_mem, memOk_fst, memOk_snd, pairOk_mk, pairOkR_mk, optOk1_some, exOk_ok] | apply run_keeps | apply wr_keeps)
theorem execBrk_keeps (code : BitVec 16) (s : State) (hs : MemOk s) : OutOk (execBrk code s) := by
  unfold execBrk; with_reducible repeat' (first | assumption | intro _ | dsimp only | apply run_keeps | apply faultHere_keeps)
theorem trapEntry_keeps (s : State) (i : Instr) (code : BitVec 16) (hs : MemOk s) : PairOk (trapEntry s i code) := by
  unfold trapEntry; with_reducible repeat' (first | assumption | with_unfolding_all exact coreKeep_same fun _ => rfl | dsimp only [memOk_mk, mOk_mem, memOk_fst, memOk_snd, pairOk_mk, pairOkR_mk, optOk1_some, exOk_ok] | apply faultHere_keeps | apply parkHere_keeps | apply modCore_keeps | apply modMe_keeps | split)
theorem execTrap_keeps (code : BitVec 16) (s : State) (hs : MemOk s) : OutOk (execTrap code s) := by
  unfold execTrap; with_reducible repeat' (first | assumption | intro _ | dsimp only | apply run_keeps | apply trapEntry_keeps)
theorem execLea_keeps (r : Reg) (sg : Fin 8) (base : Reg) (sz : Size) (imm : BitVec 7) (s : State) (hs : MemOk s) : OutOk (execLea r sg base sz imm s) := by
  unfold execLea; with_reducible repeat' (first | assumption | apply regOp_keeps)
theorem execMadv_keeps (d : Reg) (a : Reg) (b : Reg) (peq : PReg) (plt : PReg) (esz : Esz) (s : State) (hs : MemOk s) : OutOk (execMadv d a b peq plt esz s) := by
  unfold execMadv; with_reducible repeat' (first | assumption | intro _ | dsimp only [memOk_mk, mOk_mem, memOk_fst, memOk_snd, pairOk_mk, pairOkR_mk, optOk1_some, exOk_ok] | apply run_keeps | apply faultHere_keeps | apply readPiece_keeps | apply parkRange_keeps | apply modMe_keeps | apply sendOff_keeps | split)
theorem fwalkFrom_keeps (s : State) (i : Instr) (d : Reg) (rec__ : Nat) (roff : Nat) (b : W64) (hs : MemOk s) : PairOk (fwalkFrom s i d rec__ roff b) := by
  unfold fwalkFrom; with_reducible repeat' (first | assumption | dsimp only [memOk_mk, mOk_mem, memOk_fst, memOk_snd, pairOk_mk, pairOkR_mk, optOk1_some, exOk_ok] | apply faultHere_keeps | apply modMe_keeps | apply levelPieces_keeps | apply parkRange_keeps | apply sendOff_keeps | split)
theorem execFwalk_keeps (d : Reg) (a : Reg) (b : Reg) (s : State) (hs : MemOk s) : OutOk (execFwalk d a b s) := by
  unfold execFwalk; with_reducible repeat' (first | assumption | intro _ | dsimp only [memOk_mk, mOk_mem, memOk_fst, memOk_snd, pairOk_mk, pairOkR_mk, optOk1_some, exOk_ok] | apply run_keeps | apply faultHere_keeps | apply readPiece_keeps | apply parkRange_keeps | apply fwalkFrom_keeps | apply sendOff_keeps | split)
theorem execBrank_keeps (d : Reg) (a : Reg) (b : Reg) (pd : PReg) (s : State) (hs : MemOk s) : OutOk (execBrank d a b pd s) := by
  unfold execBrank; with_reducible repeat' (first | assumption | intro _ | dsimp only [memOk_mk, mOk_mem, memOk_fst, memOk_snd, pairOk_mk, pairOkR_mk, optOk1_some, exOk_ok] | apply run_keeps | apply faultHere_keeps | apply readPiece_keeps | apply parkRange_keeps | apply modMe_keeps | apply sendOff_keeps | split)
theorem execLd_keeps (r : Reg) (sg : Fin 8) (base : Reg) (sz : Size) (x : Bool) (imm : BitVec 7) (s : State) (hs : MemOk s) : OutOk (execLd r sg base sz x imm s) := by
  unfold execLd; with_reducible repeat' (first | assumption | intro _ | dsimp only [memOk_mk, mOk_mem, memOk_fst, memOk_snd, pairOk_mk, pairOkR_mk, optOk1_some, exOk_ok] | apply run_keeps | apply faultHere_keeps | apply loadIssue_keeps | apply wr_keeps | split)
theorem execLdAcq_keeps (r : Reg) (sg : Fin 8) (base : Reg) (sz : Size) (x : Bool) (sc : Scope) (imm : BitVec 4) (s : State) (hs : MemOk s) : OutOk (execLdAcq r sg base sz x sc imm s) := by
  unfold execLdAcq; with_reducible repeat' (first | assumption | intro _ | dsimp only [memOk_mk, mOk_mem, memOk_fst, memOk_snd, pairOk_mk, pairOkR_mk, optOk1_some, exOk_ok] | apply run_keeps | apply faultHere_keeps | apply loadIssue_keeps | apply wr_keeps | split)
theorem execSt_keeps (r : Reg) (sg : Fin 8) (base : Reg) (sz : Size) (imm : BitVec 7) (s : State) (hs : MemOk s) : OutOk (execSt r sg base sz imm s) := by
  unfold execSt; with_reducible repeat' (first | assumption | intro _ | dsimp only | apply run_keeps | apply faultHere_keeps | apply storeIssue_keeps | split)
theorem execStRel_keeps (r : Reg) (sg : Fin 8) (base : Reg) (sz : Size) (sc : Scope) (imm : BitVec 4) (s : State) (hs : MemOk s) : OutOk (execStRel r sg base sz sc imm s) := by
  unfold execStRel; with_reducible repeat' (first | assumption | intro _ | dsimp only | apply run_keeps | apply faultHere_keeps | apply releaseStore_keeps | split)
theorem execLdp_keeps (r : Reg) (sg : Fin 8) (base : Reg) (imm : BitVec 7) (s : State) (hs : MemOk s) : OutOk (execLdp r sg base imm s) := by
  unfold execLdp; with_reducible repeat' (first | assumption | intro _ | dsimp only [memOk_mk, mOk_mem, memOk_fst, memOk_snd, pairOk_mk, pairOkR_mk, optOk1_some, exOk_ok] | apply run_keeps | apply faultHere_keeps | apply loadIssue_keeps | apply modMe_keeps | split)
theorem execStp_keeps (r : Reg) (sg : Fin 8) (base : Reg) (imm : BitVec 7) (s : State) (hs : MemOk s) : OutOk (execStp r sg base imm s) := by
  unfold execStp; with_reducible repeat' (first | assumption | intro _ | dsimp only | apply run_keeps | apply faultHere_keeps | apply storeIssue_keeps | split)
theorem prefetch_keeps (s : State) (i : Instr) (sg : Fin 8) (off : Nat) (hs : MemOk s) : MemOk (prefetch s i sg off) := by
  unfold prefetch; with_reducible repeat' (first | assumption | dsimp only | apply dropPf_keeps | apply sendPf_keeps | apply modPf_keeps | apply tcTouch_keeps | apply startWalk_keeps | split)
theorem execPf_keeps (sg : Fin 8) (base : Reg) (sz : Size) (imm : BitVec 7) (s : State) (hs : MemOk s) : OutOk (execPf sg base sz imm s) := by
  unfold execPf; with_reducible repeat' (first | assumption | intro _ | dsimp only [memOk_mk, mOk_mem, memOk_fst, memOk_snd, pairOk_mk, pairOkR_mk, optOk1_some, exOk_ok] | apply run_keeps | apply prefetch_keeps)
theorem execFence_keeps (sc : Scope) (s : State) (hs : MemOk s) : OutOk (execFence sc s) := by
  unfold execFence; with_reducible repeat' (first | assumption | intro _ | dsimp only [memOk_mk, mOk_mem, memOk_fst, memOk_snd, pairOk_mk, pairOkR_mk, optOk1_some, exOk_ok] | apply run_keeps | apply releaseIssue_keeps)
theorem feAfter_keeps (s : State) (c : Nat) (w : Nat) (changed : Bool) (hs : MemOk s) : MemOk (feAfter s c w changed) := by
  unfold feAfter; with_reducible repeat' (first | assumption | intro _ | dsimp only [memOk_mk, mOk_mem, memOk_fst, memOk_snd, pairOk_mk, pairOkR_mk, optOk1_some, exOk_ok] | apply serveWord_keeps | apply modTile_keeps | split)
theorem feLocal_keeps (s : State) (c : Nat) (slot : Nat) (w : Nat) (acc : Acc1) (hs : MemOk s) : OptOk1 (feLocal s c slot w acc) := by
  unfold feLocal; with_reducible repeat' (first | assumption | dsimp only [memOk_mk, mOk_mem, memOk_fst, memOk_snd, pairOk_mk, pairOkR_mk, optOk1_some, exOk_ok] | exact optOk1_none | apply fePerform_keeps | apply feAfter_keeps | apply feLeave_keeps | split)
theorem feParkLocal_keeps (s : State) (i : Instr) (loc : Loc) (op : AccOp) (hs : MemOk s) : PairOk (feParkLocal s i loc op) := by
  unfold feParkLocal; with_reducible repeat' (first | assumption | dsimp only [memOk_mk, mOk_mem, memOk_fst, memOk_snd, pairOk_mk, pairOkR_mk, optOk1_some, exOk_ok] | apply faultHere_keeps | apply wrP_keeps | apply feLeave_keeps | apply parkHere_keeps | apply startTimer_keeps | apply feJoin_keeps | split)
theorem withdrawFe_keeps (s : State) (c : Nat) (slot : Nat) (id_ : Nat) (hs : MemOk s) : MemOk (withdrawFe s c slot id_) := by
  unfold withdrawFe; with_reducible repeat' (first | assumption | apply postMsg_keeps | apply modFib_keeps | split)
theorem feSend_keeps (s : State) (i : Instr) (loc : Loc) (acc : Acc1) (r : Option Reg) (acq : Bool) (hs : MemOk s) : PairOk (feSend s i loc acc r acq) := by
  unfold feSend; with_reducible repeat' (first | assumption | with_unfolding_all exact coreKeep_same fun _ => rfl | dsimp only [memOk_mk, mOk_mem, memOk_fst, memOk_snd, pairOk_mk, pairOkR_mk, optOk1_some, exOk_ok] | apply faultHere_keeps | apply parkHere_keeps | apply modCore_keeps | apply sendOff_keeps | apply startTimer_keeps | apply withdrawFe_keeps | split)
theorem feLoad_keeps (s : State) (i : Instr) (r : Reg) (sg : Fin 8) (off : Nat) (sc : Scope) (op : AccOp) (hs : MemOk s) : PairOk (feLoad s i r sg off sc op) := by
  unfold feLoad; with_reducible repeat' (first | assumption | dsimp only [memOk_mk, mOk_mem, memOk_fst, memOk_snd, pairOk_mk, pairOkR_mk, optOk1_some, exOk_ok] | exact optOk1_none | apply faultHere_keeps | apply parkRange_keeps | apply feLocal_keeps | apply snoopAll_keeps | apply wrP_keeps | apply wr_keeps | apply feParkLocal_keeps | apply feSend_keeps | refine opt_of1 (by assumption) ?_ | split)
theorem execLdf_keeps (r : Reg) (sg : Fin 8) (base : Reg) (sc : Scope) (imm : BitVec 7) (s : State) (hs : MemOk s) : OutOk (execLdf r sg base sc imm s) := by
  unfold execLdf; with_reducible repeat' (first | assumption | intro _ | dsimp only | apply run_keeps | apply feLoad_keeps)
theorem execLdfe_keeps (r : Reg) (sg : Fin 8) (base : Reg) (sc : Scope) (imm : BitVec 7) (s : State) (hs : MemOk s) : OutOk (execLdfe r sg base sc imm s) := by
  unfold execLdfe; with_reducible repeat' (first | assumption | intro _ | dsimp only | apply run_keeps | apply feLoad_keeps)
theorem feStore_keeps (s : State) (i : Instr) (sg : Fin 8) (off : Nat) (sc : Scope) (acc : Acc1) (hs : MemOk s) : PairOk (feStore s i sg off sc acc) := by
  unfold feStore; with_reducible repeat' (first | assumption | intro _ | dsimp only [memOk_mk, mOk_mem, memOk_fst, memOk_snd, pairOk_mk, pairOkR_mk, optOk1_some, exOk_ok] | apply faultHere_keeps | apply parkRange_keeps | apply releaseIssue_keeps | apply fePerform_keeps | apply feAfter_keeps | apply releaseStore_keeps | split)
theorem execStf_keeps (r : Reg) (sg : Fin 8) (base : Reg) (sc : Scope) (imm : BitVec 7) (s : State) (hs : MemOk s) : OutOk (execStf r sg base sc imm s) := by
  unfold execStf; with_reducible repeat' (first | assumption | intro _ | dsimp only | apply run_keeps | apply feStore_keeps)
theorem execStfw_keeps (r : Reg) (sg : Fin 8) (base : Reg) (sc : Scope) (imm : BitVec 7) (s : State) (hs : MemOk s) : OutOk (execStfw r sg base sc imm s) := by
  unfold execStfw; with_reducible repeat' (first | assumption | intro _ | dsimp only [memOk_mk, mOk_mem, memOk_fst, memOk_snd, pairOk_mk, pairOkR_mk, optOk1_some, exOk_ok] | exact optOk1_none | apply run_keeps | apply faultHere_keeps | apply parkRange_keeps | apply releaseIssue_keeps | apply feLocal_keeps | apply wrP_keeps | apply feParkLocal_keeps | apply feSend_keeps | refine opt_of1 (by assumption) ?_ | split)
theorem execFest_keeps (full : Bool) (sg : Fin 8) (base : Reg) (sc : Scope) (imm : BitVec 7) (s : State) (hs : MemOk s) : OutOk (execFest full sg base sc imm s) := by
  unfold execFest; with_reducible repeat' (first | assumption | intro _ | dsimp only | apply run_keeps | apply feStore_keeps)
theorem execSt4_keeps (r : Reg) (sg : Fin 8) (base : Reg) (hi : Bool) (imm : BitVec 7) (s : State) (hs : MemOk s) : OutOk (execSt4 r sg base hi imm s) := by
  unfold execSt4; with_reducible repeat' (first | assumption | intro _ | dsimp only | apply run_keeps | apply faultHere_keeps | apply storeIssue_keeps | split)
theorem dqCheck_keeps (s : State) (c : Nat) (slot : Nat) (loc : Loc) (n : Nat) (hs : MemOk s) : PairOk (dqCheck s c slot loc n) := by
  unfold dqCheck; with_reducible repeat' (first | assumption | dsimp only [memOk_mk, mOk_mem, memOk_fst, memOk_snd, pairOk_mk, pairOkR_mk, optOk1_some, exOk_ok] | apply resolve_keeps | split)
theorem dqChecks_keeps (s : State) (c : Nat) (slot : Nat) (n : Nat) (x4 : List (Except Err Loc)) (hs : MemOk s) : PairOk (dqChecks s c slot n x4) := by
  induction x4 generalizing s with
  | nil => exact hs
  | cons x l ih =>
    cases x with
    | error e => exact hs
    | ok loc =>
      unfold dqChecks
      have h := dqCheck_keeps s c slot loc n hs
      split
      · exact pair_of ‹_› h
      · exact ih _ (pair_of ‹_› h)
      · have ht := ih _ (pair_of ‹_› h)
        split <;> exact pair_of ‹_› ht
theorem dqAppend_keeps (s : State) (c : Nat) (slot : Nat) (e : PoolEntry) (hs : MemOk s) : PairOkR (dqAppend s c slot e) := by
  unfold dqAppend; with_reducible repeat' (first | assumption | dsimp only [memOk_mk, mOk_mem, memOk_fst, memOk_snd, pairOk_mk, pairOkR_mk, optOk1_some, exOk_ok] | apply modQ_keeps | apply modFib_keeps | split)
theorem dqSend_keeps (s : State) (who : Issuer) (loc : Loc) (n : Nat) (x : Bool) (hs : MemOk s) : MemOk (dqSend s who loc n x) := by
  unfold dqSend; with_reducible repeat' (first | assumption | dsimp only [memOk_mk, mOk_mem, memOk_fst, memOk_snd, pairOk_mk, pairOkR_mk, optOk1_some, exOk_ok] | apply dqValue_keeps | apply dqAppend_keeps | apply resolve_keeps | apply addReq_keeps | apply missOf_keeps | refine pair_of (by assumption) ?_ | split)
theorem dqIssue_keeps (s : State) (i : Instr) (locs : List (Except Err Loc)) (n : Nat) (x : Bool) (hs : MemOk s) : PairOk (dqIssue s i locs n x) := by
  unfold dqIssue; with_reducible repeat' (first | assumption | intro _ | dsimp only [memOk_mk, mOk_mem, memOk_fst, memOk_snd, pairOk_mk, pairOkR_mk, optOk1_some, exOk_ok] | refine keep_foldl ?_ _ _ ?_ | apply dqChecks_keeps | apply faultHere_keeps | apply dropHeld_keeps | apply parkHere_keeps | apply startWalk_keeps | apply parkRange_keeps | apply dqSend_keeps | refine pair_of (by assumption) ?_ | split)
theorem execAqPush_keeps (sg : Fin 8) (base : Reg) (sz : Size) (x : Bool) (imm : BitVec 7) (s : State) (hs : MemOk s) : OutOk (execAqPush sg base sz x imm s) := by
  unfold execAqPush; with_reducible repeat' (first | assumption | intro _ | dsimp only | apply run_keeps | apply faultHere_keeps | apply parkHere_keeps | apply dqIssue_keeps | split)
theorem listDword_keeps (s : State) (c : Nat) (slot : Nat) (loc : Loc) (hs : MemOk s) : PairOk (listDword s c slot loc) := by
  unfold listDword
  split
  · split
    · rename_i e
      have h := congrArg OptOk1 e
      exact h.mp (forward_keeps _ _ _ _ _ hs)
    · exact hs
  · exact hs
  · exact hs
theorem listDwords_keeps (s : State) (c : Nat) (slot : Nat) (list : Loc) (m : Nat) (hs : MemOk s) : PairOk (listDwords s c slot list m) := by
  unfold listDwords; with_reducible repeat' (first | assumption | intro _ | dsimp only [memOk_mk, mOk_mem, memOk_fst, memOk_snd, pairOk_mk, pairOkR_mk, optOk1_some, exOk_ok] | refine keep_foldl1 ?_ _ _ ?_ | apply listDword_keeps)
theorem execAqList_keeps (r : Reg) (sg : Fin 8) (base : Reg) (sz : Size) (x : Bool) (imm : BitVec 7) (s : State) (hs : MemOk s) : OutOk (execAqList r sg base sz x imm s) := by
  unfold execAqList; with_reducible repeat' (first | assumption | intro _ | dsimp only [memOk_mk, mOk_mem, memOk_fst, memOk_snd, pairOk_mk, pairOkR_mk, optOk1_some, exOk_ok] | apply run_keeps | apply faultHere_keeps | apply parkRange_keeps | apply parkHere_keeps | apply listDwords_keeps | apply dqIssue_keeps | split)
theorem execSpawn_keeps (d : Reg) (a : Reg) (imm : BitVec 13) (s : State) (hs : MemOk s) : OutOk (execSpawn d a imm s) := by
  unfold execSpawn; with_reducible repeat' (first | assumption | intro _ | dsimp only [memOk_mk, mOk_mem, memOk_fst, memOk_snd, pairOk_mk, pairOkR_mk, optOk1_some, exOk_ok] | apply run_keeps | apply wr_keeps | apply putFib_keeps | apply modMe_keeps | split)
theorem migrAsk_keeps (s : State) (who : Issuer) (d : Reg) (dest : Nat) (hs : MemOk s) : PairOk (migrAsk s who d dest) := by
  unfold migrAsk; with_reducible repeat' (first | assumption | dsimp only [memOk_mk, mOk_mem, memOk_fst, memOk_snd, pairOk_mk, pairOkR_mk, optOk1_some, exOk_ok] | apply modFib_keeps | apply postMsg_keeps | split)
theorem execMigr_keeps (d : Reg) (a : Reg) (s : State) (hs : MemOk s) : OutOk (execMigr d a s) := by
  unfold execMigr; with_reducible repeat' (first | assumption | intro _ | dsimp only [memOk_mk, mOk_mem, memOk_fst, memOk_snd, pairOk_mk, pairOkR_mk, optOk1_some, exOk_ok] | apply run_keeps | apply wr_keeps | apply faultHere_keeps | apply parkOn_keeps | apply migrAsk_keeps | refine pair_of (by assumption) ?_ | split)
theorem sendIssue_keeps (s : State) (i : Instr) (d : Reg) (a : Reg) (b : Reg) (n : Nat) (q : Bool) (hs : MemOk s) : PairOk (sendIssue s i d a b n q) := by
  unfold sendIssue; with_reducible repeat' (first | assumption | dsimp only | apply faultHere_keeps | apply parkHere_keeps | apply modQ_keeps | apply parkOn_keeps | apply postMsg_keeps | split)
theorem execSend_keeps (d : Reg) (a : Reg) (b : Reg) (n : BitVec 2) (s : State) (hs : MemOk s) : OutOk (execSend d a b n s) := by
  unfold execSend; with_reducible repeat' (first | assumption | intro _ | dsimp only | apply run_keeps | apply sendIssue_keeps)
theorem execSendQ_keeps (d : Reg) (a : Reg) (b : Reg) (n : BitVec 2) (s : State) (hs : MemOk s) : OutOk (execSendQ d a b n s) := by
  unfold execSendQ; with_reducible repeat' (first | assumption | intro _ | dsimp only | apply run_keeps | apply sendIssue_keeps)
theorem execSendR_keeps (d : Reg) (b : Reg) (s : State) (hs : MemOk s) : OutOk (execSendR d b s) := by
  unfold execSendR; with_reducible repeat' (first | assumption | with_unfolding_all exact coreKeep_same fun _ => rfl | intro _ | dsimp only [memOk_mk, mOk_mem, memOk_fst, memOk_snd, pairOk_mk, pairOkR_mk, optOk1_some, exOk_ok] | apply run_keeps | apply faultHere_keeps | apply postMsg_keeps | apply modCore_keeps | apply wr_keeps | split)
theorem control_keeps (s : State) (c : Nat) (w : Vector W64 4) (hs : MemOk s) : OptOk (control s c w) := by
  unfold control; with_reducible repeat' (first | assumption | dsimp only | exact optOk_none | apply optOk_some | apply cmdResume_keeps | apply cmdAbort_keeps | split)
theorem cmdPush_keeps (s : State) (who : Issuer) (w : Vector W64 4) (e : Nat) (hs : MemOk s) : MemOk (cmdPush s who w e) := by
  unfold cmdPush; with_reducible repeat' (first | assumption | with_unfolding_all exact coreKeep_same fun _ => rfl | dsimp only [memOk_mk, mOk_mem, memOk_fst, memOk_snd, pairOk_mk, pairOkR_mk, optOk1_some, exOk_ok] | apply freshId_keeps | apply modCore_keeps | split)
theorem execRqPush_keeps (n : BitVec 3) (s : State) (hs : MemOk s) : OutOk (execRqPush n s) := by
  unfold execRqPush; with_reducible repeat' (first | assumption | intro _ | dsimp only [memOk_mk, mOk_mem, memOk_fst, memOk_snd, pairOk_mk, pairOkR_mk, optOk1_some, exOk_ok] | apply run_keeps | apply control_keeps | apply faultHere_keeps | apply cmdPush_keeps | apply parkHere_keeps | refine opt_of (by assumption) ?_ | split)
theorem execRqTry_keeps (d : Reg) (n : BitVec 2) (s : State) (hs : MemOk s) : OutOk (execRqTry d n s) := by
  unfold execRqTry; with_reducible repeat' (first | assumption | intro _ | dsimp only [memOk_mk, mOk_mem, memOk_fst, memOk_snd, pairOk_mk, pairOkR_mk, optOk1_some, exOk_ok] | apply run_keeps | apply control_keeps | apply wr_keeps | apply faultHere_keeps | apply cmdPush_keeps | refine opt_of (by assumption) ?_ | split)
theorem execRqStat_keeps (d : Reg) (a : Reg) (k : BitVec 3) (s : State) (hs : MemOk s) : OutOk (execRqStat d a k s) := by
  unfold execRqStat; with_reducible repeat' (first | assumption | apply regOp_keeps)
theorem execTlaunch_keeps (d : Reg) (a : Reg) (sg : Fin 8) (s : State) (hs : MemOk s) : OutOk (execTlaunch d a sg s) := by
  unfold execTlaunch; with_reducible repeat' (first | assumption | intro _ | dsimp only | apply run_keeps | apply faultHere_keeps | apply sendOff_keeps | split)
theorem execSegrd_keeps (d : Reg) (t : Bool) (k : Fin 8) (s : State) (hs : MemOk s) : OutOk (execSegrd d t k s) := by
  unfold execSegrd; with_reducible repeat' (first | assumption | intro _ | dsimp only [memOk_mk, mOk_mem, memOk_fst, memOk_snd, pairOk_mk, pairOkR_mk, optOk1_some, exOk_ok] | apply run_keeps | apply modMe_keeps)
theorem execTbld_keeps (r : Reg) (sg : Fin 8) (base : Reg) (imm : BitVec 7) (s : State) (hs : MemOk s) : OutOk (execTbld r sg base imm s) := by
  unfold execTbld; with_reducible repeat' (first | assumption | intro _ | dsimp only [memOk_mk, mOk_mem, memOk_fst, memOk_snd, pairOk_mk, pairOkR_mk, optOk1_some, exOk_ok] | with_unfolding_all exact core_ok (by assumption) _ | (rw [TileOk, loadSlot_tile (by assumption)]) | apply run_keeps | apply tableLoad_keeps | apply wrP_keeps | apply setCore_keeps | apply faultHere_keeps | split)
theorem execXpld_keeps (sg : Fin 8) (base : Reg) (imm : BitVec 7) (s : State) (hs : MemOk s) : OutOk (execXpld sg base imm s) := by
  unfold execXpld; with_reducible repeat' (first | assumption | intro _ | dsimp only [memOk_mk, mOk_mem, memOk_fst, memOk_snd, pairOk_mk, pairOkR_mk, optOk1_some, exOk_ok] | apply run_keeps | apply tableLoad_keeps | apply loadXtab_keeps)
theorem execGkbind_keeps (a : Reg) (b : Reg) (tag : BitVec 6) (ctx : BitVec 3) (s : State) (hs : MemOk s) : OutOk (execGkbind a b tag ctx s) := by
  unfold execGkbind; with_reducible repeat' (first | assumption | intro _ | dsimp only [memOk_mk, mOk_mem, memOk_fst, memOk_snd, pairOk_mk, pairOkR_mk, optOk1_some, exOk_ok] | apply run_keeps | apply sendOff_keeps | apply faultHere_keeps | apply loadIssue_keeps | split)
theorem execPtinvPage_keeps (a : Reg) (b : Reg) (sc : Scope) (s : State) (hs : MemOk s) : OutOk (execPtinvPage a b sc s) := by
  unfold execPtinvPage; with_reducible repeat' (first | assumption | intro _ | dsimp only | apply run_keeps | apply ptIssue_keeps)
theorem execPtinvAsid_keeps (b : Reg) (sc : Scope) (s : State) (hs : MemOk s) : OutOk (execPtinvAsid b sc s) := by
  unfold execPtinvAsid; with_reducible repeat' (first | assumption | intro _ | dsimp only | apply run_keeps | apply ptIssue_keeps)
theorem execDwait_keeps (k : Fin 8) (imm : BitVec 20) (s : State) (hs : MemOk s) : OutOk (execDwait k imm s) := by
  unfold execDwait; with_reducible repeat' (first | assumption | intro _ | dsimp only | apply run_keeps | apply counterWait_keeps)
theorem execAwait_keeps (k : Fin 8) (imm : BitVec 20) (s : State) (hs : MemOk s) : OutOk (execAwait k imm s) := by
  unfold execAwait; with_reducible repeat' (first | assumption | intro _ | dsimp only | apply run_keeps | apply counterWait_keeps)
theorem execDset_keeps (k : Fin 8) (a : Reg) (s : State) (hs : MemOk s) : OutOk (execDset k a s) := by
  unfold execDset; with_reducible repeat' (first | assumption | intro _ | dsimp only [memOk_mk, mOk_mem, memOk_fst, memOk_snd, pairOk_mk, pairOkR_mk, optOk1_some, exOk_ok] | apply run_keeps | apply modCtr_keeps)
theorem execAcbind_keeps (k : Fin 8) (a : Reg) (s : State) (hs : MemOk s) : OutOk (execAcbind k a s) := by
  unfold execAcbind; with_reducible repeat' (first | assumption | intro _ | dsimp only [memOk_mk, mOk_mem, memOk_fst, memOk_snd, pairOk_mk, pairOkR_mk, optOk1_some, exOk_ok] | apply run_keeps | apply modCtr_keeps)
theorem barArrive_keeps (s : State) (c : Nat) (k : BarKind) (hs : MemOk s) : MemOk (barArrive s c k) := by
  unfold barArrive; with_reducible repeat' (first | assumption | apply bindBarriers_keeps | apply modBar_keeps)
theorem execBar_keeps (kind : BarKind) (d : Reg) (pd : PReg) (s : State) (hs : MemOk s) : OutOk (execBar kind d pd s) := by
  unfold execBar; with_reducible repeat' (first | assumption | intro _ | dsimp only [memOk_mk, mOk_mem, memOk_fst, memOk_snd, pairOk_mk, pairOkR_mk, optOk1_some, exOk_ok] | apply run_keeps | apply releaseIssue_keeps | apply barArrive_keeps | apply parkOn_keeps | apply startTimer_keeps | apply modBar_keeps | apply wrP_keeps | apply wr_keeps | split)
theorem execTread_keeps (d : Reg) (s : State) (hs : MemOk s) : OutOk (execTread d s) := by
  unfold execTread; with_reducible repeat' (first | assumption | apply regOp_keeps)
theorem execErd_keeps (d : Reg) (k : BitVec 2) (s : State) (hs : MemOk s) : OutOk (execErd d k s) := by
  unfold execErd; with_reducible repeat' (first | assumption | apply regOp_keeps)
theorem execPcrd_keeps (d : Reg) (a : Reg) (s : State) (hs : MemOk s) : OutOk (execPcrd d a s) := by
  unfold execPcrd; with_reducible repeat' (first | assumption | apply regOp_keeps)
theorem execSysrd_keeps (r : Reg) (x : SysReg) (s : State) (hs : MemOk s) : OutOk (execSysrd r x s) := by
  unfold execSysrd; with_reducible repeat' (first | assumption | intro _ | dsimp only [memOk_mk, mOk_mem, memOk_fst, memOk_snd, pairOk_mk, pairOkR_mk, optOk1_some, exOk_ok] | apply run_keeps | apply faultHere_keeps | apply wr_keeps | split)
theorem sysWrite_keeps (s : State) (x : SysReg) (v : W64) (hs : MemOk s) : MemOk (sysWrite s x v) := by
  unfold sysWrite; with_reducible repeat' (first | assumption | with_unfolding_all exact coreKeep_same fun _ => rfl | dsimp only [memOk_mk, mOk_mem, memOk_fst, memOk_snd, pairOk_mk, pairOkR_mk, optOk1_some, exOk_ok] | apply modCore_keeps | apply modMe_keeps | split)
theorem execSyswr_keeps (r : Reg) (x : SysReg) (s : State) (hs : MemOk s) : OutOk (execSyswr r x s) := by
  unfold execSyswr; with_reducible repeat' (first | assumption | intro _ | dsimp only [memOk_mk, mOk_mem, memOk_fst, memOk_snd, pairOk_mk, pairOkR_mk, optOk1_some, exOk_ok] | apply run_keeps | apply faultHere_keeps | apply sysWrite_keeps | split)
theorem execVld_keeps (v : VReg) (sg : Fin 8) (base : Reg) (imm : BitVec 10) (s : State) (hs : MemOk s) : OutOk (execVld v sg base imm s) := by
  unfold execVld; with_reducible repeat' (first | assumption | intro _ | dsimp only [memOk_mk, mOk_mem, memOk_fst, memOk_snd, pairOk_mk, pairOkR_mk, optOk1_some, exOk_ok] | apply run_keeps | apply faultHere_keeps | apply loadIssue_keeps | split)
theorem execVldg_keeps (v : VReg) (sg : Fin 8) (base : Reg) (vi : VReg) (esz : Esz) (s : State) (hs : MemOk s) : OutOk (execVldg v sg base vi esz s) := by
  unfold execVldg; with_reducible repeat' (first | assumption | intro _ | dsimp only [memOk_mk, mOk_mem, memOk_fst, memOk_snd, pairOk_mk, pairOkR_mk, optOk1_some, exOk_ok] | apply run_keeps | apply readPieces_keeps | apply sendOff_keeps)
theorem failStore_keeps (s : State) (i : Instr) (parts : List (Loc × Acc1)) (e : Err) (hs : MemOk s) : PairOk (failStore s i parts e) := by
  unfold failStore; with_reducible repeat' (first | assumption | dsimp only | apply plan_keeps | apply faultHere_keeps | apply parkHere_keeps | apply startWalk_keeps | refine pair_of (by assumption) ?_ | split)
theorem execVsts_keeps (v : VReg) (sg : Fin 8) (base : Reg) (vi : VReg) (esz : Esz) (s : State) (hs : MemOk s) : OutOk (execVsts v sg base vi esz s) := by
  unfold execVsts; with_reducible repeat' (first | assumption | intro _ | dsimp only | apply run_keeps | apply storeIssue_keeps | apply failStore_keeps | split)
theorem execMzero_keeps (acc : Sys2Proof.Acc) (s : State) (hs : MemOk s) : OutOk (execMzero acc s) := by
  unfold execMzero; with_reducible repeat' (first | assumption | intro _ | dsimp only [memOk_mk, mOk_mem, memOk_fst, memOk_snd, pairOk_mk, pairOkR_mk, optOk1_some, exOk_ok] | apply run_keeps | apply parkHere_keeps | apply modMx_keeps | split)
theorem execMldb_keeps (f : Fmt) (sg : Fin 8) (base : Reg) (imm : BitVec 10) (s : State) (hs : MemOk s) : OutOk (execMldb f sg base imm s) := by
  unfold execMldb; with_reducible repeat' (first | assumption | intro _ | dsimp only [memOk_mk, mOk_mem, memOk_fst, memOk_snd, pairOk_mk, pairOkR_mk, optOk1_some, exOk_ok] | apply run_keeps | apply faultHere_keeps | apply loadIssue_keeps | split)
theorem execMma_keeps (acc : Sys2Proof.Acc) (va : VReg) (fa : Fmt) (fb : Fmt) (cnt : BitVec 8) (s : State) (hs : MemOk s) : OutOk (execMma acc va fa fb cnt s) := by
  unfold execMma; with_reducible repeat' (first | assumption | intro _ | dsimp only | apply run_keeps | apply parkOn_keeps)
theorem ringIssue_keeps (s : State) (i : Instr) (hops : Nat) (exch : Option (Nat × BitVec 32)) (hs : MemOk s) : PairOk (ringIssue s i hops exch) := by
  unfold ringIssue; with_reducible repeat' (first | assumption | dsimp only [memOk_mk, mOk_mem, memOk_fst, memOk_snd, pairOk_mk, pairOkR_mk, optOk1_some, exOk_ok] | apply parkOn_keeps | apply freshId_keeps | apply ringStart_keeps | split)
theorem execMrot_keeps (cnt : BitVec 8) (s : State) (hs : MemOk s) : OutOk (execMrot cnt s) := by
  unfold execMrot; with_reducible repeat' (first | assumption | intro _ | dsimp only [memOk_mk, mOk_mem, memOk_fst, memOk_snd, pairOk_mk, pairOkR_mk, optOk1_some, exOk_ok] | apply run_keeps | apply ringIssue_keeps | split)
theorem execMxch_keeps (acc : Sys2Proof.Acc) (entry : BitVec 8) (s : State) (hs : MemOk s) : OutOk (execMxch acc entry s) := by
  unfold execMxch; with_reducible repeat' (first | assumption | intro _ | dsimp only | apply run_keeps | apply ringIssue_keeps)
theorem execFuse_keeps (size : FuseSize) (s : State) (hs : MemOk s) : OutOk (execFuse size s) := by
  unfold execFuse; with_reducible repeat' (first | assumption | intro _ | dsimp only [memOk_mk, mOk_mem, memOk_fst, memOk_snd, pairOk_mk, pairOkR_mk, optOk1_some, exOk_ok] | apply run_keeps | apply modMyStrand_keeps)
theorem takeSend_keeps (s : State) (c : Nat) (e : Nat) (hs : MemOk s) : MemOk (takeSend s c e) := by
  unfold takeSend; with_reducible repeat' (first | assumption | dsimp only [memOk_mk, mOk_mem, memOk_fst, memOk_snd, pairOk_mk, pairOkR_mk, optOk1_some, exOk_ok] | apply modQ_keeps | split)
theorem sendStep_keeps (s : State) (c : Nat) (e : Nat) (code : Nat) (hs : MemOk s) : MemOk (sendStep s c e code) := by
  unfold sendStep; with_reducible repeat' (first | assumption | dsimp only [memOk_mk, mOk_mem, memOk_fst, memOk_snd, pairOk_mk, pairOkR_mk, optOk1_some, exOk_ok] | apply elemStep_keeps | apply takeSend_keeps | split)
theorem execGather_keeps (core : Nat) (entry : Nat) (s : State) (hs : MemOk s) : OutOk (execGather core entry s) := by
  unfold execGather; with_reducible repeat' (first | assumption | dsimp only [memOk_mk, mOk_mem, memOk_fst, memOk_snd, pairOk_mk, pairOkR_mk, optOk1_some, exOk_ok] | apply outOk_next | apply sendStep_keeps | split)
theorem execScatter_keeps (core : Nat) (entry : Nat) (s : State) (hs : MemOk s) : OutOk (execScatter core entry s) := by
  unfold execScatter; with_reducible repeat' (first | assumption | dsimp only [memOk_mk, mOk_mem, memOk_fst, memOk_snd, pairOk_mk, pairOkR_mk, optOk1_some, exOk_ok] | apply outOk_next | apply sendStep_keeps | split)
theorem execAccum_keeps (core : Nat) (entry : Nat) (s : State) (hs : MemOk s) : OutOk (execAccum core entry s) := by
  unfold execAccum; with_reducible repeat' (first | assumption | dsimp only [memOk_mk, mOk_mem, memOk_fst, memOk_snd, pairOk_mk, pairOkR_mk, optOk1_some, exOk_ok] | apply outOk_next | apply sendStep_keeps | split)
theorem writeBlock_keeps (s : State) (c : Nat) (off : Nat) (n : Nat) (m : Mem) (hs : MemOk s) : MemOk (writeBlock s c off n m) := by
  unfold writeBlock; with_reducible repeat' (first | assumption | apply tileStore_keeps)
theorem bumpElems_keeps (s : State) (c : Nat) (n : Nat) (hs : MemOk s) : MemOk (bumpElems s c n) := by
  unfold bumpElems; with_reducible repeat' (first | assumption | dsimp only [memOk_mk, mOk_mem, memOk_fst, memOk_snd, pairOk_mk, pairOkR_mk, optOk1_some, exOk_ok] | apply modCtr_keeps | split)
theorem execDedup_keeps (core : Nat) (entry : Nat) (s : State) (hs : MemOk s) : OutOk (execDedup core entry s) := by
  unfold execDedup; with_reducible repeat' (first | assumption | apply outOk_next | apply writeBlock_keeps | apply modCmd_keeps | apply bumpElems_keeps | split)
theorem execReduce_keeps (core : Nat) (entry : Nat) (s : State) (hs : MemOk s) : OutOk (execReduce core entry s) := by
  unfold execReduce; with_reducible repeat' (first | assumption | apply outOk_next | apply modCmd_keeps | apply elemFault_keeps | apply bumpElems_keeps | split)
theorem execCopy_keeps (core : Nat) (entry : Nat) (s : State) (hs : MemOk s) : OutOk (execCopy core entry s) := by
  unfold execCopy; with_reducible repeat' (first | assumption | dsimp only [memOk_mk, mOk_mem, memOk_fst, memOk_snd, pairOk_mk, pairOkR_mk, optOk1_some, exOk_ok] | apply outOk_next | apply sendStep_keeps | split)
theorem execWalk_keeps (core : Nat) (entry : Nat) (s : State) (hs : MemOk s) : OutOk (execWalk core entry s) := by
  unfold execWalk; with_reducible repeat' (first | assumption | dsimp only [memOk_mk, mOk_mem, memOk_fst, memOk_snd, pairOk_mk, pairOkR_mk, optOk1_some, exOk_ok] | apply outOk_next | apply sendStep_keeps | split)
theorem execFill_keeps (core : Nat) (entry : Nat) (s : State) (hs : MemOk s) : OutOk (execFill core entry s) := by
  unfold execFill; with_reducible repeat' (first | assumption | dsimp only [memOk_mk, mOk_mem, memOk_fst, memOk_snd, pairOk_mk, pairOkR_mk, optOk1_some, exOk_ok] | apply outOk_next | apply sendStep_keeps | split)
theorem collSend_keeps (s : State) (c : Nat) (e : Nat) (x : Cmd) (hs : MemOk s) : MemOk (collSend s c e x) := by
  unfold collSend; with_reducible repeat' (first | assumption | dsimp only [memOk_mk, mOk_mem, memOk_fst, memOk_snd, pairOk_mk, pairOkR_mk, optOk1_some, exOk_ok] | apply elemFault_keeps | apply modCmd_keeps | split)
theorem execColl_keeps (core : Nat) (entry : Nat) (s : State) (hs : MemOk s) : OutOk (execColl core entry s) := by
  unfold execColl; with_reducible repeat' (first | assumption | dsimp only [memOk_mk, mOk_mem, memOk_fst, memOk_snd, pairOk_mk, pairOkR_mk, optOk1_some, exOk_ok] | apply outOk_next | apply collSend_keeps | apply sendStep_keeps | split)
theorem execRes_keeps (core : Nat) (entry : Nat) (s : State) (hs : MemOk s) : OutOk (execRes core entry s) := by
  unfold execRes; with_reducible repeat' (first | assumption | apply outOk_next | apply cmdResume_keeps | split)
theorem execAbt_keeps (core : Nat) (entry : Nat) (s : State) (hs : MemOk s) : OutOk (execAbt core entry s) := by
  unfold execAbt; with_reducible repeat' (first | assumption | apply outOk_next | apply cmdAbort_keeps | split)
theorem execCommandStart_keeps (core : Nat) (s : State) (hs : MemOk s) : OutOk (execCommandStart core s) := by
  unfold execCommandStart; with_reducible repeat' (first | assumption | dsimp only | apply outOk_next | apply modCmd_keeps | split)
theorem execCommandRetire_keeps (core : Nat) (entry : Nat) (s : State) (hs : MemOk s) : OutOk (execCommandRetire core entry s) := by
  unfold execCommandRetire; with_reducible repeat' (first | assumption | apply outOk_next | apply writeBlock_keeps | apply modCtr_keeps | apply modCmd_keeps | split)
theorem execCommandStop_keeps (core : Nat) (entry : Nat) (s : State) (hs : MemOk s) : OutOk (execCommandStop core entry s) := by
  unfold execCommandStop; with_reducible repeat' (first | assumption | apply outOk_next | apply modCmd_keeps | apply reportStop_keeps | split)
theorem markLate_keeps (s : State) (c : Nat) (slot : Nat) (f : Fibre) (hs : MemOk s) : MemOk (markLate s c slot f) := by
  unfold markLate; with_reducible repeat' (first | assumption | dsimp only [memOk_mk, mOk_mem, memOk_fst, memOk_snd, pairOk_mk, pairOkR_mk, optOk1_some, exOk_ok] | apply modFib_keeps | split)
theorem drainFail_keeps (s : State) (who : Issuer) (x : FCode × Nat × FailKind) (hs : MemOk s) : MemOk (drainFail s who x) := by
  unfold drainFail; with_reducible repeat' (first | assumption | dsimp only [memOk_mk, mOk_mem, memOk_fst, memOk_snd, pairOk_mk, pairOkR_mk, optOk1_some, exOk_ok] | apply faultBack_keeps | apply dropFailure_keeps | split)
theorem parkAgain_keeps (s : State) (c : Nat) (slot : Nat) (why : Park) (w : Wait) (hs : MemOk s) : MemOk (parkAgain s c slot why w) := by
  unfold parkAgain; with_reducible repeat' (first | assumption | dsimp only [memOk_mk, mOk_mem, memOk_fst, memOk_snd, pairOk_mk, pairOkR_mk, optOk1_some, exOk_ok] | apply modFib_keeps | apply bumpEv_keeps | split)
theorem parkBack_keeps (s : State) (w : Issuer) (r : Resource) (hs : MemOk s) : MemOk (parkBack s w r) := by
  unfold parkBack; with_reducible repeat' (first | assumption | apply parkAgain_keeps | apply reissue_keeps)
theorem storeNext_keeps (s : State) (who : Issuer) (loc : Loc) (acc : Acc1) (hs : MemOk s) : MemOk (storeNext s who loc acc) := by
  unfold storeNext; with_reducible repeat' (first | assumption | dsimp only [memOk_mk, mOk_mem, memOk_fst, memOk_snd, pairOk_mk, pairOkR_mk, optOk1_some, exOk_ok] | apply sbEnter_keeps | apply advanceStore_keeps | apply parkBack_keeps | split)
theorem remoteNext_keeps (s : State) (who : Issuer) (loc : Loc) (acc : Acc1) (hs : MemOk s) : MemOk (remoteNext s who loc acc) := by
  unfold remoteNext; with_reducible repeat' (first | assumption | dsimp only [memOk_mk, mOk_mem, memOk_fst, memOk_snd, pairOk_mk, pairOkR_mk, optOk1_some, exOk_ok] | apply modQ_keeps | apply modFib_keeps | apply newTxn_keeps | apply advanceTxn_keeps | apply withdrawFe_keeps | apply parkBack_keeps | split)
theorem leaveBarrier_keeps (s : State) (c : Nat) (slot : Nat) (d : Reg) (pd : PReg) (v : W64) (p : Bool) (hs : MemOk s) : MemOk (leaveBarrier s c slot d pd v p) := by
  unfold leaveBarrier; with_reducible repeat' (first | assumption | dsimp only [memOk_mk, mOk_mem, memOk_fst, memOk_snd, pairOk_mk, pairOkR_mk, optOk1_some, exOk_ok] | apply modFib_keeps | apply makeReady_keeps | split)
theorem expireBar_keeps (s : State) (c : Nat) (slot : Nat) (kind : BarKind) (d : Reg) (pd : PReg) (hs : MemOk s) : MemOk (expireBar s c slot kind d pd) := by
  unfold expireBar; with_reducible repeat' (first | assumption | dsimp only [memOk_mk, mOk_mem, memOk_fst, memOk_snd, pairOk_mk, pairOkR_mk, optOk1_some, exOk_ok] | apply modBar_keeps | apply leaveBarrier_keeps | split)
theorem drainNext_keeps (s : State) (who : Issuer) (next : Then) (hs : MemOk s) : MemOk (drainNext s who next) := by
  unfold drainNext; with_reducible repeat' (first | assumption | dsimp only [memOk_mk, mOk_mem, memOk_fst, memOk_snd, pairOk_mk, pairOkR_mk, optOk1_some, exOk_ok] | apply makeReady_keeps | apply storeNext_keeps | apply parkBack_keeps | apply tileDo_keeps | apply remoteNext_keeps | apply feLocal_keeps | apply modFib_keeps | apply reissue_keeps | apply barArrive_keeps | apply expireBar_keeps | apply parkAgain_keeps | apply migrAsk_keeps | apply setWait_keeps | apply triggerTask_keeps | apply ptDiscard_keeps | refine pair_of (by assumption) ?_ | refine opt_of1 (by assumption) ?_ | split)
theorem wakeFibre_keeps (s : State) (c : Nat) (slot : Nat) (hs : MemOk s) : MemOk (wakeFibre s c slot) := by
  unfold wakeFibre; with_reducible repeat' (first | assumption | dsimp only [memOk_mk, mOk_mem, memOk_fst, memOk_snd, pairOk_mk, pairOkR_mk, optOk1_some, exOk_ok] | apply markLate_keeps | apply makeReady_keeps | apply drainFail_keeps | apply drainNext_keeps | split)
theorem grantClass_keeps (s : State) (c : Nat) (cls : Nat) (x3 : List (Nat × Fibre)) (hs : MemOk s) : MemOk (grantClass s c cls x3) := by
  induction x3 generalizing s c cls with
  | nil => exact hs
  | cons x_ l_ ih =>
    unfold grantClass; with_reducible repeat' (first | assumption | apply ih | dsimp only | apply modFib_keeps | apply makeReady_keeps | split)
theorem wakeCore_keeps (s : State) (c : Nat) (hs : MemOk s) : MemOk (wakeCore s c) := by
  unfold wakeCore; with_reducible repeat' (first | assumption | intro _ | dsimp only | refine keep_foldl ?_ _ _ ?_ | apply wakeFibre_keeps | apply grantClass_keeps)
theorem takeStrand_keeps (s : State) (c : Nat) (slot : Nat) (st : Nat) (hs : MemOk s) : MemOk (takeStrand s c slot st) := by
  unfold takeStrand; with_reducible repeat' (first | assumption | with_unfolding_all exact coreKeep_same fun _ => rfl | dsimp only [memOk_mk, mOk_mem, memOk_fst, memOk_snd, pairOk_mk, pairOkR_mk, optOk1_some, exOk_ok] | apply modFib_keeps | apply modCore_keeps | split)
theorem swapIn_keeps (s : State) (c : Nat) (hs : MemOk s) : MemOk (swapIn s c) := by
  unfold swapIn; with_reducible repeat' (first | assumption | intro _ | dsimp only | refine keep_foldl ?_ _ _ ?_ | apply takeStrand_keeps | split)
theorem cycleHead_keeps (s : State) (c : Nat) (hs : MemOk s) : MemOk (cycleHead s c) := by
  unfold cycleHead; with_reducible repeat' (first | assumption | with_unfolding_all exact coreKeep_same fun _ => rfl | dsimp only [memOk_mk, mOk_mem, memOk_fst, memOk_snd, pairOk_mk, pairOkR_mk, optOk1_some, exOk_ok] | apply swapIn_keeps | apply bumpEv_keeps | apply wakeCore_keeps | apply modCore_keeps | split)
theorem fetchWait_keeps (s : State) (c : Nat) (slot : Nat) (why : Park) (w : Wait) (hs : MemOk s) : MemOk (fetchWait s c slot why w) := by
  unfold fetchWait; with_reducible repeat' (first | assumption | apply modFib_keeps | apply parkFib_keeps | split)
theorem fetchMiss_keeps (s : State) (c : Nat) (slot : Nat) (pc : W64) (loc : Loc) (hs : MemOk s) : MemOk (fetchMiss s c slot pc loc) := by
  unfold fetchMiss; with_reducible repeat' (first | assumption | dsimp only | apply takeFault_keeps | apply fetchWait_keeps | apply sendFill_keeps | apply tcTouch_keeps | apply startWalk_keeps | split)
theorem nameIssuer_keeps (s : State) (c : Nat) (st : Nat) (slot : Nat) (pc : W64) (hs : MemOk s) : MemOk (nameIssuer s c st slot pc) := hs
theorem latchIssue_keeps (s : State) (c : Nat) (st : Nat) (slot : Nat) (f : Fibre) (hs : MemOk s) : MemOk (latchIssue s c st slot f) := by
  unfold latchIssue; with_reducible repeat' (first | assumption | dsimp only [memOk_mk, mOk_mem, memOk_fst, memOk_snd, pairOk_mk, pairOkR_mk, optOk1_some, exOk_ok] | apply takeFault_keeps | apply takeTurn_keeps | apply dropOnce_keeps | apply passTurn_keeps | apply fetchMiss_keeps | apply openIssue_keeps | split)
theorem openCycle_keeps (s : State) (c : Nat) (hs : MemOk s) : MemOk (openCycle s c) := by
  unfold openCycle; with_reducible repeat' (first | assumption | dsimp only [memOk_mk, mOk_mem, memOk_fst, memOk_snd, pairOk_mk, pairOkR_mk, optOk1_some, exOk_ok] | apply cycleHead_keeps | apply latchIssue_keeps | split)
theorem execSequencerCycle_keeps (c : Nat) (s : State) (hs : MemOk s) : OutOk (execSequencerCycle c s) := by
  unfold execSequencerCycle; with_reducible repeat' (first | assumption | dsimp only [memOk_mk, mOk_mem, memOk_fst, memOk_snd, pairOk_mk, pairOkR_mk, optOk1_some, exOk_ok] | apply outOk_next | apply bumpEv_keeps | apply wakeCore_keeps | apply openCycle_keeps | split)
theorem execQuantumEnd_keeps (c : Nat) (st : Nat) (s : State) (hs : MemOk s) : OutOk (execQuantumEnd c st s) := by
  unfold execQuantumEnd; with_reducible repeat' (first | assumption | dsimp only | apply outOk_next | apply requeue_keeps | apply leaveStrand_keeps | apply bumpEv_keeps | apply modFib_keeps | split)
theorem settleGroup_keeps (s : State) (c : Nat) (slot : Nat) (hs : MemOk s) : MemOk (settleGroup s c slot) := by
  unfold settleGroup; with_reducible repeat' (first | assumption | with_unfolding_all exact coreKeep_same fun _ => rfl | dsimp only [memOk_mk, mOk_mem, memOk_fst, memOk_snd, pairOk_mk, pairOkR_mk, optOk1_some, exOk_ok] | apply modCore_keeps | split)
theorem expire_keeps (s : State) (c : Nat) (slot : Nat) (hs : MemOk s) : MemOk (expire s c slot) := by
  unfold expire; with_reducible repeat' (first | assumption | with_unfolding_all exact coreKeep_same fun _ => rfl | dsimp only [memOk_mk, mOk_mem, memOk_fst, memOk_snd, pairOk_mk, pairOkR_mk, optOk1_some, exOk_ok] | apply makeReady_keeps | apply modFib_keeps | apply settleGroup_keeps | apply modCore_keeps | split)
theorem execWaitTimeout_keeps (core : Nat) (slot : Nat) (s : State) (hs : MemOk s) : OutOk (execWaitTimeout core slot s) := by
  unfold execWaitTimeout; with_reducible repeat' (first | assumption | dsimp only | apply outOk_next | apply expire_keeps | apply feLeave_keeps | apply expireBar_keeps | apply withdrawFe_keeps | split)
theorem dropReply_keeps (s : State) (id_ : Nat) (r : Req) (hs : MemOk s) : MemOk (dropReply s id_ r) := by
  unfold dropReply; with_reducible repeat' (first | assumption | dsimp only [memOk_mk, mOk_mem, memOk_fst, memOk_snd, pairOk_mk, pairOkR_mk, optOk1_some, exOk_ok] | apply takeReq_keeps | apply modQ_keeps | split)
theorem nodeReply_keeps (s : State) (id_ : Nat) (t : Txn) (a : Answer) (hs : MemOk s) : MemOk (nodeReply s id_ t a) := by
  unfold nodeReply; with_reducible repeat' (first | assumption | apply nodeRun_keeps | apply nodeStep_keeps | split)
theorem txnReply_keeps (s : State) (r : Req) (id_ : Nat) (off : Nat) (a : Answer) (hs : MemOk s) : MemOk (txnReply s r id_ off a) := by
  unfold txnReply; with_reducible repeat' (first | assumption | dsimp only | apply nodeReply_keeps | apply modTxns_keeps | apply failTxn_keeps | apply finishTxn_keeps | split)
theorem poolReply_keeps (s : State) (r : Req) (c : Nat) (e : Nat) (a : Answer) (hs : MemOk s) : MemOk (poolReply s r c e a) := by
  unfold poolReply; with_reducible repeat' (first | assumption | apply violate_keeps | apply modQ_keeps | split)
theorem forgetFill_keeps (s : State) (c : Nat) (id_ : Nat) (hs : MemOk s) : MemOk (forgetFill s c id_) := by
  unfold forgetFill; with_reducible repeat' (first | assumption | with_unfolding_all exact coreKeep_same fun _ => rfl | dsimp only [memOk_mk, mOk_mem, memOk_fst, memOk_snd, pairOk_mk, pairOkR_mk, optOk1_some, exOk_ok] | apply modCore_keeps | split)
theorem fillRow_keeps (s : State) (id_ : Nat) (r : Req) (v : W512) (stamp : Nat) (hs : MemOk s) : MemOk (fillRow s id_ r v stamp) := by
  unfold fillRow; with_reducible repeat' (first | assumption | dsimp only | apply dropOlder_keeps | (refine modCore_keeps _ _ _ (coreKeep_of fun k h => ?_) ?_; rw [TileOk, rowPut_tile]; exact h) | split)
theorem prefetchReply_keeps (s : State) (id_ : Nat) (r : Req) (c : Nat) (va : Nat) (a : Answer) (hs : MemOk s) : MemOk (prefetchReply s id_ r c va a) := by
  unfold prefetchReply; with_reducible repeat' (first | assumption | dsimp only | apply modPf_keeps | apply fillRow_keeps | split)
theorem partEnd_keeps (s : State) (c : Nat) (e : Nat) (elem : Nat) (parts : Nat) (hs : MemOk s) : MemOk (partEnd s c e elem parts) := by
  unfold partEnd; with_reducible repeat' (first | assumption | apply elemEnd_keeps | apply modCmd_keeps | split)
theorem elemData_keeps (s : State) (r : Req) (c : Nat) (e : Nat) (elem : Nat) (dst : Option Nat) (v : W512) (hs : MemOk s) : MemOk (elemData s r c e elem dst v) := by
  unfold elemData; with_reducible repeat' (first | assumption | intro _ | dsimp only | refine keep_foldl ?_ _ _ ?_ | apply landBytes_keeps | apply modReqs_keeps | split)
theorem elemReply_keeps (s : State) (r : Req) (c : Nat) (e : Nat) (elem : Nat) (dst : Option Nat) (a : Answer) (hs : MemOk s) : MemOk (elemReply s r c e elem dst a) := by
  unfold elemReply; with_reducible repeat' (first | assumption | dsimp only | apply partEnd_keeps | apply elemData_keeps | apply elemFault_keeps | apply modReqs_keeps | split)
theorem deliver_keeps (s : State) (id_ : Nat) (r : Req) (a : Answer) (hs : MemOk s) : MemOk (deliver s id_ r a) := by
  unfold deliver; with_reducible repeat' (first | assumption | dsimp only [memOk_mk, mOk_mem, memOk_fst, memOk_snd, pairOk_mk, pairOkR_mk, optOk1_some, exOk_ok] | apply dropReply_keeps | apply txnReply_keeps | apply takeReq_keeps | apply readReturns_keeps | apply poolReply_keeps | apply forgetFill_keeps | apply prefetchReply_keeps | apply fillRow_keeps | apply elemReply_keeps | split)
theorem execAccessReply_keeps (id_ : Nat) (s : State) (hs : MemOk s) : OutOk (execAccessReply id_ s) := by
  unfold execAccessReply; with_reducible repeat' (first | assumption | dsimp only | apply outOk_next | apply performPlain_keeps | apply deliver_keeps | split)
theorem freeForward_keeps (s : State) (c : Nat) (e : Nat) (hs : MemOk s) : MemOk (freeForward s c e) := by
  unfold freeForward; with_reducible repeat' (first | assumption | dsimp only [memOk_mk, mOk_mem, memOk_fst, memOk_snd, pairOk_mk, pairOkR_mk, optOk1_some, exOk_ok] | apply modQ_keeps | split)
theorem execReplyForward_keeps (id_ : Nat) (s : State) (hs : MemOk s) : OutOk (execReplyForward id_ s) := by
  unfold execReplyForward; with_reducible repeat' (first | assumption | dsimp only [memOk_mk, mOk_mem, memOk_fst, memOk_snd, pairOk_mk, pairOkR_mk, optOk1_some, exOk_ok] | apply outOk_next | apply performPlain_keeps | apply readReturns_keeps | apply freeForward_keeps | apply modReqs_keeps | split)
theorem fetchReady_keeps (s : State) (c : Nat) (slot : Nat) (hs : MemOk s) : MemOk (fetchReady s c slot) := by
  unfold fetchReady; with_reducible repeat' (first | assumption | apply modFib_keeps | apply makeReady_keeps | split)
theorem execIcacheFill_keeps (id_ : Nat) (s : State) (hs : MemOk s) : OutOk (execIcacheFill id_ s) := by
  unfold execIcacheFill; with_reducible repeat' (first | assumption | with_unfolding_all exact coreKeep_same fun _ => rfl | dsimp only [memOk_mk, mOk_mem, memOk_fst, memOk_snd, pairOk_mk, pairOkR_mk, optOk1_some, exOk_ok] | apply outOk_next | apply performPlain_keeps | apply forgetFill_keeps | apply takeReq_keeps | apply modCore_keeps | apply fetchReady_keeps | apply fetchFault_keeps | split)
theorem tcPut_keeps (s : State) (c : Nat) (x : Xlate) (hs : MemOk s) : MemOk (tcPut s c x) := by
  unfold tcPut; with_reducible repeat' (first | assumption | with_unfolding_all exact coreKeep_same fun _ => rfl | dsimp only [memOk_mk, mOk_mem, memOk_fst, memOk_snd, pairOk_mk, pairOkR_mk, optOk1_some, exOk_ok] | apply modCore_keeps | split)
theorem execTlbLookup_keeps (id_ : Nat) (s : State) (hs : MemOk s) : OutOk (execTlbLookup id_ s) := by
  unfold execTlbLookup; with_reducible repeat' (first | assumption | dsimp only | apply outOk_next | apply modUnit_keeps | apply tcPut_keeps | apply walkFault_keeps | apply takeWalk_keeps | apply walkDone_keeps | apply modWalk_keeps | apply takeWalkers_keeps | split)
theorem tlbPut_keeps (s : State) (u : Nat) (x : Xlate) (hs : MemOk s) : MemOk (tlbPut s u x) := hs
theorem installLeaf_keeps (s : State) (w : WalkReq) (x : Xlate) (hs : MemOk s) : MemOk (installLeaf s w x) := by
  unfold installLeaf; with_reducible repeat' (first | assumption | apply tcPut_keeps | apply tlbPut_keeps | split)
theorem walkLeaf_keeps (s : State) (w : WalkReq) (x : Xlate) (hs : MemOk s) : MemOk (walkLeaf s w x) := by
  unfold walkLeaf; with_reducible repeat' (first | assumption | dsimp only [memOk_mk, mOk_mem, memOk_fst, memOk_snd, pairOk_mk, pairOkR_mk, optOk1_some, exOk_ok] | apply walkFault_keeps | apply installLeaf_keeps | apply walkDone_keeps | apply orLeaf_keeps | apply leafFails_keeps | refine pair_of (by assumption) ?_ | split)
theorem walkFails_keeps (s : State) (id_ : Nat) (w : WalkReq) (e : Err) (hs : MemOk s) : MemOk (walkFails s id_ w e) := by
  unfold walkFails; with_reducible repeat' (first | assumption | dsimp only [memOk_mk, mOk_mem, memOk_fst, memOk_snd, pairOk_mk, pairOkR_mk, optOk1_some, exOk_ok] | apply takeWalks_keeps | apply failWalks_keeps | split)
theorem shareLeaf_keeps (s : State) (u : Nat) (x : Xlate) (hs : MemOk s) : MemOk (shareLeaf s u x) := hs
theorem execWalkEnd_keeps (id_ : Nat) (s : State) (hs : MemOk s) : OutOk (execWalkEnd id_ s) := by
  unfold execWalkEnd; with_reducible repeat' (first | assumption | apply outOk_next | apply walkLeaf_keeps | apply takeWalk_keeps | apply walkTables_keeps | apply walkFails_keeps | apply shareLeaf_keeps | apply takeWalkers_keeps | refine pair_of (by assumption) ?_ | split)
theorem codeTo_keeps (s : State) (who : Issuer) (d : Reg) (v : W64) (hs : MemOk s) : MemOk (codeTo s who d v) := by
  unfold codeTo; with_reducible repeat' (first | assumption | dsimp only [memOk_mk, mOk_mem, memOk_fst, memOk_snd, pairOk_mk, pairOkR_mk, optOk1_some, exOk_ok] | apply makeReady_keeps | apply modFib_keeps | split)
theorem refuseSend_keeps (s : State) (id_ : Nat) (who : Issuer) (credit : Option Nat) (d : Reg) (hs : MemOk s) : MemOk (refuseSend s id_ who credit d) := by
  unfold refuseSend; with_reducible repeat' (first | assumption | apply dropSendSlot_keeps | apply takeMsg_keeps | apply modFib_keeps | apply modQ_keeps | apply codeTo_keeps | split)
theorem execInboxReservation_keeps (id_ : Nat) (s : State) (hs : MemOk s) : OutOk (execInboxReservation id_ s) := by
  unfold execInboxReservation; with_reducible repeat' (first | assumption | apply outOk_next | apply refuseSend_keeps | apply modQ_keeps | apply grantSlot_keeps | apply putMsg_keeps | split)
theorem redArrives_keeps (s : State) (who : Issuer) (a : Nat) (hs : MemOk s) : MemOk (redArrives s who a) := by
  unfold redArrives; with_reducible repeat' (first | assumption | apply modFib_keeps | apply ctrlNotice_keeps | split)
theorem replyTo_keeps (s : State) (c : Nat) (e : Nat) (v : Option W64) (hs : MemOk s) : MemOk (replyTo s c e v) := by
  unfold replyTo; with_reducible repeat' (first | assumption | apply modQ_keeps | split)
theorem execMessageWrite_keeps (id_ : Nat) (s : State) (hs : MemOk s) : OutOk (execMessageWrite id_ s) := by
  unfold execMessageWrite; with_reducible repeat' (first | assumption | dsimp only [memOk_mk, mOk_mem, memOk_fst, memOk_snd, pairOk_mk, pairOkR_mk, optOk1_some, exOk_ok] | apply outOk_next | apply modQ_keeps | apply grantNext_keeps | apply refuseSend_keeps | apply takeMsg_keeps | apply codeTo_keeps | apply dropSendSlot_keeps | apply redArrives_keeps | apply replyTo_keeps | split)
theorem moveReads_keeps (s : State) (c : Nat) (slot : Nat) (dest : Nat) (slot' : Nat) (hs : MemOk s) : MemOk (moveReads s c slot dest slot') := hs
theorem moveEntries_keeps (s : State) (c : Nat) (dest : Nat) (x3 : List Nat) (hs : MemOk s) : PairOk (moveEntries s c dest x3) := by
  induction x3 generalizing s c dest with
  | nil => exact hs
  | cons x_ l_ ih =>
    unfold moveEntries; with_reducible repeat' (first | assumption | apply ih | dsimp only [memOk_mk, mOk_mem, memOk_fst, memOk_snd, pairOk_mk, pairOkR_mk, optOk1_some, exOk_ok] | apply modQ_keeps | split)
theorem execMigrationReserve_keeps (id_ : Nat) (s : State) (hs : MemOk s) : OutOk (execMigrationReserve id_ s) := by
  unfold execMigrationReserve; with_reducible repeat' (first | assumption | dsimp only [memOk_mk, mOk_mem, memOk_fst, memOk_snd, pairOk_mk, pairOkR_mk, optOk1_some, exOk_ok] | apply outOk_next | apply codeTo_keeps | apply takeMsg_keeps | apply moveReads_keeps | apply flushFailed_keeps | apply moveEntries_keeps | apply modQ_keeps | apply bindBarriers_keeps | apply bumpEv_keeps | apply disown_keeps | apply delFib_keeps | apply putMsg_keeps | split)
theorem wakeSaved_keeps (s : State) (o : OldFid) (skip : Bool) (hs : MemOk s) : MemOk (wakeSaved s o skip) := by
  unfold wakeSaved; with_reducible repeat' (first | assumption | intro _ | dsimp only [memOk_mk, mOk_mem, memOk_fst, memOk_snd, pairOk_mk, pairOkR_mk, optOk1_some, exOk_ok] | refine keep_foldl ?_ _ _ ?_ | apply modTask_keeps | apply savedPoke_keeps | split)
theorem wakeFault_keeps (s : State) (c : Nat) (slot : Nat) (f : Fibre) (skip : Bool) (hs : MemOk s) : MemOk (wakeFault s c slot f skip) := by
  unfold wakeFault; with_reducible repeat' (first | assumption | dsimp only [memOk_mk, mOk_mem, memOk_fst, memOk_snd, pairOk_mk, pairOkR_mk, optOk1_some, exOk_ok] | apply makeReady_keeps | apply modFib_keeps | apply settleGroup_keeps | apply resendHeads_keeps | apply dqFree_keeps | split)
theorem wakeCode_keeps (s : State) (target : Nat) (skip : Bool) (hs : MemOk s) : PairOk (wakeCode s target skip) := by
  unfold wakeCode; with_reducible repeat' (first | assumption | dsimp only [memOk_mk, mOk_mem, memOk_fst, memOk_snd, pairOk_mk, pairOkR_mk, optOk1_some, exOk_ok] | apply wakeSaved_keeps | apply wakeFault_keeps | split)
theorem execWakeDelivery_keeps (id_ : Nat) (s : State) (hs : MemOk s) : OutOk (execWakeDelivery id_ s) := by
  unfold execWakeDelivery; with_reducible repeat' (first | assumption | dsimp only [memOk_mk, mOk_mem, memOk_fst, memOk_snd, pairOk_mk, pairOkR_mk, optOk1_some, exOk_ok] | apply outOk_next | apply wakeCode_keeps | apply takeMsg_keeps | apply codeTo_keeps | split)
theorem tileRemote_keeps (s : State) (id_ : Nat) (r : Req) (c : Nat) (off : Nat) (hs : MemOk s) : MemOk (tileRemote s id_ r c off) := by
  unfold tileRemote; with_reducible repeat' (first | assumption | intro _ | dsimp only [memOk_mk, mOk_mem, memOk_fst, memOk_snd, pairOk_mk, pairOkR_mk, optOk1_some, exOk_ok] | apply answerReq_keeps | apply fePerform_keeps | apply feAfter_keeps | apply modTile_keeps | apply deferReq_keeps | apply tileDo_keeps | split)
theorem execRemoteTileAccess_keeps (id_ : Nat) (s : State) (hs : MemOk s) : OutOk (execRemoteTileAccess id_ s) := by
  unfold execRemoteTileAccess; with_reducible repeat' (first | assumption | apply outOk_next | apply tileRemote_keeps | split)
theorem execFeWithdrawal_keeps (id_ : Nat) (s : State) (hs : MemOk s) : OutOk (execFeWithdrawal id_ s) := by
  unfold execFeWithdrawal; with_reducible repeat' (first | assumption | intro _ | dsimp only [memOk_mk, mOk_mem, memOk_fst, memOk_snd, pairOk_mk, pairOkR_mk, optOk1_some, exOk_ok] | apply outOk_next | apply modTile_keeps | apply serveWord_keeps | apply answerReq_keeps | split)
theorem execStoreBufferSend_keeps (core : Nat) (id_ : Nat) (s : State) (hs : MemOk s) : OutOk (execStoreBufferSend core id_ s) := by
  unfold execStoreBufferSend; with_reducible repeat' (first | assumption | dsimp only | apply outOk_next | apply modSb_keeps | apply addReq_keeps | split)
theorem storeFailed_keeps (s : State) (r : Req) (who : Issuer) (code : FCode) (hs : MemOk s) : MemOk (storeFailed s r who code) := by
  unfold storeFailed; with_reducible repeat' (first | assumption | apply violate_keeps | apply modFib_keeps | apply appendRec_keeps | split)
theorem execStoreAck_keeps (id_ : Nat) (s : State) (hs : MemOk s) : OutOk (execStoreAck id_ s) := by
  unfold execStoreAck; with_reducible repeat' (first | assumption | dsimp only [memOk_mk, mOk_mem, memOk_fst, memOk_snd, pairOk_mk, pairOkR_mk, optOk1_some, exOk_ok] | apply outOk_next | apply performPlain_keeps | apply takeReq_keeps | apply recordDone_keeps | apply addUnack_keeps | apply modSb_keeps | apply storeFailed_keeps | split)
theorem execControllerIssue_keeps (id_ : Nat) (s : State) (hs : MemOk s) : OutOk (execControllerIssue id_ s) := by
  unfold execControllerIssue; with_reducible repeat' (first | assumption | apply outOk_next | apply issueDram_keeps | split)
theorem execAccumulateAccept_keeps (id_ : Nat) (s : State) (hs : MemOk s) : OutOk (execAccumulateAccept id_ s) := by
  unfold execAccumulateAccept; with_reducible repeat' (first | assumption | apply outOk_next | apply acceptRed_keeps | split)
theorem execRowCacheExpiry_keeps (core : Nat) (atom : Nat) (s : State) (hs : MemOk s) : OutOk (execRowCacheExpiry core atom s) := by
  unfold execRowCacheExpiry; with_reducible repeat' (first | assumption | with_unfolding_all exact coreKeep_same fun _ => rfl | dsimp only [memOk_mk, mOk_mem, memOk_fst, memOk_snd, pairOk_mk, pairOkR_mk, optOk1_some, exOk_ok] | apply outOk_next | apply modCore_keeps | split)
theorem execScrub_keeps (atom : Nat) (s : State) (hs : MemOk s) : OutOk (execScrub atom s) := by
  unfold execScrub; dsimp only; split
  · split
    · exact dramAccess_keeps _ _ _ _ _ hs
    · exact appendRec_keeps _ _ _ _ hs
  · have h := eccRead_keeps s atom hs
    cases e : eccRead s atom with
    | none => exact hs
    | some t => rw [e] at h; exact h
theorem execRefresh_keeps (_chan : Nat) (_bank : Nat) (_row : Nat) (s : State) (hs : MemOk s) : OutOk (execRefresh _chan _bank _row s) := hs
theorem execStackTemperatureReport_keeps (stack : Nat) (temp : Int) (s : State) (hs : MemOk s) : OutOk (execStackTemperatureReport stack temp s) := by
  unfold execStackTemperatureReport; with_reducible repeat' (first | assumption | intro _ | dsimp only | apply outOk_next | refine keep_foldl ?_ _ _ ?_ | apply modDom_keeps | apply setTemp_keeps | split)
theorem execHostResponse_keeps (id_ : Nat) (grantE : Bool) (line : Option W512) (s : State) (hs : MemOk s) : OutOk (execHostResponse id_ grantE line s) := by
  unfold execHostResponse; with_reducible repeat' (first | assumption | dsimp only [memOk_mk, mOk_mem, memOk_fst, memOk_snd, pairOk_mk, pairOkR_mk, optOk1_some, exOk_ok] | apply outOk_next | apply hostReply_keeps | split)
theorem acquiresFail_keeps (s : State) (hs : MemOk s) : MemOk (acquiresFail s) := by
  unfold acquiresFail; with_reducible repeat' (first | assumption | intro _ | dsimp only | refine keep_foldl ?_ _ _ ?_ | apply failTxn_keeps | split)
theorem linkLost_keeps (s : State) (hs : MemOk s) : MemOk (linkLost s) := by
  unfold linkLost; with_reducible repeat' (first | assumption | dsimp only [memOk_mk, mOk_mem, memOk_fst, memOk_snd, pairOk_mk, pairOkR_mk, optOk1_some, exOk_ok] | apply modReqs_keeps | apply modHost_keeps | split)
theorem execCxlLinkDown_keeps (s : State) (hs : MemOk s) : OutOk (execCxlLinkDown s) := acquiresFail_keeps (linkLost s) hs
theorem execCxlLinkRetrain_keeps (s : State) (hs : MemOk s) : OutOk (execCxlLinkRetrain s) := hs
theorem execHostRegisterAccess_keeps (off : Nat) (size : Nat) (wr : Option W64) (s : State) (hs : MemOk s) : OutOk (execHostRegisterAccess off size wr s) := by
  unfold execHostRegisterAccess; with_reducible repeat' (first | assumption | dsimp only | apply outOk_next | apply modHost_keeps | apply regAccess_keeps | refine pair_of (by assumption) ?_ | split)
theorem exchangeAccs_keeps (s : State) (r : RingOp) (a : Nat) (e : BitVec 32) (hs : MemOk s) : MemOk (exchangeAccs s r a e) := by
  unfold exchangeAccs; with_reducible repeat' (first | assumption | intro _ | dsimp only | refine keep_foldl ?_ _ _ ?_ | apply modMx_keeps)
theorem execMxchComplete_keeps (id_ : Nat) (s : State) (hs : MemOk s) : OutOk (execMxchComplete id_ s) := by
  unfold execMxchComplete; with_reducible repeat' (first | assumption | apply outOk_next | apply ringEnd_keeps | apply exchangeAccs_keeps | split)
theorem joinMember_keeps (s : State) (st : Nat) (pc : W64) (m : Nat) (hs : MemOk s) : MemOk (joinMember s st pc m) := by
  unfold joinMember; with_reducible repeat' (first | assumption | with_unfolding_all exact coreKeep_same fun _ => rfl | dsimp only [memOk_mk, mOk_mem, memOk_fst, memOk_snd, pairOk_mk, pairOkR_mk, optOk1_some, exOk_ok] | apply modCore_keeps | apply modFib_keeps | apply makeReady_keeps | split)
theorem execRejoinLineHigh_keeps (core : Nat) (strand : Nat) (s : State) (hs : MemOk s) : OutOk (execRejoinLineHigh core strand s) := by
  unfold execRejoinLineHigh; with_reducible repeat' (first | assumption | intro _ | dsimp only | apply outOk_next | refine keep_foldl ?_ _ _ ?_ | apply joinMember_keeps | split)
theorem execBarrierComplete_keeps (core : Nat) (kind : BarKind) (s : State) (hs : MemOk s) : OutOk (execBarrierComplete core kind s) := by
  unfold execBarrierComplete; with_reducible repeat' (first | assumption | intro _ | dsimp only [memOk_mk, mOk_mem, memOk_fst, memOk_snd, pairOk_mk, pairOkR_mk, optOk1_some, exOk_ok] | apply outOk_next | refine keep_foldl ?_ _ _ ?_ | apply leaveBarrier_keeps | apply modBar_keeps | split)
theorem sendBeacon_keeps (s : State) (hs : MemOk s) : MemOk (sendBeacon s) := by
  unfold sendBeacon; with_reducible repeat' (first | assumption | dsimp only [memOk_mk, mOk_mem, memOk_fst, memOk_snd, pairOk_mk, pairOkR_mk, optOk1_some, exOk_ok] | split)
theorem sendNotice_keeps (s : State) (hs : MemOk s) : MemOk (sendNotice s) := by
  unfold sendNotice; with_reducible repeat' (first | assumption | dsimp only [memOk_mk, mOk_mem, memOk_fst, memOk_snd, pairOk_mk, pairOkR_mk, optOk1_some, exOk_ok] | apply sendFrame_keeps | split)
theorem upset_keeps (s : State) (hs : MemOk s) : MemOk (upset s) := by
  unfold upset; with_reducible repeat' (first | assumption | dsimp only [memOk_mk, mOk_mem, memOk_fst, memOk_snd, pairOk_mk, pairOkR_mk, optOk1_some, exOk_ok] | apply mOk_marks | split)
theorem lateColls_keeps (s : State) (hs : MemOk s) : MemOk (lateColls s) := by
  unfold lateColls; with_reducible repeat' (first | assumption | intro _ | dsimp only [memOk_mk, mOk_mem, memOk_fst, memOk_snd, pairOk_mk, pairOkR_mk, optOk1_some, exOk_ok] | refine keep_foldl ?_ _ _ ?_ | apply elemFault_keeps | split)
theorem execTimeTick_keeps (s : State) (hs : MemOk s) : OutOk (execTimeTick s) := by
  unfold execTimeTick; with_reducible repeat' (first | assumption | dsimp only [memOk_mk, mOk_mem, memOk_fst, memOk_snd, pairOk_mk, pairOkR_mk, optOk1_some, exOk_ok] | apply outOk_next | apply sendBeacon_keeps | apply sendNotice_keeps | apply upset_keeps | apply lateColls_keeps | apply lateWaits_keeps | split)
theorem execGovernorWindow_keeps (u : Nat) (s : State) (hs : MemOk s) : OutOk (execGovernorWindow u s) := by
  unfold execGovernorWindow; with_reducible repeat' (first | assumption | intro _ | dsimp only [memOk_mk, mOk_mem, memOk_fst, memOk_snd, pairOk_mk, pairOkR_mk, optOk1_some, exOk_ok] | apply outOk_next | refine keep_foldl ?_ _ _ ?_ | apply modDom_keeps | split)
theorem execVfEvaluate_keeps (dom : Nat) (spend : Nat) (s : State) (hs : MemOk s) : OutOk (execVfEvaluate dom spend s) := by
  unfold execVfEvaluate; with_reducible repeat' (first | assumption | dsimp only | apply outOk_next | apply modDom_keeps | apply gateDom_keeps | split)
theorem execEqualisation_keeps (lanes : List Nat) (s : State) (hs : MemOk s) : OutOk (execEqualisation lanes s) := by
  unfold execEqualisation; with_reducible repeat' (first | assumption | intro _ | dsimp only | apply outOk_next | refine keep_foldl ?_ _ _ ?_ | apply bumpDev_keeps)
theorem execDispatch_keeps (plan : Plan) (s : State) (hs : MemOk s) : OutOk (execDispatch plan s) := by
  unfold execDispatch; with_reducible repeat' (first | assumption | apply outOk_next | apply dispatchOn_keeps | split)
theorem withdrawSenders_keeps (s : State) (c : Nat) (hs : MemOk s) : MemOk (withdrawSenders s c) := by
  unfold withdrawSenders; with_reducible repeat' (first | assumption | intro _ | dsimp only | refine keep_foldl ?_ _ _ ?_ | apply withdrawMsg_keeps | split)
theorem withdrawCore_keeps (s : State) (c : Nat) (hs : MemOk s) : MemOk (withdrawCore s c) := by
  unfold withdrawCore; with_reducible repeat' (first | assumption | intro _ | dsimp only | refine keep_foldl ?_ _ _ ?_ | apply unpark_keeps | apply endRemote_keeps | apply withdrawSenders_keeps)
theorem dropPhases_keeps (s : State) (tid : Nat) (hs : MemOk s) : MemOk (dropPhases s tid) := hs
theorem saveTask_keeps (s : State) (a : Nat) (t : Task) (hs : MemOk s) : MemOk (saveTask s a t) := by
  unfold saveTask; with_reducible repeat' (first | assumption | intro _ | dsimp only [memOk_mk, mOk_mem, memOk_fst, memOk_snd, pairOk_mk, pairOkR_mk, optOk1_some, exOk_ok] | refine keep_foldl ?_ _ _ ?_ | apply withdrawCore_keeps | apply rangeWrite_keeps | apply writeBlockOf_keeps | apply dropPhases_keeps | apply vacate_keeps | apply modTask_keeps)
theorem setStopped_keeps (s : State) (t : Task) (b : Bool) (hs : MemOk s) : MemOk (setStopped s t b) := by
  unfold setStopped; with_reducible repeat' (first | assumption | with_unfolding_all exact coreKeep_same fun _ => rfl | intro _ | dsimp only [memOk_mk, mOk_mem, memOk_fst, memOk_snd, pairOk_mk, pairOkR_mk, optOk1_some, exOk_ok] | refine keep_foldl ?_ _ _ ?_ | apply modCore_keeps | split)
theorem execPreempt_keeps (tid : Nat) (s : State) (hs : MemOk s) : OutOk (execPreempt tid s) := by
  unfold execPreempt; with_reducible repeat' (first | assumption | apply outOk_next | apply saveTask_keeps | apply setStopped_keeps | split)
theorem execTaskComplete_keeps (tid : Nat) (energy : Nat) (s : State) (hs : MemOk s) : OutOk (execTaskComplete tid energy s) := by
  unfold execTaskComplete; with_reducible repeat' (first | assumption | intro _ | dsimp only | apply outOk_next | refine keep_foldl ?_ _ _ ?_ | apply completeTask_keeps | apply dropPhases_keeps | apply vacate_keeps | split)
theorem execRegisterWrite_keeps (id_ : Nat) (s : State) (hs : MemOk s) : OutOk (execRegisterWrite id_ s) := by
  unfold execRegisterWrite; with_reducible repeat' (first | assumption | apply outOk_next | apply performReg_keeps | split)
theorem execBroadcastWrite_keeps (off : Nat) (value : W64) (s : State) (hs : MemOk s) : OutOk (execBroadcastWrite off value s) := by
  unfold execBroadcastWrite; with_reducible repeat' (first | assumption | apply outOk_next | apply bcastPut_keeps)
theorem execInspectionAccess_keeps (core : Nat) (off : Nat) (wr : Option W64) (s : State) (hs : MemOk s) : OutOk (execInspectionAccess core off wr s) := by
  unfold execInspectionAccess; with_reducible repeat' (first | assumption | dsimp only [memOk_mk, mOk_mem, memOk_fst, memOk_snd, pairOk_mk, pairOkR_mk, optOk1_some, exOk_ok] | apply outOk_next | apply windowPut_keeps | apply windowGet_keeps | apply sendFrame_keeps | split)
theorem execChaezWrite_keeps (pa : Nat) (data : List W64) (s : State) (hs : MemOk s) : OutOk (execChaezWrite pa data s) := by
  unfold execChaezWrite; with_reducible repeat' (first | assumption | apply outOk_next | apply hold_keeps | apply nodeFrame_keeps | split)
theorem execChaezRead_keeps (pa : Nat) (dwords : Nat) (s : State) (hs : MemOk s) : OutOk (execChaezRead pa dwords s) := by
  unfold execChaezRead; with_reducible repeat' (first | assumption | apply outOk_next | apply hold_keeps | apply nodeFrame_keeps | split)
theorem releaseCores_keeps (s : State) (skip : Bool) (cs : List Nat) (hs : MemOk s) : MemOk (releaseCores s skip cs) := by
  unfold releaseCores; with_reducible repeat' (first | assumption | intro _ | dsimp only [memOk_mk, mOk_mem, memOk_fst, memOk_snd, pairOk_mk, pairOkR_mk, optOk1_some, exOk_ok] | refine keep_foldl ?_ _ _ ?_ | apply bindBarriers_keeps | apply releaseCore_keeps | split)
theorem releaseAll_keeps (s : State) (skip : Bool) (target : CtlTarget) (hs : MemOk s) : MemOk (releaseAll s skip target) := by
  unfold releaseAll; with_reducible repeat' (first | assumption | dsimp only [memOk_mk, mOk_mem, memOk_fst, memOk_snd, pairOk_mk, pairOkR_mk, optOk1_some, exOk_ok] | apply replyStatus_keeps | apply releaseCores_keeps | split)
theorem execRelease_keeps (target : CtlTarget) (s : State) (hs : MemOk s) : OutOk (execRelease target s) := by
  unfold execRelease; with_reducible repeat' (first | assumption | apply outOk_next | apply hold_keeps | apply releaseAll_keeps | split)
theorem execReleaseSkip_keeps (target : CtlTarget) (s : State) (hs : MemOk s) : OutOk (execReleaseSkip target s) := by
  unfold execReleaseSkip; with_reducible repeat' (first | assumption | apply outOk_next | apply hold_keeps | apply releaseAll_keeps | split)
theorem stopCore_keeps (s : State) (c : Nat) (hs : MemOk s) : MemOk (stopCore s c) := by
  unfold stopCore; with_reducible repeat' (first | assumption | with_unfolding_all exact coreKeep_same fun _ => rfl | dsimp only [memOk_mk, mOk_mem, memOk_fst, memOk_snd, pairOk_mk, pairOkR_mk, optOk1_some, exOk_ok] | apply modCore_keeps | apply freezeCore_keeps | split)
theorem flushCore_keeps (s : State) (c : Nat) (hs : MemOk s) : MemOk (flushCore s c) := by
  unfold flushCore; with_reducible repeat' (first | assumption | intro _ | dsimp only [memOk_mk, mOk_mem, memOk_fst, memOk_snd, pairOk_mk, pairOkR_mk, optOk1_some, exOk_ok] | refine keep_foldl ?_ _ _ ?_ | apply disown_keeps | apply flushFailed_keeps | split)
theorem dropFlight_keeps (s : State) (cs : List Nat) (hs : MemOk s) : MemOk (dropFlight s cs) := by
  unfold dropFlight; with_reducible repeat' (first | assumption | intro _ | dsimp only [memOk_mk, mOk_mem, memOk_fst, memOk_snd, pairOk_mk, pairOkR_mk, optOk1_some, exOk_ok] | refine keep_foldl ?_ _ _ ?_ | apply withdrawReq_keeps | apply modQ_keeps | apply grantNext_keeps | apply takeWalkers_keeps | split)
theorem turnAway_keeps (s : State) (c : Nat) (hs : MemOk s) : MemOk (turnAway s c) := by
  unfold turnAway; with_reducible repeat' (first | assumption | intro _ | dsimp only | refine keep_foldl ?_ _ _ ?_ | apply refuseSend_keeps | apply postMsg_keeps | split)
theorem finishEnd_keeps (s : State) (a : Nat) (t : Task) (hs : MemOk s) : MemOk (finishEnd s a t) := by
  unfold finishEnd; with_reducible repeat' (first | assumption | intro _ | dsimp only [memOk_mk, mOk_mem, memOk_fst, memOk_snd, pairOk_mk, pairOkR_mk, optOk1_some, exOk_ok] | refine keep_foldl ?_ _ _ ?_ | apply flushCore_keeps | apply endRemote_keeps | apply dropFlight_keeps | apply turnAway_keeps | apply dropPhases_keeps | apply vacate_keeps | apply freeVal_keeps | apply completeTask_keeps | split)
theorem endTaskNow_keeps (s : State) (target : CtlTarget) (hs : MemOk s) : MemOk (endTaskNow s target) := by
  unfold endTaskNow; with_reducible repeat' (first | assumption | intro _ | dsimp only | refine keep_foldl ?_ _ _ ?_ | apply complete_keeps | apply stopCore_keeps | apply pend_keeps | apply finishEnd_keeps | apply replyStatus_keeps | split)
theorem execEndTask_keeps (target : CtlTarget) (s : State) (hs : MemOk s) : OutOk (execEndTask target s) := by
  unfold execEndTask; with_reducible repeat' (first | assumption | apply outOk_next | apply hold_keeps | apply endTaskNow_keeps | split)
theorem physDword_keeps (s : State) (pa : Nat) (hs : MemOk s) : PairOk (physDword s pa) := by
  unfold physDword; with_reducible repeat' (first | assumption | dsimp only [memOk_mk, mOk_mem, memOk_fst, memOk_snd, pairOk_mk, pairOkR_mk, optOk1_some, exOk_ok] | apply placeRead_keeps | split)
theorem resetDigest_keeps (s : State) (desc : Nat) (hs : MemOk s) : PairOk (resetDigest s desc) := by
  unfold resetDigest; with_reducible repeat' (first | assumption | dsimp only [memOk_mk, mOk_mem, memOk_fst, memOk_snd, pairOk_mk, pairOkR_mk, optOk1_some, exOk_ok] | apply physDword_keeps | apply allGeckos_keeps | split)
theorem execDigestReset_keeps (desc : Nat) (s : State) (hs : MemOk s) : OutOk (execDigestReset desc s) := by
  unfold execDigestReset; with_reducible repeat' (first | assumption | dsimp only [memOk_mk, mOk_mem, memOk_fst, memOk_snd, pairOk_mk, pairOkR_mk, optOk1_some, exOk_ok] | apply outOk_next | apply hold_keeps | apply pend_keeps | apply complete_keeps | apply resetDigest_keeps | split)
theorem execTimeref_keeps (dom : Nat) (s : State) (hs : MemOk s) : OutOk (execTimeref dom s) := by
  unfold execTimeref; with_reducible repeat' (first | assumption | dsimp only [memOk_mk, mOk_mem, memOk_fst, memOk_snd, pairOk_mk, pairOkR_mk, optOk1_some, exOk_ok] | apply outOk_next | apply hold_keeps | apply replyStatus_keeps | split)
theorem execCheckpointRestore_keeps (chunks : List Chunk) (s : State) (hs : MemOk s) : OutOk (execCheckpointRestore chunks s) := by
  unfold execCheckpointRestore; with_reducible repeat' (first | assumption | intro _ | dsimp only | apply outOk_next | refine keep_foldl ?_ _ _ ?_ | apply hold_keeps | apply replyStatus_keeps | apply writeChunk_keeps | apply sendFrame_keeps | split)
theorem restart_keeps (s : State) (hs : MemOk s) : MemOk (restart s) := by
  exact ⟨hs.1, rfl, by simp [restart, State.reset]⟩
theorem execReset_keeps (s : State) (hs : MemOk s) : OutOk (execReset s) := by
  unfold execReset; with_reducible repeat' (first | assumption | apply outOk_next | apply hold_keeps | apply replyStatus_keeps | apply restart_keeps | split)
theorem execAttestTidWrite_keeps (value : W64) (s : State) (hs : MemOk s) : OutOk (execAttestTidWrite value s) := hs
theorem execAttestReportRead_keeps (s : State) (hs : MemOk s) : OutOk (execAttestReportRead s) := by
  unfold execAttestReportRead; with_reducible repeat' (first | assumption | dsimp only [memOk_mk, mOk_mem, memOk_fst, memOk_snd, pairOk_mk, pairOkR_mk, optOk1_some, exOk_ok] | apply outOk_next | apply report_keeps | apply sendFrame_keeps | refine pair_of (by assumption) ?_ | split)
theorem fencePort_keeps (s : State) (port : BitVec 4) (hs : MemOk s) : MemOk (fencePort s port) := by
  unfold fencePort; with_reducible repeat' (first | assumption | dsimp only [memOk_mk, mOk_mem, memOk_fst, memOk_snd, pairOk_mk, pairOkR_mk, optOk1_some, exOk_ok] | split)
theorem execRowPacket_keeps (pkt : RowPkt) (s : State) (hs : MemOk s) : OutOk (execRowPacket pkt s) := by
  unfold execRowPacket; with_reducible repeat' (first | assumption | apply outOk_next | apply fencePort_keeps | apply serveRow_keeps | split)
theorem execSwitchRowPacket_keeps (id_ : Nat) (s : State) (hs : MemOk s) : OutOk (execSwitchRowPacket id_ s) := by
  unfold execSwitchRowPacket; with_reducible repeat' (first | assumption | dsimp only [memOk_mk, mOk_mem, memOk_fst, memOk_snd, pairOk_mk, pairOkR_mk, optOk1_some, exOk_ok] | apply outOk_next | apply answerMerged_keeps | apply deferReq_keeps | split)
theorem execPeerAccessPacket_keeps (pkt : PeerPkt) (s : State) (hs : MemOk s) : OutOk (execPeerAccessPacket pkt s) := by
  unfold execPeerAccessPacket; with_reducible repeat' (first | assumption | dsimp only [memOk_mk, mOk_mem, memOk_fst, memOk_snd, pairOk_mk, pairOkR_mk, optOk1_some, exOk_ok] | apply outOk_next | apply fencePort_keeps | apply answerPacket_keeps | apply newTxn_keeps | apply launch_keeps | split)
theorem execFabricTimeout_keeps (id_ : Nat) (s : State) (hs : MemOk s) : OutOk (execFabricTimeout id_ s) := by
  unfold execFabricTimeout; with_reducible repeat' (first | assumption | apply outOk_next | apply endFabric_keeps | split)
theorem collBack_keeps (s : State) (c : Nat) (e : Nat) (xs : List CollShare) (degraded : Bool) (hs : MemOk s) : MemOk (collBack s c e xs degraded) := by
  unfold collBack; with_reducible repeat' (first | assumption | dsimp only | apply modCmd_keeps | apply modTask_keeps | split)
theorem collDiverges_keeps (s : State) (c : Nat) (e : Nat) (code : FCode) (hs : MemOk s) : MemOk (collDiverges s c e code) := by
  unfold collDiverges; with_reducible repeat' (first | assumption | intro _ | dsimp only | refine keep_foldl ?_ _ _ ?_ | apply modCmd_keeps | apply freezeCore_keeps | apply appendRec_keeps | split)
theorem collServed_keeps (s : State) (c : Nat) (e : Nat) (own : CollShare) (xs : List CollShare) (hs : MemOk s) : MemOk (collServed s c e own xs) := by
  unfold collServed; with_reducible repeat' (first | assumption | apply collBack_keeps | apply collDiverges_keeps | split)
theorem execCollOutcome_keeps (core : Nat) (entry : Nat) (others : List CollShare) (s : State) (hs : MemOk s) : OutOk (execCollOutcome core entry others s) := by
  unfold execCollOutcome; with_reducible repeat' (first | assumption | dsimp only [memOk_mk, mOk_mem, memOk_fst, memOk_snd, pairOk_mk, pairOkR_mk, optOk1_some, exOk_ok] | apply outOk_next | apply elemFault_keeps | apply collServed_keeps | split)
theorem execTimeBeacon_keeps (ref : Nat) (ahead : Int) (s : State) (hs : MemOk s) : OutOk (execTimeBeacon ref ahead s) := by
  unfold execTimeBeacon; with_reducible repeat' (first | assumption | dsimp only [memOk_mk, mOk_mem, memOk_fst, memOk_snd, pairOk_mk, pairOkR_mk, optOk1_some, exOk_ok] | apply outOk_next | split)
theorem startStreams_keeps (s : State) (hs : MemOk s) : MemOk (startStreams s) := by
  refine mOk_cores hs fun x hx => ?_
  obtain ⟨n, _, rfl⟩ := List.mem_map.1 hx
  exact bootCore_ok n
theorem execDomainJoin_keeps (dom : Nat) (time : W64) (s : State) (hs : MemOk s) : OutOk (execDomainJoin dom time s) := by
  unfold execDomainJoin; with_reducible repeat' (first | assumption | dsimp only [memOk_mk, mOk_mem, memOk_fst, memOk_snd, pairOk_mk, pairOkR_mk, optOk1_some, exOk_ok] | apply outOk_next | apply startStreams_keeps | split)
theorem execReferenceLoss_keeps (dom : Nat) (s : State) (hs : MemOk s) : OutOk (execReferenceLoss dom s) := by
  unfold execReferenceLoss; with_reducible repeat' (first | assumption | dsimp only [memOk_mk, mOk_mem, memOk_fst, memOk_snd, pairOk_mk, pairOkR_mk, optOk1_some, exOk_ok] | apply outOk_next | split)
theorem execComputeDieTemperature_keeps (die : Nat) (temp : Int) (s : State) (hs : MemOk s) : OutOk (execComputeDieTemperature die temp s) := by
  unfold execComputeDieTemperature; with_reducible repeat' (first | assumption | intro _ | dsimp only | apply outOk_next | refine keep_foldl ?_ _ _ ?_ | apply modDom_keeps | apply setTemp_keeps | split)
theorem armA_keeps (pre : State) (s : State) (hpre : MemOk pre) (hs : MemOk s) : MemOk (armA pre s) := by
  unfold armA; with_reducible repeat' (first | assumption | dsimp only [memOk_mk, mOk_mem, memOk_fst, memOk_snd, pairOk_mk, pairOkR_mk, optOk1_some, exOk_ok])
theorem endMember_keeps (s : State) (hs : MemOk s) : MemOk (endMember s) := by
  unfold endMember; with_reducible repeat' (first | assumption | with_unfolding_all exact coreKeep_same fun _ => rfl | dsimp only [memOk_mk, mOk_mem, memOk_fst, memOk_snd, pairOk_mk, pairOkR_mk, optOk1_some, exOk_ok] | apply modMe_keeps | apply modCore_keeps | split)
theorem sameLatch_keeps (o : State) (t : State) (ho : MemOk o) (ht : MemOk t) : MemOk (sameLatch o t) := by
  unfold sameLatch; with_reducible repeat' (first | assumption | dsimp only [memOk_mk, mOk_mem, memOk_fst, memOk_snd, pairOk_mk, pairOkR_mk, optOk1_some, exOk_ok])
theorem placeWord_keeps (s : State) (w : Nat) (hs : MemOk s) : MemOk (placeWord s w) := by
  refine mOk_cores hs fun x hx => ?_
  rcases mem_nput hx with rfl | h
  · rfl
  · exact hs.2.2 x h
theorem State_withFetchWord_keeps (s : State) (_nbits : Nat) (w : Nat) (hs : MemOk s) : MemOk (State.withFetchWord s _nbits w) := by
  unfold State.withFetchWord; with_reducible repeat' (first | assumption | dsimp only [memOk_mk, mOk_mem, memOk_fst, memOk_snd, pairOk_mk, pairOkR_mk, optOk1_some, exOk_ok] | apply placeWord_keeps | split)
end Sys2Proof.Machine
end

