-- ==== Sys2Proof/Laws/PerInstr.lean ====
section
/-! SUPPORT. The family RoundTrip: the words that the encoder gives a well-formed instruction decode to it, lone or
in a pair, with every operand at every value (04 R69-R84). One lemma per constructor; a step without a word has
nothing to decode. -/

namespace Sys2Proof.Laws.RoundTrip

/-- Every word of an instruction, lone or a half of a pair, decodes to the instruction. -/
def Statement (i : Instr) : Prop :=
  ∀ (lone : Bool) (w : Nat), i.wf = true → encode lone i = some w → decodeWord w = some i

theorem add (p : PReg) (d : Reg) (a : Reg) (b : Reg) (v : SumVar) : Statement (.add p d a b v) := by
  intro lone w hw h
  have b0 := p.isLt
  have b1 := reg_code_lt d
  have b2 := reg_code_lt a
  have b3 := reg_code_lt b
  have b4 := sumVar_code_lt v
  have h : lone.toNat * 2147483648 + 1 * 1073741824 + 0 * 8388608 + (p.val * 1048576 + d.code * 32768 + a.code * 1024 + b.code * 32 + v.code) = w := Option.some.inj h
  have e : w = ((((((lone.toNat * 2 + 1) * 128 + 0) * 8 + p.val) * 32 + d.code) * 32 + a.code) * 32 + b.code) * 32 + v.code := by omega
  clear h
  have e0 : fld w 15 5 = d.code := fld_of e (fld_up 5 b4 (fld_up 5 b3 (fld_up 5 b2 (fld_here 5 b1))))
  have e1 : fld w 10 5 = a.code := fld_of e (fld_up 5 b4 (fld_up 5 b3 (fld_here 5 b2)))
  have e2 : fld w 5 5 = b.code := fld_of e (fld_up 5 b4 (fld_here 5 b3))
  have e3 : fld w 0 5 = v.code := fld_of e (fld_here 5 b4)
  have e4 : finF w 20 3 = p := finF_eq (fld_of e (fld_up 5 b4 (fld_up 5 b3 (fld_up 5 b2 (fld_up 5 b1 (fld_here 3 b0))))))
  refine decode_of_map hw (k := 1) (op := 0)
    (fld_of e (fld_up 5 b4 (fld_up 5 b3 (fld_up 5 b2 (fld_up 5 b1 (fld_up 3 b0 (fld_up 7 (by decide) (fld_here 1 (by decide)))))))))
    (fld_of e (fld_up 5 b4 (fld_up 5 b3 (fld_up 5 b2 (fld_up 5 b1 (fld_up 3 b0 (fld_here 7 (by decide)))))))) ?_
  simp [decA_0, e0, e1, e2, e3, e4, regOf_code, sumVarOf_code]

theorem sub (p : PReg) (d : Reg) (a : Reg) (b : Reg) (v : SumVar) : Statement (.sub p d a b v) := by
  intro lone w hw h
  have b0 := p.isLt
  have b1 := reg_code_lt d
  have b2 := reg_code_lt a
  have b3 := reg_code_lt b
  have b4 := sumVar_code_lt v
  have h : lone.toNat * 2147483648 + 1 * 1073741824 + 1 * 8388608 + (p.val * 1048576 + d.code * 32768 + a.code * 1024 + b.code * 32 + v.code) = w := Option.some.inj h
  have e : w = ((((((lone.toNat * 2 + 1) * 128 + 1) * 8 + p.val) * 32 + d.code) * 32 + a.code) * 32 + b.code) * 32 + v.code := by omega
  clear h
  have e0 : fld w 15 5 = d.code := fld_of e (fld_up 5 b4 (fld_up 5 b3 (fld_up 5 b2 (fld_here 5 b1))))
  have e1 : fld w 10 5 = a.code := fld_of e (fld_up 5 b4 (fld_up 5 b3 (fld_here 5 b2)))
  have e2 : fld w 5 5 = b.code := fld_of e (fld_up 5 b4 (fld_here 5 b3))
  have e3 : fld w 0 5 = v.code := fld_of e (fld_here 5 b4)
  have e4 : finF w 20 3 = p := finF_eq (fld_of e (fld_up 5 b4 (fld_up 5 b3 (fld_up 5 b2 (fld_up 5 b1 (fld_here 3 b0))))))
  refine decode_of_map hw (k := 1) (op := 1)
    (fld_of e (fld_up 5 b4 (fld_up 5 b3 (fld_up 5 b2 (fld_up 5 b1 (fld_up 3 b0 (fld_up 7 (by decide) (fld_here 1 (by decide)))))))))
    (fld_of e (fld_up 5 b4 (fld_up 5 b3 (fld_up 5 b2 (fld_up 5 b1 (fld_up 3 b0 (fld_here 7 (by decide)))))))) ?_
  simp [decA_1, e0, e1, e2, e3, e4, regOf_code, sumVarOf_code]

theorem mul (p : PReg) (d : Reg) (a : Reg) (b : Reg) (v : Bool) : Statement (.mul p d a b v) := by
  intro lone w hw h
  have b0 := p.isLt
  have b1 := reg_code_lt d
  have b2 := reg_code_lt a
  have b3 := reg_code_lt b
  have b4 := toNat_lt_32 v
  have h : lone.toNat * 2147483648 + 1 * 1073741824 + 2 * 8388608 + (p.val * 1048576 + d.code * 32768 + a.code * 1024 + b.code * 32 + v.toNat) = w := Option.some.inj h
  have e : w = ((((((lone.toNat * 2 + 1) * 128 + 2) * 8 + p.val) * 32 + d.code) * 32 + a.code) * 32 + b.code) * 32 + v.toNat := by omega
  clear h
  have e0 : fld w 15 5 = d.code := fld_of e (fld_up 5 b4 (fld_up 5 b3 (fld_up 5 b2 (fld_here 5 b1))))
  have e1 : fld w 10 5 = a.code := fld_of e (fld_up 5 b4 (fld_up 5 b3 (fld_here 5 b2)))
  have e2 : fld w 5 5 = b.code := fld_of e (fld_up 5 b4 (fld_here 5 b3))
  have e3 : fld w 0 5 = v.toNat := fld_of e (fld_here 5 b4)
  have e4 : finF w 20 3 = p := finF_eq (fld_of e (fld_up 5 b4 (fld_up 5 b3 (fld_up 5 b2 (fld_up 5 b1 (fld_here 3 b0))))))
  refine decode_of_map hw (k := 1) (op := 2)
    (fld_of e (fld_up 5 b4 (fld_up 5 b3 (fld_up 5 b2 (fld_up 5 b1 (fld_up 3 b0 (fld_up 7 (by decide) (fld_here 1 (by decide)))))))))
    (fld_of e (fld_up 5 b4 (fld_up 5 b3 (fld_up 5 b2 (fld_up 5 b1 (fld_up 3 b0 (fld_here 7 (by decide)))))))) ?_
  simp [decA_2, e0, e1, e2, e3, e4, regOf_code, flagOf_toNat]

theorem mulh (p : PReg) (d : Reg) (a : Reg) (b : Reg) (v : Bool) : Statement (.mulh p d a b v) := by
  intro lone w hw h
  have b0 := p.isLt
  have b1 := reg_code_lt d
  have b2 := reg_code_lt a
  have b3 := reg_code_lt b
  have b4 := toNat_lt_32 v
  have h : lone.toNat * 2147483648 + 1 * 1073741824 + 3 * 8388608 + (p.val * 1048576 + d.code * 32768 + a.code * 1024 + b.code * 32 + v.toNat) = w := Option.some.inj h
  have e : w = ((((((lone.toNat * 2 + 1) * 128 + 3) * 8 + p.val) * 32 + d.code) * 32 + a.code) * 32 + b.code) * 32 + v.toNat := by omega
  clear h
  have e0 : fld w 15 5 = d.code := fld_of e (fld_up 5 b4 (fld_up 5 b3 (fld_up 5 b2 (fld_here 5 b1))))
  have e1 : fld w 10 5 = a.code := fld_of e (fld_up 5 b4 (fld_up 5 b3 (fld_here 5 b2)))
  have e2 : fld w 5 5 = b.code := fld_of e (fld_up 5 b4 (fld_here 5 b3))
  have e3 : fld w 0 5 = v.toNat := fld_of e (fld_here 5 b4)
  have e4 : finF w 20 3 = p := finF_eq (fld_of e (fld_up 5 b4 (fld_up 5 b3 (fld_up 5 b2 (fld_up 5 b1 (fld_here 3 b0))))))
  refine decode_of_map hw (k := 1) (op := 3)
    (fld_of e (fld_up 5 b4 (fld_up 5 b3 (fld_up 5 b2 (fld_up 5 b1 (fld_up 3 b0 (fld_up 7 (by decide) (fld_here 1 (by decide)))))))))
    (fld_of e (fld_up 5 b4 (fld_up 5 b3 (fld_up 5 b2 (fld_up 5 b1 (fld_up 3 b0 (fld_here 7 (by decide)))))))) ?_
  simp [decA_3, e0, e1, e2, e3, e4, regOf_code, flagOf_toNat]

theorem div (p : PReg) (d : Reg) (a : Reg) (b : Reg) (v : DivVar) : Statement (.div p d a b v) := by
  intro lone w hw h
  have b0 := p.isLt
  have b1 := reg_code_lt d
  have b2 := reg_code_lt a
  have b3 := reg_code_lt b
  have b4 := divVar_code_lt v
  have h : lone.toNat * 2147483648 + 1 * 1073741824 + 4 * 8388608 + (p.val * 1048576 + d.code * 32768 + a.code * 1024 + b.code * 32 + v.code) = w := Option.some.inj h
  have e : w = ((((((lone.toNat * 2 + 1) * 128 + 4) * 8 + p.val) * 32 + d.code) * 32 + a.code) * 32 + b.code) * 32 + v.code := by omega
  clear h
  have e0 : fld w 15 5 = d.code := fld_of e (fld_up 5 b4 (fld_up 5 b3 (fld_up 5 b2 (fld_here 5 b1))))
  have e1 : fld w 10 5 = a.code := fld_of e (fld_up 5 b4 (fld_up 5 b3 (fld_here 5 b2)))
  have e2 : fld w 5 5 = b.code := fld_of e (fld_up 5 b4 (fld_here 5 b3))
  have e3 : fld w 0 5 = v.code := fld_of e (fld_here 5 b4)
  have e4 : finF w 20 3 = p := finF_eq (fld_of e (fld_up 5 b4 (fld_up 5 b3 (fld_up 5 b2 (fld_up 5 b1 (fld_here 3 b0))))))
  refine decode_of_map hw (k := 1) (op := 4)
    (fld_of e (fld_up 5 b4 (fld_up 5 b3 (fld_up 5 b2 (fld_up 5 b1 (fld_up 3 b0 (fld_up 7 (by decide) (fld_here 1 (by decide)))))))))
    (fld_of e (fld_up 5 b4 (fld_up 5 b3 (fld_up 5 b2 (fld_up 5 b1 (fld_up 3 b0 (fld_here 7 (by decide)))))))) ?_
  simp [decA_4, e0, e1, e2, e3, e4, regOf_code, divVarOf_code]

theorem rem (p : PReg) (d : Reg) (a : Reg) (b : Reg) (v : DivVar) : Statement (.rem p d a b v) := by
  intro lone w hw h
  have b0 := p.isLt
  have b1 := reg_code_lt d
  have b2 := reg_code_lt a
  have b3 := reg_code_lt b
  have b4 := divVar_code_lt v
  have h : lone.toNat * 2147483648 + 1 * 1073741824 + 5 * 8388608 + (p.val * 1048576 + d.code * 32768 + a.code * 1024 + b.code * 32 + v.code) = w := Option.some.inj h
  have e : w = ((((((lone.toNat * 2 + 1) * 128 + 5) * 8 + p.val) * 32 + d.code) * 32 + a.code) * 32 + b.code) * 32 + v.code := by omega
  clear h
  have e0 : fld w 15 5 = d.code := fld_of e (fld_up 5 b4 (fld_up 5 b3 (fld_up 5 b2 (fld_here 5 b1))))
  have e1 : fld w 10 5 = a.code := fld_of e (fld_up 5 b4 (fld_up 5 b3 (fld_here 5 b2)))
  have e2 : fld w 5 5 = b.code := fld_of e (fld_up 5 b4 (fld_here 5 b3))
  have e3 : fld w 0 5 = v.code := fld_of e (fld_here 5 b4)
  have e4 : finF w 20 3 = p := finF_eq (fld_of e (fld_up 5 b4 (fld_up 5 b3 (fld_up 5 b2 (fld_up 5 b1 (fld_here 3 b0))))))
  refine decode_of_map hw (k := 1) (op := 5)
    (fld_of e (fld_up 5 b4 (fld_up 5 b3 (fld_up 5 b2 (fld_up 5 b1 (fld_up 3 b0 (fld_up 7 (by decide) (fld_here 1 (by decide)))))))))
    (fld_of e (fld_up 5 b4 (fld_up 5 b3 (fld_up 5 b2 (fld_up 5 b1 (fld_up 3 b0 (fld_here 7 (by decide)))))))) ?_
  simp [decA_5, e0, e1, e2, e3, e4, regOf_code, divVarOf_code]

theorem and (p : PReg) (d : Reg) (a : Reg) (b : Reg) : Statement (.and p d a b) := by
  intro lone w hw h
  have b0 := p.isLt
  have b1 := reg_code_lt d
  have b2 := reg_code_lt a
  have b3 := reg_code_lt b
  have b4 : 0 < 32 := by decide
  have h : lone.toNat * 2147483648 + 1 * 1073741824 + 6 * 8388608 + (p.val * 1048576 + d.code * 32768 + a.code * 1024 + b.code * 32) = w := Option.some.inj h
  have e : w = ((((((lone.toNat * 2 + 1) * 128 + 6) * 8 + p.val) * 32 + d.code) * 32 + a.code) * 32 + b.code) * 32 + 0 := by omega
  clear h
  have e0 : fld w 0 5 = 0 := fld_of e (fld_here 5 b4)
  have e1 : fld w 15 5 = d.code := fld_of e (fld_up 5 b4 (fld_up 5 b3 (fld_up 5 b2 (fld_here 5 b1))))
  have e2 : fld w 10 5 = a.code := fld_of e (fld_up 5 b4 (fld_up 5 b3 (fld_here 5 b2)))
  have e3 : fld w 5 5 = b.code := fld_of e (fld_up 5 b4 (fld_here 5 b3))
  have e4 : finF w 20 3 = p := finF_eq (fld_of e (fld_up 5 b4 (fld_up 5 b3 (fld_up 5 b2 (fld_up 5 b1 (fld_here 3 b0))))))
  refine decode_of_map hw (k := 1) (op := 6)
    (fld_of e (fld_up 5 b4 (fld_up 5 b3 (fld_up 5 b2 (fld_up 5 b1 (fld_up 3 b0 (fld_up 7 (by decide) (fld_here 1 (by decide)))))))))
    (fld_of e (fld_up 5 b4 (fld_up 5 b3 (fld_up 5 b2 (fld_up 5 b1 (fld_up 3 b0 (fld_here 7 (by decide)))))))) ?_
  simp [decA_6, e0, e1, e2, e3, e4, regOf_code]

theorem or (p : PReg) (d : Reg) (a : Reg) (b : Reg) : Statement (.or p d a b) := by
  intro lone w hw h
  have b0 := p.isLt
  have b1 := reg_code_lt d
  have b2 := reg_code_lt a
  have b3 := reg_code_lt b
  have b4 : 0 < 32 := by decide
  have h : lone.toNat * 2147483648 + 1 * 1073741824 + 7 * 8388608 + (p.val * 1048576 + d.code * 32768 + a.code * 1024 + b.code * 32) = w := Option.some.inj h
  have e : w = ((((((lone.toNat * 2 + 1) * 128 + 7) * 8 + p.val) * 32 + d.code) * 32 + a.code) * 32 + b.code) * 32 + 0 := by omega
  clear h
  have e0 : fld w 0 5 = 0 := fld_of e (fld_here 5 b4)
  have e1 : fld w 15 5 = d.code := fld_of e (fld_up 5 b4 (fld_up 5 b3 (fld_up 5 b2 (fld_here 5 b1))))
  have e2 : fld w 10 5 = a.code := fld_of e (fld_up 5 b4 (fld_up 5 b3 (fld_here 5 b2)))
  have e3 : fld w 5 5 = b.code := fld_of e (fld_up 5 b4 (fld_here 5 b3))
  have e4 : finF w 20 3 = p := finF_eq (fld_of e (fld_up 5 b4 (fld_up 5 b3 (fld_up 5 b2 (fld_up 5 b1 (fld_here 3 b0))))))
  refine decode_of_map hw (k := 1) (op := 7)
    (fld_of e (fld_up 5 b4 (fld_up 5 b3 (fld_up 5 b2 (fld_up 5 b1 (fld_up 3 b0 (fld_up 7 (by decide) (fld_here 1 (by decide)))))))))
    (fld_of e (fld_up 5 b4 (fld_up 5 b3 (fld_up 5 b2 (fld_up 5 b1 (fld_up 3 b0 (fld_here 7 (by decide)))))))) ?_
  simp [decA_7, e0, e1, e2, e3, e4, regOf_code]

theorem xor (p : PReg) (d : Reg) (a : Reg) (b : Reg) : Statement (.xor p d a b) := by
  intro lone w hw h
  have b0 := p.isLt
  have b1 := reg_code_lt d
  have b2 := reg_code_lt a
  have b3 := reg_code_lt b
  have b4 : 0 < 32 := by decide
  have h : lone.toNat * 2147483648 + 1 * 1073741824 + 8 * 8388608 + (p.val * 1048576 + d.code * 32768 + a.code * 1024 + b.code * 32) = w := Option.some.inj h
  have e : w = ((((((lone.toNat * 2 + 1) * 128 + 8) * 8 + p.val) * 32 + d.code) * 32 + a.code) * 32 + b.code) * 32 + 0 := by omega
  clear h
  have e0 : fld w 0 5 = 0 := fld_of e (fld_here 5 b4)
  have e1 : fld w 15 5 = d.code := fld_of e (fld_up 5 b4 (fld_up 5 b3 (fld_up 5 b2 (fld_here 5 b1))))
  have e2 : fld w 10 5 = a.code := fld_of e (fld_up 5 b4 (fld_up 5 b3 (fld_here 5 b2)))
  have e3 : fld w 5 5 = b.code := fld_of e (fld_up 5 b4 (fld_here 5 b3))
  have e4 : finF w 20 3 = p := finF_eq (fld_of e (fld_up 5 b4 (fld_up 5 b3 (fld_up 5 b2 (fld_up 5 b1 (fld_here 3 b0))))))
  refine decode_of_map hw (k := 1) (op := 8)
    (fld_of e (fld_up 5 b4 (fld_up 5 b3 (fld_up 5 b2 (fld_up 5 b1 (fld_up 3 b0 (fld_up 7 (by decide) (fld_here 1 (by decide)))))))))
    (fld_of e (fld_up 5 b4 (fld_up 5 b3 (fld_up 5 b2 (fld_up 5 b1 (fld_up 3 b0 (fld_here 7 (by decide)))))))) ?_
  simp [decA_8, e0, e1, e2, e3, e4, regOf_code]

theorem andn (p : PReg) (d : Reg) (a : Reg) (b : Reg) : Statement (.andn p d a b) := by
  intro lone w hw h
  have b0 := p.isLt
  have b1 := reg_code_lt d
  have b2 := reg_code_lt a
  have b3 := reg_code_lt b
  have b4 : 0 < 32 := by decide
  have h : lone.toNat * 2147483648 + 1 * 1073741824 + 9 * 8388608 + (p.val * 1048576 + d.code * 32768 + a.code * 1024 + b.code * 32) = w := Option.some.inj h
  have e : w = ((((((lone.toNat * 2 + 1) * 128 + 9) * 8 + p.val) * 32 + d.code) * 32 + a.code) * 32 + b.code) * 32 + 0 := by omega
  clear h
  have e0 : fld w 0 5 = 0 := fld_of e (fld_here 5 b4)
  have e1 : fld w 15 5 = d.code := fld_of e (fld_up 5 b4 (fld_up 5 b3 (fld_up 5 b2 (fld_here 5 b1))))
  have e2 : fld w 10 5 = a.code := fld_of e (fld_up 5 b4 (fld_up 5 b3 (fld_here 5 b2)))
  have e3 : fld w 5 5 = b.code := fld_of e (fld_up 5 b4 (fld_here 5 b3))
  have e4 : finF w 20 3 = p := finF_eq (fld_of e (fld_up 5 b4 (fld_up 5 b3 (fld_up 5 b2 (fld_up 5 b1 (fld_here 3 b0))))))
  refine decode_of_map hw (k := 1) (op := 9)
    (fld_of e (fld_up 5 b4 (fld_up 5 b3 (fld_up 5 b2 (fld_up 5 b1 (fld_up 3 b0 (fld_up 7 (by decide) (fld_here 1 (by decide)))))))))
    (fld_of e (fld_up 5 b4 (fld_up 5 b3 (fld_up 5 b2 (fld_up 5 b1 (fld_up 3 b0 (fld_here 7 (by decide)))))))) ?_
  simp [decA_9, e0, e1, e2, e3, e4, regOf_code]

theorem shl (p : PReg) (d : Reg) (a : Reg) (b : Reg) (v : Bool) : Statement (.shl p d a b v) := by
  intro lone w hw h
  have b0 := p.isLt
  have b1 := reg_code_lt d
  have b2 := reg_code_lt a
  have b3 := reg_code_lt b
  have b4 := toNat_lt_32 v
  have h : lone.toNat * 2147483648 + 1 * 1073741824 + 10 * 8388608 + (p.val * 1048576 + d.code * 32768 + a.code * 1024 + b.code * 32 + v.toNat) = w := Option.some.inj h
  have e : w = ((((((lone.toNat * 2 + 1) * 128 + 10) * 8 + p.val) * 32 + d.code) * 32 + a.code) * 32 + b.code) * 32 + v.toNat := by omega
  clear h
  have e0 : fld w 15 5 = d.code := fld_of e (fld_up 5 b4 (fld_up 5 b3 (fld_up 5 b2 (fld_here 5 b1))))
  have e1 : fld w 10 5 = a.code := fld_of e (fld_up 5 b4 (fld_up 5 b3 (fld_here 5 b2)))
  have e2 : fld w 5 5 = b.code := fld_of e (fld_up 5 b4 (fld_here 5 b3))
  have e3 : fld w 0 5 = v.toNat := fld_of e (fld_here 5 b4)
  have e4 : finF w 20 3 = p := finF_eq (fld_of e (fld_up 5 b4 (fld_up 5 b3 (fld_up 5 b2 (fld_up 5 b1 (fld_here 3 b0))))))
  refine decode_of_map hw (k := 1) (op := 10)
    (fld_of e (fld_up 5 b4 (fld_up 5 b3 (fld_up 5 b2 (fld_up 5 b1 (fld_up 3 b0 (fld_up 7 (by decide) (fld_here 1 (by decide)))))))))
    (fld_of e (fld_up 5 b4 (fld_up 5 b3 (fld_up 5 b2 (fld_up 5 b1 (fld_up 3 b0 (fld_here 7 (by decide)))))))) ?_
  simp [decA_10, e0, e1, e2, e3, e4, regOf_code, flagOf_toNat]

theorem shr (p : PReg) (d : Reg) (a : Reg) (b : Reg) (v : Bool) : Statement (.shr p d a b v) := by
  intro lone w hw h
  have b0 := p.isLt
  have b1 := reg_code_lt d
  have b2 := reg_code_lt a
  have b3 := reg_code_lt b
  have b4 := toNat_lt_32 v
  have h : lone.toNat * 2147483648 + 1 * 1073741824 + 11 * 8388608 + (p.val * 1048576 + d.code * 32768 + a.code * 1024 + b.code * 32 + v.toNat) = w := Option.some.inj h
  have e : w = ((((((lone.toNat * 2 + 1) * 128 + 11) * 8 + p.val) * 32 + d.code) * 32 + a.code) * 32 + b.code) * 32 + v.toNat := by omega
  clear h
  have e0 : fld w 15 5 = d.code := fld_of e (fld_up 5 b4 (fld_up 5 b3 (fld_up 5 b2 (fld_here 5 b1))))
  have e1 : fld w 10 5 = a.code := fld_of e (fld_up 5 b4 (fld_up 5 b3 (fld_here 5 b2)))
  have e2 : fld w 5 5 = b.code := fld_of e (fld_up 5 b4 (fld_here 5 b3))
  have e3 : fld w 0 5 = v.toNat := fld_of e (fld_here 5 b4)
  have e4 : finF w 20 3 = p := finF_eq (fld_of e (fld_up 5 b4 (fld_up 5 b3 (fld_up 5 b2 (fld_up 5 b1 (fld_here 3 b0))))))
  refine decode_of_map hw (k := 1) (op := 11)
    (fld_of e (fld_up 5 b4 (fld_up 5 b3 (fld_up 5 b2 (fld_up 5 b1 (fld_up 3 b0 (fld_up 7 (by decide) (fld_here 1 (by decide)))))))))
    (fld_of e (fld_up 5 b4 (fld_up 5 b3 (fld_up 5 b2 (fld_up 5 b1 (fld_up 3 b0 (fld_here 7 (by decide)))))))) ?_
  simp [decA_11, e0, e1, e2, e3, e4, regOf_code, flagOf_toNat]

theorem sra (p : PReg) (d : Reg) (a : Reg) (b : Reg) (v : Bool) : Statement (.sra p d a b v) := by
  intro lone w hw h
  have b0 := p.isLt
  have b1 := reg_code_lt d
  have b2 := reg_code_lt a
  have b3 := reg_code_lt b
  have b4 := toNat_lt_32 v
  have h : lone.toNat * 2147483648 + 1 * 1073741824 + 12 * 8388608 + (p.val * 1048576 + d.code * 32768 + a.code * 1024 + b.code * 32 + v.toNat) = w := Option.some.inj h
  have e : w = ((((((lone.toNat * 2 + 1) * 128 + 12) * 8 + p.val) * 32 + d.code) * 32 + a.code) * 32 + b.code) * 32 + v.toNat := by omega
  clear h
  have e0 : fld w 15 5 = d.code := fld_of e (fld_up 5 b4 (fld_up 5 b3 (fld_up 5 b2 (fld_here 5 b1))))
  have e1 : fld w 10 5 = a.code := fld_of e (fld_up 5 b4 (fld_up 5 b3 (fld_here 5 b2)))
  have e2 : fld w 5 5 = b.code := fld_of e (fld_up 5 b4 (fld_here 5 b3))
  have e3 : fld w 0 5 = v.toNat := fld_of e (fld_here 5 b4)
  have e4 : finF w 20 3 = p := finF_eq (fld_of e (fld_up 5 b4 (fld_up 5 b3 (fld_up 5 b2 (fld_up 5 b1 (fld_here 3 b0))))))
  refine decode_of_map hw (k := 1) (op := 12)
    (fld_of e (fld_up 5 b4 (fld_up 5 b3 (fld_up 5 b2 (fld_up 5 b1 (fld_up 3 b0 (fld_up 7 (by decide) (fld_here 1 (by decide)))))))))
    (fld_of e (fld_up 5 b4 (fld_up 5 b3 (fld_up 5 b2 (fld_up 5 b1 (fld_up 3 b0 (fld_here 7 (by decide)))))))) ?_
  simp [decA_12, e0, e1, e2, e3, e4, regOf_code, flagOf_toNat]

theorem rotl (p : PReg) (d : Reg) (a : Reg) (b : Reg) (v : Bool) : Statement (.rotl p d a b v) := by
  intro lone w hw h
  have b0 := p.isLt
  have b1 := reg_code_lt d
  have b2 := reg_code_lt a
  have b3 := reg_code_lt b
  have b4 := toNat_lt_32 v
  have h : lone.toNat * 2147483648 + 1 * 1073741824 + 13 * 8388608 + (p.val * 1048576 + d.code * 32768 + a.code * 1024 + b.code * 32 + v.toNat) = w := Option.some.inj h
  have e : w = ((((((lone.toNat * 2 + 1) * 128 + 13) * 8 + p.val) * 32 + d.code) * 32 + a.code) * 32 + b.code) * 32 + v.toNat := by omega
  clear h
  have e0 : fld w 15 5 = d.code := fld_of e (fld_up 5 b4 (fld_up 5 b3 (fld_up 5 b2 (fld_here 5 b1))))
  have e1 : fld w 10 5 = a.code := fld_of e (fld_up 5 b4 (fld_up 5 b3 (fld_here 5 b2)))
  have e2 : fld w 5 5 = b.code := fld_of e (fld_up 5 b4 (fld_here 5 b3))
  have e3 : fld w 0 5 = v.toNat := fld_of e (fld_here 5 b4)
  have e4 : finF w 20 3 = p := finF_eq (fld_of e (fld_up 5 b4 (fld_up 5 b3 (fld_up 5 b2 (fld_up 5 b1 (fld_here 3 b0))))))
  refine decode_of_map hw (k := 1) (op := 13)
    (fld_of e (fld_up 5 b4 (fld_up 5 b3 (fld_up 5 b2 (fld_up 5 b1 (fld_up 3 b0 (fld_up 7 (by decide) (fld_here 1 (by decide)))))))))
    (fld_of e (fld_up 5 b4 (fld_up 5 b3 (fld_up 5 b2 (fld_up 5 b1 (fld_up 3 b0 (fld_here 7 (by decide)))))))) ?_
  simp [decA_13, e0, e1, e2, e3, e4, regOf_code, flagOf_toNat]

theorem min (p : PReg) (d : Reg) (a : Reg) (b : Reg) (v : Bool) : Statement (.min p d a b v) := by
  intro lone w hw h
  have b0 := p.isLt
  have b1 := reg_code_lt d
  have b2 := reg_code_lt a
  have b3 := reg_code_lt b
  have b4 := toNat_lt_32 v
  have h : lone.toNat * 2147483648 + 1 * 1073741824 + 14 * 8388608 + (p.val * 1048576 + d.code * 32768 + a.code * 1024 + b.code * 32 + v.toNat) = w := Option.some.inj h
  have e : w = ((((((lone.toNat * 2 + 1) * 128 + 14) * 8 + p.val) * 32 + d.code) * 32 + a.code) * 32 + b.code) * 32 + v.toNat := by omega
  clear h
  have e0 : fld w 15 5 = d.code := fld_of e (fld_up 5 b4 (fld_up 5 b3 (fld_up 5 b2 (fld_here 5 b1))))
  have e1 : fld w 10 5 = a.code := fld_of e (fld_up 5 b4 (fld_up 5 b3 (fld_here 5 b2)))
  have e2 : fld w 5 5 = b.code := fld_of e (fld_up 5 b4 (fld_here 5 b3))
  have e3 : fld w 0 5 = v.toNat := fld_of e (fld_here 5 b4)
  have e4 : finF w 20 3 = p := finF_eq (fld_of e (fld_up 5 b4 (fld_up 5 b3 (fld_up 5 b2 (fld_up 5 b1 (fld_here 3 b0))))))
  refine decode_of_map hw (k := 1) (op := 14)
    (fld_of e (fld_up 5 b4 (fld_up 5 b3 (fld_up 5 b2 (fld_up 5 b1 (fld_up 3 b0 (fld_up 7 (by decide) (fld_here 1 (by decide)))))))))
    (fld_of e (fld_up 5 b4 (fld_up 5 b3 (fld_up 5 b2 (fld_up 5 b1 (fld_up 3 b0 (fld_here 7 (by decide)))))))) ?_
  simp [decA_14, e0, e1, e2, e3, e4, regOf_code, flagOf_toNat]

theorem max (p : PReg) (d : Reg) (a : Reg) (b : Reg) (v : Bool) : Statement (.max p d a b v) := by
  intro lone w hw h
  have b0 := p.isLt
  have b1 := reg_code_lt d
  have b2 := reg_code_lt a
  have b3 := reg_code_lt b
  have b4 := toNat_lt_32 v
  have h : lone.toNat * 2147483648 + 1 * 1073741824 + 15 * 8388608 + (p.val * 1048576 + d.code * 32768 + a.code * 1024 + b.code * 32 + v.toNat) = w := Option.some.inj h
  have e : w = ((((((lone.toNat * 2 + 1) * 128 + 15) * 8 + p.val) * 32 + d.code) * 32 + a.code) * 32 + b.code) * 32 + v.toNat := by omega
  clear h
  have e0 : fld w 15 5 = d.code := fld_of e (fld_up 5 b4 (fld_up 5 b3 (fld_up 5 b2 (fld_here 5 b1))))
  have e1 : fld w 10 5 = a.code := fld_of e (fld_up 5 b4 (fld_up 5 b3 (fld_here 5 b2)))
  have e2 : fld w 5 5 = b.code := fld_of e (fld_up 5 b4 (fld_here 5 b3))
  have e3 : fld w 0 5 = v.toNat := fld_of e (fld_here 5 b4)
  have e4 : finF w 20 3 = p := finF_eq (fld_of e (fld_up 5 b4 (fld_up 5 b3 (fld_up 5 b2 (fld_up 5 b1 (fld_here 3 b0))))))
  refine decode_of_map hw (k := 1) (op := 15)
    (fld_of e (fld_up 5 b4 (fld_up 5 b3 (fld_up 5 b2 (fld_up 5 b1 (fld_up 3 b0 (fld_up 7 (by decide) (fld_here 1 (by decide)))))))))
    (fld_of e (fld_up 5 b4 (fld_up 5 b3 (fld_up 5 b2 (fld_up 5 b1 (fld_up 3 b0 (fld_here 7 (by decide)))))))) ?_
  simp [decA_15, e0, e1, e2, e3, e4, regOf_code, flagOf_toNat]

theorem clz (p : PReg) (d : Reg) (a : Reg) (v : Bool) : Statement (.clz p d a v) := by
  intro lone w hw h
  have b0 := p.isLt
  have b1 := reg_code_lt d
  have b2 := reg_code_lt a
  have b3 : 0 < 32 := by decide
  have b4 := toNat_lt_32 v
  have h : lone.toNat * 2147483648 + 1 * 1073741824 + 16 * 8388608 + (p.val * 1048576 + d.code * 32768 + a.code * 1024 + v.toNat) = w := Option.some.inj h
  have e : w = ((((((lone.toNat * 2 + 1) * 128 + 16) * 8 + p.val) * 32 + d.code) * 32 + a.code) * 32 + 0) * 32 + v.toNat := by omega
  clear h
  have e0 : fld w 5 5 = 0 := fld_of e (fld_up 5 b4 (fld_here 5 b3))
  have e1 : fld w 15 5 = d.code := fld_of e (fld_up 5 b4 (fld_up 5 b3 (fld_up 5 b2 (fld_here 5 b1))))
  have e2 : fld w 10 5 = a.code := fld_of e (fld_up 5 b4 (fld_up 5 b3 (fld_here 5 b2)))
  have e3 : fld w 0 5 = v.toNat := fld_of e (fld_here 5 b4)
  have e4 : finF w 20 3 = p := finF_eq (fld_of e (fld_up 5 b4 (fld_up 5 b3 (fld_up 5 b2 (fld_up 5 b1 (fld_here 3 b0))))))
  refine decode_of_map hw (k := 1) (op := 16)
    (fld_of e (fld_up 5 b4 (fld_up 5 b3 (fld_up 5 b2 (fld_up 5 b1 (fld_up 3 b0 (fld_up 7 (by decide) (fld_here 1 (by decide)))))))))
    (fld_of e (fld_up 5 b4 (fld_up 5 b3 (fld_up 5 b2 (fld_up 5 b1 (fld_up 3 b0 (fld_here 7 (by decide)))))))) ?_
  simp [decA_16, e0, e1, e2, e3, e4, regOf_code, flagOf_toNat]

theorem ctz (p : PReg) (d : Reg) (a : Reg) (v : Bool) : Statement (.ctz p d a v) := by
  intro lone w hw h
  have b0 := p.isLt
  have b1 := reg_code_lt d
  have b2 := reg_code_lt a
  have b3 : 0 < 32 := by decide
  have b4 := toNat_lt_32 v
  have h : lone.toNat * 2147483648 + 1 * 1073741824 + 17 * 8388608 + (p.val * 1048576 + d.code * 32768 + a.code * 1024 + v.toNat) = w := Option.some.inj h
  have e : w = ((((((lone.toNat * 2 + 1) * 128 + 17) * 8 + p.val) * 32 + d.code) * 32 + a.code) * 32 + 0) * 32 + v.toNat := by omega
  clear h
  have e0 : fld w 5 5 = 0 := fld_of e (fld_up 5 b4 (fld_here 5 b3))
  have e1 : fld w 15 5 = d.code := fld_of e (fld_up 5 b4 (fld_up 5 b3 (fld_up 5 b2 (fld_here 5 b1))))
  have e2 : fld w 10 5 = a.code := fld_of e (fld_up 5 b4 (fld_up 5 b3 (fld_here 5 b2)))
  have e3 : fld w 0 5 = v.toNat := fld_of e (fld_here 5 b4)
  have e4 : finF w 20 3 = p := finF_eq (fld_of e (fld_up 5 b4 (fld_up 5 b3 (fld_up 5 b2 (fld_up 5 b1 (fld_here 3 b0))))))
  refine decode_of_map hw (k := 1) (op := 17)
    (fld_of e (fld_up 5 b4 (fld_up 5 b3 (fld_up 5 b2 (fld_up 5 b1 (fld_up 3 b0 (fld_up 7 (by decide) (fld_here 1 (by decide)))))))))
    (fld_of e (fld_up 5 b4 (fld_up 5 b3 (fld_up 5 b2 (fld_up 5 b1 (fld_up 3 b0 (fld_here 7 (by decide)))))))) ?_
  simp [decA_17, e0, e1, e2, e3, e4, regOf_code, flagOf_toNat]

theorem popc (p : PReg) (d : Reg) (a : Reg) (v : Bool) : Statement (.popc p d a v) := by
  intro lone w hw h
  have b0 := p.isLt
  have b1 := reg_code_lt d
  have b2 := reg_code_lt a
  have b3 : 0 < 32 := by decide
  have b4 := toNat_lt_32 v
  have h : lone.toNat * 2147483648 + 1 * 1073741824 + 18 * 8388608 + (p.val * 1048576 + d.code * 32768 + a.code * 1024 + v.toNat) = w := Option.some.inj h
  have e : w = ((((((lone.toNat * 2 + 1) * 128 + 18) * 8 + p.val) * 32 + d.code) * 32 + a.code) * 32 + 0) * 32 + v.toNat := by omega
  clear h
  have e0 : fld w 5 5 = 0 := fld_of e (fld_up 5 b4 (fld_here 5 b3))
  have e1 : fld w 15 5 = d.code := fld_of e (fld_up 5 b4 (fld_up 5 b3 (fld_up 5 b2 (fld_here 5 b1))))
  have e2 : fld w 10 5 = a.code := fld_of e (fld_up 5 b4 (fld_up 5 b3 (fld_here 5 b2)))
  have e3 : fld w 0 5 = v.toNat := fld_of e (fld_here 5 b4)
  have e4 : finF w 20 3 = p := finF_eq (fld_of e (fld_up 5 b4 (fld_up 5 b3 (fld_up 5 b2 (fld_up 5 b1 (fld_here 3 b0))))))
  refine decode_of_map hw (k := 1) (op := 18)
    (fld_of e (fld_up 5 b4 (fld_up 5 b3 (fld_up 5 b2 (fld_up 5 b1 (fld_up 3 b0 (fld_up 7 (by decide) (fld_here 1 (by decide)))))))))
    (fld_of e (fld_up 5 b4 (fld_up 5 b3 (fld_up 5 b2 (fld_up 5 b1 (fld_up 3 b0 (fld_here 7 (by decide)))))))) ?_
  simp [decA_18, e0, e1, e2, e3, e4, regOf_code, flagOf_toNat]

theorem bext (p : PReg) (d : Reg) (a : Reg) (b : Reg) (v : Bool) : Statement (.bext p d a b v) := by
  intro lone w hw h
  have b0 := p.isLt
  have b1 := reg_code_lt d
  have b2 := reg_code_lt a
  have b3 := reg_code_lt b
  have b4 := toNat_lt_32 v
  have h : lone.toNat * 2147483648 + 1 * 1073741824 + 19 * 8388608 + (p.val * 1048576 + d.code * 32768 + a.code * 1024 + b.code * 32 + v.toNat) = w := Option.some.inj h
  have e : w = ((((((lone.toNat * 2 + 1) * 128 + 19) * 8 + p.val) * 32 + d.code) * 32 + a.code) * 32 + b.code) * 32 + v.toNat := by omega
  clear h
  have e0 : fld w 15 5 = d.code := fld_of e (fld_up 5 b4 (fld_up 5 b3 (fld_up 5 b2 (fld_here 5 b1))))
  have e1 : fld w 10 5 = a.code := fld_of e (fld_up 5 b4 (fld_up 5 b3 (fld_here 5 b2)))
  have e2 : fld w 5 5 = b.code := fld_of e (fld_up 5 b4 (fld_here 5 b3))
  have e3 : fld w 0 5 = v.toNat := fld_of e (fld_here 5 b4)
  have e4 : finF w 20 3 = p := finF_eq (fld_of e (fld_up 5 b4 (fld_up 5 b3 (fld_up 5 b2 (fld_up 5 b1 (fld_here 3 b0))))))
  refine decode_of_map hw (k := 1) (op := 19)
    (fld_of e (fld_up 5 b4 (fld_up 5 b3 (fld_up 5 b2 (fld_up 5 b1 (fld_up 3 b0 (fld_up 7 (by decide) (fld_here 1 (by decide)))))))))
    (fld_of e (fld_up 5 b4 (fld_up 5 b3 (fld_up 5 b2 (fld_up 5 b1 (fld_up 3 b0 (fld_here 7 (by decide)))))))) ?_
  simp [decA_19, e0, e1, e2, e3, e4, regOf_code, flagOf_toNat]

theorem bins (p : PReg) (d : Reg) (a : Reg) (b : Reg) : Statement (.bins p d a b) := by
  intro lone w hw h
  have b0 := p.isLt
  have b1 := reg_code_lt d
  have b2 := reg_code_lt a
  have b3 := reg_code_lt b
  have b4 : 0 < 32 := by decide
  have h : lone.toNat * 2147483648 + 1 * 1073741824 + 20 * 8388608 + (p.val * 1048576 + d.code * 32768 + a.code * 1024 + b.code * 32) = w := Option.some.inj h
  have e : w = ((((((lone.toNat * 2 + 1) * 128 + 20) * 8 + p.val) * 32 + d.code) * 32 + a.code) * 32 + b.code) * 32 + 0 := by omega
  clear h
  have e0 : fld w 0 5 = 0 := fld_of e (fld_here 5 b4)
  have e1 : fld w 15 5 = d.code := fld_of e (fld_up 5 b4 (fld_up 5 b3 (fld_up 5 b2 (fld_here 5 b1))))
  have e2 : fld w 10 5 = a.code := fld_of e (fld_up 5 b4 (fld_up 5 b3 (fld_here 5 b2)))
  have e3 : fld w 5 5 = b.code := fld_of e (fld_up 5 b4 (fld_here 5 b3))
  have e4 : finF w 20 3 = p := finF_eq (fld_of e (fld_up 5 b4 (fld_up 5 b3 (fld_up 5 b2 (fld_up 5 b1 (fld_here 3 b0))))))
  refine decode_of_map hw (k := 1) (op := 20)
    (fld_of e (fld_up 5 b4 (fld_up 5 b3 (fld_up 5 b2 (fld_up 5 b1 (fld_up 3 b0 (fld_up 7 (by decide) (fld_here 1 (by decide)))))))))
    (fld_of e (fld_up 5 b4 (fld_up 5 b3 (fld_up 5 b2 (fld_up 5 b1 (fld_up 3 b0 (fld_here 7 (by decide)))))))) ?_
  simp [decA_20, e0, e1, e2, e3, e4, regOf_code]

theorem sel (p : PReg) (d : Reg) (a : Reg) (b : Reg) (q : PReg) : Statement (.sel p d a b q) := by
  intro lone w hw h
  have b0 := p.isLt
  have b1 := reg_code_lt d
  have b2 := reg_code_lt a
  have b3 := reg_code_lt b
  have b4 : 0 < 4 := by decide
  have b5 := q.isLt
  have h : lone.toNat * 2147483648 + 1 * 1073741824 + 21 * 8388608 + (p.val * 1048576 + d.code * 32768 + a.code * 1024 + b.code * 32 + q.val) = w := Option.some.inj h
  have e : w = (((((((lone.toNat * 2 + 1) * 128 + 21) * 8 + p.val) * 32 + d.code) * 32 + a.code) * 32 + b.code) * 4 + 0) * 8 + q.val := by omega
  clear h
  have e0 : fld w 3 2 = 0 := fld_of e (fld_up 3 b5 (fld_here 2 b4))
  have e1 : fld w 15 5 = d.code := fld_of e (fld_up 3 b5 (fld_up 2 b4 (fld_up 5 b3 (fld_up 5 b2 (fld_here 5 b1)))))
  have e2 : fld w 10 5 = a.code := fld_of e (fld_up 3 b5 (fld_up 2 b4 (fld_up 5 b3 (fld_here 5 b2))))
  have e3 : fld w 5 5 = b.code := fld_of e (fld_up 3 b5 (fld_up 2 b4 (fld_here 5 b3)))
  have e4 : finF w 20 3 = p := finF_eq (fld_of e (fld_up 3 b5 (fld_up 2 b4 (fld_up 5 b3 (fld_up 5 b2 (fld_up 5 b1 (fld_here 3 b0)))))))
  have e5 : finF w 0 3 = q := finF_eq (fld_of e (fld_here 3 b5))
  refine decode_of_map hw (k := 1) (op := 21)
    (fld_of e (fld_up 3 b5 (fld_up 2 b4 (fld_up 5 b3 (fld_up 5 b2 (fld_up 5 b1 (fld_up 3 b0 (fld_up 7 (by decide) (fld_here 1 (by decide))))))))))
    (fld_of e (fld_up 3 b5 (fld_up 2 b4 (fld_up 5 b3 (fld_up 5 b2 (fld_up 5 b1 (fld_up 3 b0 (fld_here 7 (by decide))))))))) ?_
  simp [decA_21, e0, e1, e2, e3, e4, e5, regOf_code]

theorem cmp (p : PReg) (d : Reg) (a : Reg) (b : Reg) (v : Bool) : Statement (.cmp p d a b v) := by
  intro lone w hw h
  have b0 := p.isLt
  have b1 := reg_code_lt d
  have b2 := reg_code_lt a
  have b3 := reg_code_lt b
  have b4 := toNat_lt_32 v
  have h : lone.toNat * 2147483648 + 1 * 1073741824 + 22 * 8388608 + (p.val * 1048576 + d.code * 32768 + a.code * 1024 + b.code * 32 + v.toNat) = w := Option.some.inj h
  have e : w = ((((((lone.toNat * 2 + 1) * 128 + 22) * 8 + p.val) * 32 + d.code) * 32 + a.code) * 32 + b.code) * 32 + v.toNat := by omega
  clear h
  have e0 : fld w 15 5 = d.code := fld_of e (fld_up 5 b4 (fld_up 5 b3 (fld_up 5 b2 (fld_here 5 b1))))
  have e1 : fld w 10 5 = a.code := fld_of e (fld_up 5 b4 (fld_up 5 b3 (fld_here 5 b2)))
  have e2 : fld w 5 5 = b.code := fld_of e (fld_up 5 b4 (fld_here 5 b3))
  have e3 : fld w 0 5 = v.toNat := fld_of e (fld_here 5 b4)
  have e4 : finF w 20 3 = p := finF_eq (fld_of e (fld_up 5 b4 (fld_up 5 b3 (fld_up 5 b2 (fld_up 5 b1 (fld_here 3 b0))))))
  refine decode_of_map hw (k := 1) (op := 22)
    (fld_of e (fld_up 5 b4 (fld_up 5 b3 (fld_up 5 b2 (fld_up 5 b1 (fld_up 3 b0 (fld_up 7 (by decide) (fld_here 1 (by decide)))))))))
    (fld_of e (fld_up 5 b4 (fld_up 5 b3 (fld_up 5 b2 (fld_up 5 b1 (fld_up 3 b0 (fld_here 7 (by decide)))))))) ?_
  simp [decA_22, e0, e1, e2, e3, e4, regOf_code, flagOf_toNat]

theorem hash64 (p : PReg) (d : Reg) (a : Reg) (b : Reg) : Statement (.hash64 p d a b) := by
  intro lone w hw h
  have b0 := p.isLt
  have b1 := reg_code_lt d
  have b2 := reg_code_lt a
  have b3 := reg_code_lt b
  have b4 : 0 < 32 := by decide
  have h : lone.toNat * 2147483648 + 1 * 1073741824 + 23 * 8388608 + (p.val * 1048576 + d.code * 32768 + a.code * 1024 + b.code * 32) = w := Option.some.inj h
  have e : w = ((((((lone.toNat * 2 + 1) * 128 + 23) * 8 + p.val) * 32 + d.code) * 32 + a.code) * 32 + b.code) * 32 + 0 := by omega
  clear h
  have e0 : fld w 0 5 = 0 := fld_of e (fld_here 5 b4)
  have e1 : fld w 15 5 = d.code := fld_of e (fld_up 5 b4 (fld_up 5 b3 (fld_up 5 b2 (fld_here 5 b1))))
  have e2 : fld w 10 5 = a.code := fld_of e (fld_up 5 b4 (fld_up 5 b3 (fld_here 5 b2)))
  have e3 : fld w 5 5 = b.code := fld_of e (fld_up 5 b4 (fld_here 5 b3))
  have e4 : finF w 20 3 = p := finF_eq (fld_of e (fld_up 5 b4 (fld_up 5 b3 (fld_up 5 b2 (fld_up 5 b1 (fld_here 3 b0))))))
  refine decode_of_map hw (k := 1) (op := 23)
    (fld_of e (fld_up 5 b4 (fld_up 5 b3 (fld_up 5 b2 (fld_up 5 b1 (fld_up 3 b0 (fld_up 7 (by decide) (fld_here 1 (by decide)))))))))
    (fld_of e (fld_up 5 b4 (fld_up 5 b3 (fld_up 5 b2 (fld_up 5 b1 (fld_up 3 b0 (fld_here 7 (by decide)))))))) ?_
  simp [decA_23, e0, e1, e2, e3, e4, regOf_code]

theorem movi (p : PReg) (d : Reg) (imm : BitVec 15) : Statement (.movi p d imm) := by
  intro lone w hw h
  have b0 := p.isLt
  have b1 := reg_code_lt d
  have b2 := imm.isLt
  have h : lone.toNat * 2147483648 + 1 * 1073741824 + 24 * 8388608 + (p.val * 1048576 + d.code * 32768 + imm.toNat) = w := Option.some.inj h
  have e : w = ((((lone.toNat * 2 + 1) * 128 + 24) * 8 + p.val) * 32 + d.code) * 32768 + imm.toNat := by omega
  clear h
  have e0 : fld w 15 5 = d.code := fld_of e (fld_up 15 b2 (fld_here 5 b1))
  have e1 : finF w 20 3 = p := finF_eq (fld_of e (fld_up 15 b2 (fld_up 5 b1 (fld_here 3 b0))))
  have e2 : bitsF w 0 15 = imm := bitsF_eq (fld_of e (fld_here 15 b2))
  refine decode_of_map hw (k := 1) (op := 24)
    (fld_of e (fld_up 15 b2 (fld_up 5 b1 (fld_up 3 b0 (fld_up 7 (by decide) (fld_here 1 (by decide)))))))
    (fld_of e (fld_up 15 b2 (fld_up 5 b1 (fld_up 3 b0 (fld_here 7 (by decide)))))) ?_
  simp [decA_24, e0, e1, e2, regOf_code]

theorem movh (p : PReg) (d : Reg) (imm : BitVec 15) : Statement (.movh p d imm) := by
  intro lone w hw h
  have b0 := p.isLt
  have b1 := reg_code_lt d
  have b2 := imm.isLt
  have h : lone.toNat * 2147483648 + 1 * 1073741824 + 25 * 8388608 + (p.val * 1048576 + d.code * 32768 + imm.toNat) = w := Option.some.inj h
  have e : w = ((((lone.toNat * 2 + 1) * 128 + 25) * 8 + p.val) * 32 + d.code) * 32768 + imm.toNat := by omega
  clear h
  have e0 : fld w 15 5 = d.code := fld_of e (fld_up 15 b2 (fld_here 5 b1))
  have e1 : finF w 20 3 = p := finF_eq (fld_of e (fld_up 15 b2 (fld_up 5 b1 (fld_here 3 b0))))
  have e2 : bitsF w 0 15 = imm := bitsF_eq (fld_of e (fld_here 15 b2))
  refine decode_of_map hw (k := 1) (op := 25)
    (fld_of e (fld_up 15 b2 (fld_up 5 b1 (fld_up 3 b0 (fld_up 7 (by decide) (fld_here 1 (by decide)))))))
    (fld_of e (fld_up 15 b2 (fld_up 5 b1 (fld_up 3 b0 (fld_here 7 (by decide)))))) ?_
  simp [decA_25, e0, e1, e2, regOf_code]

theorem pset (p : PReg) (pd : PReg) (a : Reg) (b : Reg) (c : ICond) : Statement (.pset p pd a b c) := by
  intro lone w hw h
  have b0 := p.isLt
  have b1 := pd.isLt
  have b2 : 0 < 4 := by decide
  have b3 := reg_code_lt a
  have b4 := reg_code_lt b
  have b5 := iCond_code_lt c
  have h : lone.toNat * 2147483648 + 1 * 1073741824 + 26 * 8388608 + (p.val * 1048576 + pd.val * 131072 + a.code * 1024 + b.code * 32 + c.code) = w := Option.some.inj h
  have e : w = (((((((lone.toNat * 2 + 1) * 128 + 26) * 8 + p.val) * 8 + pd.val) * 4 + 0) * 32 + a.code) * 32 + b.code) * 32 + c.code := by omega
  clear h
  have e0 : fld w 15 2 = 0 := fld_of e (fld_up 5 b5 (fld_up 5 b4 (fld_up 5 b3 (fld_here 2 b2))))
  have e1 : fld w 10 5 = a.code := fld_of e (fld_up 5 b5 (fld_up 5 b4 (fld_here 5 b3)))
  have e2 : fld w 5 5 = b.code := fld_of e (fld_up 5 b5 (fld_here 5 b4))
  have e3 : fld w 0 5 = c.code := fld_of e (fld_here 5 b5)
  have e4 : finF w 20 3 = p := finF_eq (fld_of e (fld_up 5 b5 (fld_up 5 b4 (fld_up 5 b3 (fld_up 2 b2 (fld_up 3 b1 (fld_here 3 b0)))))))
  have e5 : finF w 17 3 = pd := finF_eq (fld_of e (fld_up 5 b5 (fld_up 5 b4 (fld_up 5 b3 (fld_up 2 b2 (fld_here 3 b1))))))
  refine decode_of_map hw (k := 1) (op := 26)
    (fld_of e (fld_up 5 b5 (fld_up 5 b4 (fld_up 5 b3 (fld_up 2 b2 (fld_up 3 b1 (fld_up 3 b0 (fld_up 7 (by decide) (fld_here 1 (by decide))))))))))
    (fld_of e (fld_up 5 b5 (fld_up 5 b4 (fld_up 5 b3 (fld_up 2 b2 (fld_up 3 b1 (fld_up 3 b0 (fld_here 7 (by decide))))))))) ?_
  simp [decA_26, e0, e1, e2, e3, e4, e5, regOf_code, iCondOf_code]

theorem pand (p : PReg) (pd : PReg) (pa : PReg) (pb : PReg) (na : Bool) (nb : Bool) : Statement (.pand p pd pa pb na nb) := by
  intro lone w hw h
  have b0 := p.isLt
  have b1 := pd.isLt
  have b2 := pa.isLt
  have b3 := pb.isLt
  have b4 := toNat_lt_two na
  have b5 := toNat_lt_two nb
  have b6 : 0 < 512 := by decide
  have h : lone.toNat * 2147483648 + 1 * 1073741824 + 27 * 8388608 + (p.val * 1048576 + pd.val * 131072 + pa.val * 16384 + pb.val * 2048 + na.toNat * 1024 + nb.toNat * 512) = w := Option.some.inj h
  have e : w = ((((((((lone.toNat * 2 + 1) * 128 + 27) * 8 + p.val) * 8 + pd.val) * 8 + pa.val) * 8 + pb.val) * 2 + na.toNat) * 2 + nb.toNat) * 512 + 0 := by omega
  clear h
  have e0 : fld w 0 9 = 0 := fld_of e (fld_here 9 b6)
  have e1 : finF w 20 3 = p := finF_eq (fld_of e (fld_up 9 b6 (fld_up 1 b5 (fld_up 1 b4 (fld_up 3 b3 (fld_up 3 b2 (fld_up 3 b1 (fld_here 3 b0))))))))
  have e2 : finF w 17 3 = pd := finF_eq (fld_of e (fld_up 9 b6 (fld_up 1 b5 (fld_up 1 b4 (fld_up 3 b3 (fld_up 3 b2 (fld_here 3 b1)))))))
  have e3 : finF w 14 3 = pa := finF_eq (fld_of e (fld_up 9 b6 (fld_up 1 b5 (fld_up 1 b4 (fld_up 3 b3 (fld_here 3 b2))))))
  have e4 : finF w 11 3 = pb := finF_eq (fld_of e (fld_up 9 b6 (fld_up 1 b5 (fld_up 1 b4 (fld_here 3 b3)))))
  have e5 : bitF w 10 = na := bitF_eq (fld_of e (fld_up 9 b6 (fld_up 1 b5 (fld_here 1 b4))))
  have e6 : bitF w 9 = nb := bitF_eq (fld_of e (fld_up 9 b6 (fld_here 1 b5)))
  refine decode_of_map hw (k := 1) (op := 27)
    (fld_of e (fld_up 9 b6 (fld_up 1 b5 (fld_up 1 b4 (fld_up 3 b3 (fld_up 3 b2 (fld_up 3 b1 (fld_up 3 b0 (fld_up 7 (by decide) (fld_here 1 (by decide)))))))))))
    (fld_of e (fld_up 9 b6 (fld_up 1 b5 (fld_up 1 b4 (fld_up 3 b3 (fld_up 3 b2 (fld_up 3 b1 (fld_up 3 b0 (fld_here 7 (by decide)))))))))) ?_
  simp [decA_27, e0, e1, e2, e3, e4, e5, e6]

theorem por (p : PReg) (pd : PReg) (pa : PReg) (pb : PReg) (na : Bool) (nb : Bool) : Statement (.por p pd pa pb na nb) := by
  intro lone w hw h
  have b0 := p.isLt
  have b1 := pd.isLt
  have b2 := pa.isLt
  have b3 := pb.isLt
  have b4 := toNat_lt_two na
  have b5 := toNat_lt_two nb
  have b6 : 0 < 512 := by decide
  have h : lone.toNat * 2147483648 + 1 * 1073741824 + 28 * 8388608 + (p.val * 1048576 + pd.val * 131072 + pa.val * 16384 + pb.val * 2048 + na.toNat * 1024 + nb.toNat * 512) = w := Option.some.inj h
  have e : w = ((((((((lone.toNat * 2 + 1) * 128 + 28) * 8 + p.val) * 8 + pd.val) * 8 + pa.val) * 8 + pb.val) * 2 + na.toNat) * 2 + nb.toNat) * 512 + 0 := by omega
  clear h
  have e0 : fld w 0 9 = 0 := fld_of e (fld_here 9 b6)
  have e1 : finF w 20 3 = p := finF_eq (fld_of e (fld_up 9 b6 (fld_up 1 b5 (fld_up 1 b4 (fld_up 3 b3 (fld_up 3 b2 (fld_up 3 b1 (fld_here 3 b0))))))))
  have e2 : finF w 17 3 = pd := finF_eq (fld_of e (fld_up 9 b6 (fld_up 1 b5 (fld_up 1 b4 (fld_up 3 b3 (fld_up 3 b2 (fld_here 3 b1)))))))
  have e3 : finF w 14 3 = pa := finF_eq (fld_of e (fld_up 9 b6 (fld_up 1 b5 (fld_up 1 b4 (fld_up 3 b3 (fld_here 3 b2))))))
  have e4 : finF w 11 3 = pb := finF_eq (fld_of e (fld_up 9 b6 (fld_up 1 b5 (fld_up 1 b4 (fld_here 3 b3)))))
  have e5 : bitF w 10 = na := bitF_eq (fld_of e (fld_up 9 b6 (fld_up 1 b5 (fld_here 1 b4))))
  have e6 : bitF w 9 = nb := bitF_eq (fld_of e (fld_up 9 b6 (fld_here 1 b5)))
  refine decode_of_map hw (k := 1) (op := 28)
    (fld_of e (fld_up 9 b6 (fld_up 1 b5 (fld_up 1 b4 (fld_up 3 b3 (fld_up 3 b2 (fld_up 3 b1 (fld_up 3 b0 (fld_up 7 (by decide) (fld_here 1 (by decide)))))))))))
    (fld_of e (fld_up 9 b6 (fld_up 1 b5 (fld_up 1 b4 (fld_up 3 b3 (fld_up 3 b2 (fld_up 3 b1 (fld_up 3 b0 (fld_here 7 (by decide)))))))))) ?_
  simp [decA_28, e0, e1, e2, e3, e4, e5, e6]

theorem pnot (p : PReg) (pd : PReg) (pa : PReg) (na : Bool) : Statement (.pnot p pd pa na) := by
  intro lone w hw h
  have b0 := p.isLt
  have b1 := pd.isLt
  have b2 := pa.isLt
  have b3 : 0 < 8 := by decide
  have b4 := toNat_lt_two na
  have b5 : 0 < 2 := by decide
  have b6 : 0 < 512 := by decide
  have h : lone.toNat * 2147483648 + 1 * 1073741824 + 29 * 8388608 + (p.val * 1048576 + pd.val * 131072 + pa.val * 16384 + na.toNat * 1024) = w := Option.some.inj h
  have e : w = ((((((((lone.toNat * 2 + 1) * 128 + 29) * 8 + p.val) * 8 + pd.val) * 8 + pa.val) * 8 + 0) * 2 + na.toNat) * 2 + 0) * 512 + 0 := by omega
  clear h
  have e0 : fld w 11 3 = 0 := fld_of e (fld_up 9 b6 (fld_up 1 b5 (fld_up 1 b4 (fld_here 3 b3))))
  have e1 : fld w 9 1 = 0 := fld_of e (fld_up 9 b6 (fld_here 1 b5))
  have e2 : fld w 0 9 = 0 := fld_of e (fld_here 9 b6)
  have e3 : finF w 20 3 = p := finF_eq (fld_of e (fld_up 9 b6 (fld_up 1 b5 (fld_up 1 b4 (fld_up 3 b3 (fld_up 3 b2 (fld_up 3 b1 (fld_here 3 b0))))))))
  have e4 : finF w 17 3 = pd := finF_eq (fld_of e (fld_up 9 b6 (fld_up 1 b5 (fld_up 1 b4 (fld_up 3 b3 (fld_up 3 b2 (fld_here 3 b1)))))))
  have e5 : finF w 14 3 = pa := finF_eq (fld_of e (fld_up 9 b6 (fld_up 1 b5 (fld_up 1 b4 (fld_up 3 b3 (fld_here 3 b2))))))
  have e6 : bitF w 10 = na := bitF_eq (fld_of e (fld_up 9 b6 (fld_up 1 b5 (fld_here 1 b4))))
  refine decode_of_map hw (k := 1) (op := 29)
    (fld_of e (fld_up 9 b6 (fld_up 1 b5 (fld_up 1 b4 (fld_up 3 b3 (fld_up 3 b2 (fld_up 3 b1 (fld_up 3 b0 (fld_up 7 (by decide) (fld_here 1 (by decide)))))))))))
    (fld_of e (fld_up 9 b6 (fld_up 1 b5 (fld_up 1 b4 (fld_up 3 b3 (fld_up 3 b2 (fld_up 3 b1 (fld_up 3 b0 (fld_here 7 (by decide)))))))))) ?_
  simp [decA_29, e0, e1, e2, e3, e4, e5, e6]

theorem addImm (p : PReg) (d : Reg) (a : Reg) (imm : BitVec 10) : Statement (.addImm p d a imm) := by
  intro lone w hw h
  have b0 := p.isLt
  have b1 := reg_code_lt d
  have b2 := reg_code_lt a
  have b3 := imm.isLt
  have h : lone.toNat * 2147483648 + 1 * 1073741824 + 64 * 8388608 + (p.val * 1048576 + d.code * 32768 + a.code * 1024 + imm.toNat) = w := Option.some.inj h
  have e : w = (((((lone.toNat * 2 + 1) * 128 + 64) * 8 + p.val) * 32 + d.code) * 32 + a.code) * 1024 + imm.toNat := by omega
  clear h
  have e0 : fld w 15 5 = d.code := fld_of e (fld_up 10 b3 (fld_up 5 b2 (fld_here 5 b1)))
  have e1 : fld w 10 5 = a.code := fld_of e (fld_up 10 b3 (fld_here 5 b2))
  have e2 : finF w 20 3 = p := finF_eq (fld_of e (fld_up 10 b3 (fld_up 5 b2 (fld_up 5 b1 (fld_here 3 b0)))))
  have e3 : bitsF w 0 10 = imm := bitsF_eq (fld_of e (fld_here 10 b3))
  refine decode_of_map hw (k := 1) (op := 64)
    (fld_of e (fld_up 10 b3 (fld_up 5 b2 (fld_up 5 b1 (fld_up 3 b0 (fld_up 7 (by decide) (fld_here 1 (by decide))))))))
    (fld_of e (fld_up 10 b3 (fld_up 5 b2 (fld_up 5 b1 (fld_up 3 b0 (fld_here 7 (by decide))))))) ?_
  simp [decA_64, e0, e1, e2, e3, regOf_code]

theorem subImm (p : PReg) (d : Reg) (a : Reg) (imm : BitVec 10) : Statement (.subImm p d a imm) := by
  intro lone w hw h
  have b0 := p.isLt
  have b1 := reg_code_lt d
  have b2 := reg_code_lt a
  have b3 := imm.isLt
  have h : lone.toNat * 2147483648 + 1 * 1073741824 + 65 * 8388608 + (p.val * 1048576 + d.code * 32768 + a.code * 1024 + imm.toNat) = w := Option.some.inj h
  have e : w = (((((lone.toNat * 2 + 1) * 128 + 65) * 8 + p.val) * 32 + d.code) * 32 + a.code) * 1024 + imm.toNat := by omega
  clear h
  have e0 : fld w 15 5 = d.code := fld_of e (fld_up 10 b3 (fld_up 5 b2 (fld_here 5 b1)))
  have e1 : fld w 10 5 = a.code := fld_of e (fld_up 10 b3 (fld_here 5 b2))
  have e2 : finF w 20 3 = p := finF_eq (fld_of e (fld_up 10 b3 (fld_up 5 b2 (fld_up 5 b1 (fld_here 3 b0)))))
  have e3 : bitsF w 0 10 = imm := bitsF_eq (fld_of e (fld_here 10 b3))
  refine decode_of_map hw (k := 1) (op := 65)
    (fld_of e (fld_up 10 b3 (fld_up 5 b2 (fld_up 5 b1 (fld_up 3 b0 (fld_up 7 (by decide) (fld_here 1 (by decide))))))))
    (fld_of e (fld_up 10 b3 (fld_up 5 b2 (fld_up 5 b1 (fld_up 3 b0 (fld_here 7 (by decide))))))) ?_
  simp [decA_65, e0, e1, e2, e3, regOf_code]

theorem mulImm (p : PReg) (d : Reg) (a : Reg) (imm : BitVec 10) : Statement (.mulImm p d a imm) := by
  intro lone w hw h
  have b0 := p.isLt
  have b1 := reg_code_lt d
  have b2 := reg_code_lt a
  have b3 := imm.isLt
  have h : lone.toNat * 2147483648 + 1 * 1073741824 + 66 * 8388608 + (p.val * 1048576 + d.code * 32768 + a.code * 1024 + imm.toNat) = w := Option.some.inj h
  have e : w = (((((lone.toNat * 2 + 1) * 128 + 66) * 8 + p.val) * 32 + d.code) * 32 + a.code) * 1024 + imm.toNat := by omega
  clear h
  have e0 : fld w 15 5 = d.code := fld_of e (fld_up 10 b3 (fld_up 5 b2 (fld_here 5 b1)))
  have e1 : fld w 10 5 = a.code := fld_of e (fld_up 10 b3 (fld_here 5 b2))
  have e2 : finF w 20 3 = p := finF_eq (fld_of e (fld_up 10 b3 (fld_up 5 b2 (fld_up 5 b1 (fld_here 3 b0)))))
  have e3 : bitsF w 0 10 = imm := bitsF_eq (fld_of e (fld_here 10 b3))
  refine decode_of_map hw (k := 1) (op := 66)
    (fld_of e (fld_up 10 b3 (fld_up 5 b2 (fld_up 5 b1 (fld_up 3 b0 (fld_up 7 (by decide) (fld_here 1 (by decide))))))))
    (fld_of e (fld_up 10 b3 (fld_up 5 b2 (fld_up 5 b1 (fld_up 3 b0 (fld_here 7 (by decide))))))) ?_
  simp [decA_66, e0, e1, e2, e3, regOf_code]

theorem mulhImm (p : PReg) (d : Reg) (a : Reg) (imm : BitVec 10) : Statement (.mulhImm p d a imm) := by
  intro lone w hw h
  have b0 := p.isLt
  have b1 := reg_code_lt d
  have b2 := reg_code_lt a
  have b3 := imm.isLt
  have h : lone.toNat * 2147483648 + 1 * 1073741824 + 67 * 8388608 + (p.val * 1048576 + d.code * 32768 + a.code * 1024 + imm.toNat) = w := Option.some.inj h
  have e : w = (((((lone.toNat * 2 + 1) * 128 + 67) * 8 + p.val) * 32 + d.code) * 32 + a.code) * 1024 + imm.toNat := by omega
  clear h
  have e0 : fld w 15 5 = d.code := fld_of e (fld_up 10 b3 (fld_up 5 b2 (fld_here 5 b1)))
  have e1 : fld w 10 5 = a.code := fld_of e (fld_up 10 b3 (fld_here 5 b2))
  have e2 : finF w 20 3 = p := finF_eq (fld_of e (fld_up 10 b3 (fld_up 5 b2 (fld_up 5 b1 (fld_here 3 b0)))))
  have e3 : bitsF w 0 10 = imm := bitsF_eq (fld_of e (fld_here 10 b3))
  refine decode_of_map hw (k := 1) (op := 67)
    (fld_of e (fld_up 10 b3 (fld_up 5 b2 (fld_up 5 b1 (fld_up 3 b0 (fld_up 7 (by decide) (fld_here 1 (by decide))))))))
    (fld_of e (fld_up 10 b3 (fld_up 5 b2 (fld_up 5 b1 (fld_up 3 b0 (fld_here 7 (by decide))))))) ?_
  simp [decA_67, e0, e1, e2, e3, regOf_code]

theorem divImm (p : PReg) (d : Reg) (a : Reg) (imm : BitVec 10) : Statement (.divImm p d a imm) := by
  intro lone w hw h
  have b0 := p.isLt
  have b1 := reg_code_lt d
  have b2 := reg_code_lt a
  have b3 := imm.isLt
  have h : lone.toNat * 2147483648 + 1 * 1073741824 + 68 * 8388608 + (p.val * 1048576 + d.code * 32768 + a.code * 1024 + imm.toNat) = w := Option.some.inj h
  have e : w = (((((lone.toNat * 2 + 1) * 128 + 68) * 8 + p.val) * 32 + d.code) * 32 + a.code) * 1024 + imm.toNat := by omega
  clear h
  have e0 : fld w 15 5 = d.code := fld_of e (fld_up 10 b3 (fld_up 5 b2 (fld_here 5 b1)))
  have e1 : fld w 10 5 = a.code := fld_of e (fld_up 10 b3 (fld_here 5 b2))
  have e2 : finF w 20 3 = p := finF_eq (fld_of e (fld_up 10 b3 (fld_up 5 b2 (fld_up 5 b1 (fld_here 3 b0)))))
  have e3 : bitsF w 0 10 = imm := bitsF_eq (fld_of e (fld_here 10 b3))
  refine decode_of_map hw (k := 1) (op := 68)
    (fld_of e (fld_up 10 b3 (fld_up 5 b2 (fld_up 5 b1 (fld_up 3 b0 (fld_up 7 (by decide) (fld_here 1 (by decide))))))))
    (fld_of e (fld_up 10 b3 (fld_up 5 b2 (fld_up 5 b1 (fld_up 3 b0 (fld_here 7 (by decide))))))) ?_
  simp [decA_68, e0, e1, e2, e3, regOf_code]

theorem remImm (p : PReg) (d : Reg) (a : Reg) (imm : BitVec 10) : Statement (.remImm p d a imm) := by
  intro lone w hw h
  have b0 := p.isLt
  have b1 := reg_code_lt d
  have b2 := reg_code_lt a
  have b3 := imm.isLt
  have h : lone.toNat * 2147483648 + 1 * 1073741824 + 69 * 8388608 + (p.val * 1048576 + d.code * 32768 + a.code * 1024 + imm.toNat) = w := Option.some.inj h
  have e : w = (((((lone.toNat * 2 + 1) * 128 + 69) * 8 + p.val) * 32 + d.code) * 32 + a.code) * 1024 + imm.toNat := by omega
  clear h
  have e0 : fld w 15 5 = d.code := fld_of e (fld_up 10 b3 (fld_up 5 b2 (fld_here 5 b1)))
  have e1 : fld w 10 5 = a.code := fld_of e (fld_up 10 b3 (fld_here 5 b2))
  have e2 : finF w 20 3 = p := finF_eq (fld_of e (fld_up 10 b3 (fld_up 5 b2 (fld_up 5 b1 (fld_here 3 b0)))))
  have e3 : bitsF w 0 10 = imm := bitsF_eq (fld_of e (fld_here 10 b3))
  refine decode_of_map hw (k := 1) (op := 69)
    (fld_of e (fld_up 10 b3 (fld_up 5 b2 (fld_up 5 b1 (fld_up 3 b0 (fld_up 7 (by decide) (fld_here 1 (by decide))))))))
    (fld_of e (fld_up 10 b3 (fld_up 5 b2 (fld_up 5 b1 (fld_up 3 b0 (fld_here 7 (by decide))))))) ?_
  simp [decA_69, e0, e1, e2, e3, regOf_code]

theorem andImm (p : PReg) (d : Reg) (a : Reg) (imm : BitVec 10) : Statement (.andImm p d a imm) := by
  intro lone w hw h
  have b0 := p.isLt
  have b1 := reg_code_lt d
  have b2 := reg_code_lt a
  have b3 := imm.isLt
  have h : lone.toNat * 2147483648 + 1 * 1073741824 + 70 * 8388608 + (p.val * 1048576 + d.code * 32768 + a.code * 1024 + imm.toNat) = w := Option.some.inj h
  have e : w = (((((lone.toNat * 2 + 1) * 128 + 70) * 8 + p.val) * 32 + d.code) * 32 + a.code) * 1024 + imm.toNat := by omega
  clear h
  have e0 : fld w 15 5 = d.code := fld_of e (fld_up 10 b3 (fld_up 5 b2 (fld_here 5 b1)))
  have e1 : fld w 10 5 = a.code := fld_of e (fld_up 10 b3 (fld_here 5 b2))
  have e2 : finF w 20 3 = p := finF_eq (fld_of e (fld_up 10 b3 (fld_up 5 b2 (fld_up 5 b1 (fld_here 3 b0)))))
  have e3 : bitsF w 0 10 = imm := bitsF_eq (fld_of e (fld_here 10 b3))
  refine decode_of_map hw (k := 1) (op := 70)
    (fld_of e (fld_up 10 b3 (fld_up 5 b2 (fld_up 5 b1 (fld_up 3 b0 (fld_up 7 (by decide) (fld_here 1 (by decide))))))))
    (fld_of e (fld_up 10 b3 (fld_up 5 b2 (fld_up 5 b1 (fld_up 3 b0 (fld_here 7 (by decide))))))) ?_
  simp [decA_70, e0, e1, e2, e3, regOf_code]

theorem orImm (p : PReg) (d : Reg) (a : Reg) (imm : BitVec 10) : Statement (.orImm p d a imm) := by
  intro lone w hw h
  have b0 := p.isLt
  have b1 := reg_code_lt d
  have b2 := reg_code_lt a
  have b3 := imm.isLt
  have h : lone.toNat * 2147483648 + 1 * 1073741824 + 71 * 8388608 + (p.val * 1048576 + d.code * 32768 + a.code * 1024 + imm.toNat) = w := Option.some.inj h
  have e : w = (((((lone.toNat * 2 + 1) * 128 + 71) * 8 + p.val) * 32 + d.code) * 32 + a.code) * 1024 + imm.toNat := by omega
  clear h
  have e0 : fld w 15 5 = d.code := fld_of e (fld_up 10 b3 (fld_up 5 b2 (fld_here 5 b1)))
  have e1 : fld w 10 5 = a.code := fld_of e (fld_up 10 b3 (fld_here 5 b2))
  have e2 : finF w 20 3 = p := finF_eq (fld_of e (fld_up 10 b3 (fld_up 5 b2 (fld_up 5 b1 (fld_here 3 b0)))))
  have e3 : bitsF w 0 10 = imm := bitsF_eq (fld_of e (fld_here 10 b3))
  refine decode_of_map hw (k := 1) (op := 71)
    (fld_of e (fld_up 10 b3 (fld_up 5 b2 (fld_up 5 b1 (fld_up 3 b0 (fld_up 7 (by decide) (fld_here 1 (by decide))))))))
    (fld_of e (fld_up 10 b3 (fld_up 5 b2 (fld_up 5 b1 (fld_up 3 b0 (fld_here 7 (by decide))))))) ?_
  simp [decA_71, e0, e1, e2, e3, regOf_code]

theorem xorImm (p : PReg) (d : Reg) (a : Reg) (imm : BitVec 10) : Statement (.xorImm p d a imm) := by
  intro lone w hw h
  have b0 := p.isLt
  have b1 := reg_code_lt d
  have b2 := reg_code_lt a
  have b3 := imm.isLt
  have h : lone.toNat * 2147483648 + 1 * 1073741824 + 72 * 8388608 + (p.val * 1048576 + d.code * 32768 + a.code * 1024 + imm.toNat) = w := Option.some.inj h
  have e : w = (((((lone.toNat * 2 + 1) * 128 + 72) * 8 + p.val) * 32 + d.code) * 32 + a.code) * 1024 + imm.toNat := by omega
  clear h
  have e0 : fld w 15 5 = d.code := fld_of e (fld_up 10 b3 (fld_up 5 b2 (fld_here 5 b1)))
  have e1 : fld w 10 5 = a.code := fld_of e (fld_up 10 b3 (fld_here 5 b2))
  have e2 : finF w 20 3 = p := finF_eq (fld_of e (fld_up 10 b3 (fld_up 5 b2 (fld_up 5 b1 (fld_here 3 b0)))))
  have e3 : bitsF w 0 10 = imm := bitsF_eq (fld_of e (fld_here 10 b3))
  refine decode_of_map hw (k := 1) (op := 72)
    (fld_of e (fld_up 10 b3 (fld_up 5 b2 (fld_up 5 b1 (fld_up 3 b0 (fld_up 7 (by decide) (fld_here 1 (by decide))))))))
    (fld_of e (fld_up 10 b3 (fld_up 5 b2 (fld_up 5 b1 (fld_up 3 b0 (fld_here 7 (by decide))))))) ?_
  simp [decA_72, e0, e1, e2, e3, regOf_code]

theorem andnImm (p : PReg) (d : Reg) (a : Reg) (imm : BitVec 10) : Statement (.andnImm p d a imm) := by
  intro lone w hw h
  have b0 := p.isLt
  have b1 := reg_code_lt d
  have b2 := reg_code_lt a
  have b3 := imm.isLt
  have h : lone.toNat * 2147483648 + 1 * 1073741824 + 73 * 8388608 + (p.val * 1048576 + d.code * 32768 + a.code * 1024 + imm.toNat) = w := Option.some.inj h
  have e : w = (((((lone.toNat * 2 + 1) * 128 + 73) * 8 + p.val) * 32 + d.code) * 32 + a.code) * 1024 + imm.toNat := by omega
  clear h
  have e0 : fld w 15 5 = d.code := fld_of e (fld_up 10 b3 (fld_up 5 b2 (fld_here 5 b1)))
  have e1 : fld w 10 5 = a.code := fld_of e (fld_up 10 b3 (fld_here 5 b2))
  have e2 : finF w 20 3 = p := finF_eq (fld_of e (fld_up 10 b3 (fld_up 5 b2 (fld_up 5 b1 (fld_here 3 b0)))))
  have e3 : bitsF w 0 10 = imm := bitsF_eq (fld_of e (fld_here 10 b3))
  refine decode_of_map hw (k := 1) (op := 73)
    (fld_of e (fld_up 10 b3 (fld_up 5 b2 (fld_up 5 b1 (fld_up 3 b0 (fld_up 7 (by decide) (fld_here 1 (by decide))))))))
    (fld_of e (fld_up 10 b3 (fld_up 5 b2 (fld_up 5 b1 (fld_up 3 b0 (fld_here 7 (by decide))))))) ?_
  simp [decA_73, e0, e1, e2, e3, regOf_code]

theorem shlImm (p : PReg) (d : Reg) (a : Reg) (imm : BitVec 6) : Statement (.shlImm p d a imm) := by
  intro lone w hw h
  have b0 := p.isLt
  have b1 := reg_code_lt d
  have b2 := reg_code_lt a
  have b3 : 0 < 16 := by decide
  have b4 := imm.isLt
  have h : lone.toNat * 2147483648 + 1 * 1073741824 + 74 * 8388608 + (p.val * 1048576 + d.code * 32768 + a.code * 1024 + imm.toNat) = w := Option.some.inj h
  have e : w = ((((((lone.toNat * 2 + 1) * 128 + 74) * 8 + p.val) * 32 + d.code) * 32 + a.code) * 16 + 0) * 64 + imm.toNat := by omega
  clear h
  have e0 : fld w 6 4 = 0 := fld_of e (fld_up 6 b4 (fld_here 4 b3))
  have e1 : fld w 15 5 = d.code := fld_of e (fld_up 6 b4 (fld_up 4 b3 (fld_up 5 b2 (fld_here 5 b1))))
  have e2 : fld w 10 5 = a.code := fld_of e (fld_up 6 b4 (fld_up 4 b3 (fld_here 5 b2)))
  have e3 : finF w 20 3 = p := finF_eq (fld_of e (fld_up 6 b4 (fld_up 4 b3 (fld_up 5 b2 (fld_up 5 b1 (fld_here 3 b0))))))
  have e4 : bitsF w 0 6 = imm := bitsF_eq (fld_of e (fld_here 6 b4))
  refine decode_of_map hw (k := 1) (op := 74)
    (fld_of e (fld_up 6 b4 (fld_up 4 b3 (fld_up 5 b2 (fld_up 5 b1 (fld_up 3 b0 (fld_up 7 (by decide) (fld_here 1 (by decide)))))))))
    (fld_of e (fld_up 6 b4 (fld_up 4 b3 (fld_up 5 b2 (fld_up 5 b1 (fld_up 3 b0 (fld_here 7 (by decide)))))))) ?_
  simp [decA_74, e0, e1, e2, e3, e4, regOf_code]

theorem shrImm (p : PReg) (d : Reg) (a : Reg) (imm : BitVec 6) : Statement (.shrImm p d a imm) := by
  intro lone w hw h
  have b0 := p.isLt
  have b1 := reg_code_lt d
  have b2 := reg_code_lt a
  have b3 : 0 < 16 := by decide
  have b4 := imm.isLt
  have h : lone.toNat * 2147483648 + 1 * 1073741824 + 75 * 8388608 + (p.val * 1048576 + d.code * 32768 + a.code * 1024 + imm.toNat) = w := Option.some.inj h
  have e : w = ((((((lone.toNat * 2 + 1) * 128 + 75) * 8 + p.val) * 32 + d.code) * 32 + a.code) * 16 + 0) * 64 + imm.toNat := by omega
  clear h
  have e0 : fld w 6 4 = 0 := fld_of e (fld_up 6 b4 (fld_here 4 b3))
  have e1 : fld w 15 5 = d.code := fld_of e (fld_up 6 b4 (fld_up 4 b3 (fld_up 5 b2 (fld_here 5 b1))))
  have e2 : fld w 10 5 = a.code := fld_of e (fld_up 6 b4 (fld_up 4 b3 (fld_here 5 b2)))
  have e3 : finF w 20 3 = p := finF_eq (fld_of e (fld_up 6 b4 (fld_up 4 b3 (fld_up 5 b2 (fld_up 5 b1 (fld_here 3 b0))))))
  have e4 : bitsF w 0 6 = imm := bitsF_eq (fld_of e (fld_here 6 b4))
  refine decode_of_map hw (k := 1) (op := 75)
    (fld_of e (fld_up 6 b4 (fld_up 4 b3 (fld_up 5 b2 (fld_up 5 b1 (fld_up 3 b0 (fld_up 7 (by decide) (fld_here 1 (by decide)))))))))
    (fld_of e (fld_up 6 b4 (fld_up 4 b3 (fld_up 5 b2 (fld_up 5 b1 (fld_up 3 b0 (fld_here 7 (by decide)))))))) ?_
  simp [decA_75, e0, e1, e2, e3, e4, regOf_code]

theorem sraImm (p : PReg) (d : Reg) (a : Reg) (imm : BitVec 6) : Statement (.sraImm p d a imm) := by
  intro lone w hw h
  have b0 := p.isLt
  have b1 := reg_code_lt d
  have b2 := reg_code_lt a
  have b3 : 0 < 16 := by decide
  have b4 := imm.isLt
  have h : lone.toNat * 2147483648 + 1 * 1073741824 + 76 * 8388608 + (p.val * 1048576 + d.code * 32768 + a.code * 1024 + imm.toNat) = w := Option.some.inj h
  have e : w = ((((((lone.toNat * 2 + 1) * 128 + 76) * 8 + p.val) * 32 + d.code) * 32 + a.code) * 16 + 0) * 64 + imm.toNat := by omega
  clear h
  have e0 : fld w 6 4 = 0 := fld_of e (fld_up 6 b4 (fld_here 4 b3))
  have e1 : fld w 15 5 = d.code := fld_of e (fld_up 6 b4 (fld_up 4 b3 (fld_up 5 b2 (fld_here 5 b1))))
  have e2 : fld w 10 5 = a.code := fld_of e (fld_up 6 b4 (fld_up 4 b3 (fld_here 5 b2)))
  have e3 : finF w 20 3 = p := finF_eq (fld_of e (fld_up 6 b4 (fld_up 4 b3 (fld_up 5 b2 (fld_up 5 b1 (fld_here 3 b0))))))
  have e4 : bitsF w 0 6 = imm := bitsF_eq (fld_of e (fld_here 6 b4))
  refine decode_of_map hw (k := 1) (op := 76)
    (fld_of e (fld_up 6 b4 (fld_up 4 b3 (fld_up 5 b2 (fld_up 5 b1 (fld_up 3 b0 (fld_up 7 (by decide) (fld_here 1 (by decide)))))))))
    (fld_of e (fld_up 6 b4 (fld_up 4 b3 (fld_up 5 b2 (fld_up 5 b1 (fld_up 3 b0 (fld_here 7 (by decide)))))))) ?_
  simp [decA_76, e0, e1, e2, e3, e4, regOf_code]

theorem rotlImm (p : PReg) (d : Reg) (a : Reg) (imm : BitVec 6) : Statement (.rotlImm p d a imm) := by
  intro lone w hw h
  have b0 := p.isLt
  have b1 := reg_code_lt d
  have b2 := reg_code_lt a
  have b3 : 0 < 16 := by decide
  have b4 := imm.isLt
  have h : lone.toNat * 2147483648 + 1 * 1073741824 + 77 * 8388608 + (p.val * 1048576 + d.code * 32768 + a.code * 1024 + imm.toNat) = w := Option.some.inj h
  have e : w = ((((((lone.toNat * 2 + 1) * 128 + 77) * 8 + p.val) * 32 + d.code) * 32 + a.code) * 16 + 0) * 64 + imm.toNat := by omega
  clear h
  have e0 : fld w 6 4 = 0 := fld_of e (fld_up 6 b4 (fld_here 4 b3))
  have e1 : fld w 15 5 = d.code := fld_of e (fld_up 6 b4 (fld_up 4 b3 (fld_up 5 b2 (fld_here 5 b1))))
  have e2 : fld w 10 5 = a.code := fld_of e (fld_up 6 b4 (fld_up 4 b3 (fld_here 5 b2)))
  have e3 : finF w 20 3 = p := finF_eq (fld_of e (fld_up 6 b4 (fld_up 4 b3 (fld_up 5 b2 (fld_up 5 b1 (fld_here 3 b0))))))
  have e4 : bitsF w 0 6 = imm := bitsF_eq (fld_of e (fld_here 6 b4))
  refine decode_of_map hw (k := 1) (op := 77)
    (fld_of e (fld_up 6 b4 (fld_up 4 b3 (fld_up 5 b2 (fld_up 5 b1 (fld_up 3 b0 (fld_up 7 (by decide) (fld_here 1 (by decide)))))))))
    (fld_of e (fld_up 6 b4 (fld_up 4 b3 (fld_up 5 b2 (fld_up 5 b1 (fld_up 3 b0 (fld_here 7 (by decide)))))))) ?_
  simp [decA_77, e0, e1, e2, e3, e4, regOf_code]

theorem minImm (p : PReg) (d : Reg) (a : Reg) (imm : BitVec 10) : Statement (.minImm p d a imm) := by
  intro lone w hw h
  have b0 := p.isLt
  have b1 := reg_code_lt d
  have b2 := reg_code_lt a
  have b3 := imm.isLt
  have h : lone.toNat * 2147483648 + 1 * 1073741824 + 78 * 8388608 + (p.val * 1048576 + d.code * 32768 + a.code * 1024 + imm.toNat) = w := Option.some.inj h
  have e : w = (((((lone.toNat * 2 + 1) * 128 + 78) * 8 + p.val) * 32 + d.code) * 32 + a.code) * 1024 + imm.toNat := by omega
  clear h
  have e0 : fld w 15 5 = d.code := fld_of e (fld_up 10 b3 (fld_up 5 b2 (fld_here 5 b1)))
  have e1 : fld w 10 5 = a.code := fld_of e (fld_up 10 b3 (fld_here 5 b2))
  have e2 : finF w 20 3 = p := finF_eq (fld_of e (fld_up 10 b3 (fld_up 5 b2 (fld_up 5 b1 (fld_here 3 b0)))))
  have e3 : bitsF w 0 10 = imm := bitsF_eq (fld_of e (fld_here 10 b3))
  refine decode_of_map hw (k := 1) (op := 78)
    (fld_of e (fld_up 10 b3 (fld_up 5 b2 (fld_up 5 b1 (fld_up 3 b0 (fld_up 7 (by decide) (fld_here 1 (by decide))))))))
    (fld_of e (fld_up 10 b3 (fld_up 5 b2 (fld_up 5 b1 (fld_up 3 b0 (fld_here 7 (by decide))))))) ?_
  simp [decA_78, e0, e1, e2, e3, regOf_code]

theorem maxImm (p : PReg) (d : Reg) (a : Reg) (imm : BitVec 10) : Statement (.maxImm p d a imm) := by
  intro lone w hw h
  have b0 := p.isLt
  have b1 := reg_code_lt d
  have b2 := reg_code_lt a
  have b3 := imm.isLt
  have h : lone.toNat * 2147483648 + 1 * 1073741824 + 79 * 8388608 + (p.val * 1048576 + d.code * 32768 + a.code * 1024 + imm.toNat) = w := Option.some.inj h
  have e : w = (((((lone.toNat * 2 + 1) * 128 + 79) * 8 + p.val) * 32 + d.code) * 32 + a.code) * 1024 + imm.toNat := by omega
  clear h
  have e0 : fld w 15 5 = d.code := fld_of e (fld_up 10 b3 (fld_up 5 b2 (fld_here 5 b1)))
  have e1 : fld w 10 5 = a.code := fld_of e (fld_up 10 b3 (fld_here 5 b2))
  have e2 : finF w 20 3 = p := finF_eq (fld_of e (fld_up 10 b3 (fld_up 5 b2 (fld_up 5 b1 (fld_here 3 b0)))))
  have e3 : bitsF w 0 10 = imm := bitsF_eq (fld_of e (fld_here 10 b3))
  refine decode_of_map hw (k := 1) (op := 79)
    (fld_of e (fld_up 10 b3 (fld_up 5 b2 (fld_up 5 b1 (fld_up 3 b0 (fld_up 7 (by decide) (fld_here 1 (by decide))))))))
    (fld_of e (fld_up 10 b3 (fld_up 5 b2 (fld_up 5 b1 (fld_up 3 b0 (fld_here 7 (by decide))))))) ?_
  simp [decA_79, e0, e1, e2, e3, regOf_code]

theorem cmpImm (p : PReg) (d : Reg) (a : Reg) (imm : BitVec 10) : Statement (.cmpImm p d a imm) := by
  intro lone w hw h
  have b0 := p.isLt
  have b1 := reg_code_lt d
  have b2 := reg_code_lt a
  have b3 := imm.isLt
  have h : lone.toNat * 2147483648 + 1 * 1073741824 + 86 * 8388608 + (p.val * 1048576 + d.code * 32768 + a.code * 1024 + imm.toNat) = w := Option.some.inj h
  have e : w = (((((lone.toNat * 2 + 1) * 128 + 86) * 8 + p.val) * 32 + d.code) * 32 + a.code) * 1024 + imm.toNat := by omega
  clear h
  have e0 : fld w 15 5 = d.code := fld_of e (fld_up 10 b3 (fld_up 5 b2 (fld_here 5 b1)))
  have e1 : fld w 10 5 = a.code := fld_of e (fld_up 10 b3 (fld_here 5 b2))
  have e2 : finF w 20 3 = p := finF_eq (fld_of e (fld_up 10 b3 (fld_up 5 b2 (fld_up 5 b1 (fld_here 3 b0)))))
  have e3 : bitsF w 0 10 = imm := bitsF_eq (fld_of e (fld_here 10 b3))
  refine decode_of_map hw (k := 1) (op := 86)
    (fld_of e (fld_up 10 b3 (fld_up 5 b2 (fld_up 5 b1 (fld_up 3 b0 (fld_up 7 (by decide) (fld_here 1 (by decide))))))))
    (fld_of e (fld_up 10 b3 (fld_up 5 b2 (fld_up 5 b1 (fld_up 3 b0 (fld_here 7 (by decide))))))) ?_
  simp [decA_86, e0, e1, e2, e3, regOf_code]

theorem fadd (p : PReg) (d : Reg) (a : Reg) (b : Reg) : Statement (.fadd p d a b) := by
  intro lone w hw h
  have b0 := p.isLt
  have b1 := reg_code_lt d
  have b2 := reg_code_lt a
  have b3 := reg_code_lt b
  have b4 : 0 < 32 := by decide
  have h : lone.toNat * 2147483648 + 1 * 1073741824 + 32 * 8388608 + (p.val * 1048576 + d.code * 32768 + a.code * 1024 + b.code * 32) = w := Option.some.inj h
  have e : w = ((((((lone.toNat * 2 + 1) * 128 + 32) * 8 + p.val) * 32 + d.code) * 32 + a.code) * 32 + b.code) * 32 + 0 := by omega
  clear h
  have e0 : fld w 0 5 = 0 := fld_of e (fld_here 5 b4)
  have e1 : fld w 15 5 = d.code := fld_of e (fld_up 5 b4 (fld_up 5 b3 (fld_up 5 b2 (fld_here 5 b1))))
  have e2 : fld w 10 5 = a.code := fld_of e (fld_up 5 b4 (fld_up 5 b3 (fld_here 5 b2)))
  have e3 : fld w 5 5 = b.code := fld_of e (fld_up 5 b4 (fld_here 5 b3))
  have e4 : finF w 20 3 = p := finF_eq (fld_of e (fld_up 5 b4 (fld_up 5 b3 (fld_up 5 b2 (fld_up 5 b1 (fld_here 3 b0))))))
  refine decode_of_map hw (k := 1) (op := 32)
    (fld_of e (fld_up 5 b4 (fld_up 5 b3 (fld_up 5 b2 (fld_up 5 b1 (fld_up 3 b0 (fld_up 7 (by decide) (fld_here 1 (by decide)))))))))
    (fld_of e (fld_up 5 b4 (fld_up 5 b3 (fld_up 5 b2 (fld_up 5 b1 (fld_up 3 b0 (fld_here 7 (by decide)))))))) ?_
  simp [decA_32, e0, e1, e2, e3, e4, regOf_code]

theorem fsub (p : PReg) (d : Reg) (a : Reg) (b : Reg) : Statement (.fsub p d a b) := by
  intro lone w hw h
  have b0 := p.isLt
  have b1 := reg_code_lt d
  have b2 := reg_code_lt a
  have b3 := reg_code_lt b
  have b4 : 0 < 32 := by decide
  have h : lone.toNat * 2147483648 + 1 * 1073741824 + 33 * 8388608 + (p.val * 1048576 + d.code * 32768 + a.code * 1024 + b.code * 32) = w := Option.some.inj h
  have e : w = ((((((lone.toNat * 2 + 1) * 128 + 33) * 8 + p.val) * 32 + d.code) * 32 + a.code) * 32 + b.code) * 32 + 0 := by omega
  clear h
  have e0 : fld w 0 5 = 0 := fld_of e (fld_here 5 b4)
  have e1 : fld w 15 5 = d.code := fld_of e (fld_up 5 b4 (fld_up 5 b3 (fld_up 5 b2 (fld_here 5 b1))))
  have e2 : fld w 10 5 = a.code := fld_of e (fld_up 5 b4 (fld_up 5 b3 (fld_here 5 b2)))
  have e3 : fld w 5 5 = b.code := fld_of e (fld_up 5 b4 (fld_here 5 b3))
  have e4 : finF w 20 3 = p := finF_eq (fld_of e (fld_up 5 b4 (fld_up 5 b3 (fld_up 5 b2 (fld_up 5 b1 (fld_here 3 b0))))))
  refine decode_of_map hw (k := 1) (op := 33)
    (fld_of e (fld_up 5 b4 (fld_up 5 b3 (fld_up 5 b2 (fld_up 5 b1 (fld_up 3 b0 (fld_up 7 (by decide) (fld_here 1 (by decide)))))))))
    (fld_of e (fld_up 5 b4 (fld_up 5 b3 (fld_up 5 b2 (fld_up 5 b1 (fld_up 3 b0 (fld_here 7 (by decide)))))))) ?_
  simp [decA_33, e0, e1, e2, e3, e4, regOf_code]

theorem fmul (p : PReg) (d : Reg) (a : Reg) (b : Reg) : Statement (.fmul p d a b) := by
  intro lone w hw h
  have b0 := p.isLt
  have b1 := reg_code_lt d
  have b2 := reg_code_lt a
  have b3 := reg_code_lt b
  have b4 : 0 < 32 := by decide
  have h : lone.toNat * 2147483648 + 1 * 1073741824 + 34 * 8388608 + (p.val * 1048576 + d.code * 32768 + a.code * 1024 + b.code * 32) = w := Option.some.inj h
  have e : w = ((((((lone.toNat * 2 + 1) * 128 + 34) * 8 + p.val) * 32 + d.code) * 32 + a.code) * 32 + b.code) * 32 + 0 := by omega
  clear h
  have e0 : fld w 0 5 = 0 := fld_of e (fld_here 5 b4)
  have e1 : fld w 15 5 = d.code := fld_of e (fld_up 5 b4 (fld_up 5 b3 (fld_up 5 b2 (fld_here 5 b1))))
  have e2 : fld w 10 5 = a.code := fld_of e (fld_up 5 b4 (fld_up 5 b3 (fld_here 5 b2)))
  have e3 : fld w 5 5 = b.code := fld_of e (fld_up 5 b4 (fld_here 5 b3))
  have e4 : finF w 20 3 = p := finF_eq (fld_of e (fld_up 5 b4 (fld_up 5 b3 (fld_up 5 b2 (fld_up 5 b1 (fld_here 3 b0))))))
  refine decode_of_map hw (k := 1) (op := 34)
    (fld_of e (fld_up 5 b4 (fld_up 5 b3 (fld_up 5 b2 (fld_up 5 b1 (fld_up 3 b0 (fld_up 7 (by decide) (fld_here 1 (by decide)))))))))
    (fld_of e (fld_up 5 b4 (fld_up 5 b3 (fld_up 5 b2 (fld_up 5 b1 (fld_up 3 b0 (fld_here 7 (by decide)))))))) ?_
  simp [decA_34, e0, e1, e2, e3, e4, regOf_code]

theorem fma (p : PReg) (d : Reg) (a : Reg) (b : Reg) (c : Reg) : Statement (.fma p d a b c) := by
  intro lone w hw h
  have b0 := p.isLt
  have b1 := reg_code_lt d
  have b2 := reg_code_lt a
  have b3 := reg_code_lt b
  have b4 := reg_code_lt c
  have h : lone.toNat * 2147483648 + 1 * 1073741824 + 35 * 8388608 + (p.val * 1048576 + d.code * 32768 + a.code * 1024 + b.code * 32 + c.code) = w := Option.some.inj h
  have e : w = ((((((lone.toNat * 2 + 1) * 128 + 35) * 8 + p.val) * 32 + d.code) * 32 + a.code) * 32 + b.code) * 32 + c.code := by omega
  clear h
  have e0 : fld w 15 5 = d.code := fld_of e (fld_up 5 b4 (fld_up 5 b3 (fld_up 5 b2 (fld_here 5 b1))))
  have e1 : fld w 10 5 = a.code := fld_of e (fld_up 5 b4 (fld_up 5 b3 (fld_here 5 b2)))
  have e2 : fld w 5 5 = b.code := fld_of e (fld_up 5 b4 (fld_here 5 b3))
  have e3 : fld w 0 5 = c.code := fld_of e (fld_here 5 b4)
  have e4 : finF w 20 3 = p := finF_eq (fld_of e (fld_up 5 b4 (fld_up 5 b3 (fld_up 5 b2 (fld_up 5 b1 (fld_here 3 b0))))))
  refine decode_of_map hw (k := 1) (op := 35)
    (fld_of e (fld_up 5 b4 (fld_up 5 b3 (fld_up 5 b2 (fld_up 5 b1 (fld_up 3 b0 (fld_up 7 (by decide) (fld_here 1 (by decide)))))))))
    (fld_of e (fld_up 5 b4 (fld_up 5 b3 (fld_up 5 b2 (fld_up 5 b1 (fld_up 3 b0 (fld_here 7 (by decide)))))))) ?_
  simp [decA_35, e0, e1, e2, e3, e4, regOf_code]

theorem fdiv (p : PReg) (d : Reg) (a : Reg) (b : Reg) : Statement (.fdiv p d a b) := by
  intro lone w hw h
  have b0 := p.isLt
  have b1 := reg_code_lt d
  have b2 := reg_code_lt a
  have b3 := reg_code_lt b
  have b4 : 0 < 32 := by decide
  have h : lone.toNat * 2147483648 + 1 * 1073741824 + 36 * 8388608 + (p.val * 1048576 + d.code * 32768 + a.code * 1024 + b.code * 32) = w := Option.some.inj h
  have e : w = ((((((lone.toNat * 2 + 1) * 128 + 36) * 8 + p.val) * 32 + d.code) * 32 + a.code) * 32 + b.code) * 32 + 0 := by omega
  clear h
  have e0 : fld w 0 5 = 0 := fld_of e (fld_here 5 b4)
  have e1 : fld w 15 5 = d.code := fld_of e (fld_up 5 b4 (fld_up 5 b3 (fld_up 5 b2 (fld_here 5 b1))))
  have e2 : fld w 10 5 = a.code := fld_of e (fld_up 5 b4 (fld_up 5 b3 (fld_here 5 b2)))
  have e3 : fld w 5 5 = b.code := fld_of e (fld_up 5 b4 (fld_here 5 b3))
  have e4 : finF w 20 3 = p := finF_eq (fld_of e (fld_up 5 b4 (fld_up 5 b3 (fld_up 5 b2 (fld_up 5 b1 (fld_here 3 b0))))))
  refine decode_of_map hw (k := 1) (op := 36)
    (fld_of e (fld_up 5 b4 (fld_up 5 b3 (fld_up 5 b2 (fld_up 5 b1 (fld_up 3 b0 (fld_up 7 (by decide) (fld_here 1 (by decide)))))))))
    (fld_of e (fld_up 5 b4 (fld_up 5 b3 (fld_up 5 b2 (fld_up 5 b1 (fld_up 3 b0 (fld_here 7 (by decide)))))))) ?_
  simp [decA_36, e0, e1, e2, e3, e4, regOf_code]

theorem frcp (p : PReg) (d : Reg) (a : Reg) : Statement (.frcp p d a) := by
  intro lone w hw h
  have b0 := p.isLt
  have b1 := reg_code_lt d
  have b2 := reg_code_lt a
  have b3 : 0 < 32 := by decide
  have b4 : 0 < 32 := by decide
  have h : lone.toNat * 2147483648 + 1 * 1073741824 + 37 * 8388608 + (p.val * 1048576 + d.code * 32768 + a.code * 1024) = w := Option.some.inj h
  have e : w = ((((((lone.toNat * 2 + 1) * 128 + 37) * 8 + p.val) * 32 + d.code) * 32 + a.code) * 32 + 0) * 32 + 0 := by omega
  clear h
  have e0 : fld w 5 5 = 0 := fld_of e (fld_up 5 b4 (fld_here 5 b3))
  have e1 : fld w 0 5 = 0 := fld_of e (fld_here 5 b4)
  have e2 : fld w 15 5 = d.code := fld_of e (fld_up 5 b4 (fld_up 5 b3 (fld_up 5 b2 (fld_here 5 b1))))
  have e3 : fld w 10 5 = a.code := fld_of e (fld_up 5 b4 (fld_up 5 b3 (fld_here 5 b2)))
  have e4 : finF w 20 3 = p := finF_eq (fld_of e (fld_up 5 b4 (fld_up 5 b3 (fld_up 5 b2 (fld_up 5 b1 (fld_here 3 b0))))))
  refine decode_of_map hw (k := 1) (op := 37)
    (fld_of e (fld_up 5 b4 (fld_up 5 b3 (fld_up 5 b2 (fld_up 5 b1 (fld_up 3 b0 (fld_up 7 (by decide) (fld_here 1 (by decide)))))))))
    (fld_of e (fld_up 5 b4 (fld_up 5 b3 (fld_up 5 b2 (fld_up 5 b1 (fld_up 3 b0 (fld_here 7 (by decide)))))))) ?_
  simp [decA_37, e0, e1, e2, e3, e4, regOf_code]

theorem frsq (p : PReg) (d : Reg) (a : Reg) : Statement (.frsq p d a) := by
  intro lone w hw h
  have b0 := p.isLt
  have b1 := reg_code_lt d
  have b2 := reg_code_lt a
  have b3 : 0 < 32 := by decide
  have b4 : 0 < 32 := by decide
  have h : lone.toNat * 2147483648 + 1 * 1073741824 + 38 * 8388608 + (p.val * 1048576 + d.code * 32768 + a.code * 1024) = w := Option.some.inj h
  have e : w = ((((((lone.toNat * 2 + 1) * 128 + 38) * 8 + p.val) * 32 + d.code) * 32 + a.code) * 32 + 0) * 32 + 0 := by omega
  clear h
  have e0 : fld w 5 5 = 0 := fld_of e (fld_up 5 b4 (fld_here 5 b3))
  have e1 : fld w 0 5 = 0 := fld_of e (fld_here 5 b4)
  have e2 : fld w 15 5 = d.code := fld_of e (fld_up 5 b4 (fld_up 5 b3 (fld_up 5 b2 (fld_here 5 b1))))
  have e3 : fld w 10 5 = a.code := fld_of e (fld_up 5 b4 (fld_up 5 b3 (fld_here 5 b2)))
  have e4 : finF w 20 3 = p := finF_eq (fld_of e (fld_up 5 b4 (fld_up 5 b3 (fld_up 5 b2 (fld_up 5 b1 (fld_here 3 b0))))))
  refine decode_of_map hw (k := 1) (op := 38)
    (fld_of e (fld_up 5 b4 (fld_up 5 b3 (fld_up 5 b2 (fld_up 5 b1 (fld_up 3 b0 (fld_up 7 (by decide) (fld_here 1 (by decide)))))))))
    (fld_of e (fld_up 5 b4 (fld_up 5 b3 (fld_up 5 b2 (fld_up 5 b1 (fld_up 3 b0 (fld_here 7 (by decide)))))))) ?_
  simp [decA_38, e0, e1, e2, e3, e4, regOf_code]

theorem fmin (p : PReg) (d : Reg) (a : Reg) (b : Reg) (v : Bool) : Statement (.fmin p d a b v) := by
  intro lone w hw h
  have b0 := p.isLt
  have b1 := reg_code_lt d
  have b2 := reg_code_lt a
  have b3 := reg_code_lt b
  have b4 := toNat_lt_32 v
  have h : lone.toNat * 2147483648 + 1 * 1073741824 + 39 * 8388608 + (p.val * 1048576 + d.code * 32768 + a.code * 1024 + b.code * 32 + v.toNat) = w := Option.some.inj h
  have e : w = ((((((lone.toNat * 2 + 1) * 128 + 39) * 8 + p.val) * 32 + d.code) * 32 + a.code) * 32 + b.code) * 32 + v.toNat := by omega
  clear h
  have e0 : fld w 15 5 = d.code := fld_of e (fld_up 5 b4 (fld_up 5 b3 (fld_up 5 b2 (fld_here 5 b1))))
  have e1 : fld w 10 5 = a.code := fld_of e (fld_up 5 b4 (fld_up 5 b3 (fld_here 5 b2)))
  have e2 : fld w 5 5 = b.code := fld_of e (fld_up 5 b4 (fld_here 5 b3))
  have e3 : fld w 0 5 = v.toNat := fld_of e (fld_here 5 b4)
  have e4 : finF w 20 3 = p := finF_eq (fld_of e (fld_up 5 b4 (fld_up 5 b3 (fld_up 5 b2 (fld_up 5 b1 (fld_here 3 b0))))))
  refine decode_of_map hw (k := 1) (op := 39)
    (fld_of e (fld_up 5 b4 (fld_up 5 b3 (fld_up 5 b2 (fld_up 5 b1 (fld_up 3 b0 (fld_up 7 (by decide) (fld_here 1 (by decide)))))))))
    (fld_of e (fld_up 5 b4 (fld_up 5 b3 (fld_up 5 b2 (fld_up 5 b1 (fld_up 3 b0 (fld_here 7 (by decide)))))))) ?_
  simp [decA_39, e0, e1, e2, e3, e4, regOf_code, flagOf_toNat]

theorem fmax (p : PReg) (d : Reg) (a : Reg) (b : Reg) (v : Bool) : Statement (.fmax p d a b v) := by
  intro lone w hw h
  have b0 := p.isLt
  have b1 := reg_code_lt d
  have b2 := reg_code_lt a
  have b3 := reg_code_lt b
  have b4 := toNat_lt_32 v
  have h : lone.toNat * 2147483648 + 1 * 1073741824 + 40 * 8388608 + (p.val * 1048576 + d.code * 32768 + a.code * 1024 + b.code * 32 + v.toNat) = w := Option.some.inj h
  have e : w = ((((((lone.toNat * 2 + 1) * 128 + 40) * 8 + p.val) * 32 + d.code) * 32 + a.code) * 32 + b.code) * 32 + v.toNat := by omega
  clear h
  have e0 : fld w 15 5 = d.code := fld_of e (fld_up 5 b4 (fld_up 5 b3 (fld_up 5 b2 (fld_here 5 b1))))
  have e1 : fld w 10 5 = a.code := fld_of e (fld_up 5 b4 (fld_up 5 b3 (fld_here 5 b2)))
  have e2 : fld w 5 5 = b.code := fld_of e (fld_up 5 b4 (fld_here 5 b3))
  have e3 : fld w 0 5 = v.toNat := fld_of e (fld_here 5 b4)
  have e4 : finF w 20 3 = p := finF_eq (fld_of e (fld_up 5 b4 (fld_up 5 b3 (fld_up 5 b2 (fld_up 5 b1 (fld_here 3 b0))))))
  refine decode_of_map hw (k := 1) (op := 40)
    (fld_of e (fld_up 5 b4 (fld_up 5 b3 (fld_up 5 b2 (fld_up 5 b1 (fld_up 3 b0 (fld_up 7 (by decide) (fld_here 1 (by decide)))))))))
    (fld_of e (fld_up 5 b4 (fld_up 5 b3 (fld_up 5 b2 (fld_up 5 b1 (fld_up 3 b0 (fld_here 7 (by decide)))))))) ?_
  simp [decA_40, e0, e1, e2, e3, e4, regOf_code, flagOf_toNat]

theorem fcmp (p : PReg) (pd : PReg) (a : Reg) (b : Reg) (c : FCond) : Statement (.fcmp p pd a b c) := by
  intro lone w hw h
  have b0 := p.isLt
  have b1 := pd.isLt
  have b2 : 0 < 4 := by decide
  have b3 := reg_code_lt a
  have b4 := reg_code_lt b
  have b5 := fCond_code_lt c
  have h : lone.toNat * 2147483648 + 1 * 1073741824 + 41 * 8388608 + (p.val * 1048576 + pd.val * 131072 + a.code * 1024 + b.code * 32 + c.code) = w := Option.some.inj h
  have e : w = (((((((lone.toNat * 2 + 1) * 128 + 41) * 8 + p.val) * 8 + pd.val) * 4 + 0) * 32 + a.code) * 32 + b.code) * 32 + c.code := by omega
  clear h
  have e0 : fld w 15 2 = 0 := fld_of e (fld_up 5 b5 (fld_up 5 b4 (fld_up 5 b3 (fld_here 2 b2))))
  have e1 : fld w 10 5 = a.code := fld_of e (fld_up 5 b5 (fld_up 5 b4 (fld_here 5 b3)))
  have e2 : fld w 5 5 = b.code := fld_of e (fld_up 5 b5 (fld_here 5 b4))
  have e3 : fld w 0 5 = c.code := fld_of e (fld_here 5 b5)
  have e4 : finF w 20 3 = p := finF_eq (fld_of e (fld_up 5 b5 (fld_up 5 b4 (fld_up 5 b3 (fld_up 2 b2 (fld_up 3 b1 (fld_here 3 b0)))))))
  have e5 : finF w 17 3 = pd := finF_eq (fld_of e (fld_up 5 b5 (fld_up 5 b4 (fld_up 5 b3 (fld_up 2 b2 (fld_here 3 b1))))))
  refine decode_of_map hw (k := 1) (op := 41)
    (fld_of e (fld_up 5 b5 (fld_up 5 b4 (fld_up 5 b3 (fld_up 2 b2 (fld_up 3 b1 (fld_up 3 b0 (fld_up 7 (by decide) (fld_here 1 (by decide))))))))))
    (fld_of e (fld_up 5 b5 (fld_up 5 b4 (fld_up 5 b3 (fld_up 2 b2 (fld_up 3 b1 (fld_up 3 b0 (fld_here 7 (by decide))))))))) ?_
  simp [decA_41, e0, e1, e2, e3, e4, e5, regOf_code, fCondOf_code]

theorem fclass (p : PReg) (d : Reg) (a : Reg) (f : Fmt) : Statement (.fclass p d a f) := by
  intro lone w hw h
  have b0 := p.isLt
  have b1 := reg_code_lt d
  have b2 := reg_code_lt a
  have b3 : 0 < 32 := by decide
  have b4 : 0 < 2 := by decide
  have b5 := fmt_code_lt f
  have h : lone.toNat * 2147483648 + 1 * 1073741824 + 42 * 8388608 + (p.val * 1048576 + d.code * 32768 + a.code * 1024 + f.code) = w := Option.some.inj h
  have e : w = (((((((lone.toNat * 2 + 1) * 128 + 42) * 8 + p.val) * 32 + d.code) * 32 + a.code) * 32 + 0) * 2 + 0) * 16 + f.code := by omega
  clear h
  have e0 : fld w 5 5 = 0 := fld_of e (fld_up 4 b5 (fld_up 1 b4 (fld_here 5 b3)))
  have e1 : fld w 4 1 = 0 := fld_of e (fld_up 4 b5 (fld_here 1 b4))
  have e2 : fld w 15 5 = d.code := fld_of e (fld_up 4 b5 (fld_up 1 b4 (fld_up 5 b3 (fld_up 5 b2 (fld_here 5 b1)))))
  have e3 : fld w 10 5 = a.code := fld_of e (fld_up 4 b5 (fld_up 1 b4 (fld_up 5 b3 (fld_here 5 b2))))
  have e4 : fld w 0 4 = f.code := fld_of e (fld_here 4 b5)
  have e5 : finF w 20 3 = p := finF_eq (fld_of e (fld_up 4 b5 (fld_up 1 b4 (fld_up 5 b3 (fld_up 5 b2 (fld_up 5 b1 (fld_here 3 b0)))))))
  refine decode_of_map hw (k := 1) (op := 42)
    (fld_of e (fld_up 4 b5 (fld_up 1 b4 (fld_up 5 b3 (fld_up 5 b2 (fld_up 5 b1 (fld_up 3 b0 (fld_up 7 (by decide) (fld_here 1 (by decide))))))))))
    (fld_of e (fld_up 4 b5 (fld_up 1 b4 (fld_up 5 b3 (fld_up 5 b2 (fld_up 5 b1 (fld_up 3 b0 (fld_here 7 (by decide))))))))) ?_
  simp [decA_42, e0, e1, e2, e3, e4, e5, regOf_code, fmtOf_code]

theorem fcvt (p : PReg) (d : Reg) (a : Reg) (src : Fmt) (dst : Fmt) : Statement (.fcvt p d a src dst) := by
  intro lone w hw h
  have b0 := p.isLt
  have b1 := reg_code_lt d
  have b2 := reg_code_lt a
  have b3 : 0 < 2 := by decide
  have b4 := fmt_code_lt src
  have b5 : 0 < 2 := by decide
  have b6 := fmt_code_lt dst
  have h : lone.toNat * 2147483648 + 1 * 1073741824 + 43 * 8388608 + (p.val * 1048576 + d.code * 32768 + a.code * 1024 + src.code * 32 + dst.code) = w := Option.some.inj h
  have e : w = ((((((((lone.toNat * 2 + 1) * 128 + 43) * 8 + p.val) * 32 + d.code) * 32 + a.code) * 2 + 0) * 16 + src.code) * 2 + 0) * 16 + dst.code := by omega
  clear h
  have e0 : fld w 9 1 = 0 := fld_of e (fld_up 4 b6 (fld_up 1 b5 (fld_up 4 b4 (fld_here 1 b3))))
  have e1 : fld w 4 1 = 0 := fld_of e (fld_up 4 b6 (fld_here 1 b5))
  have e2 : fld w 15 5 = d.code := fld_of e (fld_up 4 b6 (fld_up 1 b5 (fld_up 4 b4 (fld_up 1 b3 (fld_up 5 b2 (fld_here 5 b1))))))
  have e3 : fld w 10 5 = a.code := fld_of e (fld_up 4 b6 (fld_up 1 b5 (fld_up 4 b4 (fld_up 1 b3 (fld_here 5 b2)))))
  have e4 : fld w 5 4 = src.code := fld_of e (fld_up 4 b6 (fld_up 1 b5 (fld_here 4 b4)))
  have e5 : fld w 0 4 = dst.code := fld_of e (fld_here 4 b6)
  have e6 : finF w 20 3 = p := finF_eq (fld_of e (fld_up 4 b6 (fld_up 1 b5 (fld_up 4 b4 (fld_up 1 b3 (fld_up 5 b2 (fld_up 5 b1 (fld_here 3 b0))))))))
  refine decode_of_map hw (k := 1) (op := 43)
    (fld_of e (fld_up 4 b6 (fld_up 1 b5 (fld_up 4 b4 (fld_up 1 b3 (fld_up 5 b2 (fld_up 5 b1 (fld_up 3 b0 (fld_up 7 (by decide) (fld_here 1 (by decide)))))))))))
    (fld_of e (fld_up 4 b6 (fld_up 1 b5 (fld_up 4 b4 (fld_up 1 b3 (fld_up 5 b2 (fld_up 5 b1 (fld_up 3 b0 (fld_here 7 (by decide)))))))))) ?_
  simp [decA_43, e0, e1, e2, e3, e4, e5, e6, regOf_code, fmtOf_code]

theorem fsgn (p : PReg) (d : Reg) (a : Reg) (b : Reg) (v : SgnVar) : Statement (.fsgn p d a b v) := by
  intro lone w hw h
  have b0 := p.isLt
  have b1 := reg_code_lt d
  have b2 := reg_code_lt a
  have b3 := reg_code_lt b
  have b4 := sgnVar_code_lt v
  have h : lone.toNat * 2147483648 + 1 * 1073741824 + 44 * 8388608 + (p.val * 1048576 + d.code * 32768 + a.code * 1024 + b.code * 32 + v.code) = w := Option.some.inj h
  have e : w = ((((((lone.toNat * 2 + 1) * 128 + 44) * 8 + p.val) * 32 + d.code) * 32 + a.code) * 32 + b.code) * 32 + v.code := by omega
  clear h
  have e0 : fld w 15 5 = d.code := fld_of e (fld_up 5 b4 (fld_up 5 b3 (fld_up 5 b2 (fld_here 5 b1))))
  have e1 : fld w 10 5 = a.code := fld_of e (fld_up 5 b4 (fld_up 5 b3 (fld_here 5 b2)))
  have e2 : fld w 5 5 = b.code := fld_of e (fld_up 5 b4 (fld_here 5 b3))
  have e3 : fld w 0 5 = v.code := fld_of e (fld_here 5 b4)
  have e4 : finF w 20 3 = p := finF_eq (fld_of e (fld_up 5 b4 (fld_up 5 b3 (fld_up 5 b2 (fld_up 5 b1 (fld_here 3 b0))))))
  refine decode_of_map hw (k := 1) (op := 44)
    (fld_of e (fld_up 5 b4 (fld_up 5 b3 (fld_up 5 b2 (fld_up 5 b1 (fld_up 3 b0 (fld_up 7 (by decide) (fld_here 1 (by decide)))))))))
    (fld_of e (fld_up 5 b4 (fld_up 5 b3 (fld_up 5 b2 (fld_up 5 b1 (fld_up 3 b0 (fld_here 7 (by decide)))))))) ?_
  simp [decA_44, e0, e1, e2, e3, e4, regOf_code, sgnVarOf_code]

theorem vadd (p : PReg) (vd : VReg) (va : VReg) (vb : VReg) (o : Bool) (f : Fmt) : Statement (.vadd p vd va vb o f) := by
  intro lone w hw h
  have b0 := p.isLt
  have b1 := vd.isLt
  have b2 := va.isLt
  have b3 := vb.isLt
  have b4 := toNat_lt_two o
  have b5 := fmt_code_lt f
  have h : lone.toNat * 2147483648 + 1 * 1073741824 + 48 * 8388608 + (p.val * 1048576 + vd.val * 32768 + va.val * 1024 + vb.val * 32 + o.toNat * 16 + f.code) = w := Option.some.inj h
  have e : w = (((((((lone.toNat * 2 + 1) * 128 + 48) * 8 + p.val) * 32 + vd.val) * 32 + va.val) * 32 + vb.val) * 2 + o.toNat) * 16 + f.code := by omega
  clear h
  have e0 : fld w 0 4 = f.code := fld_of e (fld_here 4 b5)
  have e1 : finF w 20 3 = p := finF_eq (fld_of e (fld_up 4 b5 (fld_up 1 b4 (fld_up 5 b3 (fld_up 5 b2 (fld_up 5 b1 (fld_here 3 b0)))))))
  have e2 : finF w 15 5 = vd := finF_eq (fld_of e (fld_up 4 b5 (fld_up 1 b4 (fld_up 5 b3 (fld_up 5 b2 (fld_here 5 b1))))))
  have e3 : finF w 10 5 = va := finF_eq (fld_of e (fld_up 4 b5 (fld_up 1 b4 (fld_up 5 b3 (fld_here 5 b2)))))
  have e4 : finF w 5 5 = vb := finF_eq (fld_of e (fld_up 4 b5 (fld_up 1 b4 (fld_here 5 b3))))
  have e5 : bitF w 4 = o := bitF_eq (fld_of e (fld_up 4 b5 (fld_here 1 b4)))
  refine decode_of_map hw (k := 1) (op := 48)
    (fld_of e (fld_up 4 b5 (fld_up 1 b4 (fld_up 5 b3 (fld_up 5 b2 (fld_up 5 b1 (fld_up 3 b0 (fld_up 7 (by decide) (fld_here 1 (by decide))))))))))
    (fld_of e (fld_up 4 b5 (fld_up 1 b4 (fld_up 5 b3 (fld_up 5 b2 (fld_up 5 b1 (fld_up 3 b0 (fld_here 7 (by decide))))))))) ?_
  simp [decA_48, e0, e1, e2, e3, e4, e5, fmtOf_code]

theorem vsub (p : PReg) (vd : VReg) (va : VReg) (vb : VReg) (o : Bool) (f : Fmt) : Statement (.vsub p vd va vb o f) := by
  intro lone w hw h
  have b0 := p.isLt
  have b1 := vd.isLt
  have b2 := va.isLt
  have b3 := vb.isLt
  have b4 := toNat_lt_two o
  have b5 := fmt_code_lt f
  have h : lone.toNat * 2147483648 + 1 * 1073741824 + 49 * 8388608 + (p.val * 1048576 + vd.val * 32768 + va.val * 1024 + vb.val * 32 + o.toNat * 16 + f.code) = w := Option.some.inj h
  have e : w = (((((((lone.toNat * 2 + 1) * 128 + 49) * 8 + p.val) * 32 + vd.val) * 32 + va.val) * 32 + vb.val) * 2 + o.toNat) * 16 + f.code := by omega
  clear h
  have e0 : fld w 0 4 = f.code := fld_of e (fld_here 4 b5)
  have e1 : finF w 20 3 = p := finF_eq (fld_of e (fld_up 4 b5 (fld_up 1 b4 (fld_up 5 b3 (fld_up 5 b2 (fld_up 5 b1 (fld_here 3 b0)))))))
  have e2 : finF w 15 5 = vd := finF_eq (fld_of e (fld_up 4 b5 (fld_up 1 b4 (fld_up 5 b3 (fld_up 5 b2 (fld_here 5 b1))))))
  have e3 : finF w 10 5 = va := finF_eq (fld_of e (fld_up 4 b5 (fld_up 1 b4 (fld_up 5 b3 (fld_here 5 b2)))))
  have e4 : finF w 5 5 = vb := finF_eq (fld_of e (fld_up 4 b5 (fld_up 1 b4 (fld_here 5 b3))))
  have e5 : bitF w 4 = o := bitF_eq (fld_of e (fld_up 4 b5 (fld_here 1 b4)))
  refine decode_of_map hw (k := 1) (op := 49)
    (fld_of e (fld_up 4 b5 (fld_up 1 b4 (fld_up 5 b3 (fld_up 5 b2 (fld_up 5 b1 (fld_up 3 b0 (fld_up 7 (by decide) (fld_here 1 (by decide))))))))))
    (fld_of e (fld_up 4 b5 (fld_up 1 b4 (fld_up 5 b3 (fld_up 5 b2 (fld_up 5 b1 (fld_up 3 b0 (fld_here 7 (by decide))))))))) ?_
  simp [decA_49, e0, e1, e2, e3, e4, e5, fmtOf_code]

theorem vmul (p : PReg) (vd : VReg) (va : VReg) (vb : VReg) (o : Bool) (f : Fmt) : Statement (.vmul p vd va vb o f) := by
  intro lone w hw h
  have b0 := p.isLt
  have b1 := vd.isLt
  have b2 := va.isLt
  have b3 := vb.isLt
  have b4 := toNat_lt_two o
  have b5 := fmt_code_lt f
  have h : lone.toNat * 2147483648 + 1 * 1073741824 + 50 * 8388608 + (p.val * 1048576 + vd.val * 32768 + va.val * 1024 + vb.val * 32 + o.toNat * 16 + f.code) = w := Option.some.inj h
  have e : w = (((((((lone.toNat * 2 + 1) * 128 + 50) * 8 + p.val) * 32 + vd.val) * 32 + va.val) * 32 + vb.val) * 2 + o.toNat) * 16 + f.code := by omega
  clear h
  have e0 : fld w 0 4 = f.code := fld_of e (fld_here 4 b5)
  have e1 : finF w 20 3 = p := finF_eq (fld_of e (fld_up 4 b5 (fld_up 1 b4 (fld_up 5 b3 (fld_up 5 b2 (fld_up 5 b1 (fld_here 3 b0)))))))
  have e2 : finF w 15 5 = vd := finF_eq (fld_of e (fld_up 4 b5 (fld_up 1 b4 (fld_up 5 b3 (fld_up 5 b2 (fld_here 5 b1))))))
  have e3 : finF w 10 5 = va := finF_eq (fld_of e (fld_up 4 b5 (fld_up 1 b4 (fld_up 5 b3 (fld_here 5 b2)))))
  have e4 : finF w 5 5 = vb := finF_eq (fld_of e (fld_up 4 b5 (fld_up 1 b4 (fld_here 5 b3))))
  have e5 : bitF w 4 = o := bitF_eq (fld_of e (fld_up 4 b5 (fld_here 1 b4)))
  refine decode_of_map hw (k := 1) (op := 50)
    (fld_of e (fld_up 4 b5 (fld_up 1 b4 (fld_up 5 b3 (fld_up 5 b2 (fld_up 5 b1 (fld_up 3 b0 (fld_up 7 (by decide) (fld_here 1 (by decide))))))))))
    (fld_of e (fld_up 4 b5 (fld_up 1 b4 (fld_up 5 b3 (fld_up 5 b2 (fld_up 5 b1 (fld_up 3 b0 (fld_here 7 (by decide))))))))) ?_
  simp [decA_50, e0, e1, e2, e3, e4, e5, fmtOf_code]

theorem vmin (p : PReg) (vd : VReg) (va : VReg) (vb : VReg) (o : Bool) (f : Fmt) : Statement (.vmin p vd va vb o f) := by
  intro lone w hw h
  have b0 := p.isLt
  have b1 := vd.isLt
  have b2 := va.isLt
  have b3 := vb.isLt
  have b4 := toNat_lt_two o
  have b5 := fmt_code_lt f
  have h : lone.toNat * 2147483648 + 1 * 1073741824 + 52 * 8388608 + (p.val * 1048576 + vd.val * 32768 + va.val * 1024 + vb.val * 32 + o.toNat * 16 + f.code) = w := Option.some.inj h
  have e : w = (((((((lone.toNat * 2 + 1) * 128 + 52) * 8 + p.val) * 32 + vd.val) * 32 + va.val) * 32 + vb.val) * 2 + o.toNat) * 16 + f.code := by omega
  clear h
  have e0 : fld w 0 4 = f.code := fld_of e (fld_here 4 b5)
  have e1 : finF w 20 3 = p := finF_eq (fld_of e (fld_up 4 b5 (fld_up 1 b4 (fld_up 5 b3 (fld_up 5 b2 (fld_up 5 b1 (fld_here 3 b0)))))))
  have e2 : finF w 15 5 = vd := finF_eq (fld_of e (fld_up 4 b5 (fld_up 1 b4 (fld_up 5 b3 (fld_up 5 b2 (fld_here 5 b1))))))
  have e3 : finF w 10 5 = va := finF_eq (fld_of e (fld_up 4 b5 (fld_up 1 b4 (fld_up 5 b3 (fld_here 5 b2)))))
  have e4 : finF w 5 5 = vb := finF_eq (fld_of e (fld_up 4 b5 (fld_up 1 b4 (fld_here 5 b3))))
  have e5 : bitF w 4 = o := bitF_eq (fld_of e (fld_up 4 b5 (fld_here 1 b4)))
  refine decode_of_map hw (k := 1) (op := 52)
    (fld_of e (fld_up 4 b5 (fld_up 1 b4 (fld_up 5 b3 (fld_up 5 b2 (fld_up 5 b1 (fld_up 3 b0 (fld_up 7 (by decide) (fld_here 1 (by decide))))))))))
    (fld_of e (fld_up 4 b5 (fld_up 1 b4 (fld_up 5 b3 (fld_up 5 b2 (fld_up 5 b1 (fld_up 3 b0 (fld_here 7 (by decide))))))))) ?_
  simp [decA_52, e0, e1, e2, e3, e4, e5, fmtOf_code]

theorem vmax (p : PReg) (vd : VReg) (va : VReg) (vb : VReg) (o : Bool) (f : Fmt) : Statement (.vmax p vd va vb o f) := by
  intro lone w hw h
  have b0 := p.isLt
  have b1 := vd.isLt
  have b2 := va.isLt
  have b3 := vb.isLt
  have b4 := toNat_lt_two o
  have b5 := fmt_code_lt f
  have h : lone.toNat * 2147483648 + 1 * 1073741824 + 53 * 8388608 + (p.val * 1048576 + vd.val * 32768 + va.val * 1024 + vb.val * 32 + o.toNat * 16 + f.code) = w := Option.some.inj h
  have e : w = (((((((lone.toNat * 2 + 1) * 128 + 53) * 8 + p.val) * 32 + vd.val) * 32 + va.val) * 32 + vb.val) * 2 + o.toNat) * 16 + f.code := by omega
  clear h
  have e0 : fld w 0 4 = f.code := fld_of e (fld_here 4 b5)
  have e1 : finF w 20 3 = p := finF_eq (fld_of e (fld_up 4 b5 (fld_up 1 b4 (fld_up 5 b3 (fld_up 5 b2 (fld_up 5 b1 (fld_here 3 b0)))))))
  have e2 : finF w 15 5 = vd := finF_eq (fld_of e (fld_up 4 b5 (fld_up 1 b4 (fld_up 5 b3 (fld_up 5 b2 (fld_here 5 b1))))))
  have e3 : finF w 10 5 = va := finF_eq (fld_of e (fld_up 4 b5 (fld_up 1 b4 (fld_up 5 b3 (fld_here 5 b2)))))
  have e4 : finF w 5 5 = vb := finF_eq (fld_of e (fld_up 4 b5 (fld_up 1 b4 (fld_here 5 b3))))
  have e5 : bitF w 4 = o := bitF_eq (fld_of e (fld_up 4 b5 (fld_here 1 b4)))
  refine decode_of_map hw (k := 1) (op := 53)
    (fld_of e (fld_up 4 b5 (fld_up 1 b4 (fld_up 5 b3 (fld_up 5 b2 (fld_up 5 b1 (fld_up 3 b0 (fld_up 7 (by decide) (fld_here 1 (by decide))))))))))
    (fld_of e (fld_up 4 b5 (fld_up 1 b4 (fld_up 5 b3 (fld_up 5 b2 (fld_up 5 b1 (fld_up 3 b0 (fld_here 7 (by decide))))))))) ?_
  simp [decA_53, e0, e1, e2, e3, e4, e5, fmtOf_code]

theorem vsgn (p : PReg) (vd : VReg) (va : VReg) (vb : VReg) (o : Bool) (f : Fmt) : Statement (.vsgn p vd va vb o f) := by
  intro lone w hw h
  have b0 := p.isLt
  have b1 := vd.isLt
  have b2 := va.isLt
  have b3 := vb.isLt
  have b4 := toNat_lt_two o
  have b5 := fmt_code_lt f
  have h : lone.toNat * 2147483648 + 1 * 1073741824 + 54 * 8388608 + (p.val * 1048576 + vd.val * 32768 + va.val * 1024 + vb.val * 32 + o.toNat * 16 + f.code) = w := Option.some.inj h
  have e : w = (((((((lone.toNat * 2 + 1) * 128 + 54) * 8 + p.val) * 32 + vd.val) * 32 + va.val) * 32 + vb.val) * 2 + o.toNat) * 16 + f.code := by omega
  clear h
  have e0 : fld w 0 4 = f.code := fld_of e (fld_here 4 b5)
  have e1 : finF w 20 3 = p := finF_eq (fld_of e (fld_up 4 b5 (fld_up 1 b4 (fld_up 5 b3 (fld_up 5 b2 (fld_up 5 b1 (fld_here 3 b0)))))))
  have e2 : finF w 15 5 = vd := finF_eq (fld_of e (fld_up 4 b5 (fld_up 1 b4 (fld_up 5 b3 (fld_up 5 b2 (fld_here 5 b1))))))
  have e3 : finF w 10 5 = va := finF_eq (fld_of e (fld_up 4 b5 (fld_up 1 b4 (fld_up 5 b3 (fld_here 5 b2)))))
  have e4 : finF w 5 5 = vb := finF_eq (fld_of e (fld_up 4 b5 (fld_up 1 b4 (fld_here 5 b3))))
  have e5 : bitF w 4 = o := bitF_eq (fld_of e (fld_up 4 b5 (fld_here 1 b4)))
  refine decode_of_map hw (k := 1) (op := 54)
    (fld_of e (fld_up 4 b5 (fld_up 1 b4 (fld_up 5 b3 (fld_up 5 b2 (fld_up 5 b1 (fld_up 3 b0 (fld_up 7 (by decide) (fld_here 1 (by decide))))))))))
    (fld_of e (fld_up 4 b5 (fld_up 1 b4 (fld_up 5 b3 (fld_up 5 b2 (fld_up 5 b1 (fld_up 3 b0 (fld_here 7 (by decide))))))))) ?_
  simp [decA_54, e0, e1, e2, e3, e4, e5, fmtOf_code]

theorem vcmp (p : PReg) (vd : VReg) (va : VReg) (vb : VReg) (o : Bool) (f : Fmt) : Statement (.vcmp p vd va vb o f) := by
  intro lone w hw h
  have b0 := p.isLt
  have b1 := vd.isLt
  have b2 := va.isLt
  have b3 := vb.isLt
  have b4 := toNat_lt_two o
  have b5 := fmt_code_lt f
  have h : lone.toNat * 2147483648 + 1 * 1073741824 + 58 * 8388608 + (p.val * 1048576 + vd.val * 32768 + va.val * 1024 + vb.val * 32 + o.toNat * 16 + f.code) = w := Option.some.inj h
  have e : w = (((((((lone.toNat * 2 + 1) * 128 + 58) * 8 + p.val) * 32 + vd.val) * 32 + va.val) * 32 + vb.val) * 2 + o.toNat) * 16 + f.code := by omega
  clear h
  have e0 : fld w 0 4 = f.code := fld_of e (fld_here 4 b5)
  have e1 : finF w 20 3 = p := finF_eq (fld_of e (fld_up 4 b5 (fld_up 1 b4 (fld_up 5 b3 (fld_up 5 b2 (fld_up 5 b1 (fld_here 3 b0)))))))
  have e2 : finF w 15 5 = vd := finF_eq (fld_of e (fld_up 4 b5 (fld_up 1 b4 (fld_up 5 b3 (fld_up 5 b2 (fld_here 5 b1))))))
  have e3 : finF w 10 5 = va := finF_eq (fld_of e (fld_up 4 b5 (fld_up 1 b4 (fld_up 5 b3 (fld_here 5 b2)))))
  have e4 : finF w 5 5 = vb := finF_eq (fld_of e (fld_up 4 b5 (fld_up 1 b4 (fld_here 5 b3))))
  have e5 : bitF w 4 = o := bitF_eq (fld_of e (fld_up 4 b5 (fld_here 1 b4)))
  refine decode_of_map hw (k := 1) (op := 58)
    (fld_of e (fld_up 4 b5 (fld_up 1 b4 (fld_up 5 b3 (fld_up 5 b2 (fld_up 5 b1 (fld_up 3 b0 (fld_up 7 (by decide) (fld_here 1 (by decide))))))))))
    (fld_of e (fld_up 4 b5 (fld_up 1 b4 (fld_up 5 b3 (fld_up 5 b2 (fld_up 5 b1 (fld_up 3 b0 (fld_here 7 (by decide))))))))) ?_
  simp [decA_58, e0, e1, e2, e3, e4, e5, fmtOf_code]

theorem vfma (p : PReg) (vd : VReg) (va : VReg) (vb : VReg) (vc : VReg) : Statement (.vfma p vd va vb vc) := by
  intro lone w hw h
  have b0 := p.isLt
  have b1 := vd.isLt
  have b2 := va.isLt
  have b3 := vb.isLt
  have b4 := vc.isLt
  have h : lone.toNat * 2147483648 + 1 * 1073741824 + 51 * 8388608 + (p.val * 1048576 + vd.val * 32768 + va.val * 1024 + vb.val * 32 + vc.val) = w := Option.some.inj h
  have e : w = ((((((lone.toNat * 2 + 1) * 128 + 51) * 8 + p.val) * 32 + vd.val) * 32 + va.val) * 32 + vb.val) * 32 + vc.val := by omega
  clear h
  have e0 : finF w 20 3 = p := finF_eq (fld_of e (fld_up 5 b4 (fld_up 5 b3 (fld_up 5 b2 (fld_up 5 b1 (fld_here 3 b0))))))
  have e1 : finF w 15 5 = vd := finF_eq (fld_of e (fld_up 5 b4 (fld_up 5 b3 (fld_up 5 b2 (fld_here 5 b1)))))
  have e2 : finF w 10 5 = va := finF_eq (fld_of e (fld_up 5 b4 (fld_up 5 b3 (fld_here 5 b2))))
  have e3 : finF w 5 5 = vb := finF_eq (fld_of e (fld_up 5 b4 (fld_here 5 b3)))
  have e4 : finF w 0 5 = vc := finF_eq (fld_of e (fld_here 5 b4))
  refine decode_of_map hw (k := 1) (op := 51)
    (fld_of e (fld_up 5 b4 (fld_up 5 b3 (fld_up 5 b2 (fld_up 5 b1 (fld_up 3 b0 (fld_up 7 (by decide) (fld_here 1 (by decide)))))))))
    (fld_of e (fld_up 5 b4 (fld_up 5 b3 (fld_up 5 b2 (fld_up 5 b1 (fld_up 3 b0 (fld_here 7 (by decide)))))))) ?_
  simp [decA_51, e0, e1, e2, e3, e4]

theorem vsel (p : PReg) (vd : VReg) (va : VReg) (vb : VReg) (vc : VReg) : Statement (.vsel p vd va vb vc) := by
  intro lone w hw h
  have b0 := p.isLt
  have b1 := vd.isLt
  have b2 := va.isLt
  have b3 := vb.isLt
  have b4 := vc.isLt
  have h : lone.toNat * 2147483648 + 1 * 1073741824 + 59 * 8388608 + (p.val * 1048576 + vd.val * 32768 + va.val * 1024 + vb.val * 32 + vc.val) = w := Option.some.inj h
  have e : w = ((((((lone.toNat * 2 + 1) * 128 + 59) * 8 + p.val) * 32 + vd.val) * 32 + va.val) * 32 + vb.val) * 32 + vc.val := by omega
  clear h
  have e0 : finF w 20 3 = p := finF_eq (fld_of e (fld_up 5 b4 (fld_up 5 b3 (fld_up 5 b2 (fld_up 5 b1 (fld_here 3 b0))))))
  have e1 : finF w 15 5 = vd := finF_eq (fld_of e (fld_up 5 b4 (fld_up 5 b3 (fld_up 5 b2 (fld_here 5 b1)))))
  have e2 : finF w 10 5 = va := finF_eq (fld_of e (fld_up 5 b4 (fld_up 5 b3 (fld_here 5 b2))))
  have e3 : finF w 5 5 = vb := finF_eq (fld_of e (fld_up 5 b4 (fld_here 5 b3)))
  have e4 : finF w 0 5 = vc := finF_eq (fld_of e (fld_here 5 b4))
  refine decode_of_map hw (k := 1) (op := 59)
    (fld_of e (fld_up 5 b4 (fld_up 5 b3 (fld_up 5 b2 (fld_up 5 b1 (fld_up 3 b0 (fld_up 7 (by decide) (fld_here 1 (by decide)))))))))
    (fld_of e (fld_up 5 b4 (fld_up 5 b3 (fld_up 5 b2 (fld_up 5 b1 (fld_up 3 b0 (fld_here 7 (by decide)))))))) ?_
  simp [decA_59, e0, e1, e2, e3, e4]

theorem vcvt (p : PReg) (vd : VReg) (va : VReg) (src : Fmt) (dst : Fmt) : Statement (.vcvt p vd va src dst) := by
  intro lone w hw h
  have b0 := p.isLt
  have b1 := vd.isLt
  have b2 := va.isLt
  have b3 : 0 < 2 := by decide
  have b4 := fmt_code_lt src
  have b5 : 0 < 2 := by decide
  have b6 := fmt_code_lt dst
  have h : lone.toNat * 2147483648 + 1 * 1073741824 + 55 * 8388608 + (p.val * 1048576 + vd.val * 32768 + va.val * 1024 + src.code * 32 + dst.code) = w := Option.some.inj h
  have e : w = ((((((((lone.toNat * 2 + 1) * 128 + 55) * 8 + p.val) * 32 + vd.val) * 32 + va.val) * 2 + 0) * 16 + src.code) * 2 + 0) * 16 + dst.code := by omega
  clear h
  have e0 : fld w 9 1 = 0 := fld_of e (fld_up 4 b6 (fld_up 1 b5 (fld_up 4 b4 (fld_here 1 b3))))
  have e1 : fld w 4 1 = 0 := fld_of e (fld_up 4 b6 (fld_here 1 b5))
  have e2 : fld w 5 4 = src.code := fld_of e (fld_up 4 b6 (fld_up 1 b5 (fld_here 4 b4)))
  have e3 : fld w 0 4 = dst.code := fld_of e (fld_here 4 b6)
  have e4 : finF w 20 3 = p := finF_eq (fld_of e (fld_up 4 b6 (fld_up 1 b5 (fld_up 4 b4 (fld_up 1 b3 (fld_up 5 b2 (fld_up 5 b1 (fld_here 3 b0))))))))
  have e5 : finF w 15 5 = vd := finF_eq (fld_of e (fld_up 4 b6 (fld_up 1 b5 (fld_up 4 b4 (fld_up 1 b3 (fld_up 5 b2 (fld_here 5 b1)))))))
  have e6 : finF w 10 5 = va := finF_eq (fld_of e (fld_up 4 b6 (fld_up 1 b5 (fld_up 4 b4 (fld_up 1 b3 (fld_here 5 b2))))))
  refine decode_of_map hw (k := 1) (op := 55)
    (fld_of e (fld_up 4 b6 (fld_up 1 b5 (fld_up 4 b4 (fld_up 1 b3 (fld_up 5 b2 (fld_up 5 b1 (fld_up 3 b0 (fld_up 7 (by decide) (fld_here 1 (by decide)))))))))))
    (fld_of e (fld_up 4 b6 (fld_up 1 b5 (fld_up 4 b4 (fld_up 1 b3 (fld_up 5 b2 (fld_up 5 b1 (fld_up 3 b0 (fld_here 7 (by decide)))))))))) ?_
  simp [decA_55, e0, e1, e2, e3, e4, e5, e6, fmtOf_code]

theorem vscl (p : PReg) (vd : VReg) (va : VReg) (vb : VReg) : Statement (.vscl p vd va vb) := by
  intro lone w hw h
  have b0 := p.isLt
  have b1 := vd.isLt
  have b2 := va.isLt
  have b3 := vb.isLt
  have b4 : 0 < 32 := by decide
  have h : lone.toNat * 2147483648 + 1 * 1073741824 + 56 * 8388608 + (p.val * 1048576 + vd.val * 32768 + va.val * 1024 + vb.val * 32) = w := Option.some.inj h
  have e : w = ((((((lone.toNat * 2 + 1) * 128 + 56) * 8 + p.val) * 32 + vd.val) * 32 + va.val) * 32 + vb.val) * 32 + 0 := by omega
  clear h
  have e0 : fld w 0 5 = 0 := fld_of e (fld_here 5 b4)
  have e1 : finF w 20 3 = p := finF_eq (fld_of e (fld_up 5 b4 (fld_up 5 b3 (fld_up 5 b2 (fld_up 5 b1 (fld_here 3 b0))))))
  have e2 : finF w 15 5 = vd := finF_eq (fld_of e (fld_up 5 b4 (fld_up 5 b3 (fld_up 5 b2 (fld_here 5 b1)))))
  have e3 : finF w 10 5 = va := finF_eq (fld_of e (fld_up 5 b4 (fld_up 5 b3 (fld_here 5 b2))))
  have e4 : finF w 5 5 = vb := finF_eq (fld_of e (fld_up 5 b4 (fld_here 5 b3)))
  refine decode_of_map hw (k := 1) (op := 56)
    (fld_of e (fld_up 5 b4 (fld_up 5 b3 (fld_up 5 b2 (fld_up 5 b1 (fld_up 3 b0 (fld_up 7 (by decide) (fld_here 1 (by decide)))))))))
    (fld_of e (fld_up 5 b4 (fld_up 5 b3 (fld_up 5 b2 (fld_up 5 b1 (fld_up 3 b0 (fld_here 7 (by decide)))))))) ?_
  simp [decA_56, e0, e1, e2, e3, e4]

theorem vred (p : PReg) (d : Reg) (va : VReg) (o : Bool) (f : Fmt) : Statement (.vred p d va o f) := by
  intro lone w hw h
  have b0 := p.isLt
  have b1 := reg_code_lt d
  have b2 := va.isLt
  have b3 : 0 < 32 := by decide
  have b4 := toNat_lt_two o
  have b5 := fmt_code_lt f
  have h : lone.toNat * 2147483648 + 1 * 1073741824 + 57 * 8388608 + (p.val * 1048576 + d.code * 32768 + va.val * 1024 + o.toNat * 16 + f.code) = w := Option.some.inj h
  have e : w = (((((((lone.toNat * 2 + 1) * 128 + 57) * 8 + p.val) * 32 + d.code) * 32 + va.val) * 32 + 0) * 2 + o.toNat) * 16 + f.code := by omega
  clear h
  have e0 : fld w 5 5 = 0 := fld_of e (fld_up 4 b5 (fld_up 1 b4 (fld_here 5 b3)))
  have e1 : fld w 15 5 = d.code := fld_of e (fld_up 4 b5 (fld_up 1 b4 (fld_up 5 b3 (fld_up 5 b2 (fld_here 5 b1)))))
  have e2 : fld w 0 4 = f.code := fld_of e (fld_here 4 b5)
  have e3 : finF w 20 3 = p := finF_eq (fld_of e (fld_up 4 b5 (fld_up 1 b4 (fld_up 5 b3 (fld_up 5 b2 (fld_up 5 b1 (fld_here 3 b0)))))))
  have e4 : finF w 10 5 = va := finF_eq (fld_of e (fld_up 4 b5 (fld_up 1 b4 (fld_up 5 b3 (fld_here 5 b2)))))
  have e5 : bitF w 4 = o := bitF_eq (fld_of e (fld_up 4 b5 (fld_here 1 b4)))
  refine decode_of_map hw (k := 1) (op := 57)
    (fld_of e (fld_up 4 b5 (fld_up 1 b4 (fld_up 5 b3 (fld_up 5 b2 (fld_up 5 b1 (fld_up 3 b0 (fld_up 7 (by decide) (fld_here 1 (by decide))))))))))
    (fld_of e (fld_up 4 b5 (fld_up 1 b4 (fld_up 5 b3 (fld_up 5 b2 (fld_up 5 b1 (fld_up 3 b0 (fld_here 7 (by decide))))))))) ?_
  simp [decA_57, e0, e1, e2, e3, e4, e5, regOf_code, fmtOf_code]

theorem vbc (p : PReg) (vd : VReg) (a : Reg) (f : Fmt) : Statement (.vbc p vd a f) := by
  intro lone w hw h
  have b0 := p.isLt
  have b1 := vd.isLt
  have b2 := reg_code_lt a
  have b3 : 0 < 32 := by decide
  have b4 : 0 < 2 := by decide
  have b5 := fmt_code_lt f
  have h : lone.toNat * 2147483648 + 1 * 1073741824 + 60 * 8388608 + (p.val * 1048576 + vd.val * 32768 + a.code * 1024 + f.code) = w := Option.some.inj h
  have e : w = (((((((lone.toNat * 2 + 1) * 128 + 60) * 8 + p.val) * 32 + vd.val) * 32 + a.code) * 32 + 0) * 2 + 0) * 16 + f.code := by omega
  clear h
  have e0 : fld w 5 5 = 0 := fld_of e (fld_up 4 b5 (fld_up 1 b4 (fld_here 5 b3)))
  have e1 : fld w 4 1 = 0 := fld_of e (fld_up 4 b5 (fld_here 1 b4))
  have e2 : fld w 10 5 = a.code := fld_of e (fld_up 4 b5 (fld_up 1 b4 (fld_up 5 b3 (fld_here 5 b2))))
  have e3 : fld w 0 4 = f.code := fld_of e (fld_here 4 b5)
  have e4 : finF w 20 3 = p := finF_eq (fld_of e (fld_up 4 b5 (fld_up 1 b4 (fld_up 5 b3 (fld_up 5 b2 (fld_up 5 b1 (fld_here 3 b0)))))))
  have e5 : finF w 15 5 = vd := finF_eq (fld_of e (fld_up 4 b5 (fld_up 1 b4 (fld_up 5 b3 (fld_up 5 b2 (fld_here 5 b1))))))
  refine decode_of_map hw (k := 1) (op := 60)
    (fld_of e (fld_up 4 b5 (fld_up 1 b4 (fld_up 5 b3 (fld_up 5 b2 (fld_up 5 b1 (fld_up 3 b0 (fld_up 7 (by decide) (fld_here 1 (by decide))))))))))
    (fld_of e (fld_up 4 b5 (fld_up 1 b4 (fld_up 5 b3 (fld_up 5 b2 (fld_up 5 b1 (fld_up 3 b0 (fld_here 7 (by decide))))))))) ?_
  simp [decA_60, e0, e1, e2, e3, e4, e5, regOf_code, fmtOf_code]

theorem vperm (p : PReg) (vd : VReg) (va : VReg) (vb : VReg) (f : Fmt) : Statement (.vperm p vd va vb f) := by
  intro lone w hw h
  have b0 := p.isLt
  have b1 := vd.isLt
  have b2 := va.isLt
  have b3 := vb.isLt
  have b4 : 0 < 2 := by decide
  have b5 := fmt_code_lt f
  have h : lone.toNat * 2147483648 + 1 * 1073741824 + 61 * 8388608 + (p.val * 1048576 + vd.val * 32768 + va.val * 1024 + vb.val * 32 + f.code) = w := Option.some.inj h
  have e : w = (((((((lone.toNat * 2 + 1) * 128 + 61) * 8 + p.val) * 32 + vd.val) * 32 + va.val) * 32 + vb.val) * 2 + 0) * 16 + f.code := by omega
  clear h
  have e0 : fld w 4 1 = 0 := fld_of e (fld_up 4 b5 (fld_here 1 b4))
  have e1 : fld w 0 4 = f.code := fld_of e (fld_here 4 b5)
  have e2 : finF w 20 3 = p := finF_eq (fld_of e (fld_up 4 b5 (fld_up 1 b4 (fld_up 5 b3 (fld_up 5 b2 (fld_up 5 b1 (fld_here 3 b0)))))))
  have e3 : finF w 15 5 = vd := finF_eq (fld_of e (fld_up 4 b5 (fld_up 1 b4 (fld_up 5 b3 (fld_up 5 b2 (fld_here 5 b1))))))
  have e4 : finF w 10 5 = va := finF_eq (fld_of e (fld_up 4 b5 (fld_up 1 b4 (fld_up 5 b3 (fld_here 5 b2)))))
  have e5 : finF w 5 5 = vb := finF_eq (fld_of e (fld_up 4 b5 (fld_up 1 b4 (fld_here 5 b3))))
  refine decode_of_map hw (k := 1) (op := 61)
    (fld_of e (fld_up 4 b5 (fld_up 1 b4 (fld_up 5 b3 (fld_up 5 b2 (fld_up 5 b1 (fld_up 3 b0 (fld_up 7 (by decide) (fld_here 1 (by decide))))))))))
    (fld_of e (fld_up 4 b5 (fld_up 1 b4 (fld_up 5 b3 (fld_up 5 b2 (fld_up 5 b1 (fld_up 3 b0 (fld_here 7 (by decide))))))))) ?_
  simp [decA_61, e0, e1, e2, e3, e4, e5, fmtOf_code]

theorem vmov (p : PReg) (vd : VReg) (va : VReg) : Statement (.vmov p vd va) := by
  intro lone w hw h
  have b0 := p.isLt
  have b1 := vd.isLt
  have b2 := va.isLt
  have b3 : 0 < 32 := by decide
  have b4 : 0 < 32 := by decide
  have h : lone.toNat * 2147483648 + 1 * 1073741824 + 62 * 8388608 + (p.val * 1048576 + vd.val * 32768 + va.val * 1024) = w := Option.some.inj h
  have e : w = ((((((lone.toNat * 2 + 1) * 128 + 62) * 8 + p.val) * 32 + vd.val) * 32 + va.val) * 32 + 0) * 32 + 0 := by omega
  clear h
  have e0 : fld w 5 5 = 0 := fld_of e (fld_up 5 b4 (fld_here 5 b3))
  have e1 : fld w 0 5 = 0 := fld_of e (fld_here 5 b4)
  have e2 : finF w 20 3 = p := finF_eq (fld_of e (fld_up 5 b4 (fld_up 5 b3 (fld_up 5 b2 (fld_up 5 b1 (fld_here 3 b0))))))
  have e3 : finF w 15 5 = vd := finF_eq (fld_of e (fld_up 5 b4 (fld_up 5 b3 (fld_up 5 b2 (fld_here 5 b1)))))
  have e4 : finF w 10 5 = va := finF_eq (fld_of e (fld_up 5 b4 (fld_up 5 b3 (fld_here 5 b2))))
  have e5 : fld w 0 4 = 0 := by unfold fld; omega
  refine decode_of_map hw (k := 1) (op := 62)
    (fld_of e (fld_up 5 b4 (fld_up 5 b3 (fld_up 5 b2 (fld_up 5 b1 (fld_up 3 b0 (fld_up 7 (by decide) (fld_here 1 (by decide)))))))))
    (fld_of e (fld_up 5 b4 (fld_up 5 b3 (fld_up 5 b2 (fld_up 5 b1 (fld_up 3 b0 (fld_here 7 (by decide)))))))) ?_
  simp [decA_62, e0, e1, e2, e3, e4, e5]

theorem vmovSr (p : PReg) (vd : VReg) (va : VReg) (f : Fmt) : Statement (.vmovSr p vd va f) := by
  intro lone w hw h
  have b0 := p.isLt
  have b1 := vd.isLt
  have b2 := va.isLt
  have b3 : 0 < 32 := by decide
  have b4 : 1 < 2 := by decide
  have b5 := fmt_code_lt f
  have h : lone.toNat * 2147483648 + 1 * 1073741824 + 62 * 8388608 + (p.val * 1048576 + vd.val * 32768 + va.val * 1024 + 16 + f.code) = w := Option.some.inj h
  have e : w = (((((((lone.toNat * 2 + 1) * 128 + 62) * 8 + p.val) * 32 + vd.val) * 32 + va.val) * 32 + 0) * 2 + 1) * 16 + f.code := by omega
  clear h
  have e0 : fld w 5 5 = 0 := fld_of e (fld_up 4 b5 (fld_up 1 b4 (fld_here 5 b3)))
  have e1 : fld w 0 5 = 16 + f.code := by unfold fld; omega
  have e2 : finF w 20 3 = p := finF_eq (fld_of e (fld_up 4 b5 (fld_up 1 b4 (fld_up 5 b3 (fld_up 5 b2 (fld_up 5 b1 (fld_here 3 b0)))))))
  have e3 : finF w 15 5 = vd := finF_eq (fld_of e (fld_up 4 b5 (fld_up 1 b4 (fld_up 5 b3 (fld_up 5 b2 (fld_here 5 b1))))))
  have e4 : finF w 10 5 = va := finF_eq (fld_of e (fld_up 4 b5 (fld_up 1 b4 (fld_up 5 b3 (fld_here 5 b2)))))
  have e5 : fld w 4 1 = 1 := fld_of e (fld_up 4 b5 (fld_here 1 b4))
  have e6 : fld w 0 4 = f.code := fld_of e (fld_here 4 b5)
  refine decode_of_map hw (k := 1) (op := 62)
    (fld_of e (fld_up 4 b5 (fld_up 1 b4 (fld_up 5 b3 (fld_up 5 b2 (fld_up 5 b1 (fld_up 3 b0 (fld_up 7 (by decide) (fld_here 1 (by decide))))))))))
    (fld_of e (fld_up 4 b5 (fld_up 1 b4 (fld_up 5 b3 (fld_up 5 b2 (fld_up 5 b1 (fld_up 3 b0 (fld_here 7 (by decide))))))))) ?_
  simp [decA_62, e0, e1, e2, e3, e4, e5, e6, fmtOf_code]

theorem nop : Statement .nop := by
  intro lone w hw h
  have b0 : 0 < 8388608 := by decide
  have h : lone.toNat * 2147483648 + 0 * 1073741824 + 0 * 8388608 + (0) = w := Option.some.inj h
  have e : w = ((lone.toNat * 2 + 0) * 128 + 0) * 8388608 + 0 := by omega
  clear h
  have e0 : fld w 0 23 = 0 := fld_of e (fld_here 23 b0)
  refine decode_of_map hw (k := 0) (op := 0)
    (fld_of e (fld_up 23 b0 (fld_up 7 (by decide) (fld_here 1 (by decide)))))
    (fld_of e (fld_up 23 b0 (fld_here 7 (by decide)))) ?_
  simp [decC_0, e0]

theorem ret : Statement .ret := by
  intro lone w hw h
  have b0 : 0 < 8388608 := by decide
  have h : lone.toNat * 2147483648 + 0 * 1073741824 + 5 * 8388608 + (0) = w := Option.some.inj h
  have e : w = ((lone.toNat * 2 + 0) * 128 + 5) * 8388608 + 0 := by omega
  clear h
  have e0 : fld w 0 23 = 0 := fld_of e (fld_here 23 b0)
  refine decode_of_map hw (k := 0) (op := 5)
    (fld_of e (fld_up 23 b0 (fld_up 7 (by decide) (fld_here 1 (by decide)))))
    (fld_of e (fld_up 23 b0 (fld_here 7 (by decide)))) ?_
  simp [decC_5, e0]

theorem doneF : Statement .doneF := by
  intro lone w hw h
  have b0 : 0 < 8388608 := by decide
  have h : lone.toNat * 2147483648 + 0 * 1073741824 + 7 * 8388608 + (0) = w := Option.some.inj h
  have e : w = ((lone.toNat * 2 + 0) * 128 + 7) * 8388608 + 0 := by omega
  clear h
  have e0 : fld w 0 23 = 0 := fld_of e (fld_here 23 b0)
  refine decode_of_map hw (k := 0) (op := 7)
    (fld_of e (fld_up 23 b0 (fld_up 7 (by decide) (fld_here 1 (by decide)))))
    (fld_of e (fld_up 23 b0 (fld_here 7 (by decide)))) ?_
  simp [decC_7, e0]

theorem yieldF : Statement .yieldF := by
  intro lone w hw h
  have b0 : 0 < 8388608 := by decide
  have h : lone.toNat * 2147483648 + 0 * 1073741824 + 8 * 8388608 + (0) = w := Option.some.inj h
  have e : w = ((lone.toNat * 2 + 0) * 128 + 8) * 8388608 + 0 := by omega
  clear h
  have e0 : fld w 0 23 = 0 := fld_of e (fld_here 23 b0)
  refine decode_of_map hw (k := 0) (op := 8)
    (fld_of e (fld_up 23 b0 (fld_up 7 (by decide) (fld_here 1 (by decide)))))
    (fld_of e (fld_up 23 b0 (fld_here 7 (by decide)))) ?_
  simp [decC_8, e0]

theorem hret : Statement .hret := by
  intro lone w hw h
  have b0 : 0 < 8388608 := by decide
  have h : lone.toNat * 2147483648 + 0 * 1073741824 + 47 * 8388608 + (0) = w := Option.some.inj h
  have e : w = ((lone.toNat * 2 + 0) * 128 + 47) * 8388608 + 0 := by omega
  clear h
  have e0 : fld w 0 23 = 0 := fld_of e (fld_here 23 b0)
  refine decode_of_map hw (k := 0) (op := 47)
    (fld_of e (fld_up 23 b0 (fld_up 7 (by decide) (fld_here 1 (by decide)))))
    (fld_of e (fld_up 23 b0 (fld_here 7 (by decide)))) ?_
  simp [decC_47, e0]

theorem trigger : Statement .trigger := by
  intro lone w hw h
  have b0 : 0 < 8388608 := by decide
  have h : lone.toNat * 2147483648 + 0 * 1073741824 + 52 * 8388608 + (0) = w := Option.some.inj h
  have e : w = ((lone.toNat * 2 + 0) * 128 + 52) * 8388608 + 0 := by omega
  clear h
  have e0 : fld w 0 23 = 0 := fld_of e (fld_here 23 b0)
  refine decode_of_map hw (k := 0) (op := 52)
    (fld_of e (fld_up 23 b0 (fld_up 7 (by decide) (fld_here 1 (by decide)))))
    (fld_of e (fld_up 23 b0 (fld_here 7 (by decide)))) ?_
  simp [decC_52, e0]

theorem eret : Statement .eret := by
  intro lone w hw h
  have b0 : 0 < 8388608 := by decide
  have h : lone.toNat * 2147483648 + 0 * 1073741824 + 85 * 8388608 + (0) = w := Option.some.inj h
  have e : w = ((lone.toNat * 2 + 0) * 128 + 85) * 8388608 + 0 := by omega
  clear h
  have e0 : fld w 0 23 = 0 := fld_of e (fld_here 23 b0)
  refine decode_of_map hw (k := 0) (op := 85)
    (fld_of e (fld_up 23 b0 (fld_up 7 (by decide) (fld_here 1 (by decide)))))
    (fld_of e (fld_up 23 b0 (fld_here 7 (by decide)))) ?_
  simp [decC_85, e0]

theorem unfuse : Statement .unfuse := by
  intro lone w hw h
  have b0 : 0 < 8388608 := by decide
  have h : lone.toNat * 2147483648 + 0 * 1073741824 + 105 * 8388608 + (0) = w := Option.some.inj h
  have e : w = ((lone.toNat * 2 + 0) * 128 + 105) * 8388608 + 0 := by omega
  clear h
  have e0 : fld w 0 23 = 0 := fld_of e (fld_here 23 b0)
  refine decode_of_map hw (k := 0) (op := 105)
    (fld_of e (fld_up 23 b0 (fld_up 7 (by decide) (fld_here 1 (by decide)))))
    (fld_of e (fld_up 23 b0 (fld_here 7 (by decide)))) ?_
  simp [decC_105, e0]

theorem rejoin : Statement .rejoin := by
  intro lone w hw h
  have b0 : 0 < 8388608 := by decide
  have h : lone.toNat * 2147483648 + 0 * 1073741824 + 106 * 8388608 + (0) = w := Option.some.inj h
  have e : w = ((lone.toNat * 2 + 0) * 128 + 106) * 8388608 + 0 := by omega
  clear h
  have e0 : fld w 0 23 = 0 := fld_of e (fld_here 23 b0)
  refine decode_of_map hw (k := 0) (op := 106)
    (fld_of e (fld_up 23 b0 (fld_up 7 (by decide) (fld_here 1 (by decide)))))
    (fld_of e (fld_up 23 b0 (fld_here 7 (by decide)))) ?_
  simp [decC_106, e0]

theorem br (p : PReg) (n : Bool) (imm : BitVec 19) : Statement (.br p n imm) := by
  intro lone w hw h
  have b0 := p.isLt
  have b1 := toNat_lt_two n
  have b2 := imm.isLt
  have h : lone.toNat * 2147483648 + 0 * 1073741824 + 1 * 8388608 + (p.val * 1048576 + n.toNat * 524288 + imm.toNat) = w := Option.some.inj h
  have e : w = ((((lone.toNat * 2 + 0) * 128 + 1) * 8 + p.val) * 2 + n.toNat) * 524288 + imm.toNat := by omega
  clear h
  have e0 : finF w 20 3 = p := finF_eq (fld_of e (fld_up 19 b2 (fld_up 1 b1 (fld_here 3 b0))))
  have e1 : bitF w 19 = n := bitF_eq (fld_of e (fld_up 19 b2 (fld_here 1 b1)))
  have e2 : bitsF w 0 19 = imm := bitsF_eq (fld_of e (fld_here 19 b2))
  refine decode_of_map hw (k := 0) (op := 1)
    (fld_of e (fld_up 19 b2 (fld_up 1 b1 (fld_up 3 b0 (fld_up 7 (by decide) (fld_here 1 (by decide)))))))
    (fld_of e (fld_up 19 b2 (fld_up 1 b1 (fld_up 3 b0 (fld_here 7 (by decide)))))) ?_
  simp [decC_1, e0, e1, e2]

theorem jmp (imm : BitVec 23) : Statement (.jmp imm) := by
  intro lone w hw h
  have b0 := imm.isLt
  have h : lone.toNat * 2147483648 + 0 * 1073741824 + 2 * 8388608 + (imm.toNat) = w := Option.some.inj h
  have e : w = ((lone.toNat * 2 + 0) * 128 + 2) * 8388608 + imm.toNat := by omega
  clear h
  have e0 : bitsF w 0 23 = imm := bitsF_eq (fld_of e (fld_here 23 b0))
  refine decode_of_map hw (k := 0) (op := 2)
    (fld_of e (fld_up 23 b0 (fld_up 7 (by decide) (fld_here 1 (by decide)))))
    (fld_of e (fld_up 23 b0 (fld_here 7 (by decide)))) ?_
  simp [decC_2, e0]

theorem call (imm : BitVec 23) : Statement (.call imm) := by
  intro lone w hw h
  have b0 := imm.isLt
  have h : lone.toNat * 2147483648 + 0 * 1073741824 + 4 * 8388608 + (imm.toNat) = w := Option.some.inj h
  have e : w = ((lone.toNat * 2 + 0) * 128 + 4) * 8388608 + imm.toNat := by omega
  clear h
  have e0 : bitsF w 0 23 = imm := bitsF_eq (fld_of e (fld_here 23 b0))
  refine decode_of_map hw (k := 0) (op := 4)
    (fld_of e (fld_up 23 b0 (fld_up 7 (by decide) (fld_here 1 (by decide)))))
    (fld_of e (fld_up 23 b0 (fld_here 7 (by decide)))) ?_
  simp [decC_4, e0]

theorem jmpr (d : Reg) (a : Reg) : Statement (.jmpr d a) := by
  intro lone w hw h
  have b0 := reg_code_lt d
  have b1 := reg_code_lt a
  have b2 : 0 < 32 := by decide
  have b3 : 0 < 256 := by decide
  have h : lone.toNat * 2147483648 + 0 * 1073741824 + 3 * 8388608 + (d.code * 262144 + a.code * 8192) = w := Option.some.inj h
  have e : w = (((((lone.toNat * 2 + 0) * 128 + 3) * 32 + d.code) * 32 + a.code) * 32 + 0) * 256 + 0 := by omega
  clear h
  have e0 : fld w 8 5 = 0 := fld_of e (fld_up 8 b3 (fld_here 5 b2))
  have e1 : fld w 0 8 = 0 := fld_of e (fld_here 8 b3)
  have e2 : fld w 18 5 = d.code := fld_of e (fld_up 8 b3 (fld_up 5 b2 (fld_up 5 b1 (fld_here 5 b0))))
  have e3 : fld w 13 5 = a.code := fld_of e (fld_up 8 b3 (fld_up 5 b2 (fld_here 5 b1)))
  refine decode_of_map hw (k := 0) (op := 3)
    (fld_of e (fld_up 8 b3 (fld_up 5 b2 (fld_up 5 b1 (fld_up 5 b0 (fld_up 7 (by decide) (fld_here 1 (by decide))))))))
    (fld_of e (fld_up 8 b3 (fld_up 5 b2 (fld_up 5 b1 (fld_up 5 b0 (fld_here 7 (by decide))))))) ?_
  simp [decC_3, e0, e1, e2, e3, regOf_code]

theorem loop (a : Reg) (imm : BitVec 18) : Statement (.loop a imm) := by
  intro lone w hw h
  have b0 := reg_code_lt a
  have b1 := imm.isLt
  have h : lone.toNat * 2147483648 + 0 * 1073741824 + 6 * 8388608 + (a.code * 262144 + imm.toNat) = w := Option.some.inj h
  have e : w = (((lone.toNat * 2 + 0) * 128 + 6) * 32 + a.code) * 262144 + imm.toNat := by omega
  clear h
  have e0 : fld w 18 5 = a.code := fld_of e (fld_up 18 b1 (fld_here 5 b0))
  have e1 : bitsF w 0 18 = imm := bitsF_eq (fld_of e (fld_here 18 b1))
  refine decode_of_map hw (k := 0) (op := 6)
    (fld_of e (fld_up 18 b1 (fld_up 5 b0 (fld_up 7 (by decide) (fld_here 1 (by decide))))))
    (fld_of e (fld_up 18 b1 (fld_up 5 b0 (fld_here 7 (by decide))))) ?_
  simp [decC_6, e0, e1, regOf_code]

theorem brk (code : BitVec 16) : Statement (.brk code) := by
  intro lone w hw h
  have b0 : 0 < 128 := by decide
  have b1 := code.isLt
  have h : lone.toNat * 2147483648 + 0 * 1073741824 + 9 * 8388608 + (code.toNat) = w := Option.some.inj h
  have e : w = (((lone.toNat * 2 + 0) * 128 + 9) * 128 + 0) * 65536 + code.toNat := by omega
  clear h
  have e0 : fld w 16 7 = 0 := fld_of e (fld_up 16 b1 (fld_here 7 b0))
  have e1 : bitsF w 0 16 = code := bitsF_eq (fld_of e (fld_here 16 b1))
  refine decode_of_map hw (k := 0) (op := 9)
    (fld_of e (fld_up 16 b1 (fld_up 7 b0 (fld_up 7 (by decide) (fld_here 1 (by decide))))))
    (fld_of e (fld_up 16 b1 (fld_up 7 b0 (fld_here 7 (by decide))))) ?_
  simp [decC_9, e0, e1]

theorem trap (code : BitVec 16) : Statement (.trap code) := by
  intro lone w hw h
  have b0 : 0 < 128 := by decide
  have b1 := code.isLt
  have h : lone.toNat * 2147483648 + 0 * 1073741824 + 84 * 8388608 + (code.toNat) = w := Option.some.inj h
  have e : w = (((lone.toNat * 2 + 0) * 128 + 84) * 128 + 0) * 65536 + code.toNat := by omega
  clear h
  have e0 : fld w 16 7 = 0 := fld_of e (fld_up 16 b1 (fld_here 7 b0))
  have e1 : bitsF w 0 16 = code := bitsF_eq (fld_of e (fld_here 16 b1))
  refine decode_of_map hw (k := 0) (op := 84)
    (fld_of e (fld_up 16 b1 (fld_up 7 b0 (fld_up 7 (by decide) (fld_here 1 (by decide))))))
    (fld_of e (fld_up 16 b1 (fld_up 7 b0 (fld_here 7 (by decide))))) ?_
  simp [decC_84, e0, e1]

theorem pfx (imm : BitVec 23) : Statement (.pfx imm) := by
  intro lone w hw h
  have b0 := imm.isLt
  have h : lone.toNat * 2147483648 + 0 * 1073741824 + 82 * 8388608 + (imm.toNat) = w := Option.some.inj h
  have e : w = ((lone.toNat * 2 + 0) * 128 + 82) * 8388608 + imm.toNat := by omega
  clear h
  have e0 : bitsF w 0 23 = imm := bitsF_eq (fld_of e (fld_here 23 b0))
  refine decode_of_map hw (k := 0) (op := 82)
    (fld_of e (fld_up 23 b0 (fld_up 7 (by decide) (fld_here 1 (by decide)))))
    (fld_of e (fld_up 23 b0 (fld_here 7 (by decide)))) ?_
  simp [decC_82, e0]

theorem lea (r : Reg) (sg : Fin 8) (base : Reg) (sz : Size) (imm : BitVec 7) : Statement (.lea r sg base sz imm) := by
  intro lone w hw h
  have b0 := reg_code_lt r
  have b1 := sg.isLt
  have b2 := reg_code_lt base
  have b3 := size_code_lt sz
  have b4 : 0 < 2 := by decide
  have b5 := imm.isLt
  have h : lone.toNat * 2147483648 + 0 * 1073741824 + 10 * 8388608 + (r.code * 262144 + sg.val * 32768 + base.code * 1024 + sz.code * 256 + imm.toNat) = w := Option.some.inj h
  have e : w = (((((((lone.toNat * 2 + 0) * 128 + 10) * 32 + r.code) * 8 + sg.val) * 32 + base.code) * 4 + sz.code) * 2 + 0) * 128 + imm.toNat := by omega
  clear h
  have e0 : fld w 7 1 = 0 := fld_of e (fld_up 7 b5 (fld_here 1 b4))
  have e1 : fld w 18 5 = r.code := fld_of e (fld_up 7 b5 (fld_up 1 b4 (fld_up 2 b3 (fld_up 5 b2 (fld_up 3 b1 (fld_here 5 b0))))))
  have e2 : fld w 10 5 = base.code := fld_of e (fld_up 7 b5 (fld_up 1 b4 (fld_up 2 b3 (fld_here 5 b2))))
  have e3 : fld w 8 2 = sz.code := fld_of e (fld_up 7 b5 (fld_up 1 b4 (fld_here 2 b3)))
  have e4 : finF w 15 3 = sg := finF_eq (fld_of e (fld_up 7 b5 (fld_up 1 b4 (fld_up 2 b3 (fld_up 5 b2 (fld_here 3 b1))))))
  have e5 : bitsF w 0 7 = imm := bitsF_eq (fld_of e (fld_here 7 b5))
  refine decode_of_map hw (k := 0) (op := 10)
    (fld_of e (fld_up 7 b5 (fld_up 1 b4 (fld_up 2 b3 (fld_up 5 b2 (fld_up 3 b1 (fld_up 5 b0 (fld_up 7 (by decide) (fld_here 1 (by decide))))))))))
    (fld_of e (fld_up 7 b5 (fld_up 1 b4 (fld_up 2 b3 (fld_up 5 b2 (fld_up 3 b1 (fld_up 5 b0 (fld_here 7 (by decide))))))))) ?_
  simp [decC_10, e0, e1, e2, e3, e4, e5, regOf_code, sizeOf_code]

theorem madv (d : Reg) (a : Reg) (b : Reg) (peq : PReg) (plt : PReg) (esz : Esz) : Statement (.madv d a b peq plt esz) := by
  intro lone w hw h
  have b0 := reg_code_lt d
  have b1 := reg_code_lt a
  have b2 := reg_code_lt b
  have b3 := peq.isLt
  have b4 := plt.isLt
  have b5 := esz_code_lt esz
  have h : lone.toNat * 2147483648 + 0 * 1073741824 + 13 * 8388608 + (d.code * 262144 + a.code * 8192 + b.code * 256 + peq.val * 32 + plt.val * 4 + esz.code) = w := Option.some.inj h
  have e : w = (((((((lone.toNat * 2 + 0) * 128 + 13) * 32 + d.code) * 32 + a.code) * 32 + b.code) * 8 + peq.val) * 8 + plt.val) * 4 + esz.code := by omega
  clear h
  have e0 : fld w 18 5 = d.code := fld_of e (fld_up 2 b5 (fld_up 3 b4 (fld_up 3 b3 (fld_up 5 b2 (fld_up 5 b1 (fld_here 5 b0))))))
  have e1 : fld w 13 5 = a.code := fld_of e (fld_up 2 b5 (fld_up 3 b4 (fld_up 3 b3 (fld_up 5 b2 (fld_here 5 b1)))))
  have e2 : fld w 8 5 = b.code := fld_of e (fld_up 2 b5 (fld_up 3 b4 (fld_up 3 b3 (fld_here 5 b2))))
  have e3 : fld w 0 2 = esz.code := fld_of e (fld_here 2 b5)
  have e4 : finF w 5 3 = peq := finF_eq (fld_of e (fld_up 2 b5 (fld_up 3 b4 (fld_here 3 b3))))
  have e5 : finF w 2 3 = plt := finF_eq (fld_of e (fld_up 2 b5 (fld_here 3 b4)))
  refine decode_of_map hw (k := 0) (op := 13)
    (fld_of e (fld_up 2 b5 (fld_up 3 b4 (fld_up 3 b3 (fld_up 5 b2 (fld_up 5 b1 (fld_up 5 b0 (fld_up 7 (by decide) (fld_here 1 (by decide))))))))))
    (fld_of e (fld_up 2 b5 (fld_up 3 b4 (fld_up 3 b3 (fld_up 5 b2 (fld_up 5 b1 (fld_up 5 b0 (fld_here 7 (by decide))))))))) ?_
  simp [decC_13, e0, e1, e2, e3, e4, e5, regOf_code, eszOf_code]

theorem fwalk (d : Reg) (a : Reg) (b : Reg) : Statement (.fwalk d a b) := by
  intro lone w hw h
  have b0 := reg_code_lt d
  have b1 := reg_code_lt a
  have b2 := reg_code_lt b
  have b3 : 0 < 256 := by decide
  have h : lone.toNat * 2147483648 + 0 * 1073741824 + 14 * 8388608 + (d.code * 262144 + a.code * 8192 + b.code * 256) = w := Option.some.inj h
  have e : w = (((((lone.toNat * 2 + 0) * 128 + 14) * 32 + d.code) * 32 + a.code) * 32 + b.code) * 256 + 0 := by omega
  clear h
  have e0 : fld w 0 8 = 0 := fld_of e (fld_here 8 b3)
  have e1 : fld w 18 5 = d.code := fld_of e (fld_up 8 b3 (fld_up 5 b2 (fld_up 5 b1 (fld_here 5 b0))))
  have e2 : fld w 13 5 = a.code := fld_of e (fld_up 8 b3 (fld_up 5 b2 (fld_here 5 b1)))
  have e3 : fld w 8 5 = b.code := fld_of e (fld_up 8 b3 (fld_here 5 b2))
  refine decode_of_map hw (k := 0) (op := 14)
    (fld_of e (fld_up 8 b3 (fld_up 5 b2 (fld_up 5 b1 (fld_up 5 b0 (fld_up 7 (by decide) (fld_here 1 (by decide))))))))
    (fld_of e (fld_up 8 b3 (fld_up 5 b2 (fld_up 5 b1 (fld_up 5 b0 (fld_here 7 (by decide))))))) ?_
  simp [decC_14, e0, e1, e2, e3, regOf_code]

theorem brank (d : Reg) (a : Reg) (b : Reg) (pd : PReg) : Statement (.brank d a b pd) := by
  intro lone w hw h
  have b0 := reg_code_lt d
  have b1 := reg_code_lt a
  have b2 := reg_code_lt b
  have b3 : 0 < 32 := by decide
  have b4 := pd.isLt
  have h : lone.toNat * 2147483648 + 0 * 1073741824 + 15 * 8388608 + (d.code * 262144 + a.code * 8192 + b.code * 256 + pd.val) = w := Option.some.inj h
  have e : w = ((((((lone.toNat * 2 + 0) * 128 + 15) * 32 + d.code) * 32 + a.code) * 32 + b.code) * 32 + 0) * 8 + pd.val := by omega
  clear h
  have e0 : fld w 3 5 = 0 := fld_of e (fld_up 3 b4 (fld_here 5 b3))
  have e1 : fld w 18 5 = d.code := fld_of e (fld_up 3 b4 (fld_up 5 b3 (fld_up 5 b2 (fld_up 5 b1 (fld_here 5 b0)))))
  have e2 : fld w 13 5 = a.code := fld_of e (fld_up 3 b4 (fld_up 5 b3 (fld_up 5 b2 (fld_here 5 b1))))
  have e3 : fld w 8 5 = b.code := fld_of e (fld_up 3 b4 (fld_up 5 b3 (fld_here 5 b2)))
  have e4 : finF w 0 3 = pd := finF_eq (fld_of e (fld_here 3 b4))
  refine decode_of_map hw (k := 0) (op := 15)
    (fld_of e (fld_up 3 b4 (fld_up 5 b3 (fld_up 5 b2 (fld_up 5 b1 (fld_up 5 b0 (fld_up 7 (by decide) (fld_here 1 (by decide)))))))))
    (fld_of e (fld_up 3 b4 (fld_up 5 b3 (fld_up 5 b2 (fld_up 5 b1 (fld_up 5 b0 (fld_here 7 (by decide)))))))) ?_
  simp [decC_15, e0, e1, e2, e3, e4, regOf_code]

theorem ld (r : Reg) (sg : Fin 8) (base : Reg) (sz : Size) (x : Bool) (imm : BitVec 7) : Statement (.ld r sg base sz x imm) := by
  intro lone w hw h
  have b0 := reg_code_lt r
  have b1 := sg.isLt
  have b2 := reg_code_lt base
  have b3 := size_code_lt sz
  have b4 := toNat_lt_two x
  have b5 := imm.isLt
  have h : lone.toNat * 2147483648 + 0 * 1073741824 + 16 * 8388608 + (r.code * 262144 + sg.val * 32768 + base.code * 1024 + sz.code * 256 + x.toNat * 128 + imm.toNat) = w := Option.some.inj h
  have e : w = (((((((lone.toNat * 2 + 0) * 128 + 16) * 32 + r.code) * 8 + sg.val) * 32 + base.code) * 4 + sz.code) * 2 + x.toNat) * 128 + imm.toNat := by omega
  clear h
  have e0 : fld w 18 5 = r.code := fld_of e (fld_up 7 b5 (fld_up 1 b4 (fld_up 2 b3 (fld_up 5 b2 (fld_up 3 b1 (fld_here 5 b0))))))
  have e1 : fld w 10 5 = base.code := fld_of e (fld_up 7 b5 (fld_up 1 b4 (fld_up 2 b3 (fld_here 5 b2))))
  have e2 : fld w 8 2 = sz.code := fld_of e (fld_up 7 b5 (fld_up 1 b4 (fld_here 2 b3)))
  have e3 : finF w 15 3 = sg := finF_eq (fld_of e (fld_up 7 b5 (fld_up 1 b4 (fld_up 2 b3 (fld_up 5 b2 (fld_here 3 b1))))))
  have e4 : bitF w 7 = x := bitF_eq (fld_of e (fld_up 7 b5 (fld_here 1 b4)))
  have e5 : bitsF w 0 7 = imm := bitsF_eq (fld_of e (fld_here 7 b5))
  refine decode_of_map hw (k := 0) (op := 16)
    (fld_of e (fld_up 7 b5 (fld_up 1 b4 (fld_up 2 b3 (fld_up 5 b2 (fld_up 3 b1 (fld_up 5 b0 (fld_up 7 (by decide) (fld_here 1 (by decide))))))))))
    (fld_of e (fld_up 7 b5 (fld_up 1 b4 (fld_up 2 b3 (fld_up 5 b2 (fld_up 3 b1 (fld_up 5 b0 (fld_here 7 (by decide))))))))) ?_
  simp [decC_16, e0, e1, e2, e3, e4, e5, regOf_code, sizeOf_code]

theorem ldAcq (r : Reg) (sg : Fin 8) (base : Reg) (sz : Size) (x : Bool) (sc : Scope) (imm : BitVec 4) : Statement (.ldAcq r sg base sz x sc imm) := by
  intro lone w hw h
  have b0 := reg_code_lt r
  have b1 := sg.isLt
  have b2 := reg_code_lt base
  have b3 := size_code_lt sz
  have b4 := toNat_lt_two x
  have b5 := scope_code_lt sc
  have b6 := imm.isLt
  have h : lone.toNat * 2147483648 + 0 * 1073741824 + 17 * 8388608 + (r.code * 262144 + sg.val * 32768 + base.code * 1024 + sz.code * 256 + x.toNat * 128 + sc.code * 16 + imm.toNat) = w := Option.some.inj h
  have e : w = ((((((((lone.toNat * 2 + 0) * 128 + 17) * 32 + r.code) * 8 + sg.val) * 32 + base.code) * 4 + sz.code) * 2 + x.toNat) * 8 + sc.code) * 16 + imm.toNat := by omega
  clear h
  have e0 : fld w 18 5 = r.code := fld_of e (fld_up 4 b6 (fld_up 3 b5 (fld_up 1 b4 (fld_up 2 b3 (fld_up 5 b2 (fld_up 3 b1 (fld_here 5 b0)))))))
  have e1 : fld w 10 5 = base.code := fld_of e (fld_up 4 b6 (fld_up 3 b5 (fld_up 1 b4 (fld_up 2 b3 (fld_here 5 b2)))))
  have e2 : fld w 8 2 = sz.code := fld_of e (fld_up 4 b6 (fld_up 3 b5 (fld_up 1 b4 (fld_here 2 b3))))
  have e3 : fld w 4 3 = sc.code := fld_of e (fld_up 4 b6 (fld_here 3 b5))
  have e4 : finF w 15 3 = sg := finF_eq (fld_of e (fld_up 4 b6 (fld_up 3 b5 (fld_up 1 b4 (fld_up 2 b3 (fld_up 5 b2 (fld_here 3 b1)))))))
  have e5 : bitF w 7 = x := bitF_eq (fld_of e (fld_up 4 b6 (fld_up 3 b5 (fld_here 1 b4))))
  have e6 : bitsF w 0 4 = imm := bitsF_eq (fld_of e (fld_here 4 b6))
  refine decode_of_map hw (k := 0) (op := 17)
    (fld_of e (fld_up 4 b6 (fld_up 3 b5 (fld_up 1 b4 (fld_up 2 b3 (fld_up 5 b2 (fld_up 3 b1 (fld_up 5 b0 (fld_up 7 (by decide) (fld_here 1 (by decide)))))))))))
    (fld_of e (fld_up 4 b6 (fld_up 3 b5 (fld_up 1 b4 (fld_up 2 b3 (fld_up 5 b2 (fld_up 3 b1 (fld_up 5 b0 (fld_here 7 (by decide)))))))))) ?_
  simp [decC_17, e0, e1, e2, e3, e4, e5, e6, regOf_code, sizeOf_code, scopeOf_code]

theorem st (r : Reg) (sg : Fin 8) (base : Reg) (sz : Size) (imm : BitVec 7) : Statement (.st r sg base sz imm) := by
  intro lone w hw h
  have b0 := reg_code_lt r
  have b1 := sg.isLt
  have b2 := reg_code_lt base
  have b3 := size_code_lt sz
  have b4 : 0 < 2 := by decide
  have b5 := imm.isLt
  have h : lone.toNat * 2147483648 + 0 * 1073741824 + 18 * 8388608 + (r.code * 262144 + sg.val * 32768 + base.code * 1024 + sz.code * 256 + imm.toNat) = w := Option.some.inj h
  have e : w = (((((((lone.toNat * 2 + 0) * 128 + 18) * 32 + r.code) * 8 + sg.val) * 32 + base.code) * 4 + sz.code) * 2 + 0) * 128 + imm.toNat := by omega
  clear h
  have e0 : fld w 7 1 = 0 := fld_of e (fld_up 7 b5 (fld_here 1 b4))
  have e1 : fld w 18 5 = r.code := fld_of e (fld_up 7 b5 (fld_up 1 b4 (fld_up 2 b3 (fld_up 5 b2 (fld_up 3 b1 (fld_here 5 b0))))))
  have e2 : fld w 10 5 = base.code := fld_of e (fld_up 7 b5 (fld_up 1 b4 (fld_up 2 b3 (fld_here 5 b2))))
  have e3 : fld w 8 2 = sz.code := fld_of e (fld_up 7 b5 (fld_up 1 b4 (fld_here 2 b3)))
  have e4 : finF w 15 3 = sg := finF_eq (fld_of e (fld_up 7 b5 (fld_up 1 b4 (fld_up 2 b3 (fld_up 5 b2 (fld_here 3 b1))))))
  have e5 : bitsF w 0 7 = imm := bitsF_eq (fld_of e (fld_here 7 b5))
  refine decode_of_map hw (k := 0) (op := 18)
    (fld_of e (fld_up 7 b5 (fld_up 1 b4 (fld_up 2 b3 (fld_up 5 b2 (fld_up 3 b1 (fld_up 5 b0 (fld_up 7 (by decide) (fld_here 1 (by decide))))))))))
    (fld_of e (fld_up 7 b5 (fld_up 1 b4 (fld_up 2 b3 (fld_up 5 b2 (fld_up 3 b1 (fld_up 5 b0 (fld_here 7 (by decide))))))))) ?_
  simp [decC_18, e0, e1, e2, e3, e4, e5, regOf_code, sizeOf_code]

theorem stRel (r : Reg) (sg : Fin 8) (base : Reg) (sz : Size) (sc : Scope) (imm : BitVec 4) : Statement (.stRel r sg base sz sc imm) := by
  intro lone w hw h
  have b0 := reg_code_lt r
  have b1 := sg.isLt
  have b2 := reg_code_lt base
  have b3 := size_code_lt sz
  have b4 : 0 < 2 := by decide
  have b5 := scope_code_lt sc
  have b6 := imm.isLt
  have h : lone.toNat * 2147483648 + 0 * 1073741824 + 19 * 8388608 + (r.code * 262144 + sg.val * 32768 + base.code * 1024 + sz.code * 256 + sc.code * 16 + imm.toNat) = w := Option.some.inj h
  have e : w = ((((((((lone.toNat * 2 + 0) * 128 + 19) * 32 + r.code) * 8 + sg.val) * 32 + base.code) * 4 + sz.code) * 2 + 0) * 8 + sc.code) * 16 + imm.toNat := by omega
  clear h
  have e0 : fld w 7 1 = 0 := fld_of e (fld_up 4 b6 (fld_up 3 b5 (fld_here 1 b4)))
  have e1 : fld w 18 5 = r.code := fld_of e (fld_up 4 b6 (fld_up 3 b5 (fld_up 1 b4 (fld_up 2 b3 (fld_up 5 b2 (fld_up 3 b1 (fld_here 5 b0)))))))
  have e2 : fld w 10 5 = base.code := fld_of e (fld_up 4 b6 (fld_up 3 b5 (fld_up 1 b4 (fld_up 2 b3 (fld_here 5 b2)))))
  have e3 : fld w 8 2 = sz.code := fld_of e (fld_up 4 b6 (fld_up 3 b5 (fld_up 1 b4 (fld_here 2 b3))))
  have e4 : fld w 4 3 = sc.code := fld_of e (fld_up 4 b6 (fld_here 3 b5))
  have e5 : finF w 15 3 = sg := finF_eq (fld_of e (fld_up 4 b6 (fld_up 3 b5 (fld_up 1 b4 (fld_up 2 b3 (fld_up 5 b2 (fld_here 3 b1)))))))
  have e6 : bitsF w 0 4 = imm := bitsF_eq (fld_of e (fld_here 4 b6))
  refine decode_of_map hw (k := 0) (op := 19)
    (fld_of e (fld_up 4 b6 (fld_up 3 b5 (fld_up 1 b4 (fld_up 2 b3 (fld_up 5 b2 (fld_up 3 b1 (fld_up 5 b0 (fld_up 7 (by decide) (fld_here 1 (by decide)))))))))))
    (fld_of e (fld_up 4 b6 (fld_up 3 b5 (fld_up 1 b4 (fld_up 2 b3 (fld_up 5 b2 (fld_up 3 b1 (fld_up 5 b0 (fld_here 7 (by decide)))))))))) ?_
  simp [decC_19, e0, e1, e2, e3, e4, e5, e6, regOf_code, sizeOf_code, scopeOf_code]

theorem ldp (r : Reg) (sg : Fin 8) (base : Reg) (imm : BitVec 7) : Statement (.ldp r sg base imm) := by
  intro lone w hw h
  have b0 := reg_code_lt r
  have b1 := sg.isLt
  have b2 := reg_code_lt base
  have b3 : 3 < 4 := by decide
  have b4 : 0 < 2 := by decide
  have b5 := imm.isLt
  have h : lone.toNat * 2147483648 + 0 * 1073741824 + 20 * 8388608 + (r.code * 262144 + sg.val * 32768 + base.code * 1024 + 768 + imm.toNat) = w := Option.some.inj h
  have e : w = (((((((lone.toNat * 2 + 0) * 128 + 20) * 32 + r.code) * 8 + sg.val) * 32 + base.code) * 4 + 3) * 2 + 0) * 128 + imm.toNat := by omega
  clear h
  have e0 : fld w 8 2 = 3 := fld_of e (fld_up 7 b5 (fld_up 1 b4 (fld_here 2 b3)))
  have e1 : fld w 7 1 = 0 := fld_of e (fld_up 7 b5 (fld_here 1 b4))
  have e2 : fld w 18 5 = r.code := fld_of e (fld_up 7 b5 (fld_up 1 b4 (fld_up 2 b3 (fld_up 5 b2 (fld_up 3 b1 (fld_here 5 b0))))))
  have e3 : fld w 10 5 = base.code := fld_of e (fld_up 7 b5 (fld_up 1 b4 (fld_up 2 b3 (fld_here 5 b2))))
  have e4 : finF w 15 3 = sg := finF_eq (fld_of e (fld_up 7 b5 (fld_up 1 b4 (fld_up 2 b3 (fld_up 5 b2 (fld_here 3 b1))))))
  have e5 : bitsF w 0 7 = imm := bitsF_eq (fld_of e (fld_here 7 b5))
  refine decode_of_map hw (k := 0) (op := 20)
    (fld_of e (fld_up 7 b5 (fld_up 1 b4 (fld_up 2 b3 (fld_up 5 b2 (fld_up 3 b1 (fld_up 5 b0 (fld_up 7 (by decide) (fld_here 1 (by decide))))))))))
    (fld_of e (fld_up 7 b5 (fld_up 1 b4 (fld_up 2 b3 (fld_up 5 b2 (fld_up 3 b1 (fld_up 5 b0 (fld_here 7 (by decide))))))))) ?_
  simp [decC_20, e0, e1, e2, e3, e4, e5, regOf_code]

theorem stp (r : Reg) (sg : Fin 8) (base : Reg) (imm : BitVec 7) : Statement (.stp r sg base imm) := by
  intro lone w hw h
  have b0 := reg_code_lt r
  have b1 := sg.isLt
  have b2 := reg_code_lt base
  have b3 : 3 < 4 := by decide
  have b4 : 0 < 2 := by decide
  have b5 := imm.isLt
  have h : lone.toNat * 2147483648 + 0 * 1073741824 + 21 * 8388608 + (r.code * 262144 + sg.val * 32768 + base.code * 1024 + 768 + imm.toNat) = w := Option.some.inj h
  have e : w = (((((((lone.toNat * 2 + 0) * 128 + 21) * 32 + r.code) * 8 + sg.val) * 32 + base.code) * 4 + 3) * 2 + 0) * 128 + imm.toNat := by omega
  clear h
  have e0 : fld w 8 2 = 3 := fld_of e (fld_up 7 b5 (fld_up 1 b4 (fld_here 2 b3)))
  have e1 : fld w 7 1 = 0 := fld_of e (fld_up 7 b5 (fld_here 1 b4))
  have e2 : fld w 18 5 = r.code := fld_of e (fld_up 7 b5 (fld_up 1 b4 (fld_up 2 b3 (fld_up 5 b2 (fld_up 3 b1 (fld_here 5 b0))))))
  have e3 : fld w 10 5 = base.code := fld_of e (fld_up 7 b5 (fld_up 1 b4 (fld_up 2 b3 (fld_here 5 b2))))
  have e4 : finF w 15 3 = sg := finF_eq (fld_of e (fld_up 7 b5 (fld_up 1 b4 (fld_up 2 b3 (fld_up 5 b2 (fld_here 3 b1))))))
  have e5 : bitsF w 0 7 = imm := bitsF_eq (fld_of e (fld_here 7 b5))
  refine decode_of_map hw (k := 0) (op := 21)
    (fld_of e (fld_up 7 b5 (fld_up 1 b4 (fld_up 2 b3 (fld_up 5 b2 (fld_up 3 b1 (fld_up 5 b0 (fld_up 7 (by decide) (fld_here 1 (by decide))))))))))
    (fld_of e (fld_up 7 b5 (fld_up 1 b4 (fld_up 2 b3 (fld_up 5 b2 (fld_up 3 b1 (fld_up 5 b0 (fld_here 7 (by decide))))))))) ?_
  simp [decC_21, e0, e1, e2, e3, e4, e5, regOf_code]

theorem pf (sg : Fin 8) (base : Reg) (sz : Size) (imm : BitVec 7) : Statement (.pf sg base sz imm) := by
  intro lone w hw h
  have b0 : 0 < 32 := by decide
  have b1 := sg.isLt
  have b2 := reg_code_lt base
  have b3 := size_code_lt sz
  have b4 : 0 < 2 := by decide
  have b5 := imm.isLt
  have h : lone.toNat * 2147483648 + 0 * 1073741824 + 22 * 8388608 + (sg.val * 32768 + base.code * 1024 + sz.code * 256 + imm.toNat) = w := Option.some.inj h
  have e : w = (((((((lone.toNat * 2 + 0) * 128 + 22) * 32 + 0) * 8 + sg.val) * 32 + base.code) * 4 + sz.code) * 2 + 0) * 128 + imm.toNat := by omega
  clear h
  have e0 : fld w 18 5 = 0 := fld_of e (fld_up 7 b5 (fld_up 1 b4 (fld_up 2 b3 (fld_up 5 b2 (fld_up 3 b1 (fld_here 5 b0))))))
  have e1 : fld w 7 1 = 0 := fld_of e (fld_up 7 b5 (fld_here 1 b4))
  have e2 : fld w 10 5 = base.code := fld_of e (fld_up 7 b5 (fld_up 1 b4 (fld_up 2 b3 (fld_here 5 b2))))
  have e3 : fld w 8 2 = sz.code := fld_of e (fld_up 7 b5 (fld_up 1 b4 (fld_here 2 b3)))
  have e4 : finF w 15 3 = sg := finF_eq (fld_of e (fld_up 7 b5 (fld_up 1 b4 (fld_up 2 b3 (fld_up 5 b2 (fld_here 3 b1))))))
  have e5 : bitsF w 0 7 = imm := bitsF_eq (fld_of e (fld_here 7 b5))
  refine decode_of_map hw (k := 0) (op := 22)
    (fld_of e (fld_up 7 b5 (fld_up 1 b4 (fld_up 2 b3 (fld_up 5 b2 (fld_up 3 b1 (fld_up 5 b0 (fld_up 7 (by decide) (fld_here 1 (by decide))))))))))
    (fld_of e (fld_up 7 b5 (fld_up 1 b4 (fld_up 2 b3 (fld_up 5 b2 (fld_up 3 b1 (fld_up 5 b0 (fld_here 7 (by decide))))))))) ?_
  simp [decC_22, e0, e1, e2, e3, e4, e5, regOf_code, sizeOf_code]

theorem fence (sc : Scope) : Statement (.fence sc) := by
  intro lone w hw h
  have b0 := scope_code_lt sc
  have b1 : 0 < 1048576 := by decide
  have h : lone.toNat * 2147483648 + 0 * 1073741824 + 23 * 8388608 + (sc.code * 1048576) = w := Option.some.inj h
  have e : w = (((lone.toNat * 2 + 0) * 128 + 23) * 8 + sc.code) * 1048576 + 0 := by omega
  clear h
  have e0 : fld w 0 20 = 0 := fld_of e (fld_here 20 b1)
  have e1 : fld w 20 3 = sc.code := fld_of e (fld_up 20 b1 (fld_here 3 b0))
  refine decode_of_map hw (k := 0) (op := 23)
    (fld_of e (fld_up 20 b1 (fld_up 3 b0 (fld_up 7 (by decide) (fld_here 1 (by decide))))))
    (fld_of e (fld_up 20 b1 (fld_up 3 b0 (fld_here 7 (by decide))))) ?_
  simp [decC_23, e0, e1, scopeOf_code]

theorem amo (d : Reg) (sg : Fin 8) (base : Reg) (b : Reg) (op : AmoOp) (esz : Esz) : Statement (.amo d sg base b op esz) := by
  intro lone w hw h
  have b0 := reg_code_lt d
  have b1 := sg.isLt
  have b2 := reg_code_lt base
  have b3 := reg_code_lt b
  have b4 := amoOp_code_lt op
  have b5 := esz_code_lt esz
  have h : lone.toNat * 2147483648 + 0 * 1073741824 + 24 * 8388608 + (d.code * 262144 + sg.val * 32768 + base.code * 1024 + b.code * 32 + op.code * 4 + esz.code) = w := Option.some.inj h
  have e : w = (((((((lone.toNat * 2 + 0) * 128 + 24) * 32 + d.code) * 8 + sg.val) * 32 + base.code) * 32 + b.code) * 8 + op.code) * 4 + esz.code := by omega
  clear h
  have e0 : fld w 18 5 = d.code := fld_of e (fld_up 2 b5 (fld_up 3 b4 (fld_up 5 b3 (fld_up 5 b2 (fld_up 3 b1 (fld_here 5 b0))))))
  have e1 : fld w 10 5 = base.code := fld_of e (fld_up 2 b5 (fld_up 3 b4 (fld_up 5 b3 (fld_here 5 b2))))
  have e2 : fld w 5 5 = b.code := fld_of e (fld_up 2 b5 (fld_up 3 b4 (fld_here 5 b3)))
  have e3 : fld w 2 3 = op.code := fld_of e (fld_up 2 b5 (fld_here 3 b4))
  have e4 : fld w 0 2 = esz.code := fld_of e (fld_here 2 b5)
  have e5 : finF w 15 3 = sg := finF_eq (fld_of e (fld_up 2 b5 (fld_up 3 b4 (fld_up 5 b3 (fld_up 5 b2 (fld_here 3 b1))))))
  refine decode_of_map hw (k := 0) (op := 24)
    (fld_of e (fld_up 2 b5 (fld_up 3 b4 (fld_up 5 b3 (fld_up 5 b2 (fld_up 3 b1 (fld_up 5 b0 (fld_up 7 (by decide) (fld_here 1 (by decide))))))))))
    (fld_of e (fld_up 2 b5 (fld_up 3 b4 (fld_up 5 b3 (fld_up 5 b2 (fld_up 3 b1 (fld_up 5 b0 (fld_here 7 (by decide))))))))) ?_
  simp [decC_24, e0, e1, e2, e3, e4, e5, regOf_code, amoOpOf_code, eszOf_code]

theorem cas (d : Reg) (sg : Fin 8) (base : Reg) (b : Reg) (c : Reg) : Statement (.cas d sg base b c) := by
  intro lone w hw h
  have b0 := reg_code_lt d
  have b1 := sg.isLt
  have b2 := reg_code_lt base
  have b3 := reg_code_lt b
  have b4 := reg_code_lt c
  have h : lone.toNat * 2147483648 + 0 * 1073741824 + 25 * 8388608 + (d.code * 262144 + sg.val * 32768 + base.code * 1024 + b.code * 32 + c.code) = w := Option.some.inj h
  have e : w = ((((((lone.toNat * 2 + 0) * 128 + 25) * 32 + d.code) * 8 + sg.val) * 32 + base.code) * 32 + b.code) * 32 + c.code := by omega
  clear h
  have e0 : fld w 18 5 = d.code := fld_of e (fld_up 5 b4 (fld_up 5 b3 (fld_up 5 b2 (fld_up 3 b1 (fld_here 5 b0)))))
  have e1 : fld w 10 5 = base.code := fld_of e (fld_up 5 b4 (fld_up 5 b3 (fld_here 5 b2)))
  have e2 : fld w 5 5 = b.code := fld_of e (fld_up 5 b4 (fld_here 5 b3))
  have e3 : fld w 0 5 = c.code := fld_of e (fld_here 5 b4)
  have e4 : finF w 15 3 = sg := finF_eq (fld_of e (fld_up 5 b4 (fld_up 5 b3 (fld_up 5 b2 (fld_here 3 b1)))))
  refine decode_of_map hw (k := 0) (op := 25)
    (fld_of e (fld_up 5 b4 (fld_up 5 b3 (fld_up 5 b2 (fld_up 3 b1 (fld_up 5 b0 (fld_up 7 (by decide) (fld_here 1 (by decide)))))))))
    (fld_of e (fld_up 5 b4 (fld_up 5 b3 (fld_up 5 b2 (fld_up 3 b1 (fld_up 5 b0 (fld_here 7 (by decide)))))))) ?_
  simp [decC_25, e0, e1, e2, e3, e4, regOf_code]

theorem red (sg : Fin 8) (base : Reg) (b : Reg) (op : RedOp) (esz : Esz) : Statement (.red sg base b op esz) := by
  intro lone w hw h
  have b0 : 0 < 32 := by decide
  have b1 := sg.isLt
  have b2 := reg_code_lt base
  have b3 := reg_code_lt b
  have b4 := redOp_code_lt op
  have b5 := esz_code_lt esz
  have h : lone.toNat * 2147483648 + 0 * 1073741824 + 26 * 8388608 + (sg.val * 32768 + base.code * 1024 + b.code * 32 + op.code * 4 + esz.code) = w := Option.some.inj h
  have e : w = (((((((lone.toNat * 2 + 0) * 128 + 26) * 32 + 0) * 8 + sg.val) * 32 + base.code) * 32 + b.code) * 8 + op.code) * 4 + esz.code := by omega
  clear h
  have e0 : fld w 18 5 = 0 := fld_of e (fld_up 2 b5 (fld_up 3 b4 (fld_up 5 b3 (fld_up 5 b2 (fld_up 3 b1 (fld_here 5 b0))))))
  have e1 : fld w 10 5 = base.code := fld_of e (fld_up 2 b5 (fld_up 3 b4 (fld_up 5 b3 (fld_here 5 b2))))
  have e2 : fld w 5 5 = b.code := fld_of e (fld_up 2 b5 (fld_up 3 b4 (fld_here 5 b3)))
  have e3 : fld w 2 3 = op.code := fld_of e (fld_up 2 b5 (fld_here 3 b4))
  have e4 : fld w 0 2 = esz.code := fld_of e (fld_here 2 b5)
  have e5 : finF w 15 3 = sg := finF_eq (fld_of e (fld_up 2 b5 (fld_up 3 b4 (fld_up 5 b3 (fld_up 5 b2 (fld_here 3 b1))))))
  refine decode_of_map hw (k := 0) (op := 26)
    (fld_of e (fld_up 2 b5 (fld_up 3 b4 (fld_up 5 b3 (fld_up 5 b2 (fld_up 3 b1 (fld_up 5 b0 (fld_up 7 (by decide) (fld_here 1 (by decide))))))))))
    (fld_of e (fld_up 2 b5 (fld_up 3 b4 (fld_up 5 b3 (fld_up 5 b2 (fld_up 3 b1 (fld_up 5 b0 (fld_here 7 (by decide))))))))) ?_
  simp [decC_26, e0, e1, e2, e3, e4, e5, regOf_code, redOpOf_code, eszOf_code]

theorem ldf (r : Reg) (sg : Fin 8) (base : Reg) (sc : Scope) (imm : BitVec 7) : Statement (.ldf r sg base sc imm) := by
  intro lone w hw h
  have b0 := reg_code_lt r
  have b1 := sg.isLt
  have b2 := reg_code_lt base
  have b3 := scope_code_lt sc
  have b4 := imm.isLt
  have h : lone.toNat * 2147483648 + 0 * 1073741824 + 32 * 8388608 + (r.code * 262144 + sg.val * 32768 + base.code * 1024 + sc.code * 128 + imm.toNat) = w := Option.some.inj h
  have e : w = ((((((lone.toNat * 2 + 0) * 128 + 32) * 32 + r.code) * 8 + sg.val) * 32 + base.code) * 8 + sc.code) * 128 + imm.toNat := by omega
  clear h
  have e0 : fld w 18 5 = r.code := fld_of e (fld_up 7 b4 (fld_up 3 b3 (fld_up 5 b2 (fld_up 3 b1 (fld_here 5 b0)))))
  have e1 : fld w 10 5 = base.code := fld_of e (fld_up 7 b4 (fld_up 3 b3 (fld_here 5 b2)))
  have e2 : fld w 7 3 = sc.code := fld_of e (fld_up 7 b4 (fld_here 3 b3))
  have e3 : finF w 15 3 = sg := finF_eq (fld_of e (fld_up 7 b4 (fld_up 3 b3 (fld_up 5 b2 (fld_here 3 b1)))))
  have e4 : bitsF w 0 7 = imm := bitsF_eq (fld_of e (fld_here 7 b4))
  refine decode_of_map hw (k := 0) (op := 32)
    (fld_of e (fld_up 7 b4 (fld_up 3 b3 (fld_up 5 b2 (fld_up 3 b1 (fld_up 5 b0 (fld_up 7 (by decide) (fld_here 1 (by decide)))))))))
    (fld_of e (fld_up 7 b4 (fld_up 3 b3 (fld_up 5 b2 (fld_up 3 b1 (fld_up 5 b0 (fld_here 7 (by decide)))))))) ?_
  simp [decC_32, e0, e1, e2, e3, e4, regOf_code, scopeOf_code]

theorem ldfe (r : Reg) (sg : Fin 8) (base : Reg) (sc : Scope) (imm : BitVec 7) : Statement (.ldfe r sg base sc imm) := by
  intro lone w hw h
  have b0 := reg_code_lt r
  have b1 := sg.isLt
  have b2 := reg_code_lt base
  have b3 := scope_code_lt sc
  have b4 := imm.isLt
  have h : lone.toNat * 2147483648 + 0 * 1073741824 + 33 * 8388608 + (r.code * 262144 + sg.val * 32768 + base.code * 1024 + sc.code * 128 + imm.toNat) = w := Option.some.inj h
  have e : w = ((((((lone.toNat * 2 + 0) * 128 + 33) * 32 + r.code) * 8 + sg.val) * 32 + base.code) * 8 + sc.code) * 128 + imm.toNat := by omega
  clear h
  have e0 : fld w 18 5 = r.code := fld_of e (fld_up 7 b4 (fld_up 3 b3 (fld_up 5 b2 (fld_up 3 b1 (fld_here 5 b0)))))
  have e1 : fld w 10 5 = base.code := fld_of e (fld_up 7 b4 (fld_up 3 b3 (fld_here 5 b2)))
  have e2 : fld w 7 3 = sc.code := fld_of e (fld_up 7 b4 (fld_here 3 b3))
  have e3 : finF w 15 3 = sg := finF_eq (fld_of e (fld_up 7 b4 (fld_up 3 b3 (fld_up 5 b2 (fld_here 3 b1)))))
  have e4 : bitsF w 0 7 = imm := bitsF_eq (fld_of e (fld_here 7 b4))
  refine decode_of_map hw (k := 0) (op := 33)
    (fld_of e (fld_up 7 b4 (fld_up 3 b3 (fld_up 5 b2 (fld_up 3 b1 (fld_up 5 b0 (fld_up 7 (by decide) (fld_here 1 (by decide)))))))))
    (fld_of e (fld_up 7 b4 (fld_up 3 b3 (fld_up 5 b2 (fld_up 3 b1 (fld_up 5 b0 (fld_here 7 (by decide)))))))) ?_
  simp [decC_33, e0, e1, e2, e3, e4, regOf_code, scopeOf_code]

theorem stf (r : Reg) (sg : Fin 8) (base : Reg) (sc : Scope) (imm : BitVec 7) : Statement (.stf r sg base sc imm) := by
  intro lone w hw h
  have b0 := reg_code_lt r
  have b1 := sg.isLt
  have b2 := reg_code_lt base
  have b3 := scope_code_lt sc
  have b4 := imm.isLt
  have h : lone.toNat * 2147483648 + 0 * 1073741824 + 34 * 8388608 + (r.code * 262144 + sg.val * 32768 + base.code * 1024 + sc.code * 128 + imm.toNat) = w := Option.some.inj h
  have e : w = ((((((lone.toNat * 2 + 0) * 128 + 34) * 32 + r.code) * 8 + sg.val) * 32 + base.code) * 8 + sc.code) * 128 + imm.toNat := by omega
  clear h
  have e0 : fld w 18 5 = r.code := fld_of e (fld_up 7 b4 (fld_up 3 b3 (fld_up 5 b2 (fld_up 3 b1 (fld_here 5 b0)))))
  have e1 : fld w 10 5 = base.code := fld_of e (fld_up 7 b4 (fld_up 3 b3 (fld_here 5 b2)))
  have e2 : fld w 7 3 = sc.code := fld_of e (fld_up 7 b4 (fld_here 3 b3))
  have e3 : finF w 15 3 = sg := finF_eq (fld_of e (fld_up 7 b4 (fld_up 3 b3 (fld_up 5 b2 (fld_here 3 b1)))))
  have e4 : bitsF w 0 7 = imm := bitsF_eq (fld_of e (fld_here 7 b4))
  refine decode_of_map hw (k := 0) (op := 34)
    (fld_of e (fld_up 7 b4 (fld_up 3 b3 (fld_up 5 b2 (fld_up 3 b1 (fld_up 5 b0 (fld_up 7 (by decide) (fld_here 1 (by decide)))))))))
    (fld_of e (fld_up 7 b4 (fld_up 3 b3 (fld_up 5 b2 (fld_up 3 b1 (fld_up 5 b0 (fld_here 7 (by decide)))))))) ?_
  simp [decC_34, e0, e1, e2, e3, e4, regOf_code, scopeOf_code]

theorem stfw (r : Reg) (sg : Fin 8) (base : Reg) (sc : Scope) (imm : BitVec 7) : Statement (.stfw r sg base sc imm) := by
  intro lone w hw h
  have b0 := reg_code_lt r
  have b1 := sg.isLt
  have b2 := reg_code_lt base
  have b3 := scope_code_lt sc
  have b4 := imm.isLt
  have h : lone.toNat * 2147483648 + 0 * 1073741824 + 35 * 8388608 + (r.code * 262144 + sg.val * 32768 + base.code * 1024 + sc.code * 128 + imm.toNat) = w := Option.some.inj h
  have e : w = ((((((lone.toNat * 2 + 0) * 128 + 35) * 32 + r.code) * 8 + sg.val) * 32 + base.code) * 8 + sc.code) * 128 + imm.toNat := by omega
  clear h
  have e0 : fld w 18 5 = r.code := fld_of e (fld_up 7 b4 (fld_up 3 b3 (fld_up 5 b2 (fld_up 3 b1 (fld_here 5 b0)))))
  have e1 : fld w 10 5 = base.code := fld_of e (fld_up 7 b4 (fld_up 3 b3 (fld_here 5 b2)))
  have e2 : fld w 7 3 = sc.code := fld_of e (fld_up 7 b4 (fld_here 3 b3))
  have e3 : finF w 15 3 = sg := finF_eq (fld_of e (fld_up 7 b4 (fld_up 3 b3 (fld_up 5 b2 (fld_here 3 b1)))))
  have e4 : bitsF w 0 7 = imm := bitsF_eq (fld_of e (fld_here 7 b4))
  refine decode_of_map hw (k := 0) (op := 35)
    (fld_of e (fld_up 7 b4 (fld_up 3 b3 (fld_up 5 b2 (fld_up 3 b1 (fld_up 5 b0 (fld_up 7 (by decide) (fld_here 1 (by decide)))))))))
    (fld_of e (fld_up 7 b4 (fld_up 3 b3 (fld_up 5 b2 (fld_up 3 b1 (fld_up 5 b0 (fld_here 7 (by decide)))))))) ?_
  simp [decC_35, e0, e1, e2, e3, e4, regOf_code, scopeOf_code]

theorem fest (full : Bool) (sg : Fin 8) (base : Reg) (sc : Scope) (imm : BitVec 7) : Statement (.fest full sg base sc imm) := by
  intro lone w hw h
  have b0 : 0 < 16 := by decide
  have b1 := toNat_lt_two full
  have b2 := sg.isLt
  have b3 := reg_code_lt base
  have b4 := scope_code_lt sc
  have b5 := imm.isLt
  have h : lone.toNat * 2147483648 + 0 * 1073741824 + 36 * 8388608 + (full.toNat * 262144 + sg.val * 32768 + base.code * 1024 + sc.code * 128 + imm.toNat) = w := Option.some.inj h
  have e : w = (((((((lone.toNat * 2 + 0) * 128 + 36) * 16 + 0) * 2 + full.toNat) * 8 + sg.val) * 32 + base.code) * 8 + sc.code) * 128 + imm.toNat := by omega
  clear h
  have e0 : fld w 19 4 = 0 := fld_of e (fld_up 7 b5 (fld_up 3 b4 (fld_up 5 b3 (fld_up 3 b2 (fld_up 1 b1 (fld_here 4 b0))))))
  have e1 : fld w 10 5 = base.code := fld_of e (fld_up 7 b5 (fld_up 3 b4 (fld_here 5 b3)))
  have e2 : fld w 7 3 = sc.code := fld_of e (fld_up 7 b5 (fld_here 3 b4))
  have e3 : bitF w 18 = full := bitF_eq (fld_of e (fld_up 7 b5 (fld_up 3 b4 (fld_up 5 b3 (fld_up 3 b2 (fld_here 1 b1))))))
  have e4 : finF w 15 3 = sg := finF_eq (fld_of e (fld_up 7 b5 (fld_up 3 b4 (fld_up 5 b3 (fld_here 3 b2)))))
  have e5 : bitsF w 0 7 = imm := bitsF_eq (fld_of e (fld_here 7 b5))
  refine decode_of_map hw (k := 0) (op := 36)
    (fld_of e (fld_up 7 b5 (fld_up 3 b4 (fld_up 5 b3 (fld_up 3 b2 (fld_up 1 b1 (fld_up 4 b0 (fld_up 7 (by decide) (fld_here 1 (by decide))))))))))
    (fld_of e (fld_up 7 b5 (fld_up 3 b4 (fld_up 5 b3 (fld_up 3 b2 (fld_up 1 b1 (fld_up 4 b0 (fld_here 7 (by decide))))))))) ?_
  simp [decC_36, e0, e1, e2, e3, e4, e5, regOf_code, scopeOf_code]

theorem st4 (r : Reg) (sg : Fin 8) (base : Reg) (hi : Bool) (imm : BitVec 7) : Statement (.st4 r sg base hi imm) := by
  intro lone w hw h
  have b0 := reg_code_lt r
  have b1 := sg.isLt
  have b2 := reg_code_lt base
  have b3 : 0 < 4 := by decide
  have b4 := toNat_lt_two hi
  have b5 := imm.isLt
  have h : lone.toNat * 2147483648 + 0 * 1073741824 + 37 * 8388608 + (r.code * 262144 + sg.val * 32768 + base.code * 1024 + hi.toNat * 128 + imm.toNat) = w := Option.some.inj h
  have e : w = (((((((lone.toNat * 2 + 0) * 128 + 37) * 32 + r.code) * 8 + sg.val) * 32 + base.code) * 4 + 0) * 2 + hi.toNat) * 128 + imm.toNat := by omega
  clear h
  have e0 : fld w 8 2 = 0 := fld_of e (fld_up 7 b5 (fld_up 1 b4 (fld_here 2 b3)))
  have e1 : fld w 18 5 = r.code := fld_of e (fld_up 7 b5 (fld_up 1 b4 (fld_up 2 b3 (fld_up 5 b2 (fld_up 3 b1 (fld_here 5 b0))))))
  have e2 : fld w 10 5 = base.code := fld_of e (fld_up 7 b5 (fld_up 1 b4 (fld_up 2 b3 (fld_here 5 b2))))
  have e3 : finF w 15 3 = sg := finF_eq (fld_of e (fld_up 7 b5 (fld_up 1 b4 (fld_up 2 b3 (fld_up 5 b2 (fld_here 3 b1))))))
  have e4 : bitF w 7 = hi := bitF_eq (fld_of e (fld_up 7 b5 (fld_here 1 b4)))
  have e5 : bitsF w 0 7 = imm := bitsF_eq (fld_of e (fld_here 7 b5))
  refine decode_of_map hw (k := 0) (op := 37)
    (fld_of e (fld_up 7 b5 (fld_up 1 b4 (fld_up 2 b3 (fld_up 5 b2 (fld_up 3 b1 (fld_up 5 b0 (fld_up 7 (by decide) (fld_here 1 (by decide))))))))))
    (fld_of e (fld_up 7 b5 (fld_up 1 b4 (fld_up 2 b3 (fld_up 5 b2 (fld_up 3 b1 (fld_up 5 b0 (fld_here 7 (by decide))))))))) ?_
  simp [decC_37, e0, e1, e2, e3, e4, e5, regOf_code]

theorem aqPush (sg : Fin 8) (base : Reg) (sz : Size) (x : Bool) (imm : BitVec 7) : Statement (.aqPush sg base sz x imm) := by
  intro lone w hw h
  have b0 : 0 < 32 := by decide
  have b1 := sg.isLt
  have b2 := reg_code_lt base
  have b3 := size_code_lt sz
  have b4 := toNat_lt_two x
  have b5 := imm.isLt
  have h : lone.toNat * 2147483648 + 0 * 1073741824 + 40 * 8388608 + (sg.val * 32768 + base.code * 1024 + sz.code * 256 + x.toNat * 128 + imm.toNat) = w := Option.some.inj h
  have e : w = (((((((lone.toNat * 2 + 0) * 128 + 40) * 32 + 0) * 8 + sg.val) * 32 + base.code) * 4 + sz.code) * 2 + x.toNat) * 128 + imm.toNat := by omega
  clear h
  have e0 : fld w 18 5 = 0 := fld_of e (fld_up 7 b5 (fld_up 1 b4 (fld_up 2 b3 (fld_up 5 b2 (fld_up 3 b1 (fld_here 5 b0))))))
  have e1 : fld w 10 5 = base.code := fld_of e (fld_up 7 b5 (fld_up 1 b4 (fld_up 2 b3 (fld_here 5 b2))))
  have e2 : fld w 8 2 = sz.code := fld_of e (fld_up 7 b5 (fld_up 1 b4 (fld_here 2 b3)))
  have e3 : finF w 15 3 = sg := finF_eq (fld_of e (fld_up 7 b5 (fld_up 1 b4 (fld_up 2 b3 (fld_up 5 b2 (fld_here 3 b1))))))
  have e4 : bitF w 7 = x := bitF_eq (fld_of e (fld_up 7 b5 (fld_here 1 b4)))
  have e5 : bitsF w 0 7 = imm := bitsF_eq (fld_of e (fld_here 7 b5))
  refine decode_of_map hw (k := 0) (op := 40)
    (fld_of e (fld_up 7 b5 (fld_up 1 b4 (fld_up 2 b3 (fld_up 5 b2 (fld_up 3 b1 (fld_up 5 b0 (fld_up 7 (by decide) (fld_here 1 (by decide))))))))))
    (fld_of e (fld_up 7 b5 (fld_up 1 b4 (fld_up 2 b3 (fld_up 5 b2 (fld_up 3 b1 (fld_up 5 b0 (fld_here 7 (by decide))))))))) ?_
  simp [decC_40, e0, e1, e2, e3, e4, e5, regOf_code, sizeOf_code]

theorem aqList (r : Reg) (sg : Fin 8) (base : Reg) (sz : Size) (x : Bool) (imm : BitVec 7) : Statement (.aqList r sg base sz x imm) := by
  intro lone w hw h
  have b0 := reg_code_lt r
  have b1 := sg.isLt
  have b2 := reg_code_lt base
  have b3 := size_code_lt sz
  have b4 := toNat_lt_two x
  have b5 := imm.isLt
  have h : lone.toNat * 2147483648 + 0 * 1073741824 + 41 * 8388608 + (r.code * 262144 + sg.val * 32768 + base.code * 1024 + sz.code * 256 + x.toNat * 128 + imm.toNat) = w := Option.some.inj h
  have e : w = (((((((lone.toNat * 2 + 0) * 128 + 41) * 32 + r.code) * 8 + sg.val) * 32 + base.code) * 4 + sz.code) * 2 + x.toNat) * 128 + imm.toNat := by omega
  clear h
  have e0 : fld w 18 5 = r.code := fld_of e (fld_up 7 b5 (fld_up 1 b4 (fld_up 2 b3 (fld_up 5 b2 (fld_up 3 b1 (fld_here 5 b0))))))
  have e1 : fld w 10 5 = base.code := fld_of e (fld_up 7 b5 (fld_up 1 b4 (fld_up 2 b3 (fld_here 5 b2))))
  have e2 : fld w 8 2 = sz.code := fld_of e (fld_up 7 b5 (fld_up 1 b4 (fld_here 2 b3)))
  have e3 : finF w 15 3 = sg := finF_eq (fld_of e (fld_up 7 b5 (fld_up 1 b4 (fld_up 2 b3 (fld_up 5 b2 (fld_here 3 b1))))))
  have e4 : bitF w 7 = x := bitF_eq (fld_of e (fld_up 7 b5 (fld_here 1 b4)))
  have e5 : bitsF w 0 7 = imm := bitsF_eq (fld_of e (fld_here 7 b5))
  refine decode_of_map hw (k := 0) (op := 41)
    (fld_of e (fld_up 7 b5 (fld_up 1 b4 (fld_up 2 b3 (fld_up 5 b2 (fld_up 3 b1 (fld_up 5 b0 (fld_up 7 (by decide) (fld_here 1 (by decide))))))))))
    (fld_of e (fld_up 7 b5 (fld_up 1 b4 (fld_up 2 b3 (fld_up 5 b2 (fld_up 3 b1 (fld_up 5 b0 (fld_here 7 (by decide))))))))) ?_
  simp [decC_41, e0, e1, e2, e3, e4, e5, regOf_code, sizeOf_code]

theorem dqPop (d : Reg) (two : Bool) : Statement (.dqPop d two) := by
  intro lone w hw h
  have b0 := reg_code_lt d
  have b1 : 0 < 32 := by decide
  have b2 : 0 < 32 := by decide
  have b3 : 0 < 128 := by decide
  have b4 := toNat_lt_two two
  have h : lone.toNat * 2147483648 + 0 * 1073741824 + 42 * 8388608 + (d.code * 262144 + two.toNat) = w := Option.some.inj h
  have e : w = ((((((lone.toNat * 2 + 0) * 128 + 42) * 32 + d.code) * 32 + 0) * 32 + 0) * 128 + 0) * 2 + two.toNat := by omega
  clear h
  have e0 : fld w 13 5 = 0 := fld_of e (fld_up 1 b4 (fld_up 7 b3 (fld_up 5 b2 (fld_here 5 b1))))
  have e1 : fld w 8 5 = 0 := fld_of e (fld_up 1 b4 (fld_up 7 b3 (fld_here 5 b2)))
  have e2 : fld w 1 7 = 0 := fld_of e (fld_up 1 b4 (fld_here 7 b3))
  have e3 : fld w 18 5 = d.code := fld_of e (fld_up 1 b4 (fld_up 7 b3 (fld_up 5 b2 (fld_up 5 b1 (fld_here 5 b0)))))
  have e4 : bitF w 0 = two := bitF_eq (fld_of e (fld_here 1 b4))
  refine decode_of_map hw (k := 0) (op := 42)
    (fld_of e (fld_up 1 b4 (fld_up 7 b3 (fld_up 5 b2 (fld_up 5 b1 (fld_up 5 b0 (fld_up 7 (by decide) (fld_here 1 (by decide)))))))))
    (fld_of e (fld_up 1 b4 (fld_up 7 b3 (fld_up 5 b2 (fld_up 5 b1 (fld_up 5 b0 (fld_here 7 (by decide)))))))) ?_
  simp [decC_42, e0, e1, e2, e3, e4, regOf_code]

theorem dqCnt (d : Reg) : Statement (.dqCnt d) := by
  intro lone w hw h
  have b0 := reg_code_lt d
  have b1 : 0 < 262144 := by decide
  have h : lone.toNat * 2147483648 + 0 * 1073741824 + 43 * 8388608 + (d.code * 262144) = w := Option.some.inj h
  have e : w = (((lone.toNat * 2 + 0) * 128 + 43) * 32 + d.code) * 262144 + 0 := by omega
  clear h
  have e0 : fld w 0 18 = 0 := fld_of e (fld_here 18 b1)
  have e1 : fld w 18 5 = d.code := fld_of e (fld_up 18 b1 (fld_here 5 b0))
  refine decode_of_map hw (k := 0) (op := 43)
    (fld_of e (fld_up 18 b1 (fld_up 5 b0 (fld_up 7 (by decide) (fld_here 1 (by decide))))))
    (fld_of e (fld_up 18 b1 (fld_up 5 b0 (fld_here 7 (by decide))))) ?_
  simp [decC_43, e0, e1, regOf_code]

theorem spawn (d : Reg) (a : Reg) (imm : BitVec 13) : Statement (.spawn d a imm) := by
  intro lone w hw h
  have b0 := reg_code_lt d
  have b1 := reg_code_lt a
  have b2 := imm.isLt
  have h : lone.toNat * 2147483648 + 0 * 1073741824 + 44 * 8388608 + (d.code * 262144 + a.code * 8192 + imm.toNat) = w := Option.some.inj h
  have e : w = ((((lone.toNat * 2 + 0) * 128 + 44) * 32 + d.code) * 32 + a.code) * 8192 + imm.toNat := by omega
  clear h
  have e0 : fld w 18 5 = d.code := fld_of e (fld_up 13 b2 (fld_up 5 b1 (fld_here 5 b0)))
  have e1 : fld w 13 5 = a.code := fld_of e (fld_up 13 b2 (fld_here 5 b1))
  have e2 : bitsF w 0 13 = imm := bitsF_eq (fld_of e (fld_here 13 b2))
  refine decode_of_map hw (k := 0) (op := 44)
    (fld_of e (fld_up 13 b2 (fld_up 5 b1 (fld_up 5 b0 (fld_up 7 (by decide) (fld_here 1 (by decide)))))))
    (fld_of e (fld_up 13 b2 (fld_up 5 b1 (fld_up 5 b0 (fld_here 7 (by decide)))))) ?_
  simp [decC_44, e0, e1, e2, regOf_code]

theorem migr (d : Reg) (a : Reg) : Statement (.migr d a) := by
  intro lone w hw h
  have b0 := reg_code_lt d
  have b1 := reg_code_lt a
  have b2 : 0 < 8192 := by decide
  have h : lone.toNat * 2147483648 + 0 * 1073741824 + 45 * 8388608 + (d.code * 262144 + a.code * 8192) = w := Option.some.inj h
  have e : w = ((((lone.toNat * 2 + 0) * 128 + 45) * 32 + d.code) * 32 + a.code) * 8192 + 0 := by omega
  clear h
  have e0 : fld w 0 13 = 0 := fld_of e (fld_here 13 b2)
  have e1 : fld w 18 5 = d.code := fld_of e (fld_up 13 b2 (fld_up 5 b1 (fld_here 5 b0)))
  have e2 : fld w 13 5 = a.code := fld_of e (fld_up 13 b2 (fld_here 5 b1))
  refine decode_of_map hw (k := 0) (op := 45)
    (fld_of e (fld_up 13 b2 (fld_up 5 b1 (fld_up 5 b0 (fld_up 7 (by decide) (fld_here 1 (by decide)))))))
    (fld_of e (fld_up 13 b2 (fld_up 5 b1 (fld_up 5 b0 (fld_here 7 (by decide)))))) ?_
  simp [decC_45, e0, e1, e2, regOf_code]

theorem send (d : Reg) (a : Reg) (b : Reg) (n : BitVec 2) : Statement (.send d a b n) := by
  intro lone w hw h
  have b0 := reg_code_lt d
  have b1 := reg_code_lt a
  have b2 := reg_code_lt b
  have b3 : 0 < 64 := by decide
  have b4 := n.isLt
  have h : lone.toNat * 2147483648 + 0 * 1073741824 + 46 * 8388608 + (d.code * 262144 + a.code * 8192 + b.code * 256 + n.toNat) = w := Option.some.inj h
  have e : w = ((((((lone.toNat * 2 + 0) * 128 + 46) * 32 + d.code) * 32 + a.code) * 32 + b.code) * 64 + 0) * 4 + n.toNat := by omega
  clear h
  have e0 : fld w 2 6 = 0 := fld_of e (fld_up 2 b4 (fld_here 6 b3))
  have e1 : fld w 18 5 = d.code := fld_of e (fld_up 2 b4 (fld_up 6 b3 (fld_up 5 b2 (fld_up 5 b1 (fld_here 5 b0)))))
  have e2 : fld w 13 5 = a.code := fld_of e (fld_up 2 b4 (fld_up 6 b3 (fld_up 5 b2 (fld_here 5 b1))))
  have e3 : fld w 8 5 = b.code := fld_of e (fld_up 2 b4 (fld_up 6 b3 (fld_here 5 b2)))
  have e4 : bitsF w 0 2 = n := bitsF_eq (fld_of e (fld_here 2 b4))
  have e5 : fld w 3 5 = 0 := by unfold fld; omega
  have e6 : fld w 2 1 = 0 := by unfold fld; omega
  refine decode_of_map hw (k := 0) (op := 46)
    (fld_of e (fld_up 2 b4 (fld_up 6 b3 (fld_up 5 b2 (fld_up 5 b1 (fld_up 5 b0 (fld_up 7 (by decide) (fld_here 1 (by decide)))))))))
    (fld_of e (fld_up 2 b4 (fld_up 6 b3 (fld_up 5 b2 (fld_up 5 b1 (fld_up 5 b0 (fld_here 7 (by decide)))))))) ?_
  simp [decC_46, e0, e1, e2, e3, e4, e5, e6, regOf_code]

theorem sendQ (d : Reg) (a : Reg) (b : Reg) (n : BitVec 2) : Statement (.sendQ d a b n) := by
  intro lone w hw h
  have b0 := reg_code_lt d
  have b1 := reg_code_lt a
  have b2 := reg_code_lt b
  have b3 : 0 < 32 := by decide
  have b4 : 1 < 2 := by decide
  have b5 := n.isLt
  have h : lone.toNat * 2147483648 + 0 * 1073741824 + 46 * 8388608 + (d.code * 262144 + a.code * 8192 + b.code * 256 + 4 + n.toNat) = w := Option.some.inj h
  have e : w = (((((((lone.toNat * 2 + 0) * 128 + 46) * 32 + d.code) * 32 + a.code) * 32 + b.code) * 32 + 0) * 2 + 1) * 4 + n.toNat := by omega
  clear h
  have e0 : fld w 2 6 = 1 := by unfold fld; omega
  have e1 : fld w 18 5 = d.code := fld_of e (fld_up 2 b5 (fld_up 1 b4 (fld_up 5 b3 (fld_up 5 b2 (fld_up 5 b1 (fld_here 5 b0))))))
  have e2 : fld w 13 5 = a.code := fld_of e (fld_up 2 b5 (fld_up 1 b4 (fld_up 5 b3 (fld_up 5 b2 (fld_here 5 b1)))))
  have e3 : fld w 8 5 = b.code := fld_of e (fld_up 2 b5 (fld_up 1 b4 (fld_up 5 b3 (fld_here 5 b2))))
  have e4 : bitsF w 0 2 = n := bitsF_eq (fld_of e (fld_here 2 b5))
  have e5 : fld w 3 5 = 0 := fld_of e (fld_up 2 b5 (fld_up 1 b4 (fld_here 5 b3)))
  have e6 : fld w 2 1 = 1 := fld_of e (fld_up 2 b5 (fld_here 1 b4))
  refine decode_of_map hw (k := 0) (op := 46)
    (fld_of e (fld_up 2 b5 (fld_up 1 b4 (fld_up 5 b3 (fld_up 5 b2 (fld_up 5 b1 (fld_up 5 b0 (fld_up 7 (by decide) (fld_here 1 (by decide))))))))))
    (fld_of e (fld_up 2 b5 (fld_up 1 b4 (fld_up 5 b3 (fld_up 5 b2 (fld_up 5 b1 (fld_up 5 b0 (fld_here 7 (by decide))))))))) ?_
  simp [decC_46, e0, e1, e2, e3, e4, e5, e6, regOf_code]

theorem sendR (d : Reg) (b : Reg) : Statement (.sendR d b) := by
  intro lone w hw h
  have b0 := reg_code_lt d
  have b1 : 0 < 32 := by decide
  have b2 := reg_code_lt b
  have b3 : 8 < 256 := by decide
  have h : lone.toNat * 2147483648 + 0 * 1073741824 + 46 * 8388608 + (d.code * 262144 + b.code * 256 + 8) = w := Option.some.inj h
  have e : w = (((((lone.toNat * 2 + 0) * 128 + 46) * 32 + d.code) * 32 + 0) * 32 + b.code) * 256 + 8 := by omega
  clear h
  have e0 : fld w 2 6 = 2 := by unfold fld; omega
  have e1 : fld w 18 5 = d.code := fld_of e (fld_up 8 b3 (fld_up 5 b2 (fld_up 5 b1 (fld_here 5 b0))))
  have e2 : fld w 13 5 = 0 := fld_of e (fld_up 8 b3 (fld_up 5 b2 (fld_here 5 b1)))
  have e3 : fld w 8 5 = b.code := fld_of e (fld_up 8 b3 (fld_here 5 b2))
  have e4 : fld w 3 5 = 1 := by unfold fld; omega
  have e5 : fld w 2 1 = 0 := by unfold fld; omega
  have e6 : fld w 0 8 = 8 := fld_of e (fld_here 8 b3)
  refine decode_of_map hw (k := 0) (op := 46)
    (fld_of e (fld_up 8 b3 (fld_up 5 b2 (fld_up 5 b1 (fld_up 5 b0 (fld_up 7 (by decide) (fld_here 1 (by decide))))))))
    (fld_of e (fld_up 8 b3 (fld_up 5 b2 (fld_up 5 b1 (fld_up 5 b0 (fld_here 7 (by decide))))))) ?_
  simp [decC_46, e0, e1, e2, e3, e4, e5, e6, regOf_code]

theorem rqPush (n : BitVec 3) : Statement (.rqPush n) := by
  intro lone w hw h
  have b0 := n.isLt
  have b1 : 0 < 1048576 := by decide
  have h : lone.toNat * 2147483648 + 0 * 1073741824 + 48 * 8388608 + (n.toNat * 1048576) = w := Option.some.inj h
  have e : w = (((lone.toNat * 2 + 0) * 128 + 48) * 8 + n.toNat) * 1048576 + 0 := by omega
  clear h
  have e0 : fld w 0 20 = 0 := fld_of e (fld_here 20 b1)
  have e1 : bitsF w 20 3 = n := bitsF_eq (fld_of e (fld_up 20 b1 (fld_here 3 b0)))
  refine decode_of_map hw (k := 0) (op := 48)
    (fld_of e (fld_up 20 b1 (fld_up 3 b0 (fld_up 7 (by decide) (fld_here 1 (by decide))))))
    (fld_of e (fld_up 20 b1 (fld_up 3 b0 (fld_here 7 (by decide))))) ?_
  simp [decC_48, e0, e1]

theorem rqTry (d : Reg) (n : BitVec 2) : Statement (.rqTry d n) := by
  intro lone w hw h
  have b0 := reg_code_lt d
  have b1 : 0 < 65536 := by decide
  have b2 := n.isLt
  have h : lone.toNat * 2147483648 + 0 * 1073741824 + 49 * 8388608 + (d.code * 262144 + n.toNat) = w := Option.some.inj h
  have e : w = ((((lone.toNat * 2 + 0) * 128 + 49) * 32 + d.code) * 65536 + 0) * 4 + n.toNat := by omega
  clear h
  have e0 : fld w 2 16 = 0 := fld_of e (fld_up 2 b2 (fld_here 16 b1))
  have e1 : fld w 18 5 = d.code := fld_of e (fld_up 2 b2 (fld_up 16 b1 (fld_here 5 b0)))
  have e2 : bitsF w 0 2 = n := bitsF_eq (fld_of e (fld_here 2 b2))
  refine decode_of_map hw (k := 0) (op := 49)
    (fld_of e (fld_up 2 b2 (fld_up 16 b1 (fld_up 5 b0 (fld_up 7 (by decide) (fld_here 1 (by decide)))))))
    (fld_of e (fld_up 2 b2 (fld_up 16 b1 (fld_up 5 b0 (fld_here 7 (by decide)))))) ?_
  simp [decC_49, e0, e1, e2, regOf_code]

theorem rqStat (d : Reg) (a : Reg) (k : BitVec 3) : Statement (.rqStat d a k) := by
  intro lone w hw h
  have b0 := reg_code_lt d
  have b1 := reg_code_lt a
  have b2 : 0 < 1024 := by decide
  have b3 := k.isLt
  have h : lone.toNat * 2147483648 + 0 * 1073741824 + 50 * 8388608 + (d.code * 262144 + a.code * 8192 + k.toNat) = w := Option.some.inj h
  have e : w = (((((lone.toNat * 2 + 0) * 128 + 50) * 32 + d.code) * 32 + a.code) * 1024 + 0) * 8 + k.toNat := by omega
  clear h
  have e0 : fld w 3 10 = 0 := fld_of e (fld_up 3 b3 (fld_here 10 b2))
  have e1 : fld w 18 5 = d.code := fld_of e (fld_up 3 b3 (fld_up 10 b2 (fld_up 5 b1 (fld_here 5 b0))))
  have e2 : fld w 13 5 = a.code := fld_of e (fld_up 3 b3 (fld_up 10 b2 (fld_here 5 b1)))
  have e3 : bitsF w 0 3 = k := bitsF_eq (fld_of e (fld_here 3 b3))
  refine decode_of_map hw (k := 0) (op := 50)
    (fld_of e (fld_up 3 b3 (fld_up 10 b2 (fld_up 5 b1 (fld_up 5 b0 (fld_up 7 (by decide) (fld_here 1 (by decide))))))))
    (fld_of e (fld_up 3 b3 (fld_up 10 b2 (fld_up 5 b1 (fld_up 5 b0 (fld_here 7 (by decide))))))) ?_
  simp [decC_50, e0, e1, e2, e3, regOf_code]

theorem tlaunch (d : Reg) (a : Reg) (sg : Fin 8) : Statement (.tlaunch d a sg) := by
  intro lone w hw h
  have b0 := reg_code_lt d
  have b1 := reg_code_lt a
  have b2 : 0 < 1024 := by decide
  have b3 := sg.isLt
  have h : lone.toNat * 2147483648 + 0 * 1073741824 + 51 * 8388608 + (d.code * 262144 + a.code * 8192 + sg.val) = w := Option.some.inj h
  have e : w = (((((lone.toNat * 2 + 0) * 128 + 51) * 32 + d.code) * 32 + a.code) * 1024 + 0) * 8 + sg.val := by omega
  clear h
  have e0 : fld w 3 10 = 0 := fld_of e (fld_up 3 b3 (fld_here 10 b2))
  have e1 : fld w 18 5 = d.code := fld_of e (fld_up 3 b3 (fld_up 10 b2 (fld_up 5 b1 (fld_here 5 b0))))
  have e2 : fld w 13 5 = a.code := fld_of e (fld_up 3 b3 (fld_up 10 b2 (fld_here 5 b1)))
  have e3 : finF w 0 3 = sg := finF_eq (fld_of e (fld_here 3 b3))
  refine decode_of_map hw (k := 0) (op := 51)
    (fld_of e (fld_up 3 b3 (fld_up 10 b2 (fld_up 5 b1 (fld_up 5 b0 (fld_up 7 (by decide) (fld_here 1 (by decide))))))))
    (fld_of e (fld_up 3 b3 (fld_up 10 b2 (fld_up 5 b1 (fld_up 5 b0 (fld_here 7 (by decide))))))) ?_
  simp [decC_51, e0, e1, e2, e3, regOf_code]

theorem twait (d : Reg) (a : Reg) : Statement (.twait d a) := by
  intro lone w hw h
  have b0 := reg_code_lt d
  have b1 := reg_code_lt a
  have b2 : 0 < 8192 := by decide
  have h : lone.toNat * 2147483648 + 0 * 1073741824 + 53 * 8388608 + (d.code * 262144 + a.code * 8192) = w := Option.some.inj h
  have e : w = ((((lone.toNat * 2 + 0) * 128 + 53) * 32 + d.code) * 32 + a.code) * 8192 + 0 := by omega
  clear h
  have e0 : fld w 0 13 = 0 := fld_of e (fld_here 13 b2)
  have e1 : fld w 18 5 = d.code := fld_of e (fld_up 13 b2 (fld_up 5 b1 (fld_here 5 b0)))
  have e2 : fld w 13 5 = a.code := fld_of e (fld_up 13 b2 (fld_here 5 b1))
  refine decode_of_map hw (k := 0) (op := 53)
    (fld_of e (fld_up 13 b2 (fld_up 5 b1 (fld_up 5 b0 (fld_up 7 (by decide) (fld_here 1 (by decide)))))))
    (fld_of e (fld_up 13 b2 (fld_up 5 b1 (fld_up 5 b0 (fld_here 7 (by decide)))))) ?_
  simp [decC_53, e0, e1, e2, regOf_code]

theorem segld (a : Reg) (k : Fin 8) : Statement (.segld a k) := by
  intro lone w hw h
  have b0 : 0 < 32 := by decide
  have b1 := reg_code_lt a
  have b2 : 0 < 1024 := by decide
  have b3 := k.isLt
  have h : lone.toNat * 2147483648 + 0 * 1073741824 + 56 * 8388608 + (a.code * 8192 + k.val) = w := Option.some.inj h
  have e : w = (((((lone.toNat * 2 + 0) * 128 + 56) * 32 + 0) * 32 + a.code) * 1024 + 0) * 8 + k.val := by omega
  clear h
  have e0 : fld w 18 5 = 0 := fld_of e (fld_up 3 b3 (fld_up 10 b2 (fld_up 5 b1 (fld_here 5 b0))))
  have e1 : fld w 3 10 = 0 := fld_of e (fld_up 3 b3 (fld_here 10 b2))
  have e2 : fld w 13 5 = a.code := fld_of e (fld_up 3 b3 (fld_up 10 b2 (fld_here 5 b1)))
  have e3 : finF w 0 3 = k := finF_eq (fld_of e (fld_here 3 b3))
  refine decode_of_map hw (k := 0) (op := 56)
    (fld_of e (fld_up 3 b3 (fld_up 10 b2 (fld_up 5 b1 (fld_up 5 b0 (fld_up 7 (by decide) (fld_here 1 (by decide))))))))
    (fld_of e (fld_up 3 b3 (fld_up 10 b2 (fld_up 5 b1 (fld_up 5 b0 (fld_here 7 (by decide))))))) ?_
  simp [decC_56, e0, e1, e2, e3, regOf_code]

theorem segrd (d : Reg) (t : Bool) (k : Fin 8) : Statement (.segrd d t k) := by
  intro lone w hw h
  have b0 := reg_code_lt d
  have b1 : 0 < 16384 := by decide
  have b2 := toNat_lt_two t
  have b3 := k.isLt
  have h : lone.toNat * 2147483648 + 0 * 1073741824 + 57 * 8388608 + (d.code * 262144 + t.toNat * 8 + k.val) = w := Option.some.inj h
  have e : w = (((((lone.toNat * 2 + 0) * 128 + 57) * 32 + d.code) * 16384 + 0) * 2 + t.toNat) * 8 + k.val := by omega
  clear h
  have e0 : fld w 4 14 = 0 := fld_of e (fld_up 3 b3 (fld_up 1 b2 (fld_here 14 b1)))
  have e1 : fld w 18 5 = d.code := fld_of e (fld_up 3 b3 (fld_up 1 b2 (fld_up 14 b1 (fld_here 5 b0))))
  have e2 : bitF w 3 = t := bitF_eq (fld_of e (fld_up 3 b3 (fld_here 1 b2)))
  have e3 : finF w 0 3 = k := finF_eq (fld_of e (fld_here 3 b3))
  refine decode_of_map hw (k := 0) (op := 57)
    (fld_of e (fld_up 3 b3 (fld_up 1 b2 (fld_up 14 b1 (fld_up 5 b0 (fld_up 7 (by decide) (fld_here 1 (by decide))))))))
    (fld_of e (fld_up 3 b3 (fld_up 1 b2 (fld_up 14 b1 (fld_up 5 b0 (fld_here 7 (by decide))))))) ?_
  simp [decC_57, e0, e1, e2, e3, regOf_code]

theorem dtld (sg : Fin 8) (base : Reg) (imm : BitVec 7) : Statement (.dtld sg base imm) := by
  intro lone w hw h
  have b0 : 0 < 32 := by decide
  have b1 := sg.isLt
  have b2 := reg_code_lt base
  have b3 : 3 < 4 := by decide
  have b4 : 0 < 2 := by decide
  have b5 := imm.isLt
  have h : lone.toNat * 2147483648 + 0 * 1073741824 + 58 * 8388608 + (sg.val * 32768 + base.code * 1024 + 768 + imm.toNat) = w := Option.some.inj h
  have e : w = (((((((lone.toNat * 2 + 0) * 128 + 58) * 32 + 0) * 8 + sg.val) * 32 + base.code) * 4 + 3) * 2 + 0) * 128 + imm.toNat := by omega
  clear h
  have e0 : fld w 18 5 = 0 := fld_of e (fld_up 7 b5 (fld_up 1 b4 (fld_up 2 b3 (fld_up 5 b2 (fld_up 3 b1 (fld_here 5 b0))))))
  have e1 : fld w 8 2 = 3 := fld_of e (fld_up 7 b5 (fld_up 1 b4 (fld_here 2 b3)))
  have e2 : fld w 7 1 = 0 := fld_of e (fld_up 7 b5 (fld_here 1 b4))
  have e3 : fld w 10 5 = base.code := fld_of e (fld_up 7 b5 (fld_up 1 b4 (fld_up 2 b3 (fld_here 5 b2))))
  have e4 : finF w 15 3 = sg := finF_eq (fld_of e (fld_up 7 b5 (fld_up 1 b4 (fld_up 2 b3 (fld_up 5 b2 (fld_here 3 b1))))))
  have e5 : bitsF w 0 7 = imm := bitsF_eq (fld_of e (fld_here 7 b5))
  refine decode_of_map hw (k := 0) (op := 58)
    (fld_of e (fld_up 7 b5 (fld_up 1 b4 (fld_up 2 b3 (fld_up 5 b2 (fld_up 3 b1 (fld_up 5 b0 (fld_up 7 (by decide) (fld_here 1 (by decide))))))))))
    (fld_of e (fld_up 7 b5 (fld_up 1 b4 (fld_up 2 b3 (fld_up 5 b2 (fld_up 3 b1 (fld_up 5 b0 (fld_here 7 (by decide))))))))) ?_
  simp [decC_58, e0, e1, e2, e3, e4, e5, regOf_code]

theorem tbld (r : Reg) (sg : Fin 8) (base : Reg) (imm : BitVec 7) : Statement (.tbld r sg base imm) := by
  intro lone w hw h
  have b0 := reg_code_lt r
  have b1 := sg.isLt
  have b2 := reg_code_lt base
  have b3 : 3 < 4 := by decide
  have b4 : 0 < 2 := by decide
  have b5 := imm.isLt
  have h : lone.toNat * 2147483648 + 0 * 1073741824 + 59 * 8388608 + (r.code * 262144 + sg.val * 32768 + base.code * 1024 + 768 + imm.toNat) = w := Option.some.inj h
  have e : w = (((((((lone.toNat * 2 + 0) * 128 + 59) * 32 + r.code) * 8 + sg.val) * 32 + base.code) * 4 + 3) * 2 + 0) * 128 + imm.toNat := by omega
  clear h
  have e0 : fld w 8 2 = 3 := fld_of e (fld_up 7 b5 (fld_up 1 b4 (fld_here 2 b3)))
  have e1 : fld w 7 1 = 0 := fld_of e (fld_up 7 b5 (fld_here 1 b4))
  have e2 : fld w 18 5 = r.code := fld_of e (fld_up 7 b5 (fld_up 1 b4 (fld_up 2 b3 (fld_up 5 b2 (fld_up 3 b1 (fld_here 5 b0))))))
  have e3 : fld w 10 5 = base.code := fld_of e (fld_up 7 b5 (fld_up 1 b4 (fld_up 2 b3 (fld_here 5 b2))))
  have e4 : finF w 15 3 = sg := finF_eq (fld_of e (fld_up 7 b5 (fld_up 1 b4 (fld_up 2 b3 (fld_up 5 b2 (fld_here 3 b1))))))
  have e5 : bitsF w 0 7 = imm := bitsF_eq (fld_of e (fld_here 7 b5))
  refine decode_of_map hw (k := 0) (op := 59)
    (fld_of e (fld_up 7 b5 (fld_up 1 b4 (fld_up 2 b3 (fld_up 5 b2 (fld_up 3 b1 (fld_up 5 b0 (fld_up 7 (by decide) (fld_here 1 (by decide))))))))))
    (fld_of e (fld_up 7 b5 (fld_up 1 b4 (fld_up 2 b3 (fld_up 5 b2 (fld_up 3 b1 (fld_up 5 b0 (fld_here 7 (by decide))))))))) ?_
  simp [decC_59, e0, e1, e2, e3, e4, e5, regOf_code]

theorem xpld (sg : Fin 8) (base : Reg) (imm : BitVec 7) : Statement (.xpld sg base imm) := by
  intro lone w hw h
  have b0 : 0 < 32 := by decide
  have b1 := sg.isLt
  have b2 := reg_code_lt base
  have b3 : 3 < 4 := by decide
  have b4 : 0 < 2 := by decide
  have b5 := imm.isLt
  have h : lone.toNat * 2147483648 + 0 * 1073741824 + 60 * 8388608 + (sg.val * 32768 + base.code * 1024 + 768 + imm.toNat) = w := Option.some.inj h
  have e : w = (((((((lone.toNat * 2 + 0) * 128 + 60) * 32 + 0) * 8 + sg.val) * 32 + base.code) * 4 + 3) * 2 + 0) * 128 + imm.toNat := by omega
  clear h
  have e0 : fld w 18 5 = 0 := fld_of e (fld_up 7 b5 (fld_up 1 b4 (fld_up 2 b3 (fld_up 5 b2 (fld_up 3 b1 (fld_here 5 b0))))))
  have e1 : fld w 8 2 = 3 := fld_of e (fld_up 7 b5 (fld_up 1 b4 (fld_here 2 b3)))
  have e2 : fld w 7 1 = 0 := fld_of e (fld_up 7 b5 (fld_here 1 b4))
  have e3 : fld w 10 5 = base.code := fld_of e (fld_up 7 b5 (fld_up 1 b4 (fld_up 2 b3 (fld_here 5 b2))))
  have e4 : finF w 15 3 = sg := finF_eq (fld_of e (fld_up 7 b5 (fld_up 1 b4 (fld_up 2 b3 (fld_up 5 b2 (fld_here 3 b1))))))
  have e5 : bitsF w 0 7 = imm := bitsF_eq (fld_of e (fld_here 7 b5))
  refine decode_of_map hw (k := 0) (op := 60)
    (fld_of e (fld_up 7 b5 (fld_up 1 b4 (fld_up 2 b3 (fld_up 5 b2 (fld_up 3 b1 (fld_up 5 b0 (fld_up 7 (by decide) (fld_here 1 (by decide))))))))))
    (fld_of e (fld_up 7 b5 (fld_up 1 b4 (fld_up 2 b3 (fld_up 5 b2 (fld_up 3 b1 (fld_up 5 b0 (fld_here 7 (by decide))))))))) ?_
  simp [decC_60, e0, e1, e2, e3, e4, e5, regOf_code]

theorem gkbind (a : Reg) (b : Reg) (tag : BitVec 6) (ctx : BitVec 3) : Statement (.gkbind a b tag ctx) := by
  intro lone w hw h
  have b0 := reg_code_lt a
  have b1 := reg_code_lt b
  have b2 := tag.isLt
  have b3 := ctx.isLt
  have b4 : 0 < 16 := by decide
  have h : lone.toNat * 2147483648 + 0 * 1073741824 + 61 * 8388608 + (a.code * 262144 + b.code * 8192 + tag.toNat * 128 + ctx.toNat * 16) = w := Option.some.inj h
  have e : w = ((((((lone.toNat * 2 + 0) * 128 + 61) * 32 + a.code) * 32 + b.code) * 64 + tag.toNat) * 8 + ctx.toNat) * 16 + 0 := by omega
  clear h
  have e0 : fld w 0 4 = 0 := fld_of e (fld_here 4 b4)
  have e1 : fld w 18 5 = a.code := fld_of e (fld_up 4 b4 (fld_up 3 b3 (fld_up 6 b2 (fld_up 5 b1 (fld_here 5 b0)))))
  have e2 : fld w 13 5 = b.code := fld_of e (fld_up 4 b4 (fld_up 3 b3 (fld_up 6 b2 (fld_here 5 b1))))
  have e3 : bitsF w 7 6 = tag := bitsF_eq (fld_of e (fld_up 4 b4 (fld_up 3 b3 (fld_here 6 b2))))
  have e4 : bitsF w 4 3 = ctx := bitsF_eq (fld_of e (fld_up 4 b4 (fld_here 3 b3)))
  refine decode_of_map hw (k := 0) (op := 61)
    (fld_of e (fld_up 4 b4 (fld_up 3 b3 (fld_up 6 b2 (fld_up 5 b1 (fld_up 5 b0 (fld_up 7 (by decide) (fld_here 1 (by decide)))))))))
    (fld_of e (fld_up 4 b4 (fld_up 3 b3 (fld_up 6 b2 (fld_up 5 b1 (fld_up 5 b0 (fld_here 7 (by decide)))))))) ?_
  simp [decC_61, e0, e1, e2, e3, e4, regOf_code]

theorem ptinvPage (a : Reg) (b : Reg) (sc : Scope) : Statement (.ptinvPage a b sc) := by
  intro lone w hw h
  have b0 : 0 < 32 := by decide
  have b1 := reg_code_lt a
  have b2 := reg_code_lt b
  have b3 : 0 < 8 := by decide
  have b4 : 0 < 4 := by decide
  have b5 := scope_code_lt sc
  have h : lone.toNat * 2147483648 + 0 * 1073741824 + 62 * 8388608 + (a.code * 8192 + b.code * 256 + sc.code) = w := Option.some.inj h
  have e : w = (((((((lone.toNat * 2 + 0) * 128 + 62) * 32 + 0) * 32 + a.code) * 32 + b.code) * 8 + 0) * 4 + 0) * 8 + sc.code := by omega
  clear h
  have e0 : fld w 18 5 = 0 := fld_of e (fld_up 3 b5 (fld_up 2 b4 (fld_up 3 b3 (fld_up 5 b2 (fld_up 5 b1 (fld_here 5 b0))))))
  have e1 : fld w 5 3 = 0 := fld_of e (fld_up 3 b5 (fld_up 2 b4 (fld_here 3 b3)))
  have e2 : fld w 3 2 = 0 := fld_of e (fld_up 3 b5 (fld_here 2 b4))
  have e3 : fld w 13 5 = a.code := fld_of e (fld_up 3 b5 (fld_up 2 b4 (fld_up 3 b3 (fld_up 5 b2 (fld_here 5 b1)))))
  have e4 : fld w 8 5 = b.code := fld_of e (fld_up 3 b5 (fld_up 2 b4 (fld_up 3 b3 (fld_here 5 b2))))
  have e5 : fld w 0 3 = sc.code := fld_of e (fld_here 3 b5)
  refine decode_of_map hw (k := 0) (op := 62)
    (fld_of e (fld_up 3 b5 (fld_up 2 b4 (fld_up 3 b3 (fld_up 5 b2 (fld_up 5 b1 (fld_up 5 b0 (fld_up 7 (by decide) (fld_here 1 (by decide))))))))))
    (fld_of e (fld_up 3 b5 (fld_up 2 b4 (fld_up 3 b3 (fld_up 5 b2 (fld_up 5 b1 (fld_up 5 b0 (fld_here 7 (by decide))))))))) ?_
  simp [decC_62, e0, e1, e2, e3, e4, e5, regOf_code, scopeOf_code]

theorem ptinvAsid (b : Reg) (sc : Scope) : Statement (.ptinvAsid b sc) := by
  intro lone w hw h
  have b0 : 0 < 32 := by decide
  have b1 : 0 < 32 := by decide
  have b2 := reg_code_lt b
  have b3 : 0 < 8 := by decide
  have b4 : 1 < 4 := by decide
  have b5 := scope_code_lt sc
  have h : lone.toNat * 2147483648 + 0 * 1073741824 + 62 * 8388608 + (b.code * 256 + 8 + sc.code) = w := Option.some.inj h
  have e : w = (((((((lone.toNat * 2 + 0) * 128 + 62) * 32 + 0) * 32 + 0) * 32 + b.code) * 8 + 0) * 4 + 1) * 8 + sc.code := by omega
  clear h
  have e0 : fld w 18 5 = 0 := fld_of e (fld_up 3 b5 (fld_up 2 b4 (fld_up 3 b3 (fld_up 5 b2 (fld_up 5 b1 (fld_here 5 b0))))))
  have e1 : fld w 5 3 = 0 := fld_of e (fld_up 3 b5 (fld_up 2 b4 (fld_here 3 b3)))
  have e2 : fld w 3 2 = 1 := fld_of e (fld_up 3 b5 (fld_here 2 b4))
  have e3 : fld w 13 5 = 0 := fld_of e (fld_up 3 b5 (fld_up 2 b4 (fld_up 3 b3 (fld_up 5 b2 (fld_here 5 b1)))))
  have e4 : fld w 8 5 = b.code := fld_of e (fld_up 3 b5 (fld_up 2 b4 (fld_up 3 b3 (fld_here 5 b2))))
  have e5 : fld w 0 3 = sc.code := fld_of e (fld_here 3 b5)
  refine decode_of_map hw (k := 0) (op := 62)
    (fld_of e (fld_up 3 b5 (fld_up 2 b4 (fld_up 3 b3 (fld_up 5 b2 (fld_up 5 b1 (fld_up 5 b0 (fld_up 7 (by decide) (fld_here 1 (by decide))))))))))
    (fld_of e (fld_up 3 b5 (fld_up 2 b4 (fld_up 3 b3 (fld_up 5 b2 (fld_up 5 b1 (fld_up 5 b0 (fld_here 7 (by decide))))))))) ?_
  simp [decC_62, e0, e1, e2, e3, e4, e5, regOf_code, scopeOf_code]

theorem ptinvAll (sc : Scope) : Statement (.ptinvAll sc) := by
  intro lone w hw h
  have b0 : 0 < 32 := by decide
  have b1 : 0 < 32 := by decide
  have b2 : 0 < 32 := by decide
  have b3 : 0 < 8 := by decide
  have b4 : 2 < 4 := by decide
  have b5 := scope_code_lt sc
  have h : lone.toNat * 2147483648 + 0 * 1073741824 + 62 * 8388608 + (16 + sc.code) = w := Option.some.inj h
  have e : w = (((((((lone.toNat * 2 + 0) * 128 + 62) * 32 + 0) * 32 + 0) * 32 + 0) * 8 + 0) * 4 + 2) * 8 + sc.code := by omega
  clear h
  have e0 : fld w 18 5 = 0 := fld_of e (fld_up 3 b5 (fld_up 2 b4 (fld_up 3 b3 (fld_up 5 b2 (fld_up 5 b1 (fld_here 5 b0))))))
  have e1 : fld w 5 3 = 0 := fld_of e (fld_up 3 b5 (fld_up 2 b4 (fld_here 3 b3)))
  have e2 : fld w 3 2 = 2 := fld_of e (fld_up 3 b5 (fld_here 2 b4))
  have e3 : fld w 13 5 = 0 := fld_of e (fld_up 3 b5 (fld_up 2 b4 (fld_up 3 b3 (fld_up 5 b2 (fld_here 5 b1)))))
  have e4 : fld w 8 5 = 0 := fld_of e (fld_up 3 b5 (fld_up 2 b4 (fld_up 3 b3 (fld_here 5 b2))))
  have e5 : fld w 0 3 = sc.code := fld_of e (fld_here 3 b5)
  refine decode_of_map hw (k := 0) (op := 62)
    (fld_of e (fld_up 3 b5 (fld_up 2 b4 (fld_up 3 b3 (fld_up 5 b2 (fld_up 5 b1 (fld_up 5 b0 (fld_up 7 (by decide) (fld_here 1 (by decide))))))))))
    (fld_of e (fld_up 3 b5 (fld_up 2 b4 (fld_up 3 b3 (fld_up 5 b2 (fld_up 5 b1 (fld_up 5 b0 (fld_here 7 (by decide))))))))) ?_
  simp [decC_62, e0, e1, e2, e3, e4, e5, scopeOf_code]

theorem dwait (k : Fin 8) (imm : BitVec 20) : Statement (.dwait k imm) := by
  intro lone w hw h
  have b0 := k.isLt
  have b1 := imm.isLt
  have h : lone.toNat * 2147483648 + 0 * 1073741824 + 64 * 8388608 + (k.val * 1048576 + imm.toNat) = w := Option.some.inj h
  have e : w = (((lone.toNat * 2 + 0) * 128 + 64) * 8 + k.val) * 1048576 + imm.toNat := by omega
  clear h
  have e0 : finF w 20 3 = k := finF_eq (fld_of e (fld_up 20 b1 (fld_here 3 b0)))
  have e1 : bitsF w 0 20 = imm := bitsF_eq (fld_of e (fld_here 20 b1))
  refine decode_of_map hw (k := 0) (op := 64)
    (fld_of e (fld_up 20 b1 (fld_up 3 b0 (fld_up 7 (by decide) (fld_here 1 (by decide))))))
    (fld_of e (fld_up 20 b1 (fld_up 3 b0 (fld_here 7 (by decide))))) ?_
  simp [decC_64, e0, e1]

theorem await (k : Fin 8) (imm : BitVec 20) : Statement (.await k imm) := by
  intro lone w hw h
  have b0 := k.isLt
  have b1 := imm.isLt
  have h : lone.toNat * 2147483648 + 0 * 1073741824 + 68 * 8388608 + (k.val * 1048576 + imm.toNat) = w := Option.some.inj h
  have e : w = (((lone.toNat * 2 + 0) * 128 + 68) * 8 + k.val) * 1048576 + imm.toNat := by omega
  clear h
  have e0 : finF w 20 3 = k := finF_eq (fld_of e (fld_up 20 b1 (fld_here 3 b0)))
  have e1 : bitsF w 0 20 = imm := bitsF_eq (fld_of e (fld_here 20 b1))
  refine decode_of_map hw (k := 0) (op := 68)
    (fld_of e (fld_up 20 b1 (fld_up 3 b0 (fld_up 7 (by decide) (fld_here 1 (by decide))))))
    (fld_of e (fld_up 20 b1 (fld_up 3 b0 (fld_here 7 (by decide))))) ?_
  simp [decC_68, e0, e1]

theorem dset (k : Fin 8) (a : Reg) : Statement (.dset k a) := by
  intro lone w hw h
  have b0 := k.isLt
  have b1 := reg_code_lt a
  have b2 : 0 < 32768 := by decide
  have h : lone.toNat * 2147483648 + 0 * 1073741824 + 65 * 8388608 + (k.val * 1048576 + a.code * 32768) = w := Option.some.inj h
  have e : w = ((((lone.toNat * 2 + 0) * 128 + 65) * 8 + k.val) * 32 + a.code) * 32768 + 0 := by omega
  clear h
  have e0 : fld w 0 15 = 0 := fld_of e (fld_here 15 b2)
  have e1 : fld w 15 5 = a.code := fld_of e (fld_up 15 b2 (fld_here 5 b1))
  have e2 : finF w 20 3 = k := finF_eq (fld_of e (fld_up 15 b2 (fld_up 5 b1 (fld_here 3 b0))))
  refine decode_of_map hw (k := 0) (op := 65)
    (fld_of e (fld_up 15 b2 (fld_up 5 b1 (fld_up 3 b0 (fld_up 7 (by decide) (fld_here 1 (by decide)))))))
    (fld_of e (fld_up 15 b2 (fld_up 5 b1 (fld_up 3 b0 (fld_here 7 (by decide)))))) ?_
  simp [decC_65, e0, e1, e2, regOf_code]

theorem dadd (k : Fin 8) (a : Reg) : Statement (.dadd k a) := by
  intro lone w hw h
  have b0 := k.isLt
  have b1 := reg_code_lt a
  have b2 : 0 < 32768 := by decide
  have h : lone.toNat * 2147483648 + 0 * 1073741824 + 66 * 8388608 + (k.val * 1048576 + a.code * 32768) = w := Option.some.inj h
  have e : w = ((((lone.toNat * 2 + 0) * 128 + 66) * 8 + k.val) * 32 + a.code) * 32768 + 0 := by omega
  clear h
  have e0 : fld w 0 15 = 0 := fld_of e (fld_here 15 b2)
  have e1 : fld w 15 5 = a.code := fld_of e (fld_up 15 b2 (fld_here 5 b1))
  have e2 : finF w 20 3 = k := finF_eq (fld_of e (fld_up 15 b2 (fld_up 5 b1 (fld_here 3 b0))))
  refine decode_of_map hw (k := 0) (op := 66)
    (fld_of e (fld_up 15 b2 (fld_up 5 b1 (fld_up 3 b0 (fld_up 7 (by decide) (fld_here 1 (by decide)))))))
    (fld_of e (fld_up 15 b2 (fld_up 5 b1 (fld_up 3 b0 (fld_here 7 (by decide)))))) ?_
  simp [decC_66, e0, e1, e2, regOf_code]

theorem acbind (k : Fin 8) (a : Reg) : Statement (.acbind k a) := by
  intro lone w hw h
  have b0 := k.isLt
  have b1 := reg_code_lt a
  have b2 : 0 < 32768 := by decide
  have h : lone.toNat * 2147483648 + 0 * 1073741824 + 67 * 8388608 + (k.val * 1048576 + a.code * 32768) = w := Option.some.inj h
  have e : w = ((((lone.toNat * 2 + 0) * 128 + 67) * 8 + k.val) * 32 + a.code) * 32768 + 0 := by omega
  clear h
  have e0 : fld w 0 15 = 0 := fld_of e (fld_here 15 b2)
  have e1 : fld w 15 5 = a.code := fld_of e (fld_up 15 b2 (fld_here 5 b1))
  have e2 : finF w 20 3 = k := finF_eq (fld_of e (fld_up 15 b2 (fld_up 5 b1 (fld_here 3 b0))))
  refine decode_of_map hw (k := 0) (op := 67)
    (fld_of e (fld_up 15 b2 (fld_up 5 b1 (fld_up 3 b0 (fld_up 7 (by decide) (fld_here 1 (by decide)))))))
    (fld_of e (fld_up 15 b2 (fld_up 5 b1 (fld_up 3 b0 (fld_here 7 (by decide)))))) ?_
  simp [decC_67, e0, e1, e2, regOf_code]

theorem bar (kind : BarKind) (d : Reg) (pd : PReg) : Statement (.bar kind d pd) := by
  intro lone w hw h
  have b0 := barKind_code_lt kind
  have b1 := reg_code_lt d
  have b2 := pd.isLt
  have b3 : 0 < 8192 := by decide
  have h : lone.toNat * 2147483648 + 0 * 1073741824 + 69 * 8388608 + (kind.code * 2097152 + d.code * 65536 + pd.val * 8192) = w := Option.some.inj h
  have e : w = (((((lone.toNat * 2 + 0) * 128 + 69) * 4 + kind.code) * 32 + d.code) * 8 + pd.val) * 8192 + 0 := by omega
  clear h
  have e0 : fld w 0 13 = 0 := fld_of e (fld_here 13 b3)
  have e1 : fld w 21 2 = kind.code := fld_of e (fld_up 13 b3 (fld_up 3 b2 (fld_up 5 b1 (fld_here 2 b0))))
  have e2 : fld w 16 5 = d.code := fld_of e (fld_up 13 b3 (fld_up 3 b2 (fld_here 5 b1)))
  have e3 : finF w 13 3 = pd := finF_eq (fld_of e (fld_up 13 b3 (fld_here 3 b2)))
  refine decode_of_map hw (k := 0) (op := 69)
    (fld_of e (fld_up 13 b3 (fld_up 3 b2 (fld_up 5 b1 (fld_up 2 b0 (fld_up 7 (by decide) (fld_here 1 (by decide))))))))
    (fld_of e (fld_up 13 b3 (fld_up 3 b2 (fld_up 5 b1 (fld_up 2 b0 (fld_here 7 (by decide))))))) ?_
  simp [decC_69, e0, e1, e2, e3, regOf_code, barKindOf_code]

theorem tread (d : Reg) : Statement (.tread d) := by
  intro lone w hw h
  have b0 := reg_code_lt d
  have b1 : 0 < 262144 := by decide
  have h : lone.toNat * 2147483648 + 0 * 1073741824 + 70 * 8388608 + (d.code * 262144) = w := Option.some.inj h
  have e : w = (((lone.toNat * 2 + 0) * 128 + 70) * 32 + d.code) * 262144 + 0 := by omega
  clear h
  have e0 : fld w 0 18 = 0 := fld_of e (fld_here 18 b1)
  have e1 : fld w 18 5 = d.code := fld_of e (fld_up 18 b1 (fld_here 5 b0))
  refine decode_of_map hw (k := 0) (op := 70)
    (fld_of e (fld_up 18 b1 (fld_up 5 b0 (fld_up 7 (by decide) (fld_here 1 (by decide))))))
    (fld_of e (fld_up 18 b1 (fld_up 5 b0 (fld_here 7 (by decide))))) ?_
  simp [decC_70, e0, e1, regOf_code]

theorem erd (d : Reg) (k : BitVec 2) : Statement (.erd d k) := by
  intro lone w hw h
  have b0 := reg_code_lt d
  have b1 : 0 < 65536 := by decide
  have b2 := k.isLt
  have h : lone.toNat * 2147483648 + 0 * 1073741824 + 71 * 8388608 + (d.code * 262144 + k.toNat) = w := Option.some.inj h
  have e : w = ((((lone.toNat * 2 + 0) * 128 + 71) * 32 + d.code) * 65536 + 0) * 4 + k.toNat := by omega
  clear h
  have e0 : fld w 2 16 = 0 := fld_of e (fld_up 2 b2 (fld_here 16 b1))
  have e1 : fld w 18 5 = d.code := fld_of e (fld_up 2 b2 (fld_up 16 b1 (fld_here 5 b0)))
  have e2 : bitsF w 0 2 = k := bitsF_eq (fld_of e (fld_here 2 b2))
  refine decode_of_map hw (k := 0) (op := 71)
    (fld_of e (fld_up 2 b2 (fld_up 16 b1 (fld_up 5 b0 (fld_up 7 (by decide) (fld_here 1 (by decide)))))))
    (fld_of e (fld_up 2 b2 (fld_up 16 b1 (fld_up 5 b0 (fld_here 7 (by decide)))))) ?_
  simp [decC_71, e0, e1, e2, regOf_code]

theorem pcrd (d : Reg) (a : Reg) : Statement (.pcrd d a) := by
  intro lone w hw h
  have b0 := reg_code_lt d
  have b1 := reg_code_lt a
  have b2 : 0 < 8192 := by decide
  have h : lone.toNat * 2147483648 + 0 * 1073741824 + 72 * 8388608 + (d.code * 262144 + a.code * 8192) = w := Option.some.inj h
  have e : w = ((((lone.toNat * 2 + 0) * 128 + 72) * 32 + d.code) * 32 + a.code) * 8192 + 0 := by omega
  clear h
  have e0 : fld w 0 13 = 0 := fld_of e (fld_here 13 b2)
  have e1 : fld w 18 5 = d.code := fld_of e (fld_up 13 b2 (fld_up 5 b1 (fld_here 5 b0)))
  have e2 : fld w 13 5 = a.code := fld_of e (fld_up 13 b2 (fld_here 5 b1))
  refine decode_of_map hw (k := 0) (op := 72)
    (fld_of e (fld_up 13 b2 (fld_up 5 b1 (fld_up 5 b0 (fld_up 7 (by decide) (fld_here 1 (by decide)))))))
    (fld_of e (fld_up 13 b2 (fld_up 5 b1 (fld_up 5 b0 (fld_here 7 (by decide)))))) ?_
  simp [decC_72, e0, e1, e2, regOf_code]

theorem sysrd (r : Reg) (x : SysReg) : Statement (.sysrd r x) := by
  intro lone w hw h
  have b0 := reg_code_lt r
  have b1 := sysReg_code_lt x
  have b2 : 0 < 256 := by decide
  have h : lone.toNat * 2147483648 + 0 * 1073741824 + 80 * 8388608 + (r.code * 262144 + x.code * 256) = w := Option.some.inj h
  have e : w = ((((lone.toNat * 2 + 0) * 128 + 80) * 32 + r.code) * 1024 + x.code) * 256 + 0 := by omega
  clear h
  have e0 : fld w 0 8 = 0 := fld_of e (fld_here 8 b2)
  have e1 : fld w 18 5 = r.code := fld_of e (fld_up 8 b2 (fld_up 10 b1 (fld_here 5 b0)))
  have e2 : fld w 8 10 = x.code := fld_of e (fld_up 8 b2 (fld_here 10 b1))
  refine decode_of_map hw (k := 0) (op := 80)
    (fld_of e (fld_up 8 b2 (fld_up 10 b1 (fld_up 5 b0 (fld_up 7 (by decide) (fld_here 1 (by decide)))))))
    (fld_of e (fld_up 8 b2 (fld_up 10 b1 (fld_up 5 b0 (fld_here 7 (by decide)))))) ?_
  simp [decC_80, e0, e1, e2, regOf_code, sysRegOf_code]

theorem syswr (r : Reg) (x : SysReg) : Statement (.syswr r x) := by
  intro lone w hw h
  have b0 := reg_code_lt r
  have b1 := sysReg_code_lt x
  have b2 : 0 < 256 := by decide
  have h : lone.toNat * 2147483648 + 0 * 1073741824 + 81 * 8388608 + (r.code * 262144 + x.code * 256) = w := Option.some.inj h
  have e : w = ((((lone.toNat * 2 + 0) * 128 + 81) * 32 + r.code) * 1024 + x.code) * 256 + 0 := by omega
  clear h
  have e0 : fld w 0 8 = 0 := fld_of e (fld_here 8 b2)
  have e1 : fld w 18 5 = r.code := fld_of e (fld_up 8 b2 (fld_up 10 b1 (fld_here 5 b0)))
  have e2 : fld w 8 10 = x.code := fld_of e (fld_up 8 b2 (fld_here 10 b1))
  refine decode_of_map hw (k := 0) (op := 81)
    (fld_of e (fld_up 8 b2 (fld_up 10 b1 (fld_up 5 b0 (fld_up 7 (by decide) (fld_here 1 (by decide)))))))
    (fld_of e (fld_up 8 b2 (fld_up 10 b1 (fld_up 5 b0 (fld_here 7 (by decide)))))) ?_
  simp [decC_81, e0, e1, e2, regOf_code, sysRegOf_code]

theorem rndset (d : Reg) (a : Reg) (s : Bool) (m : Bool) (fz : Bool) (rm : BitVec 3) : Statement (.rndset d a s m fz rm) := by
  intro lone w hw h
  have b0 := reg_code_lt d
  have b1 := reg_code_lt a
  have b2 : 0 < 32 := by decide
  have b3 := toNat_lt_two s
  have b4 := toNat_lt_two m
  have b5 : 0 < 4 := by decide
  have b6 := toNat_lt_two fz
  have b7 := rm.isLt
  have h : lone.toNat * 2147483648 + 0 * 1073741824 + 83 * 8388608 + (d.code * 262144 + a.code * 8192 + s.toNat * 128 + m.toNat * 64 + fz.toNat * 8 + rm.toNat) = w := Option.some.inj h
  have e : w = (((((((((lone.toNat * 2 + 0) * 128 + 83) * 32 + d.code) * 32 + a.code) * 32 + 0) * 2 + s.toNat) * 2 + m.toNat) * 4 + 0) * 2 + fz.toNat) * 8 + rm.toNat := by omega
  clear h
  have e0 : fld w 8 5 = 0 := fld_of e (fld_up 3 b7 (fld_up 1 b6 (fld_up 2 b5 (fld_up 1 b4 (fld_up 1 b3 (fld_here 5 b2))))))
  have e1 : fld w 4 2 = 0 := fld_of e (fld_up 3 b7 (fld_up 1 b6 (fld_here 2 b5)))
  have e2 : fld w 18 5 = d.code := fld_of e (fld_up 3 b7 (fld_up 1 b6 (fld_up 2 b5 (fld_up 1 b4 (fld_up 1 b3 (fld_up 5 b2 (fld_up 5 b1 (fld_here 5 b0))))))))
  have e3 : fld w 13 5 = a.code := fld_of e (fld_up 3 b7 (fld_up 1 b6 (fld_up 2 b5 (fld_up 1 b4 (fld_up 1 b3 (fld_up 5 b2 (fld_here 5 b1)))))))
  have e4 : bitF w 7 = s := bitF_eq (fld_of e (fld_up 3 b7 (fld_up 1 b6 (fld_up 2 b5 (fld_up 1 b4 (fld_here 1 b3))))))
  have e5 : bitF w 6 = m := bitF_eq (fld_of e (fld_up 3 b7 (fld_up 1 b6 (fld_up 2 b5 (fld_here 1 b4)))))
  have e6 : bitF w 3 = fz := bitF_eq (fld_of e (fld_up 3 b7 (fld_here 1 b6)))
  have e7 : bitsF w 0 3 = rm := bitsF_eq (fld_of e (fld_here 3 b7))
  refine decode_of_map hw (k := 0) (op := 83)
    (fld_of e (fld_up 3 b7 (fld_up 1 b6 (fld_up 2 b5 (fld_up 1 b4 (fld_up 1 b3 (fld_up 5 b2 (fld_up 5 b1 (fld_up 5 b0 (fld_up 7 (by decide) (fld_here 1 (by decide))))))))))))
    (fld_of e (fld_up 3 b7 (fld_up 1 b6 (fld_up 2 b5 (fld_up 1 b4 (fld_up 1 b3 (fld_up 5 b2 (fld_up 5 b1 (fld_up 5 b0 (fld_here 7 (by decide))))))))))) ?_
  simp [decC_83, e0, e1, e2, e3, e4, e5, e6, e7, regOf_code]

theorem wake (d : Reg) (a : Reg) (skip : Bool) : Statement (.wake d a skip) := by
  intro lone w hw h
  have b0 := reg_code_lt d
  have b1 := reg_code_lt a
  have b2 : 0 < 4096 := by decide
  have b3 := toNat_lt_two skip
  have h : lone.toNat * 2147483648 + 0 * 1073741824 + 86 * 8388608 + (d.code * 262144 + a.code * 8192 + skip.toNat) = w := Option.some.inj h
  have e : w = (((((lone.toNat * 2 + 0) * 128 + 86) * 32 + d.code) * 32 + a.code) * 4096 + 0) * 2 + skip.toNat := by omega
  clear h
  have e0 : fld w 1 12 = 0 := fld_of e (fld_up 1 b3 (fld_here 12 b2))
  have e1 : fld w 18 5 = d.code := fld_of e (fld_up 1 b3 (fld_up 12 b2 (fld_up 5 b1 (fld_here 5 b0))))
  have e2 : fld w 13 5 = a.code := fld_of e (fld_up 1 b3 (fld_up 12 b2 (fld_here 5 b1)))
  have e3 : bitF w 0 = skip := bitF_eq (fld_of e (fld_here 1 b3))
  refine decode_of_map hw (k := 0) (op := 86)
    (fld_of e (fld_up 1 b3 (fld_up 12 b2 (fld_up 5 b1 (fld_up 5 b0 (fld_up 7 (by decide) (fld_here 1 (by decide))))))))
    (fld_of e (fld_up 1 b3 (fld_up 12 b2 (fld_up 5 b1 (fld_up 5 b0 (fld_here 7 (by decide))))))) ?_
  simp [decC_86, e0, e1, e2, e3, regOf_code]

theorem vld (v : VReg) (sg : Fin 8) (base : Reg) (imm : BitVec 10) : Statement (.vld v sg base imm) := by
  intro lone w hw h
  have b0 := v.isLt
  have b1 := sg.isLt
  have b2 := reg_code_lt base
  have b3 := imm.isLt
  have h : lone.toNat * 2147483648 + 0 * 1073741824 + 88 * 8388608 + (v.val * 262144 + sg.val * 32768 + base.code * 1024 + imm.toNat) = w := Option.some.inj h
  have e : w = (((((lone.toNat * 2 + 0) * 128 + 88) * 32 + v.val) * 8 + sg.val) * 32 + base.code) * 1024 + imm.toNat := by omega
  clear h
  have e0 : fld w 10 5 = base.code := fld_of e (fld_up 10 b3 (fld_here 5 b2))
  have e1 : finF w 18 5 = v := finF_eq (fld_of e (fld_up 10 b3 (fld_up 5 b2 (fld_up 3 b1 (fld_here 5 b0)))))
  have e2 : finF w 15 3 = sg := finF_eq (fld_of e (fld_up 10 b3 (fld_up 5 b2 (fld_here 3 b1))))
  have e3 : bitsF w 0 10 = imm := bitsF_eq (fld_of e (fld_here 10 b3))
  refine decode_of_map hw (k := 0) (op := 88)
    (fld_of e (fld_up 10 b3 (fld_up 5 b2 (fld_up 3 b1 (fld_up 5 b0 (fld_up 7 (by decide) (fld_here 1 (by decide))))))))
    (fld_of e (fld_up 10 b3 (fld_up 5 b2 (fld_up 3 b1 (fld_up 5 b0 (fld_here 7 (by decide))))))) ?_
  simp [decC_88, e0, e1, e2, e3, regOf_code]

theorem vst (v : VReg) (sg : Fin 8) (base : Reg) (imm : BitVec 10) : Statement (.vst v sg base imm) := by
  intro lone w hw h
  have b0 := v.isLt
  have b1 := sg.isLt
  have b2 := reg_code_lt base
  have b3 := imm.isLt
  have h : lone.toNat * 2147483648 + 0 * 1073741824 + 89 * 8388608 + (v.val * 262144 + sg.val * 32768 + base.code * 1024 + imm.toNat) = w := Option.some.inj h
  have e : w = (((((lone.toNat * 2 + 0) * 128 + 89) * 32 + v.val) * 8 + sg.val) * 32 + base.code) * 1024 + imm.toNat := by omega
  clear h
  have e0 : fld w 10 5 = base.code := fld_of e (fld_up 10 b3 (fld_here 5 b2))
  have e1 : finF w 18 5 = v := finF_eq (fld_of e (fld_up 10 b3 (fld_up 5 b2 (fld_up 3 b1 (fld_here 5 b0)))))
  have e2 : finF w 15 3 = sg := finF_eq (fld_of e (fld_up 10 b3 (fld_up 5 b2 (fld_here 3 b1))))
  have e3 : bitsF w 0 10 = imm := bitsF_eq (fld_of e (fld_here 10 b3))
  refine decode_of_map hw (k := 0) (op := 89)
    (fld_of e (fld_up 10 b3 (fld_up 5 b2 (fld_up 3 b1 (fld_up 5 b0 (fld_up 7 (by decide) (fld_here 1 (by decide))))))))
    (fld_of e (fld_up 10 b3 (fld_up 5 b2 (fld_up 3 b1 (fld_up 5 b0 (fld_here 7 (by decide))))))) ?_
  simp [decC_89, e0, e1, e2, e3, regOf_code]

theorem vldg (v : VReg) (sg : Fin 8) (base : Reg) (vi : VReg) (esz : Esz) : Statement (.vldg v sg base vi esz) := by
  intro lone w hw h
  have b0 := v.isLt
  have b1 := sg.isLt
  have b2 := reg_code_lt base
  have b3 := vi.isLt
  have b4 := esz_code_lt esz
  have b5 : 0 < 8 := by decide
  have h : lone.toNat * 2147483648 + 0 * 1073741824 + 90 * 8388608 + (v.val * 262144 + sg.val * 32768 + base.code * 1024 + vi.val * 32 + esz.code * 8) = w := Option.some.inj h
  have e : w = (((((((lone.toNat * 2 + 0) * 128 + 90) * 32 + v.val) * 8 + sg.val) * 32 + base.code) * 32 + vi.val) * 4 + esz.code) * 8 + 0 := by omega
  clear h
  have e0 : fld w 0 3 = 0 := fld_of e (fld_here 3 b5)
  have e1 : fld w 10 5 = base.code := fld_of e (fld_up 3 b5 (fld_up 2 b4 (fld_up 5 b3 (fld_here 5 b2))))
  have e2 : fld w 3 2 = esz.code := fld_of e (fld_up 3 b5 (fld_here 2 b4))
  have e3 : finF w 18 5 = v := finF_eq (fld_of e (fld_up 3 b5 (fld_up 2 b4 (fld_up 5 b3 (fld_up 5 b2 (fld_up 3 b1 (fld_here 5 b0)))))))
  have e4 : finF w 15 3 = sg := finF_eq (fld_of e (fld_up 3 b5 (fld_up 2 b4 (fld_up 5 b3 (fld_up 5 b2 (fld_here 3 b1))))))
  have e5 : finF w 5 5 = vi := finF_eq (fld_of e (fld_up 3 b5 (fld_up 2 b4 (fld_here 5 b3))))
  refine decode_of_map hw (k := 0) (op := 90)
    (fld_of e (fld_up 3 b5 (fld_up 2 b4 (fld_up 5 b3 (fld_up 5 b2 (fld_up 3 b1 (fld_up 5 b0 (fld_up 7 (by decide) (fld_here 1 (by decide))))))))))
    (fld_of e (fld_up 3 b5 (fld_up 2 b4 (fld_up 5 b3 (fld_up 5 b2 (fld_up 3 b1 (fld_up 5 b0 (fld_here 7 (by decide))))))))) ?_
  simp [decC_90, e0, e1, e2, e3, e4, e5, regOf_code, eszOf_code]

theorem vsts (v : VReg) (sg : Fin 8) (base : Reg) (vi : VReg) (esz : Esz) : Statement (.vsts v sg base vi esz) := by
  intro lone w hw h
  have b0 := v.isLt
  have b1 := sg.isLt
  have b2 := reg_code_lt base
  have b3 := vi.isLt
  have b4 := esz_code_lt esz
  have b5 : 0 < 8 := by decide
  have h : lone.toNat * 2147483648 + 0 * 1073741824 + 91 * 8388608 + (v.val * 262144 + sg.val * 32768 + base.code * 1024 + vi.val * 32 + esz.code * 8) = w := Option.some.inj h
  have e : w = (((((((lone.toNat * 2 + 0) * 128 + 91) * 32 + v.val) * 8 + sg.val) * 32 + base.code) * 32 + vi.val) * 4 + esz.code) * 8 + 0 := by omega
  clear h
  have e0 : fld w 0 3 = 0 := fld_of e (fld_here 3 b5)
  have e1 : fld w 10 5 = base.code := fld_of e (fld_up 3 b5 (fld_up 2 b4 (fld_up 5 b3 (fld_here 5 b2))))
  have e2 : fld w 3 2 = esz.code := fld_of e (fld_up 3 b5 (fld_here 2 b4))
  have e3 : finF w 18 5 = v := finF_eq (fld_of e (fld_up 3 b5 (fld_up 2 b4 (fld_up 5 b3 (fld_up 5 b2 (fld_up 3 b1 (fld_here 5 b0)))))))
  have e4 : finF w 15 3 = sg := finF_eq (fld_of e (fld_up 3 b5 (fld_up 2 b4 (fld_up 5 b3 (fld_up 5 b2 (fld_here 3 b1))))))
  have e5 : finF w 5 5 = vi := finF_eq (fld_of e (fld_up 3 b5 (fld_up 2 b4 (fld_here 5 b3))))
  refine decode_of_map hw (k := 0) (op := 91)
    (fld_of e (fld_up 3 b5 (fld_up 2 b4 (fld_up 5 b3 (fld_up 5 b2 (fld_up 3 b1 (fld_up 5 b0 (fld_up 7 (by decide) (fld_here 1 (by decide))))))))))
    (fld_of e (fld_up 3 b5 (fld_up 2 b4 (fld_up 5 b3 (fld_up 5 b2 (fld_up 3 b1 (fld_up 5 b0 (fld_here 7 (by decide))))))))) ?_
  simp [decC_91, e0, e1, e2, e3, e4, e5, regOf_code, eszOf_code]

theorem mzero (acc : Acc) : Statement (.mzero acc) := by
  intro lone w hw h
  have b0 := acc.isLt
  have b1 : 0 < 2097152 := by decide
  have h : lone.toNat * 2147483648 + 0 * 1073741824 + 96 * 8388608 + (acc.val * 2097152) = w := Option.some.inj h
  have e : w = (((lone.toNat * 2 + 0) * 128 + 96) * 4 + acc.val) * 2097152 + 0 := by omega
  clear h
  have e0 : fld w 0 21 = 0 := fld_of e (fld_here 21 b1)
  have e1 : finF w 21 2 = acc := finF_eq (fld_of e (fld_up 21 b1 (fld_here 2 b0)))
  refine decode_of_map hw (k := 0) (op := 96)
    (fld_of e (fld_up 21 b1 (fld_up 2 b0 (fld_up 7 (by decide) (fld_here 1 (by decide))))))
    (fld_of e (fld_up 21 b1 (fld_up 2 b0 (fld_here 7 (by decide))))) ?_
  simp [decC_96, e0, e1]

theorem mldb (f : Fmt) (sg : Fin 8) (base : Reg) (imm : BitVec 10) : Statement (.mldb f sg base imm) := by
  intro lone w hw h
  have b0 := fmt_code_lt f
  have b1 : 0 < 2 := by decide
  have b2 := sg.isLt
  have b3 := reg_code_lt base
  have b4 := imm.isLt
  have h : lone.toNat * 2147483648 + 0 * 1073741824 + 97 * 8388608 + (f.code * 524288 + sg.val * 32768 + base.code * 1024 + imm.toNat) = w := Option.some.inj h
  have e : w = ((((((lone.toNat * 2 + 0) * 128 + 97) * 16 + f.code) * 2 + 0) * 8 + sg.val) * 32 + base.code) * 1024 + imm.toNat := by omega
  clear h
  have e0 : fld w 18 1 = 0 := fld_of e (fld_up 10 b4 (fld_up 5 b3 (fld_up 3 b2 (fld_here 1 b1))))
  have e1 : fld w 19 4 = f.code := fld_of e (fld_up 10 b4 (fld_up 5 b3 (fld_up 3 b2 (fld_up 1 b1 (fld_here 4 b0)))))
  have e2 : fld w 10 5 = base.code := fld_of e (fld_up 10 b4 (fld_here 5 b3))
  have e3 : finF w 15 3 = sg := finF_eq (fld_of e (fld_up 10 b4 (fld_up 5 b3 (fld_here 3 b2))))
  have e4 : bitsF w 0 10 = imm := bitsF_eq (fld_of e (fld_here 10 b4))
  refine decode_of_map hw (k := 0) (op := 97)
    (fld_of e (fld_up 10 b4 (fld_up 5 b3 (fld_up 3 b2 (fld_up 1 b1 (fld_up 4 b0 (fld_up 7 (by decide) (fld_here 1 (by decide)))))))))
    (fld_of e (fld_up 10 b4 (fld_up 5 b3 (fld_up 3 b2 (fld_up 1 b1 (fld_up 4 b0 (fld_here 7 (by decide)))))))) ?_
  simp [decC_97, e0, e1, e2, e3, e4, regOf_code, fmtOf_code]

theorem mma (acc : Acc) (va : VReg) (fa : Fmt) (fb : Fmt) (cnt : BitVec 8) : Statement (.mma acc va fa fb cnt) := by
  intro lone w hw h
  have b0 := acc.isLt
  have b1 := va.isLt
  have b2 := fmt_code_lt fa
  have b3 := fmt_code_lt fb
  have b4 := cnt.isLt
  have h : lone.toNat * 2147483648 + 0 * 1073741824 + 98 * 8388608 + (acc.val * 2097152 + va.val * 65536 + fa.code * 4096 + fb.code * 256 + cnt.toNat) = w := Option.some.inj h
  have e : w = ((((((lone.toNat * 2 + 0) * 128 + 98) * 4 + acc.val) * 32 + va.val) * 16 + fa.code) * 16 + fb.code) * 256 + cnt.toNat := by omega
  clear h
  have e0 : fld w 12 4 = fa.code := fld_of e (fld_up 8 b4 (fld_up 4 b3 (fld_here 4 b2)))
  have e1 : fld w 8 4 = fb.code := fld_of e (fld_up 8 b4 (fld_here 4 b3))
  have e2 : finF w 21 2 = acc := finF_eq (fld_of e (fld_up 8 b4 (fld_up 4 b3 (fld_up 4 b2 (fld_up 5 b1 (fld_here 2 b0))))))
  have e3 : finF w 16 5 = va := finF_eq (fld_of e (fld_up 8 b4 (fld_up 4 b3 (fld_up 4 b2 (fld_here 5 b1)))))
  have e4 : bitsF w 0 8 = cnt := bitsF_eq (fld_of e (fld_here 8 b4))
  refine decode_of_map hw (k := 0) (op := 98)
    (fld_of e (fld_up 8 b4 (fld_up 4 b3 (fld_up 4 b2 (fld_up 5 b1 (fld_up 2 b0 (fld_up 7 (by decide) (fld_here 1 (by decide)))))))))
    (fld_of e (fld_up 8 b4 (fld_up 4 b3 (fld_up 4 b2 (fld_up 5 b1 (fld_up 2 b0 (fld_here 7 (by decide)))))))) ?_
  simp [decC_98, e0, e1, e2, e3, e4, fmtOf_code]

theorem mrot (cnt : BitVec 8) : Statement (.mrot cnt) := by
  intro lone w hw h
  have b0 : 0 < 32768 := by decide
  have b1 := cnt.isLt
  have h : lone.toNat * 2147483648 + 0 * 1073741824 + 99 * 8388608 + (cnt.toNat) = w := Option.some.inj h
  have e : w = (((lone.toNat * 2 + 0) * 128 + 99) * 32768 + 0) * 256 + cnt.toNat := by omega
  clear h
  have e0 : fld w 8 15 = 0 := fld_of e (fld_up 8 b1 (fld_here 15 b0))
  have e1 : bitsF w 0 8 = cnt := bitsF_eq (fld_of e (fld_here 8 b1))
  refine decode_of_map hw (k := 0) (op := 99)
    (fld_of e (fld_up 8 b1 (fld_up 15 b0 (fld_up 7 (by decide) (fld_here 1 (by decide))))))
    (fld_of e (fld_up 8 b1 (fld_up 15 b0 (fld_here 7 (by decide))))) ?_
  simp [decC_99, e0, e1]

theorem mdrain (acc : Acc) (v : VReg) (f : Fmt) (row : BitVec 6) : Statement (.mdrain acc v f row) := by
  intro lone w hw h
  have b0 := acc.isLt
  have b1 := v.isLt
  have b2 := fmt_code_lt f
  have b3 := row.isLt
  have b4 : 0 < 64 := by decide
  have h : lone.toNat * 2147483648 + 0 * 1073741824 + 100 * 8388608 + (acc.val * 2097152 + v.val * 65536 + f.code * 4096 + row.toNat * 64) = w := Option.some.inj h
  have e : w = ((((((lone.toNat * 2 + 0) * 128 + 100) * 4 + acc.val) * 32 + v.val) * 16 + f.code) * 64 + row.toNat) * 64 + 0 := by omega
  clear h
  have e0 : fld w 0 6 = 0 := fld_of e (fld_here 6 b4)
  have e1 : fld w 12 4 = f.code := fld_of e (fld_up 6 b4 (fld_up 6 b3 (fld_here 4 b2)))
  have e2 : finF w 21 2 = acc := finF_eq (fld_of e (fld_up 6 b4 (fld_up 6 b3 (fld_up 4 b2 (fld_up 5 b1 (fld_here 2 b0))))))
  have e3 : finF w 16 5 = v := finF_eq (fld_of e (fld_up 6 b4 (fld_up 6 b3 (fld_up 4 b2 (fld_here 5 b1)))))
  have e4 : bitsF w 6 6 = row := bitsF_eq (fld_of e (fld_up 6 b4 (fld_here 6 b3)))
  refine decode_of_map hw (k := 0) (op := 100)
    (fld_of e (fld_up 6 b4 (fld_up 6 b3 (fld_up 4 b2 (fld_up 5 b1 (fld_up 2 b0 (fld_up 7 (by decide) (fld_here 1 (by decide)))))))))
    (fld_of e (fld_up 6 b4 (fld_up 6 b3 (fld_up 4 b2 (fld_up 5 b1 (fld_up 2 b0 (fld_here 7 (by decide)))))))) ?_
  simp [decC_100, e0, e1, e2, e3, e4, fmtOf_code]

theorem mxch (acc : Acc) (entry : BitVec 8) : Statement (.mxch acc entry) := by
  intro lone w hw h
  have b0 := acc.isLt
  have b1 := entry.isLt
  have b2 : 0 < 8192 := by decide
  have h : lone.toNat * 2147483648 + 0 * 1073741824 + 101 * 8388608 + (acc.val * 2097152 + entry.toNat * 8192) = w := Option.some.inj h
  have e : w = ((((lone.toNat * 2 + 0) * 128 + 101) * 4 + acc.val) * 256 + entry.toNat) * 8192 + 0 := by omega
  clear h
  have e0 : fld w 0 13 = 0 := fld_of e (fld_here 13 b2)
  have e1 : finF w 21 2 = acc := finF_eq (fld_of e (fld_up 13 b2 (fld_up 8 b1 (fld_here 2 b0))))
  have e2 : bitsF w 13 8 = entry := bitsF_eq (fld_of e (fld_up 13 b2 (fld_here 8 b1)))
  refine decode_of_map hw (k := 0) (op := 101)
    (fld_of e (fld_up 13 b2 (fld_up 8 b1 (fld_up 2 b0 (fld_up 7 (by decide) (fld_here 1 (by decide)))))))
    (fld_of e (fld_up 13 b2 (fld_up 8 b1 (fld_up 2 b0 (fld_here 7 (by decide)))))) ?_
  simp [decC_101, e0, e1, e2]

theorem fuse (size : FuseSize) : Statement (.fuse size) := by
  intro lone w hw h
  have b0 := fuseSize_code_lt size
  have b1 : 0 < 1048576 := by decide
  have h : lone.toNat * 2147483648 + 0 * 1073741824 + 104 * 8388608 + (size.code * 1048576) = w := Option.some.inj h
  have e : w = (((lone.toNat * 2 + 0) * 128 + 104) * 8 + size.code) * 1048576 + 0 := by omega
  clear h
  have e0 : fld w 0 20 = 0 := fld_of e (fld_here 20 b1)
  have e1 : fld w 20 3 = size.code := fld_of e (fld_up 20 b1 (fld_here 3 b0))
  refine decode_of_map hw (k := 0) (op := 104)
    (fld_of e (fld_up 20 b1 (fld_up 3 b0 (fld_up 7 (by decide) (fld_here 1 (by decide))))))
    (fld_of e (fld_up 20 b1 (fld_up 3 b0 (fld_here 7 (by decide))))) ?_
  simp [decC_104, e0, e1, fuseSizeOf_code]

theorem gather (core : Nat) (entry : Nat) : Statement (.gather core entry) := by
  intro _ _ _ h
  cases h

theorem scatter (core : Nat) (entry : Nat) : Statement (.scatter core entry) := by
  intro _ _ _ h
  cases h

theorem accum (core : Nat) (entry : Nat) : Statement (.accum core entry) := by
  intro _ _ _ h
  cases h

theorem dedup (core : Nat) (entry : Nat) : Statement (.dedup core entry) := by
  intro _ _ _ h
  cases h

theorem reduce (core : Nat) (entry : Nat) : Statement (.reduce core entry) := by
  intro _ _ _ h
  cases h

theorem copy (core : Nat) (entry : Nat) : Statement (.copy core entry) := by
  intro _ _ _ h
  cases h

theorem walk (core : Nat) (entry : Nat) : Statement (.walk core entry) := by
  intro _ _ _ h
  cases h

theorem fill (core : Nat) (entry : Nat) : Statement (.fill core entry) := by
  intro _ _ _ h
  cases h

theorem coll (core : Nat) (entry : Nat) : Statement (.coll core entry) := by
  intro _ _ _ h
  cases h

theorem res (core : Nat) (entry : Nat) : Statement (.res core entry) := by
  intro _ _ _ h
  cases h

theorem abt (core : Nat) (entry : Nat) : Statement (.abt core entry) := by
  intro _ _ _ h
  cases h

theorem commandStart (core : Nat) : Statement (.commandStart core) := by
  intro _ _ _ h
  cases h

theorem commandRetire (core : Nat) (entry : Nat) : Statement (.commandRetire core entry) := by
  intro _ _ _ h
  cases h

theorem commandStop (core : Nat) (entry : Nat) : Statement (.commandStop core entry) := by
  intro _ _ _ h
  cases h

theorem sequencerCycle (core : Nat) : Statement (.sequencerCycle core) := by
  intro _ _ _ h
  cases h

theorem quantumEnd (core : Nat) (strand : Nat) : Statement (.quantumEnd core strand) := by
  intro _ _ _ h
  cases h

theorem waitTimeout (core : Nat) (slot : Nat) : Statement (.waitTimeout core slot) := by
  intro _ _ _ h
  cases h

theorem accessReply (id : Nat) : Statement (.accessReply id) := by
  intro _ _ _ h
  cases h

theorem replyForward (id : Nat) : Statement (.replyForward id) := by
  intro _ _ _ h
  cases h

theorem icacheFill (id : Nat) : Statement (.icacheFill id) := by
  intro _ _ _ h
  cases h

theorem tlbLookup (id : Nat) : Statement (.tlbLookup id) := by
  intro _ _ _ h
  cases h

theorem walkEnd (id : Nat) : Statement (.walkEnd id) := by
  intro _ _ _ h
  cases h

theorem handlerStart (core : Nat) : Statement (.handlerStart core) := by
  intro _ _ _ h
  cases h

theorem inboxReservation (id : Nat) : Statement (.inboxReservation id) := by
  intro _ _ _ h
  cases h

theorem messageWrite (id : Nat) : Statement (.messageWrite id) := by
  intro _ _ _ h
  cases h

theorem migrationReserve (id : Nat) : Statement (.migrationReserve id) := by
  intro _ _ _ h
  cases h

theorem migrationArrival (id : Nat) : Statement (.migrationArrival id) := by
  intro _ _ _ h
  cases h

theorem wakeDelivery (id : Nat) : Statement (.wakeDelivery id) := by
  intro _ _ _ h
  cases h

theorem remoteTileAccess (id : Nat) : Statement (.remoteTileAccess id) := by
  intro _ _ _ h
  cases h

theorem feWithdrawal (id : Nat) : Statement (.feWithdrawal id) := by
  intro _ _ _ h
  cases h

theorem storeBufferSend (core : Nat) (id : Nat) : Statement (.storeBufferSend core id) := by
  intro _ _ _ h
  cases h

theorem storeAck (id : Nat) : Statement (.storeAck id) := by
  intro _ _ _ h
  cases h

theorem controllerIssue (id : Nat) : Statement (.controllerIssue id) := by
  intro _ _ _ h
  cases h

theorem accumulateAccept (id : Nat) : Statement (.accumulateAccept id) := by
  intro _ _ _ h
  cases h

theorem combiningDrain (ctrl : Nat) (atom : Nat) : Statement (.combiningDrain ctrl atom) := by
  intro _ _ _ h
  cases h

theorem geckoToken (id : Nat) : Statement (.geckoToken id) := by
  intro _ _ _ h
  cases h

theorem rowCacheExpiry (core : Nat) (atom : Nat) : Statement (.rowCacheExpiry core atom) := by
  intro _ _ _ h
  cases h

theorem promotionEpoch (chan : Nat) : Statement (.promotionEpoch chan) := by
  intro _ _ _ h
  cases h

theorem scrub (atom : Nat) : Statement (.scrub atom) := by
  intro _ _ _ h
  cases h

theorem refresh (chan : Nat) (bank : Nat) (row : Nat) : Statement (.refresh chan bank row) := by
  intro _ _ _ h
  cases h

theorem stackTemperatureReport (stack : Nat) (temp : Int) : Statement (.stackTemperatureReport stack temp) := by
  intro _ _ _ h
  cases h

theorem hostSnoop (line : Nat) (own : Bool) : Statement (.hostSnoop line own) := by
  intro _ _ _ h
  cases h

theorem snoopApply : Statement .snoopApply := by
  intro _ _ _ h
  cases h

theorem hostResponse (id : Nat) (grantE : Bool) (line : Option W512) : Statement (.hostResponse id grantE line) := by
  intro _ _ _ h
  cases h

theorem cxlLinkDown : Statement .cxlLinkDown := by
  intro _ _ _ h
  cases h

theorem cxlLinkRetrain : Statement .cxlLinkRetrain := by
  intro _ _ _ h
  cases h

theorem hostRegisterAccess (off : Nat) (size : Nat) (wr : Option W64) : Statement (.hostRegisterAccess off size wr) := by
  intro _ _ _ h
  cases h

theorem mmaStep (core : Nat) (strand : Nat) : Statement (.mmaStep core strand) := by
  intro _ _ _ h
  cases h

theorem mrotComplete (id : Nat) : Statement (.mrotComplete id) := by
  intro _ _ _ h
  cases h

theorem mxchComplete (id : Nat) : Statement (.mxchComplete id) := by
  intro _ _ _ h
  cases h

theorem rejoinLineHigh (core : Nat) (strand : Nat) : Statement (.rejoinLineHigh core strand) := by
  intro _ _ _ h
  cases h

theorem barrierComplete (core : Nat) (kind : BarKind) : Statement (.barrierComplete core kind) := by
  intro _ _ _ h
  cases h

theorem timeTick : Statement .timeTick := by
  intro _ _ _ h
  cases h

theorem governorWindow (u : Nat) : Statement (.governorWindow u) := by
  intro _ _ _ h
  cases h

theorem vfEvaluate (dom : Nat) (spend : Nat) : Statement (.vfEvaluate dom spend) := by
  intro _ _ _ h
  cases h

theorem energyExhausted (dom : Nat) : Statement (.energyExhausted dom) := by
  intro _ _ _ h
  cases h

theorem equalisation (lanes : List Nat) : Statement (.equalisation lanes) := by
  intro _ _ _ h
  cases h

theorem dispatch (plan : Plan) : Statement (.dispatch plan) := by
  intro _ _ _ h
  cases h

theorem preempt (tid : Nat) : Statement (.preempt tid) := by
  intro _ _ _ h
  cases h

theorem taskComplete (tid : Nat) (energy : Nat) : Statement (.taskComplete tid energy) := by
  intro _ _ _ h
  cases h

theorem fqgetWrite (die : Nat) (value : Nat) : Statement (.fqgetWrite die value) := by
  intro _ _ _ h
  cases h

theorem registerWrite (id : Nat) : Statement (.registerWrite id) := by
  intro _ _ _ h
  cases h

theorem broadcastWrite (off : Nat) (value : W64) : Statement (.broadcastWrite off value) := by
  intro _ _ _ h
  cases h

theorem inspectionAccess (core : Nat) (off : Nat) (wr : Option W64) : Statement (.inspectionAccess core off wr) := by
  intro _ _ _ h
  cases h

theorem switchRowPacket (id : Nat) : Statement (.switchRowPacket id) := by
  intro _ _ _ h
  cases h

theorem fabricTimeout (id : Nat) : Statement (.fabricTimeout id) := by
  intro _ _ _ h
  cases h

theorem chaezWrite (pa : Nat) (data : List W64) : Statement (.chaezWrite pa data) := by
  intro _ _ _ h
  cases h

theorem chaezRead (pa : Nat) (dwords : Nat) : Statement (.chaezRead pa dwords) := by
  intro _ _ _ h
  cases h

theorem release (target : CtlTarget) : Statement (.release target) := by
  intro _ _ _ h
  cases h

theorem releaseSkip (target : CtlTarget) : Statement (.releaseSkip target) := by
  intro _ _ _ h
  cases h

theorem endTask (target : CtlTarget) : Statement (.endTask target) := by
  intro _ _ _ h
  cases h

theorem digestReset (desc : Nat) : Statement (.digestReset desc) := by
  intro _ _ _ h
  cases h

theorem unfence (port : Nat) : Statement (.unfence port) := by
  intro _ _ _ h
  cases h

theorem timeref (dom : Nat) : Statement (.timeref dom) := by
  intro _ _ _ h
  cases h

theorem checkpoint (name : Nat) (tier : Nat) : Statement (.checkpoint name tier) := by
  intro _ _ _ h
  cases h

theorem checkpointRestore (chunks : List Chunk) : Statement (.checkpointRestore chunks) := by
  intro _ _ _ h
  cases h

theorem reset : Statement .reset := by
  intro _ _ _ h
  cases h

theorem recovery (piece : List Byte) : Statement (.recovery piece) := by
  intro _ _ _ h
  cases h

theorem statusReport (io : Int) (modl : Int) : Statement (.statusReport io modl) := by
  intro _ _ _ h
  cases h

theorem powerOn : Statement .powerOn := by
  intro _ _ _ h
  cases h

theorem thermalTrip (temp : Int) : Statement (.thermalTrip temp) := by
  intro _ _ _ h
  cases h

theorem attestNonceWrite (nonce : BitVec 256) : Statement (.attestNonceWrite nonce) := by
  intro _ _ _ h
  cases h

theorem attestTidWrite (value : W64) : Statement (.attestTidWrite value) := by
  intro _ _ _ h
  cases h

theorem attestReportRead : Statement .attestReportRead := by
  intro _ _ _ h
  cases h

theorem rowPacket (pkt : RowPkt) : Statement (.rowPacket pkt) := by
  intro _ _ _ h
  cases h

theorem peerAccessPacket (pkt : PeerPkt) : Statement (.peerAccessPacket pkt) := by
  intro _ _ _ h
  cases h

theorem collOutcome (core : Nat) (entry : Nat) (others : List CollShare) : Statement (.collOutcome core entry others) := by
  intro _ _ _ h
  cases h

theorem timeBeacon (ref : Nat) (ahead : Int) : Statement (.timeBeacon ref ahead) := by
  intro _ _ _ h
  cases h

theorem domainJoin (dom : Nat) (time : W64) : Statement (.domainJoin dom time) := by
  intro _ _ _ h
  cases h

theorem referenceLoss (dom : Nat) : Statement (.referenceLoss dom) := by
  intro _ _ _ h
  cases h

theorem computeDieTemperature (die : Nat) (temp : Int) : Statement (.computeDieTemperature die temp) := by
  intro _ _ _ h
  cases h

end Sys2Proof.Laws.RoundTrip
end

