-- ==== Sys2Proof/Laws/Tile.lean ====
section
/-! SUPPORT. Tile memory: what a store to a tile, an arrival and a change of a word's state do to their core, and that
they leave the other cores and the memories outside alone. -/

namespace Sys2Proof.Machine

/-- An arrival counts in the counters of its core only. -/
theorem countArrivals_part {α : Type} (p : Core → α) (hp : ∀ k c, p { k with ctr := c } = p k) (s : State)
    (c pr n d : Nat) : p (getCore (countArrivals s c pr n) d) = p (getCore s d) := by
  unfold countArrivals
  split
  · by_cases h : d = c
    · subst h; rw [getCore_modCore_self]; exact hp _ _
    · rw [getCore_modCore_other _ _ _ _ h]
  · rfl

theorem countArrivals_other (s : State) (c pr n d : Nat) (h : d ≠ c) :
    getCore (countArrivals s c pr n) d = getCore s d := by
  unfold countArrivals
  split
  · rw [getCore_modCore_other _ _ _ _ h]
  · rfl

theorem countArrivals_mem (s : State) (c pr n : Nat) : (countArrivals s c pr n).mem = s.mem := by
  unfold countArrivals
  split <;> rfl

theorem modTile_tile (s : State) (c : Nat) (f : Tile → Tile) :
    (getCore (modTile s c f) c).tile = f (getCore s c).tile := by simp [modTile]

/-- A store to a tile writes its bytes, little-endian (08 R177). -/
theorem tileStore_tile (s : State) (c o n v pr : Nat) : (getCore (tileStore s c o n v pr) c).tile =
    { (getCore s c).tile with mem := Mem.wrN (getCore s c).tile.mem o v n } := by
  unfold tileStore
  rw [countArrivals_part Core.tile (fun _ _ => rfl)]
  simp [modTile]

theorem tileStore_other (s : State) (c o n v pr d : Nat) (h : d ≠ c) :
    getCore (tileStore s c o n v pr) d = getCore s d := by
  unfold tileStore
  rw [countArrivals_other _ _ _ _ _ h]
  exact getCore_modCore_other _ _ _ _ h

theorem tileStore_mem (s : State) (c o n v pr : Nat) : (tileStore s c o n v pr).mem = s.mem :=
  countArrivals_mem _ _ _ _

/-- A store performed on a tile is tileStore of its low bytes. -/
theorem tileDo_store (s : State) (c o n v p : Nat) (hn : n ≤ 64) :
    (tileDo s c o (storeAcc n v) p).1 = tileStore s c o n (v % 2 ^ (8 * n)) p := by
  have : v % 2 ^ (8 * n) < 2 ^ 512 :=
    Nat.lt_of_lt_of_le (Nat.mod_lt _ (Nat.two_pow_pos _)) (Nat.pow_le_pow_right (by decide) (by omega))
  simp only [tileDo, storeAcc, newBytes, trunc, BitVec.toNat_ofNat]
  rw [Nat.mod_eq_of_lt this]
  simp

theorem mem_insertBy (l : List Nat) (w : Nat) : w ∈ insertBy id w l := by
  induction l with
  | nil => simp [insertBy]
  | cons a l ih => simp only [insertBy]; split <;> simp [ih]

/-- The full/empty state of a word reads as it was set (08 R207). -/
theorem isFull_setFull (t : Tile) (w : Nat) (b : Bool) : isFull (setFull t w b) w = b := by
  cases b <;> simp [isFull, setFull, addTo]
  · split
    · assumption
    · exact mem_insertBy _ _

end Sys2Proof.Machine
end

