-- ==== Sys2Proof/Laws/Total.lean ====
section
/-! SUPPORT. Every arm of exec answers: an instruction word is the frame run around some effect, and a step without a
word always has a next state. -/

namespace Sys2Proof.Machine

/-- Every instruction word is run around an effect. -/
theorem exec_run (i : Instr) (s : State) (h : i.opcode.isSome = true) : ∃ eff, exec i s = run i s eff := by
  cases i with
  | add p d a b v => rw [Arm.add]; unfold execAdd aluOp; exact ⟨_, rfl⟩
  | sub p d a b v => rw [Arm.sub]; unfold execSub aluOp; exact ⟨_, rfl⟩
  | mul p d a b v => rw [Arm.mul]; unfold execMul aluOp; exact ⟨_, rfl⟩
  | mulh p d a b v => rw [Arm.mulh]; unfold execMulh aluOp; exact ⟨_, rfl⟩
  | div p d a b v => rw [Arm.div]; unfold execDiv aluOp; exact ⟨_, rfl⟩
  | rem p d a b v => rw [Arm.rem]; unfold execRem aluOp; exact ⟨_, rfl⟩
  | and p d a b => rw [Arm.and]; unfold execAnd aluOp; exact ⟨_, rfl⟩
  | or p d a b => rw [Arm.or]; unfold execOr aluOp; exact ⟨_, rfl⟩
  | xor p d a b => rw [Arm.xor]; unfold execXor aluOp; exact ⟨_, rfl⟩
  | andn p d a b => rw [Arm.andn]; unfold execAndn aluOp; exact ⟨_, rfl⟩
  | shl p d a b v => rw [Arm.shl]; unfold execShl aluOp; exact ⟨_, rfl⟩
  | shr p d a b v => rw [Arm.shr]; unfold execShr aluOp; exact ⟨_, rfl⟩
  | sra p d a b v => rw [Arm.sra]; unfold execSra aluOp; exact ⟨_, rfl⟩
  | rotl p d a b v => rw [Arm.rotl]; unfold execRotl aluOp; exact ⟨_, rfl⟩
  | min p d a b v => rw [Arm.min]; unfold execMin aluOp; exact ⟨_, rfl⟩
  | max p d a b v => rw [Arm.max]; unfold execMax aluOp; exact ⟨_, rfl⟩
  | clz p d a v => rw [Arm.clz]; unfold execClz aluOp; exact ⟨_, rfl⟩
  | ctz p d a v => rw [Arm.ctz]; unfold execCtz aluOp; exact ⟨_, rfl⟩
  | popc p d a v => rw [Arm.popc]; unfold execPopc aluOp; exact ⟨_, rfl⟩
  | bext p d a b v => rw [Arm.bext]; unfold execBext aluOp; exact ⟨_, rfl⟩
  | bins p d a b => rw [Arm.bins]; unfold execBins aluOp; exact ⟨_, rfl⟩
  | sel p d a b q => rw [Arm.sel]; unfold execSel aluOp; exact ⟨_, rfl⟩
  | cmp p d a b v => rw [Arm.cmp]; unfold execCmp aluOp; exact ⟨_, rfl⟩
  | hash64 p d a b => rw [Arm.hash64]; unfold execHash64 aluOp; exact ⟨_, rfl⟩
  | movi p d imm => rw [Arm.movi]; unfold execMovi aluOp; exact ⟨_, rfl⟩
  | movh p d imm => rw [Arm.movh]; unfold execMovh aluOp; exact ⟨_, rfl⟩
  | pset p pd a b c => rw [Arm.pset]; unfold execPset predOp; exact ⟨_, rfl⟩
  | pand p pd pa pb na nb => rw [Arm.pand]; unfold execPand predOp; exact ⟨_, rfl⟩
  | por p pd pa pb na nb => rw [Arm.por]; unfold execPor predOp; exact ⟨_, rfl⟩
  | pnot p pd pa na => rw [Arm.pnot]; unfold execPnot predOp; exact ⟨_, rfl⟩
  | addImm p d a imm => rw [Arm.addImm]; unfold execAddImm aluOp; exact ⟨_, rfl⟩
  | subImm p d a imm => rw [Arm.subImm]; unfold execSubImm aluOp; exact ⟨_, rfl⟩
  | mulImm p d a imm => rw [Arm.mulImm]; unfold execMulImm aluOp; exact ⟨_, rfl⟩
  | mulhImm p d a imm => rw [Arm.mulhImm]; unfold execMulhImm aluOp; exact ⟨_, rfl⟩
  | divImm p d a imm => rw [Arm.divImm]; unfold execDivImm aluOp; exact ⟨_, rfl⟩
  | remImm p d a imm => rw [Arm.remImm]; unfold execRemImm aluOp; exact ⟨_, rfl⟩
  | andImm p d a imm => rw [Arm.andImm]; unfold execAndImm aluOp; exact ⟨_, rfl⟩
  | orImm p d a imm => rw [Arm.orImm]; unfold execOrImm aluOp; exact ⟨_, rfl⟩
  | xorImm p d a imm => rw [Arm.xorImm]; unfold execXorImm aluOp; exact ⟨_, rfl⟩
  | andnImm p d a imm => rw [Arm.andnImm]; unfold execAndnImm aluOp; exact ⟨_, rfl⟩
  | shlImm p d a imm => rw [Arm.shlImm]; unfold execShlImm aluOp; exact ⟨_, rfl⟩
  | shrImm p d a imm => rw [Arm.shrImm]; unfold execShrImm aluOp; exact ⟨_, rfl⟩
  | sraImm p d a imm => rw [Arm.sraImm]; unfold execSraImm aluOp; exact ⟨_, rfl⟩
  | rotlImm p d a imm => rw [Arm.rotlImm]; unfold execRotlImm aluOp; exact ⟨_, rfl⟩
  | minImm p d a imm => rw [Arm.minImm]; unfold execMinImm aluOp; exact ⟨_, rfl⟩
  | maxImm p d a imm => rw [Arm.maxImm]; unfold execMaxImm aluOp; exact ⟨_, rfl⟩
  | cmpImm p d a imm => rw [Arm.cmpImm]; unfold execCmpImm aluOp; exact ⟨_, rfl⟩
  | fadd p d a b => rw [Arm.fadd]; unfold execFadd floatOp; exact ⟨_, rfl⟩
  | fsub p d a b => rw [Arm.fsub]; unfold execFsub floatOp; exact ⟨_, rfl⟩
  | fmul p d a b => rw [Arm.fmul]; unfold execFmul floatOp; exact ⟨_, rfl⟩
  | fma p d a b c => rw [Arm.fma]; unfold execFma floatOp; exact ⟨_, rfl⟩
  | fdiv p d a b => rw [Arm.fdiv]; unfold execFdiv floatOp; exact ⟨_, rfl⟩
  | frcp p d a => rw [Arm.frcp]; unfold execFrcp floatOp; exact ⟨_, rfl⟩
  | frsq p d a => rw [Arm.frsq]; unfold execFrsq floatOp; exact ⟨_, rfl⟩
  | fmin p d a b v => rw [Arm.fmin]; unfold execFmin floatOp; exact ⟨_, rfl⟩
  | fmax p d a b v => rw [Arm.fmax]; unfold execFmax floatOp; exact ⟨_, rfl⟩
  | fcmp p pd a b c => rw [Arm.fcmp]; unfold execFcmp; exact ⟨_, rfl⟩
  | fclass p d a f => rw [Arm.fclass]; unfold execFclass floatOp; exact ⟨_, rfl⟩
  | fcvt p d a src dst => rw [Arm.fcvt]; unfold execFcvt floatOp; exact ⟨_, rfl⟩
  | fsgn p d a b v => rw [Arm.fsgn]; unfold execFsgn floatOp; exact ⟨_, rfl⟩
  | vadd p vd va vb o f => rw [Arm.vadd]; unfold execVadd vec2 vecOp; exact ⟨_, rfl⟩
  | vsub p vd va vb o f => rw [Arm.vsub]; unfold execVsub vec2 vecOp; exact ⟨_, rfl⟩
  | vmul p vd va vb o f => rw [Arm.vmul]; unfold execVmul vec2 vecOp; exact ⟨_, rfl⟩
  | vmin p vd va vb o f => rw [Arm.vmin]; unfold execVmin vec2 vecOp; exact ⟨_, rfl⟩
  | vmax p vd va vb o f => rw [Arm.vmax]; unfold execVmax vec2 vecOp; exact ⟨_, rfl⟩
  | vsgn p vd va vb o f => rw [Arm.vsgn]; unfold execVsgn vecOp; exact ⟨_, rfl⟩
  | vcmp p vd va vb o f => rw [Arm.vcmp]; unfold execVcmp vec2 vecOp; exact ⟨_, rfl⟩
  | vfma p vd va vb vc => rw [Arm.vfma]; unfold execVfma vecOp; exact ⟨_, rfl⟩
  | vsel p vd va vb vc => rw [Arm.vsel]; unfold execVsel vecOp; exact ⟨_, rfl⟩
  | vcvt p vd va src dst => rw [Arm.vcvt]; unfold execVcvt; exact ⟨_, rfl⟩
  | vscl p vd va vb => rw [Arm.vscl]; unfold execVscl vecOp; exact ⟨_, rfl⟩
  | vred p d va o f => rw [Arm.vred]; unfold execVred; exact ⟨_, rfl⟩
  | vbc p vd a f => rw [Arm.vbc]; unfold execVbc vecOp; exact ⟨_, rfl⟩
  | vperm p vd va vb f => rw [Arm.vperm]; unfold execVperm vecOp; exact ⟨_, rfl⟩
  | vmov p vd va => rw [Arm.vmov]; unfold execVmov; exact ⟨_, rfl⟩
  | vmovSr p vd va f => rw [Arm.vmovSr]; unfold execVmovSr; exact ⟨_, rfl⟩
  | nop => rw [Arm.nop]; unfold execNop; exact ⟨_, rfl⟩
  | ret => rw [Arm.ret]; unfold execRet; exact ⟨_, rfl⟩
  | doneF => rw [Arm.doneF]; unfold execDoneF; exact ⟨_, rfl⟩
  | yieldF => rw [Arm.yieldF]; unfold execYieldF; exact ⟨_, rfl⟩
  | hret => rw [Arm.hret]; unfold execHret; exact ⟨_, rfl⟩
  | trigger => rw [Arm.trigger]; unfold execTrigger; exact ⟨_, rfl⟩
  | eret => rw [Arm.eret]; unfold execEret; exact ⟨_, rfl⟩
  | unfuse => rw [Arm.unfuse]; unfold execUnfuse; exact ⟨_, rfl⟩
  | rejoin => rw [Arm.rejoin]; unfold execRejoin; exact ⟨_, rfl⟩
  | br p n imm => rw [Arm.br]; unfold execBr; exact ⟨_, rfl⟩
  | jmp imm => rw [Arm.jmp]; unfold execJmp; exact ⟨_, rfl⟩
  | call imm => rw [Arm.call]; unfold execCall; exact ⟨_, rfl⟩
  | jmpr d a => rw [Arm.jmpr]; unfold execJmpr; exact ⟨_, rfl⟩
  | loop a imm => rw [Arm.loop]; unfold execLoop; exact ⟨_, rfl⟩
  | brk code => rw [Arm.brk]; unfold execBrk; exact ⟨_, rfl⟩
  | trap code => rw [Arm.trap]; unfold execTrap; exact ⟨_, rfl⟩
  | pfx imm => rw [Arm.pfx]; unfold execPfx; exact ⟨_, rfl⟩
  | lea r sg base sz imm => rw [Arm.lea]; unfold execLea regOp; exact ⟨_, rfl⟩
  | madv d a b peq plt esz => rw [Arm.madv]; unfold execMadv; exact ⟨_, rfl⟩
  | fwalk d a b => rw [Arm.fwalk]; unfold execFwalk; exact ⟨_, rfl⟩
  | brank d a b pd => rw [Arm.brank]; unfold execBrank; exact ⟨_, rfl⟩
  | ld r sg base sz x imm => rw [Arm.ld]; unfold execLd; exact ⟨_, rfl⟩
  | ldAcq r sg base sz x sc imm => rw [Arm.ldAcq]; unfold execLdAcq; exact ⟨_, rfl⟩
  | st r sg base sz imm => rw [Arm.st]; unfold execSt; exact ⟨_, rfl⟩
  | stRel r sg base sz sc imm => rw [Arm.stRel]; unfold execStRel; exact ⟨_, rfl⟩
  | ldp r sg base imm => rw [Arm.ldp]; unfold execLdp; exact ⟨_, rfl⟩
  | stp r sg base imm => rw [Arm.stp]; unfold execStp; exact ⟨_, rfl⟩
  | pf sg base sz imm => rw [Arm.pf]; unfold execPf; exact ⟨_, rfl⟩
  | fence sc => rw [Arm.fence]; unfold execFence; exact ⟨_, rfl⟩
  | amo d sg base b op esz => rw [Arm.amo]; unfold execAmo; exact ⟨_, rfl⟩
  | cas d sg base b c => rw [Arm.cas]; unfold execCas; exact ⟨_, rfl⟩
  | red sg base b op esz => rw [Arm.red]; unfold execRed; exact ⟨_, rfl⟩
  | ldf r sg base sc imm => rw [Arm.ldf]; unfold execLdf; exact ⟨_, rfl⟩
  | ldfe r sg base sc imm => rw [Arm.ldfe]; unfold execLdfe; exact ⟨_, rfl⟩
  | stf r sg base sc imm => rw [Arm.stf]; unfold execStf; exact ⟨_, rfl⟩
  | stfw r sg base sc imm => rw [Arm.stfw]; unfold execStfw; exact ⟨_, rfl⟩
  | fest full sg base sc imm => rw [Arm.fest]; unfold execFest; exact ⟨_, rfl⟩
  | st4 r sg base hi imm => rw [Arm.st4]; unfold execSt4; exact ⟨_, rfl⟩
  | aqPush sg base sz x imm => rw [Arm.aqPush]; unfold execAqPush; exact ⟨_, rfl⟩
  | aqList r sg base sz x imm => rw [Arm.aqList]; unfold execAqList; exact ⟨_, rfl⟩
  | dqPop d two => rw [Arm.dqPop]; unfold execDqPop; exact ⟨_, rfl⟩
  | dqCnt d => rw [Arm.dqCnt]; unfold execDqCnt regOp; exact ⟨_, rfl⟩
  | spawn d a imm => rw [Arm.spawn]; unfold execSpawn; exact ⟨_, rfl⟩
  | migr d a => rw [Arm.migr]; unfold execMigr; exact ⟨_, rfl⟩
  | send d a b n => rw [Arm.send]; unfold execSend; exact ⟨_, rfl⟩
  | sendQ d a b n => rw [Arm.sendQ]; unfold execSendQ; exact ⟨_, rfl⟩
  | sendR d b => rw [Arm.sendR]; unfold execSendR; exact ⟨_, rfl⟩
  | rqPush n => rw [Arm.rqPush]; unfold execRqPush; exact ⟨_, rfl⟩
  | rqTry d n => rw [Arm.rqTry]; unfold execRqTry; exact ⟨_, rfl⟩
  | rqStat d a k => rw [Arm.rqStat]; unfold execRqStat regOp; exact ⟨_, rfl⟩
  | tlaunch d a sg => rw [Arm.tlaunch]; unfold execTlaunch; exact ⟨_, rfl⟩
  | twait d a => rw [Arm.twait]; unfold execTwait; exact ⟨_, rfl⟩
  | segld a k => rw [Arm.segld]; unfold execSegld; exact ⟨_, rfl⟩
  | segrd d t k => rw [Arm.segrd]; unfold execSegrd; exact ⟨_, rfl⟩
  | dtld sg base imm => rw [Arm.dtld]; unfold execDtld; exact ⟨_, rfl⟩
  | tbld r sg base imm => rw [Arm.tbld]; unfold execTbld; exact ⟨_, rfl⟩
  | xpld sg base imm => rw [Arm.xpld]; unfold execXpld; exact ⟨_, rfl⟩
  | gkbind a b tag ctx => rw [Arm.gkbind]; unfold execGkbind; exact ⟨_, rfl⟩
  | ptinvPage a b sc => rw [Arm.ptinvPage]; unfold execPtinvPage; exact ⟨_, rfl⟩
  | ptinvAsid b sc => rw [Arm.ptinvAsid]; unfold execPtinvAsid; exact ⟨_, rfl⟩
  | ptinvAll sc => rw [Arm.ptinvAll]; unfold execPtinvAll; exact ⟨_, rfl⟩
  | dwait k imm => rw [Arm.dwait]; unfold execDwait; exact ⟨_, rfl⟩
  | await k imm => rw [Arm.await]; unfold execAwait; exact ⟨_, rfl⟩
  | dset k a => rw [Arm.dset]; unfold execDset; exact ⟨_, rfl⟩
  | dadd k a => rw [Arm.dadd]; unfold execDadd; exact ⟨_, rfl⟩
  | acbind k a => rw [Arm.acbind]; unfold execAcbind; exact ⟨_, rfl⟩
  | bar kind d pd => rw [Arm.bar]; unfold execBar; exact ⟨_, rfl⟩
  | tread d => rw [Arm.tread]; unfold execTread regOp; exact ⟨_, rfl⟩
  | erd d k => rw [Arm.erd]; unfold execErd regOp; exact ⟨_, rfl⟩
  | pcrd d a => rw [Arm.pcrd]; unfold execPcrd regOp; exact ⟨_, rfl⟩
  | sysrd r x => rw [Arm.sysrd]; unfold execSysrd; exact ⟨_, rfl⟩
  | syswr r x => rw [Arm.syswr]; unfold execSyswr; exact ⟨_, rfl⟩
  | rndset d a sd m fz rm => rw [Arm.rndset]; unfold execRndset; exact ⟨_, rfl⟩
  | wake d a skip => rw [Arm.wake]; unfold execWake; exact ⟨_, rfl⟩
  | vld v sg base imm => rw [Arm.vld]; unfold execVld; exact ⟨_, rfl⟩
  | vst v sg base imm => rw [Arm.vst]; unfold execVst; exact ⟨_, rfl⟩
  | vldg v sg base vi esz => rw [Arm.vldg]; unfold execVldg; exact ⟨_, rfl⟩
  | vsts v sg base vi esz => rw [Arm.vsts]; unfold execVsts; exact ⟨_, rfl⟩
  | mzero acc => rw [Arm.mzero]; unfold execMzero; exact ⟨_, rfl⟩
  | mldb f sg base imm => rw [Arm.mldb]; unfold execMldb; exact ⟨_, rfl⟩
  | mma acc va fa fb cnt => rw [Arm.mma]; unfold execMma; exact ⟨_, rfl⟩
  | mrot cnt => rw [Arm.mrot]; unfold execMrot; exact ⟨_, rfl⟩
  | mdrain acc v f row => rw [Arm.mdrain]; unfold execMdrain; exact ⟨_, rfl⟩
  | mxch acc entry => rw [Arm.mxch]; unfold execMxch; exact ⟨_, rfl⟩
  | fuse size => rw [Arm.fuse]; unfold execFuse; exact ⟨_, rfl⟩
  | gather _ _ => cases h
  | scatter _ _ => cases h
  | accum _ _ => cases h
  | dedup _ _ => cases h
  | reduce _ _ => cases h
  | copy _ _ => cases h
  | walk _ _ => cases h
  | fill _ _ => cases h
  | coll _ _ => cases h
  | res _ _ => cases h
  | abt _ _ => cases h
  | commandStart _ => cases h
  | commandRetire _ _ => cases h
  | commandStop _ _ => cases h
  | sequencerCycle _ => cases h
  | quantumEnd _ _ => cases h
  | waitTimeout _ _ => cases h
  | accessReply _ => cases h
  | replyForward _ => cases h
  | icacheFill _ => cases h
  | tlbLookup _ => cases h
  | walkEnd _ => cases h
  | handlerStart _ => cases h
  | inboxReservation _ => cases h
  | messageWrite _ => cases h
  | migrationReserve _ => cases h
  | migrationArrival _ => cases h
  | wakeDelivery _ => cases h
  | remoteTileAccess _ => cases h
  | feWithdrawal _ => cases h
  | storeBufferSend _ _ => cases h
  | storeAck _ => cases h
  | controllerIssue _ => cases h
  | accumulateAccept _ => cases h
  | combiningDrain _ _ => cases h
  | geckoToken _ => cases h
  | rowCacheExpiry _ _ => cases h
  | promotionEpoch _ => cases h
  | scrub _ => cases h
  | refresh _ _ _ => cases h
  | stackTemperatureReport _ _ => cases h
  | hostSnoop _ _ => cases h
  | snoopApply => cases h
  | hostResponse _ _ _ => cases h
  | cxlLinkDown => cases h
  | cxlLinkRetrain => cases h
  | hostRegisterAccess _ _ _ => cases h
  | mmaStep _ _ => cases h
  | mrotComplete _ => cases h
  | mxchComplete _ => cases h
  | rejoinLineHigh _ _ => cases h
  | barrierComplete _ _ => cases h
  | timeTick => cases h
  | governorWindow _ => cases h
  | vfEvaluate _ _ => cases h
  | energyExhausted _ => cases h
  | equalisation _ => cases h
  | dispatch _ => cases h
  | preempt _ => cases h
  | taskComplete _ _ => cases h
  | fqgetWrite _ _ => cases h
  | registerWrite _ => cases h
  | broadcastWrite _ _ => cases h
  | inspectionAccess _ _ _ => cases h
  | chaezWrite _ _ => cases h
  | chaezRead _ _ => cases h
  | release _ => cases h
  | releaseSkip _ => cases h
  | endTask _ => cases h
  | digestReset _ => cases h
  | unfence _ => cases h
  | timeref _ => cases h
  | checkpoint _ _ => cases h
  | checkpointRestore _ => cases h
  | reset => cases h
  | recovery _ => cases h
  | statusReport _ _ => cases h
  | powerOn => cases h
  | thermalTrip _ => cases h
  | attestNonceWrite _ => cases h
  | attestTidWrite _ => cases h
  | attestReportRead => cases h
  | rowPacket _ => cases h
  | switchRowPacket _ => cases h
  | peerAccessPacket _ => cases h
  | fabricTimeout _ => cases h
  | collOutcome _ _ _ => cases h
  | timeBeacon _ _ => cases h
  | domainJoin _ _ => cases h
  | referenceLoss _ => cases h
  | computeDieTemperature _ _ => cases h

/-- A step without a word has a next state in every state. -/
theorem event_next (i : Instr) (s : State) (h : i.opcode = none) : ∃ t, exec i s = .next t := by
  cases i with
  | add _ _ _ _ _ => cases h
  | sub _ _ _ _ _ => cases h
  | mul _ _ _ _ _ => cases h
  | mulh _ _ _ _ _ => cases h
  | div _ _ _ _ _ => cases h
  | rem _ _ _ _ _ => cases h
  | and _ _ _ _ => cases h
  | or _ _ _ _ => cases h
  | xor _ _ _ _ => cases h
  | andn _ _ _ _ => cases h
  | shl _ _ _ _ _ => cases h
  | shr _ _ _ _ _ => cases h
  | sra _ _ _ _ _ => cases h
  | rotl _ _ _ _ _ => cases h
  | min _ _ _ _ _ => cases h
  | max _ _ _ _ _ => cases h
  | clz _ _ _ _ => cases h
  | ctz _ _ _ _ => cases h
  | popc _ _ _ _ => cases h
  | bext _ _ _ _ _ => cases h
  | bins _ _ _ _ => cases h
  | sel _ _ _ _ _ => cases h
  | cmp _ _ _ _ _ => cases h
  | hash64 _ _ _ _ => cases h
  | movi _ _ _ => cases h
  | movh _ _ _ => cases h
  | pset _ _ _ _ _ => cases h
  | pand _ _ _ _ _ _ => cases h
  | por _ _ _ _ _ _ => cases h
  | pnot _ _ _ _ => cases h
  | addImm _ _ _ _ => cases h
  | subImm _ _ _ _ => cases h
  | mulImm _ _ _ _ => cases h
  | mulhImm _ _ _ _ => cases h
  | divImm _ _ _ _ => cases h
  | remImm _ _ _ _ => cases h
  | andImm _ _ _ _ => cases h
  | orImm _ _ _ _ => cases h
  | xorImm _ _ _ _ => cases h
  | andnImm _ _ _ _ => cases h
  | shlImm _ _ _ _ => cases h
  | shrImm _ _ _ _ => cases h
  | sraImm _ _ _ _ => cases h
  | rotlImm _ _ _ _ => cases h
  | minImm _ _ _ _ => cases h
  | maxImm _ _ _ _ => cases h
  | cmpImm _ _ _ _ => cases h
  | fadd _ _ _ _ => cases h
  | fsub _ _ _ _ => cases h
  | fmul _ _ _ _ => cases h
  | fma _ _ _ _ _ => cases h
  | fdiv _ _ _ _ => cases h
  | frcp _ _ _ => cases h
  | frsq _ _ _ => cases h
  | fmin _ _ _ _ _ => cases h
  | fmax _ _ _ _ _ => cases h
  | fcmp _ _ _ _ _ => cases h
  | fclass _ _ _ _ => cases h
  | fcvt _ _ _ _ _ => cases h
  | fsgn _ _ _ _ _ => cases h
  | vadd _ _ _ _ _ _ => cases h
  | vsub _ _ _ _ _ _ => cases h
  | vmul _ _ _ _ _ _ => cases h
  | vmin _ _ _ _ _ _ => cases h
  | vmax _ _ _ _ _ _ => cases h
  | vsgn _ _ _ _ _ _ => cases h
  | vcmp _ _ _ _ _ _ => cases h
  | vfma _ _ _ _ _ => cases h
  | vsel _ _ _ _ _ => cases h
  | vcvt _ _ _ _ _ => cases h
  | vscl _ _ _ _ => cases h
  | vred _ _ _ _ _ => cases h
  | vbc _ _ _ _ => cases h
  | vperm _ _ _ _ _ => cases h
  | vmov _ _ _ => cases h
  | vmovSr _ _ _ _ => cases h
  | nop => cases h
  | ret => cases h
  | doneF => cases h
  | yieldF => cases h
  | hret => cases h
  | trigger => cases h
  | eret => cases h
  | unfuse => cases h
  | rejoin => cases h
  | br _ _ _ => cases h
  | jmp _ => cases h
  | call _ => cases h
  | jmpr _ _ => cases h
  | loop _ _ => cases h
  | brk _ => cases h
  | trap _ => cases h
  | pfx _ => cases h
  | lea _ _ _ _ _ => cases h
  | madv _ _ _ _ _ _ => cases h
  | fwalk _ _ _ => cases h
  | brank _ _ _ _ => cases h
  | ld _ _ _ _ _ _ => cases h
  | ldAcq _ _ _ _ _ _ _ => cases h
  | st _ _ _ _ _ => cases h
  | stRel _ _ _ _ _ _ => cases h
  | ldp _ _ _ _ => cases h
  | stp _ _ _ _ => cases h
  | pf _ _ _ _ => cases h
  | fence _ => cases h
  | amo _ _ _ _ _ _ => cases h
  | cas _ _ _ _ _ => cases h
  | red _ _ _ _ _ => cases h
  | ldf _ _ _ _ _ => cases h
  | ldfe _ _ _ _ _ => cases h
  | stf _ _ _ _ _ => cases h
  | stfw _ _ _ _ _ => cases h
  | fest _ _ _ _ _ => cases h
  | st4 _ _ _ _ _ => cases h
  | aqPush _ _ _ _ _ => cases h
  | aqList _ _ _ _ _ _ => cases h
  | dqPop _ _ => cases h
  | dqCnt _ => cases h
  | spawn _ _ _ => cases h
  | migr _ _ => cases h
  | send _ _ _ _ => cases h
  | sendQ _ _ _ _ => cases h
  | sendR _ _ => cases h
  | rqPush _ => cases h
  | rqTry _ _ => cases h
  | rqStat _ _ _ => cases h
  | tlaunch _ _ _ => cases h
  | twait _ _ => cases h
  | segld _ _ => cases h
  | segrd _ _ _ => cases h
  | dtld _ _ _ => cases h
  | tbld _ _ _ _ => cases h
  | xpld _ _ _ => cases h
  | gkbind _ _ _ _ => cases h
  | ptinvPage _ _ _ => cases h
  | ptinvAsid _ _ => cases h
  | ptinvAll _ => cases h
  | dwait _ _ => cases h
  | await _ _ => cases h
  | dset _ _ => cases h
  | dadd _ _ => cases h
  | acbind _ _ => cases h
  | bar _ _ _ => cases h
  | tread _ => cases h
  | erd _ _ => cases h
  | pcrd _ _ => cases h
  | sysrd _ _ => cases h
  | syswr _ _ => cases h
  | rndset _ _ _ _ _ _ => cases h
  | wake _ _ _ => cases h
  | vld _ _ _ _ => cases h
  | vst _ _ _ _ => cases h
  | vldg _ _ _ _ _ => cases h
  | vsts _ _ _ _ _ => cases h
  | mzero _ => cases h
  | mldb _ _ _ _ => cases h
  | mma _ _ _ _ _ => cases h
  | mrot _ => cases h
  | mdrain _ _ _ _ => cases h
  | mxch _ _ => cases h
  | fuse _ => cases h
  | gather core entry => rw [Arm.gather]; unfold execGather; repeat' (first | exact ⟨_, rfl⟩ | split | dsimp only)
  | scatter core entry => rw [Arm.scatter]; unfold execScatter; repeat' (first | exact ⟨_, rfl⟩ | split | dsimp only)
  | accum core entry => rw [Arm.accum]; unfold execAccum; repeat' (first | exact ⟨_, rfl⟩ | split | dsimp only)
  | dedup core entry => rw [Arm.dedup]; unfold execDedup; repeat' (first | exact ⟨_, rfl⟩ | split | dsimp only)
  | reduce core entry => rw [Arm.reduce]; unfold execReduce; repeat' (first | exact ⟨_, rfl⟩ | split | dsimp only)
  | copy core entry => rw [Arm.copy]; unfold execCopy; repeat' (first | exact ⟨_, rfl⟩ | split | dsimp only)
  | walk core entry => rw [Arm.walk]; unfold execWalk; repeat' (first | exact ⟨_, rfl⟩ | split | dsimp only)
  | fill core entry => rw [Arm.fill]; unfold execFill; repeat' (first | exact ⟨_, rfl⟩ | split | dsimp only)
  | coll core entry => rw [Arm.coll]; unfold execColl; repeat' (first | exact ⟨_, rfl⟩ | split | dsimp only)
  | res core entry => rw [Arm.res]; unfold execRes; repeat' (first | exact ⟨_, rfl⟩ | split | dsimp only)
  | abt core entry => rw [Arm.abt]; unfold execAbt; repeat' (first | exact ⟨_, rfl⟩ | split | dsimp only)
  | commandStart core => rw [Arm.commandStart]; unfold execCommandStart; repeat' (first | exact ⟨_, rfl⟩ | split | dsimp only)
  | commandRetire core entry => rw [Arm.commandRetire]; unfold execCommandRetire; repeat' (first | exact ⟨_, rfl⟩ | split | dsimp only)
  | commandStop core entry => rw [Arm.commandStop]; unfold execCommandStop; repeat' (first | exact ⟨_, rfl⟩ | split | dsimp only)
  | sequencerCycle core => rw [Arm.sequencerCycle]; unfold execSequencerCycle; repeat' (first | exact ⟨_, rfl⟩ | split | dsimp only)
  | quantumEnd core strand => rw [Arm.quantumEnd]; unfold execQuantumEnd; repeat' (first | exact ⟨_, rfl⟩ | split | dsimp only)
  | waitTimeout core slot => rw [Arm.waitTimeout]; unfold execWaitTimeout; repeat' (first | exact ⟨_, rfl⟩ | split | dsimp only)
  | accessReply id => rw [Arm.accessReply]; unfold execAccessReply; repeat' (first | exact ⟨_, rfl⟩ | split | dsimp only)
  | replyForward id => rw [Arm.replyForward]; unfold execReplyForward; repeat' (first | exact ⟨_, rfl⟩ | split | dsimp only)
  | icacheFill id => rw [Arm.icacheFill]; unfold execIcacheFill; repeat' (first | exact ⟨_, rfl⟩ | split | dsimp only)
  | tlbLookup id => rw [Arm.tlbLookup]; unfold execTlbLookup; repeat' (first | exact ⟨_, rfl⟩ | split | dsimp only)
  | walkEnd id => rw [Arm.walkEnd]; unfold execWalkEnd; repeat' (first | exact ⟨_, rfl⟩ | split | dsimp only)
  | handlerStart core => rw [Arm.handlerStart]; unfold execHandlerStart; repeat' (first | exact ⟨_, rfl⟩ | split | dsimp only)
  | inboxReservation id => rw [Arm.inboxReservation]; unfold execInboxReservation; repeat' (first | exact ⟨_, rfl⟩ | split | dsimp only)
  | messageWrite id => rw [Arm.messageWrite]; unfold execMessageWrite; repeat' (first | exact ⟨_, rfl⟩ | split | dsimp only)
  | migrationReserve id => rw [Arm.migrationReserve]; unfold execMigrationReserve; repeat' (first | exact ⟨_, rfl⟩ | split | dsimp only)
  | migrationArrival id => rw [Arm.migrationArrival]; unfold execMigrationArrival; repeat' (first | exact ⟨_, rfl⟩ | split | dsimp only)
  | wakeDelivery id => rw [Arm.wakeDelivery]; unfold execWakeDelivery; repeat' (first | exact ⟨_, rfl⟩ | split | dsimp only)
  | remoteTileAccess id => rw [Arm.remoteTileAccess]; unfold execRemoteTileAccess; repeat' (first | exact ⟨_, rfl⟩ | split | dsimp only)
  | feWithdrawal id => rw [Arm.feWithdrawal]; unfold execFeWithdrawal; repeat' (first | exact ⟨_, rfl⟩ | split | dsimp only)
  | storeBufferSend core id => rw [Arm.storeBufferSend]; unfold execStoreBufferSend; repeat' (first | exact ⟨_, rfl⟩ | split | dsimp only)
  | storeAck id => rw [Arm.storeAck]; unfold execStoreAck; repeat' (first | exact ⟨_, rfl⟩ | split | dsimp only)
  | controllerIssue id => rw [Arm.controllerIssue]; unfold execControllerIssue; repeat' (first | exact ⟨_, rfl⟩ | split | dsimp only)
  | accumulateAccept id => rw [Arm.accumulateAccept]; unfold execAccumulateAccept; repeat' (first | exact ⟨_, rfl⟩ | split | dsimp only)
  | combiningDrain ctrl atom => rw [Arm.combiningDrain]; unfold execCombiningDrain; repeat' (first | exact ⟨_, rfl⟩ | split | dsimp only)
  | geckoToken id => rw [Arm.geckoToken]; unfold execGeckoToken; repeat' (first | exact ⟨_, rfl⟩ | split | dsimp only)
  | rowCacheExpiry core atom => rw [Arm.rowCacheExpiry]; unfold execRowCacheExpiry; repeat' (first | exact ⟨_, rfl⟩ | split | dsimp only)
  | promotionEpoch chan => rw [Arm.promotionEpoch]; unfold execPromotionEpoch; repeat' (first | exact ⟨_, rfl⟩ | split | dsimp only)
  | scrub atom => rw [Arm.scrub]; unfold execScrub; repeat' (first | exact ⟨_, rfl⟩ | split | dsimp only)
  | refresh chan bank row => rw [Arm.refresh]; unfold execRefresh; repeat' (first | exact ⟨_, rfl⟩ | split | dsimp only)
  | stackTemperatureReport stack temp => rw [Arm.stackTemperatureReport]; unfold execStackTemperatureReport; repeat' (first | exact ⟨_, rfl⟩ | split | dsimp only)
  | hostSnoop line own => rw [Arm.hostSnoop]; unfold execHostSnoop; repeat' (first | exact ⟨_, rfl⟩ | split | dsimp only)
  | snoopApply => rw [Arm.snoopApply]; unfold execSnoopApply; repeat' (first | exact ⟨_, rfl⟩ | split | dsimp only)
  | hostResponse id grantE line => rw [Arm.hostResponse]; unfold execHostResponse; repeat' (first | exact ⟨_, rfl⟩ | split | dsimp only)
  | cxlLinkDown => rw [Arm.cxlLinkDown]; unfold execCxlLinkDown; repeat' (first | exact ⟨_, rfl⟩ | split | dsimp only)
  | cxlLinkRetrain => rw [Arm.cxlLinkRetrain]; unfold execCxlLinkRetrain; repeat' (first | exact ⟨_, rfl⟩ | split | dsimp only)
  | hostRegisterAccess off size wr => rw [Arm.hostRegisterAccess]; unfold execHostRegisterAccess; repeat' (first | exact ⟨_, rfl⟩ | split | dsimp only)
  | mmaStep core strand => rw [Arm.mmaStep]; unfold execMmaStep; repeat' (first | exact ⟨_, rfl⟩ | split | dsimp only)
  | mrotComplete id => rw [Arm.mrotComplete]; unfold execMrotComplete; repeat' (first | exact ⟨_, rfl⟩ | split | dsimp only)
  | mxchComplete id => rw [Arm.mxchComplete]; unfold execMxchComplete; repeat' (first | exact ⟨_, rfl⟩ | split | dsimp only)
  | rejoinLineHigh core strand => rw [Arm.rejoinLineHigh]; unfold execRejoinLineHigh; repeat' (first | exact ⟨_, rfl⟩ | split | dsimp only)
  | barrierComplete core kind => rw [Arm.barrierComplete]; unfold execBarrierComplete; repeat' (first | exact ⟨_, rfl⟩ | split | dsimp only)
  | timeTick => rw [Arm.timeTick]; unfold execTimeTick; repeat' (first | exact ⟨_, rfl⟩ | split | dsimp only)
  | governorWindow u => rw [Arm.governorWindow]; unfold execGovernorWindow; repeat' (first | exact ⟨_, rfl⟩ | split | dsimp only)
  | vfEvaluate dom spend => rw [Arm.vfEvaluate]; unfold execVfEvaluate; repeat' (first | exact ⟨_, rfl⟩ | split | dsimp only)
  | energyExhausted dom => rw [Arm.energyExhausted]; unfold execEnergyExhausted; repeat' (first | exact ⟨_, rfl⟩ | split | dsimp only)
  | equalisation lanes => rw [Arm.equalisation]; unfold execEqualisation; repeat' (first | exact ⟨_, rfl⟩ | split | dsimp only)
  | dispatch plan => rw [Arm.dispatch]; unfold execDispatch; repeat' (first | exact ⟨_, rfl⟩ | split | dsimp only)
  | preempt tid => rw [Arm.preempt]; unfold execPreempt; repeat' (first | exact ⟨_, rfl⟩ | split | dsimp only)
  | taskComplete tid energy => rw [Arm.taskComplete]; unfold execTaskComplete; repeat' (first | exact ⟨_, rfl⟩ | split | dsimp only)
  | fqgetWrite die value => rw [Arm.fqgetWrite]; unfold execFqgetWrite; repeat' (first | exact ⟨_, rfl⟩ | split | dsimp only)
  | registerWrite id => rw [Arm.registerWrite]; unfold execRegisterWrite; repeat' (first | exact ⟨_, rfl⟩ | split | dsimp only)
  | broadcastWrite off value => rw [Arm.broadcastWrite]; unfold execBroadcastWrite; repeat' (first | exact ⟨_, rfl⟩ | split | dsimp only)
  | inspectionAccess core off wr => rw [Arm.inspectionAccess]; unfold execInspectionAccess; repeat' (first | exact ⟨_, rfl⟩ | split | dsimp only)
  | chaezWrite pa data => rw [Arm.chaezWrite]; unfold execChaezWrite; repeat' (first | exact ⟨_, rfl⟩ | split | dsimp only)
  | chaezRead pa dwords => rw [Arm.chaezRead]; unfold execChaezRead; repeat' (first | exact ⟨_, rfl⟩ | split | dsimp only)
  | release target => rw [Arm.release]; unfold execRelease; repeat' (first | exact ⟨_, rfl⟩ | split | dsimp only)
  | releaseSkip target => rw [Arm.releaseSkip]; unfold execReleaseSkip; repeat' (first | exact ⟨_, rfl⟩ | split | dsimp only)
  | endTask target => rw [Arm.endTask]; unfold execEndTask; repeat' (first | exact ⟨_, rfl⟩ | split | dsimp only)
  | digestReset desc => rw [Arm.digestReset]; unfold execDigestReset; repeat' (first | exact ⟨_, rfl⟩ | split | dsimp only)
  | unfence port => rw [Arm.unfence]; unfold execUnfence; repeat' (first | exact ⟨_, rfl⟩ | split | dsimp only)
  | timeref dom => rw [Arm.timeref]; unfold execTimeref; repeat' (first | exact ⟨_, rfl⟩ | split | dsimp only)
  | checkpoint name tier => rw [Arm.checkpoint]; unfold execCheckpoint; repeat' (first | exact ⟨_, rfl⟩ | split | dsimp only)
  | checkpointRestore chunks => rw [Arm.checkpointRestore]; unfold execCheckpointRestore; repeat' (first | exact ⟨_, rfl⟩ | split | dsimp only)
  | reset => rw [Arm.reset]; unfold execReset; repeat' (first | exact ⟨_, rfl⟩ | split | dsimp only)
  | recovery piece => rw [Arm.recovery]; unfold execRecovery; repeat' (first | exact ⟨_, rfl⟩ | split | dsimp only)
  | statusReport io modl => rw [Arm.statusReport]; unfold execStatusReport; repeat' (first | exact ⟨_, rfl⟩ | split | dsimp only)
  | powerOn => rw [Arm.powerOn]; unfold execPowerOn; repeat' (first | exact ⟨_, rfl⟩ | split | dsimp only)
  | thermalTrip temp => rw [Arm.thermalTrip]; unfold execThermalTrip; repeat' (first | exact ⟨_, rfl⟩ | split | dsimp only)
  | attestNonceWrite nonce => rw [Arm.attestNonceWrite]; unfold execAttestNonceWrite; repeat' (first | exact ⟨_, rfl⟩ | split | dsimp only)
  | attestTidWrite value => rw [Arm.attestTidWrite]; unfold execAttestTidWrite; repeat' (first | exact ⟨_, rfl⟩ | split | dsimp only)
  | attestReportRead => rw [Arm.attestReportRead]; unfold execAttestReportRead; repeat' (first | exact ⟨_, rfl⟩ | split | dsimp only)
  | rowPacket pkt => rw [Arm.rowPacket]; unfold execRowPacket; repeat' (first | exact ⟨_, rfl⟩ | split | dsimp only)
  | switchRowPacket id => rw [Arm.switchRowPacket]; unfold execSwitchRowPacket; repeat' (first | exact ⟨_, rfl⟩ | split | dsimp only)
  | peerAccessPacket pkt => rw [Arm.peerAccessPacket]; unfold execPeerAccessPacket; repeat' (first | exact ⟨_, rfl⟩ | split | dsimp only)
  | fabricTimeout id => rw [Arm.fabricTimeout]; unfold execFabricTimeout; repeat' (first | exact ⟨_, rfl⟩ | split | dsimp only)
  | collOutcome core entry others => rw [Arm.collOutcome]; unfold execCollOutcome; repeat' (first | exact ⟨_, rfl⟩ | split | dsimp only)
  | timeBeacon ref ahead => rw [Arm.timeBeacon]; unfold execTimeBeacon; repeat' (first | exact ⟨_, rfl⟩ | split | dsimp only)
  | domainJoin dom time => rw [Arm.domainJoin]; unfold execDomainJoin; repeat' (first | exact ⟨_, rfl⟩ | split | dsimp only)
  | referenceLoss dom => rw [Arm.referenceLoss]; unfold execReferenceLoss; repeat' (first | exact ⟨_, rfl⟩ | split | dsimp only)
  | computeDieTemperature die temp => rw [Arm.computeDieTemperature]; unfold execComputeDieTemperature; repeat' (first | exact ⟨_, rfl⟩ | split | dsimp only)

/-- A word of a live issue has a next state. -/
theorem exec_live {i : Instr} {s : State} (h : i.opcode.isSome = true) (hl : s.issue.live = true) :
    ∃ t, exec i s = .next t := by
  obtain ⟨eff, he⟩ := exec_run i s h
  rw [he]
  exact run_live hl

/-- Whatever issues, an instruction has a next state. -/
theorem exec_next {i : Instr} {s : State} (hl : s.issue.live = true) : ∃ t, exec i s = .next t := by
  by_cases h : i.opcode.isSome = true
  · exact exec_live h hl
  · exact event_next i s (by simpa using h)

/-- A word that fails a check takes the fault of that check and ends its issue (04 R75). -/
theorem exec_check {i : Instr} {s : State} {code : FCode} (h : i.opcode.isSome = true) (hl : s.issue.live = true)
    (hc : checkWord i s = some code) :
    exec i s = .next { (faultHere s i code .none 0).1 with
      issue := { (faultHere s i code .none 0).1.issue with ended := true } } := by
  obtain ⟨eff, he⟩ := exec_run i s h
  rw [he]
  exact run_fault hl hc

end Sys2Proof.Machine
end

