-- ==== Sys2Proof/Laws/Words.lean ====
section
/-! SUPPORT. Words: sign extension, counts of 6 bits, register pairs; and a result, the commit and the sending of a
full/empty word, each in one equation. -/

namespace Sys2Proof.Machine

/-- Sign extension by arithmetic is that of BitVec (04 R79). -/
theorem sext_eq (n v : Nat) (h0 : 0 < n) (h : n ≤ 64) : sext n v = (BitVec.ofNat n v).signExtend 64 := by
  apply BitVec.eq_of_toNat_eq
  have hp : (2 : Nat) ^ n = 2 * 2 ^ (n - 1) := by rw [← Nat.pow_succ']; congr 1; omega
  have hp64 : (2 : Nat) ^ n ≤ 2 ^ 64 := Nat.pow_le_pow_right (by decide) h
  have hu : v % 2 ^ n < 2 ^ n := Nat.mod_lt _ (Nat.two_pow_pos n)
  rw [BitVec.toNat_signExtend, BitVec.msb_eq_decide]
  simp only [sext, h0, decide_true, Bool.true_and, decide_eq_true_eq, BitVec.toNat_ofNat, BitVec.toNat_setWidth]
  generalize v % 2 ^ n = u at *
  generalize 2 ^ n = m at *
  generalize 2 ^ (n - 1) = k at *
  split
  · rw [BitVec.toNat_ofNat]; omega
  · rw [BitVec.toNat_ofNat]; omega

/-! The shifts and the rotation by a count of 6 bits (05 R102). -/

theorem shlRes_count (a : W64) (imm : BitVec 6) : shlRes false a (imm.setWidth 64) = a <<< imm.toNat := by
  have h := imm.isLt
  have : (imm.setWidth 64).toNat = imm.toNat := by simp; omega
  simp only [shlRes, shlN, this]; simp; omega

theorem shrRes_count (a : W64) (imm : BitVec 6) : shrRes false a (imm.setWidth 64) = a >>> imm.toNat := by
  have h := imm.isLt
  have : (imm.setWidth 64).toNat = imm.toNat := by simp; omega
  simp only [shrRes, shrN, this]; simp; omega

theorem sraRes_count (a : W64) (imm : BitVec 6) : sraRes false a (imm.setWidth 64) = a.sshiftRight imm.toNat := by
  have h := imm.isLt
  have : (imm.setWidth 64).toNat = imm.toNat := by simp; omega
  simp only [sraRes, sraN, this]; simp; split <;> first | rfl | omega

theorem rotlRes_count (a : W64) (imm : BitVec 6) : rotlRes false a (imm.setWidth 64) = a.rotateLeft imm.toNat := by
  have h := imm.isLt
  have : (imm.setWidth 64).toNat = imm.toNat := by simp; omega
  simp [rotlRes, this]; try congr 1; try omega

/-- The value of a register pair (13 R339). -/
theorem pair128_eq (s : State) (a : Reg) : pair128 s a = rd s (succReg a) ++ rd s a := by
  apply BitVec.eq_of_toNat_eq
  have h1 := (rd s a).isLt
  have h2 := (rd s (succReg a)).isLt
  rw [pair128, BitVec.toNat_ofNat, BitVec.toNat_append, Nat.mod_eq_of_lt (by omega), ← Nat.shiftLeft_add_eq_or_of_lt h1,
    Nat.shiftLeft_eq]
  omega

/-- A result is written to the issuing fibre, captured and committed. -/
theorem result_of {s : State} {f : Fibre} (i : Instr) (d : Reg) (v : W64)
    (hs : getFib s s.issue.core s.issue.slot = some f) :
    result i s d v = goesOn i (withFibre (taken s v) (putReg f d v)) := by
  have e1 : wr s d v = withFibre s (putReg f d v) := modMe_of _ hs
  have e2 : (me (wr s d v)).sch = (me s).sch := me_modMe_sch fun f => putReg_sch f d v
  have e3 : (wr s d v).issue = s.issue := rfl
  simp only [result, taken, e2, e3]
  split
  · rw [e1, captured_withFibre]
  · rw [e1]

/-- A commit leaves the strands as they are. -/
theorem retire_seq (s : State) (i : Instr) (c : Nat) (o : Option W64) :
    (getCore (dropResv (retire s i o)) c).seq = (getCore s c).seq := by
  have : (dropResv (retire s i o)) = modFib (modFib s s.issue.core s.issue.slot _) s.issue.core s.issue.slot _ := rfl
  rw [this]
  by_cases h : c = s.issue.core
  · subst h
    simp [modFib]
  · simp [modFib, getCore_modCore_other _ _ _ _ h]

/-- A full/empty access that leaves the core (08 R208). -/
theorem feSend_next {s s' : State} {i : Instr} {loc : Loc} {acc : Acc1} {r : Option Reg} {acq : Bool} {ps : List Piece}
    (h1 : inHandler s = false) (h2 : canTake s .feSlot = true) (hl : noLimit s = false)
    (h3 : plan (startTimer (modQ s s.issue.core fun q => { q with feSlot := some s.issue.slot })) s.issue.core
      s.issue.slot [⟨0, loc, acc, none⟩] = (s', ps, none)) :
    feSend s i loc acc r acq = (sentOff i s' (.fe r) 8 acq ps, .next) := by
  have e := sendOff_next (i := i) (dst := .fe r) (n := 8) (acq := acq)
    (s := startTimer (modQ s s.issue.core fun q => { q with feSlot := some s.issue.slot })) h1 h3
  have hm : (modCore s s.issue.core fun k => { k with q := { k.q with feSlot := some s.issue.slot } })
      = modQ s s.issue.core fun q => { q with feSlot := some s.issue.slot } := rfl
  simp only [feSend, h1, h2, hl, hm, if_false, Bool.false_eq_true, Bool.not_true, e]

end Sys2Proof.Machine
end

