-- ==== Sys2Proof/Tests/Slice0.lean ====
section
/-! SUPPORT. Tests: ill-formed instructions that WellFormed refuses; words written from the bit positions of
spec/opcode_table.json and the codes of spec 04, with what they decode to; small steps whose results are computed by
hand from the rules named; and, for the hypotheses of every statement, a state that meets them. -/

namespace Sys2Proof.Tests

set_option Elab.async false

open Sys2Proof Sys2Proof.Machine

/-! ## Ill-formed instructions (04 R71, R72, R74 and the entries) -/

/-- One ill-formed instruction for each check. -/
def illFormed : List Instr :=
  [.add 0 .h0 (.g 1) (.g 2) .n, .fclass 0 (.g 1) (.g 2) .t8, .fclass 0 .cid (.g 2) .fp32,
   .vadd 0 1 2 3 false .fp16, .vadd 0 1 2 3 true .fp32, .vmin 0 1 2 3 false .t8, .vsgn 0 1 2 3 false .int32,
   .vcvt 0 1 2 .fp32 .fp32, .vcvt 0 1 2 .int64 .fp32, .vcvt 0 1 2 .fp32 .int64, .vred 0 .fid 1 false .fp32,
   .vred 0 (.g 1) 1 false .bf16, .vperm 0 1 2 3 .e2m1, .vmovSr 0 1 2 .int64, .jmpr .h1 (.g 1), .loop .fid 0,
   .lea .cid 0 .zr .d 0, .madv .zr (.g 1) (.g 2) 1 2 .d, .madv (.g 1) (.g 1) (.g 2) 1 2 .d,
   .madv (.g 0) (.g 1) (.g 1) 1 2 .d, .madv (.g 0) (.g 1) (.g 2) 3 3 .d, .fwalk (.g 1) (.g 2) (.g 3),
   .brank .h0 (.g 1) (.g 2) 1, .ld .h0 0 .zr .b false 0, .ld (.g 1) 0 .zr .d true 0,
   .ldAcq (.g 1) 0 .zr .d true .core 0, .ldp (.g 1) 0 .zr 0, .stp (.s 3) 0 .zr 0, .amo .fid 0 .zr .zr .add .d,
   .cas .h1 0 .zr .zr .zr, .red 0 .zr .zr .fadd .d, .ldf .h0 0 .zr .core 0, .ldfe .cid 0 .zr .core 0,
   .aqPush 0 .zr .d true 0, .aqList (.g 1) 0 .zr .d true 0, .dqPop (.g 1) true, .dqPop .h0 false, .dqCnt .fid,
   .spawn .h0 .zr 0, .migr .cid .zr, .sendR .h1 .zr, .send .h0 .zr (.g 0) 0, .send (.g 0) .zr (.g 7) 1,
   .sendQ (.g 0) .zr (.s 0) 0, .rqPush 3, .rqTry (.g 0) 3, .rqTry .h0 0, .rqStat (.g 0) .zr 7, .tlaunch .h0 .zr 0,
   .twait .fid .zr, .segld (.g 1) 2, .segld (.g 2) 1, .segrd (.g 1) false 0, .segrd (.g 2) true 1,
   .gkbind .h0 .zr 0 0, .ptinvPage .zr .zr .sys, .ptinvAsid .zr .dom, .ptinvAll .sys, .bar .row .h0 0, .tread .fid,
   .erd .h0 0, .pcrd .cid .zr, .sysrd .h0 .status, .wake .h1 .zr false, .rndset .h0 (.g 0) true false false 0,
   .rndset (.g 1) (.g 0) false false false 0, .rndset (.g 1) (.g 2) false true false 0,
   .rndset (.g 1) (.g 0) true false true 0, .mldb .int8 0 .zr 0, .mma 0 0 .fp16 .fp16 0, .mma 0 30 .fp16 .fp16 2,
   .mma 0 0 .fp32 .fp16 1, .mma 0 0 .fp16 .int8 1, .mma 0 0 .fp16 .t8 1, .mdrain 0 0 .t8 0, .mdrain 0 29 .fp32 0]

theorem test_wellformed_refuses : illFormed.any Instr.wf = false := by decide +kernel

/-- Their words, and words with a reserved field, decode to nothing. -/
theorem test_decode_refuses : (illFormed.all fun i => ((encode true i).bind decodeWord).isNone) = true := by
  decide +kernel

/-- A reserved opcode; a C word whose unused bits are set; register code 13; fmt code 8; scope code 0. -/
theorem test_decode_reserved : ([0x8D800000, 0x80000001, 0xC0068000, 0xD8000008, 0x8B800000].all fun w =>
    (decodeWord w).isNone) = true := by decide +kernel

/-- 05 R100's own example: add.w g1, g2, g3 as a lone word is 0xC000_8861; 04 R80: 0x8000_0000 is a lone nop. -/
theorem test_decode_example :
    decodeWord 0xC0008861 = some (.add 0 (.g 1) (.g 2) (.g 3) .w) ∧ decodeWord 0x80000000 = some .nop := by
  decide +kernel

/-! ## Words -/

/-- A word decodes to its instruction, which is well formed and encodes to it. -/
def reads (x : Nat × Instr) : Bool := decodeWord x.1 == some x.2 && x.2.wf && encode true x.2 == some x.1

/-- The state in which an instruction is latched, after the cycle that fetched it from where a program runs. -/
def latch (i : Instr) : State :=
  let s := State.reset.withFetchWord 32 ((encode true i).getD 0)
  match exec (nextStep s).1 (nextStep s).2 with
  | .next t => t
  | .fault _ | .refused _ => s

/-- Passes and Standing as a test. -/
def ready (i : Instr) (s : State) : Bool :=
  s.issue.live && (checkWord i s).isNone && (me s).sch.run == .running s.issue.strand
    && (getFib s s.issue.core s.issue.slot).isSome

/-- An instruction passes its checks in the state in which it is latched. -/
def passes (x : Nat × Instr) : Bool := ready x.2 (latch x.2)

def integer1Words : List (Nat × Instr) := [
  (0xC05150C1, .add 5 (.g 2) (.s 4) (.g 6) .w),
  (0xC0D150C1, .sub 5 (.g 2) (.s 4) (.g 6) .w),
  (0xC15150C1, .mul 5 (.g 2) (.s 4) (.g 6) true),
  (0xC1D150C1, .mulh 5 (.g 2) (.s 4) (.g 6) true),
  (0xC25150C3, .div 5 (.g 2) (.s 4) (.g 6) .uw),
  (0xC2D150C3, .rem 5 (.g 2) (.s 4) (.g 6) .uw),
  (0xC35150C0, .and 5 (.g 2) (.s 4) (.g 6)),
  (0xC3D150C0, .or 5 (.g 2) (.s 4) (.g 6)),
  (0xC45150C0, .xor 5 (.g 2) (.s 4) (.g 6)),
  (0xC4D150C0, .andn 5 (.g 2) (.s 4) (.g 6)),
  (0xC55150C1, .shl 5 (.g 2) (.s 4) (.g 6) true),
  (0xC5D150C1, .shr 5 (.g 2) (.s 4) (.g 6) true),
  (0xC65150C1, .sra 5 (.g 2) (.s 4) (.g 6) true),
  (0xC6D150C1, .rotl 5 (.g 2) (.s 4) (.g 6) true),
  (0xC75150C1, .min 5 (.g 2) (.s 4) (.g 6) true),
  (0xC7D150C1, .max 5 (.g 2) (.s 4) (.g 6) true),
  (0xC8515001, .clz 5 (.g 2) (.s 4) true),
  (0xC8D15001, .ctz 5 (.g 2) (.s 4) true),
  (0xC9515001, .popc 5 (.g 2) (.s 4) true),
  (0xC9D150C1, .bext 5 (.g 2) (.s 4) (.g 6) true),
  (0xCA5150C0, .bins 5 (.g 2) (.s 4) (.g 6)),
  (0xCAD150C3, .sel 5 (.g 2) (.s 4) (.g 6) 3)]

theorem test_decode_integer1 : integer1Words.all reads = true := by decide +kernel

theorem test_passes_integer1 : integer1Words.all passes = true := by decide +kernel

def integer2Words : List (Nat × Instr) := [
  (0xCB5150C1, .cmp 5 (.g 2) (.s 4) (.g 6) true),
  (0xCBD150C0, .hash64 5 (.g 2) (.s 4) (.g 6)),
  (0xCC512D2D, .movi 5 (.g 2) 11565),
  (0xCCD12D2D, .movh 5 (.g 2) 11565),
  (0xCD5C0A87, .pset 5 6 (.g 2) (.s 4) .geu),
  (0xCDDD1E00, .pand 5 6 4 3 true true),
  (0xCE5CFE00, .por 5 6 3 7 true true),
  (0xCEDCC400, .pnot 5 6 3 true),
  (0xE051512D, .addImm 5 (.g 2) (.s 4) 301),
  (0xE0D1512D, .subImm 5 (.g 2) (.s 4) 301),
  (0xE151512D, .mulImm 5 (.g 2) (.s 4) 301),
  (0xE1D1512D, .mulhImm 5 (.g 2) (.s 4) 301),
  (0xE251512D, .divImm 5 (.g 2) (.s 4) 301),
  (0xE2D1512D, .remImm 5 (.g 2) (.s 4) 301),
  (0xE351512D, .andImm 5 (.g 2) (.s 4) 301),
  (0xE3D1512D, .orImm 5 (.g 2) (.s 4) 301),
  (0xE451512D, .xorImm 5 (.g 2) (.s 4) 301),
  (0xE4D1512D, .andnImm 5 (.g 2) (.s 4) 301),
  (0xE551502D, .shlImm 5 (.g 2) (.s 4) 45),
  (0xE5D1502D, .shrImm 5 (.g 2) (.s 4) 45),
  (0xE651502D, .sraImm 5 (.g 2) (.s 4) 45),
  (0xE6D1502D, .rotlImm 5 (.g 2) (.s 4) 45)]

theorem test_decode_integer2 : integer2Words.all reads = true := by decide +kernel

theorem test_passes_integer2 : integer2Words.all passes = true := by decide +kernel

def integer3Words : List (Nat × Instr) := [
  (0xE751512D, .minImm 5 (.g 2) (.s 4) 301),
  (0xE7D1512D, .maxImm 5 (.g 2) (.s 4) 301),
  (0xEB51512D, .cmpImm 5 (.g 2) (.s 4) 301)]

theorem test_decode_integer3 : integer3Words.all reads = true := by decide +kernel

theorem test_passes_integer3 : integer3Words.all passes = true := by decide +kernel

def floatWords : List (Nat × Instr) := [
  (0xD05150C0, .fadd 5 (.g 2) (.s 4) (.g 6)),
  (0xD0D150C0, .fsub 5 (.g 2) (.s 4) (.g 6)),
  (0xD15150C0, .fmul 5 (.g 2) (.s 4) (.g 6)),
  (0xD1D150C9, .fma 5 (.g 2) (.s 4) (.g 6) .h1),
  (0xD25150C0, .fdiv 5 (.g 2) (.s 4) (.g 6)),
  (0xD2D15000, .frcp 5 (.g 2) (.s 4)),
  (0xD3515000, .frsq 5 (.g 2) (.s 4)),
  (0xD3D150C1, .fmin 5 (.g 2) (.s 4) (.g 6) true),
  (0xD45150C1, .fmax 5 (.g 2) (.s 4) (.g 6) true),
  (0xD4DC0A85, .fcmp 5 6 (.g 2) (.s 4) .ge),
  (0xD5515001, .fclass 5 (.g 2) (.s 4) .fp16),
  (0xD5D15002, .fcvt 5 (.g 2) (.s 4) .fp32 .bf16),
  (0xD65150C1, .fsgn 5 (.g 2) (.s 4) (.g 6) .n)]

theorem test_decode_float : floatWords.all reads = true := by decide +kernel

theorem test_passes_float : floatWords.all passes = true := by decide +kernel

def vectorWords : List (Nat × Instr) := [
  (0xD854D7D6, .vadd 5 9 21 30 true .int32),
  (0xD8D4D7D7, .vsub 5 9 21 30 true .int64),
  (0xD954D7D6, .vmul 5 9 21 30 true .int32),
  (0xDA54D7D6, .vmin 5 9 21 30 true .int32),
  (0xDAD4D7D0, .vmax 5 9 21 30 true .fp32),
  (0xDB54D7D2, .vsgn 5 9 21 30 true .bf16),
  (0xDD54D7D7, .vcmp 5 9 21 30 true .int64),
  (0xD9D4D7D1, .vfma 5 9 21 30 17),
  (0xDDD4D7D1, .vsel 5 9 21 30 17),
  (0xDBD4D420, .vcvt 5 9 21 .fp16 .fp32),
  (0xDC54D7C0, .vscl 5 9 21 30),
  (0xDCD12416, .vred 5 (.g 2) 9 true .int32),
  (0xDE548801, .vbc 5 9 (.g 2) .fp16),
  (0xDED4D7C1, .vperm 5 9 21 30 .fp16),
  (0xDF54D400, .vmov 5 9 21),
  (0xDF54D413, .vmovSr 5 9 21 .t8)]

theorem test_decode_vector : vectorWords.all reads = true := by decide +kernel

theorem test_passes_vector : vectorWords.all passes = true := by decide +kernel

def controlWords : List (Nat × Instr) := [
  (0x80000000, .nop),
  (0x82800000, .ret),
  (0x83800000, .doneF),
  (0x84000000, .yieldF),
  (0xAA800000, .eret),
  (0x80DD2D2D, .br 5 true 339245),
  (0x812D2D2D, .jmp 2960685),
  (0x822D2D2D, .call 2960685),
  (0x8188C000, .jmpr (.g 2) (.g 6)),
  (0x83092D2D, .loop (.g 2) 77101),
  (0x84802D2D, .brk 11565),
  (0xAA002D2D, .trap 11565),
  (0xA92D2D2D, .pfx 2960685),
  (0x850A922D, .lea (.g 2) 5 (.g 4) .w 45),
  (0x8688866A, .madv (.g 2) (.g 4) (.g 6) 3 2 .w),
  (0x87088600, .fwalk (.g 2) (.g 4) (.g 6)),
  (0x87888606, .brank (.g 2) (.g 4) (.g 6) 6),
  (0xA8081800, .sysrd (.g 2) .timeout),
  (0xA8881800, .syswr (.g 2) .timeout),
  (0xA98880CD, .rndset (.g 2) (.g 4) true true true 5),
  (0xAB088001, .wake (.g 2) (.g 4) true)]

theorem test_decode_control : controlWords.all reads = true := by decide +kernel

theorem test_passes_control : controlWords.all passes = true := by decide +kernel

def memoryWords : List (Nat × Instr) := [
  (0x880A92AD, .ld (.g 2) 5 (.g 4) .w true 45),
  (0x888A92BD, .ldAcq (.g 2) 5 (.g 4) .w true .dev 13),
  (0x890A922D, .st (.g 2) 5 (.g 4) .w 45),
  (0x898A923D, .stRel (.g 2) 5 (.g 4) .w .dev 13),
  (0x8A128B2D, .ldp (.g 4) 5 (.g 2) 45),
  (0x8A928B2D, .stp (.g 4) 5 (.g 2) 45),
  (0x8B028A2D, .pf 5 (.g 2) .w 45),
  (0x8BB00000, .fence .dev),
  (0x8C0A90D6, .amo (.g 2) 5 (.g 4) (.g 6) .max .w),
  (0x8C8A90C9, .cas (.g 2) 5 (.g 4) (.g 6) .h1),
  (0x8D02889A, .red 5 (.g 2) (.g 4) .fadd .w),
  (0x900A91AD, .ldf (.g 2) 5 (.g 4) .dev 45),
  (0x908A91AD, .ldfe (.g 2) 5 (.g 4) .dev 45),
  (0x910A91AD, .stf (.g 2) 5 (.g 4) .dev 45),
  (0x918A91AD, .stfw (.g 2) 5 (.g 4) .dev 45),
  (0x920689AD, .fest true 5 (.g 2) .dev 45),
  (0x928A90AD, .st4 (.g 2) 5 (.g 4) true 45)]

theorem test_decode_memory : memoryWords.all reads = true := by decide +kernel

theorem test_passes_memory : memoryWords.all passes = true := by decide +kernel

def queueWords : List (Nat × Instr) := [
  (0x97800000, .hret),
  (0x9A000000, .trigger),
  (0x94028AAD, .aqPush 5 (.g 2) .w true 45),
  (0x948A92AD, .aqList (.g 2) 5 (.g 4) .w true 45),
  (0x95080001, .dqPop (.g 2) true),
  (0x95880000, .dqCnt (.g 2)),
  (0x96088D2D, .spawn (.g 2) (.g 4) 3373),
  (0x96888000, .migr (.g 2) (.g 4)),
  (0x97088101, .send (.g 2) (.g 4) (.g 1) 1),
  (0x97088105, .sendQ (.g 2) (.g 4) (.g 1) 1),
  (0x97080408, .sendR (.g 2) (.g 4)),
  (0x98200000, .rqPush 2),
  (0x98880002, .rqTry (.g 2) 2),
  (0x99088005, .rqStat (.g 2) (.g 4) 5),
  (0x99888005, .tlaunch (.g 2) (.g 4) 5),
  (0x9A888000, .twait (.g 2) (.g 4))]

theorem test_decode_queue : queueWords.all reads = true := by decide +kernel

theorem test_passes_queue : queueWords.all passes = true := by decide +kernel

def systemWords : List (Nat × Instr) := [
  (0x9C008005, .segld (.g 4) 5),
  (0x9C88000D, .segrd (.g 2) true 5),
  (0x9D028B2D, .dtld 5 (.g 2) 45),
  (0x9D8A932D, .tbld (.g 2) 5 (.g 4) 45),
  (0x9E028B2D, .xpld 5 (.g 2) 45),
  (0x9E88D6D0, .gkbind (.g 2) (.g 6) 45 5),
  (0x9F004403, .ptinvPage (.g 2) (.g 4) .dev),
  (0x9F00020B, .ptinvAsid (.g 2) .dev),
  (0x9F000013, .ptinvAll .dev),
  (0xA05D2D2D, .dwait 5 863533),
  (0xA25D2D2D, .await 5 863533),
  (0xA0D10000, .dset 5 (.g 2)),
  (0xA1510000, .dadd 5 (.g 2)),
  (0xA1D10000, .acbind 5 (.g 2)),
  (0xA2C2C000, .bar .vly (.g 2) 6),
  (0xA3080000, .tread (.g 2)),
  (0xA3880001, .erd (.g 2) 1),
  (0xA4088000, .pcrd (.g 2) (.g 4))]

theorem test_decode_system : systemWords.all reads = true := by decide +kernel

theorem test_passes_system : systemWords.all passes = true := by decide +kernel

def matrixWords : List (Nat × Instr) := [
  (0xB4800000, .unfuse),
  (0xB5000000, .rejoin),
  (0xAC26892D, .vld 9 5 (.g 2) 301),
  (0xACA6892D, .vst 9 5 (.g 2) 301),
  (0xAD268AB0, .vldg 9 5 (.g 2) 21 .w),
  (0xADA68AB0, .vsts 9 5 (.g 2) 21 .w),
  (0xB0400000, .mzero 2),
  (0xB0A2892D, .mldb .e2m1 5 (.g 2) 301),
  (0xB1431205, .mma 2 3 .fp16 .bf16 5),
  (0xB180002D, .mrot 45),
  (0xB25C0B40, .mdrain 2 28 .fp32 45),
  (0xB2C5A000, .mxch 2 45),
  (0xB4200000, .fuse .four)]

theorem test_decode_matrix : matrixWords.all reads = true := by decide +kernel

theorem test_passes_matrix : matrixWords.all passes = true := by decide +kernel



/-! ## States that meet the hypotheses of the statements -/

/-- A latched instruction after a change of its core, or of its fibre. -/
def onCore (f : Core → Core) (i : Instr) : State := let s := latch i
                                                    modCore s s.issue.core f
def onFibre (f : Fibre → Fibre) (i : Instr) : State := modMe (latch i) f

/-- The issuing core's contents at another place. -/
def moved (c : Nat) (s : State) : State := { setCore s c (myCore s) with issue := { s.issue with core := c } }

/-- sg0 and sg1 as a window of 16 bytes on the own tile, and as one on the scratchpad, with R, W and A. -/
def withSegs (w : W128) (k : Core) : Core := { k with segs := (k.segs.set 0 w).set 1 w }
def onTile (n : Nat) (i : Instr) : State := onCore (withSegs (segWord 0 0 n 11 0)) i
def onPad (i : Instr) : State := onCore (withSegs (segWord 0 0 65536 11 3)) i

/-- A segment check that succeeds on the own tile at an offset, or at a place elsewhere. -/
def ownAt (s : State) (o : Nat) (r : Except Err Loc) : Bool :=
  match r with
  | .ok (.tile c p) => c == s.issue.core && p == o
  | _ => false
def farLoc (s : State) (r : Except Err Loc) : Option Loc :=
  match r with
  | .ok l => if l.isOwn s.issue.core then none else some l
  | .error _ => none

/-- The hypotheses of an own-tile form of n bytes: the check gives offset o, the range is free, the word passes. -/
def ownOk (i : Instr) (s : State) (off o n align : Nat) (rights : List Nat) : Bool :=
  ownAt s o (segAcc s.issue.core (myCore s) 0 off n align rights) && !rangeBusy s.issue.core (myCore s) o n && ready i s

/-- The hypotheses of a far load of n bytes. -/
def farOk (i : Instr) (s : State) (off n align : Nat) : Bool :=
  match farLoc s (segAcc s.issue.core (myCore s) 0 off n align [rightR]) with
  | some l => !inHandler s && !rowLooks s s.issue.core l && (forward s s.issue.core s.issue.slot l n).isNone
      && (plan s s.issue.core s.issue.slot (loadPieces l n)).2.2.isNone && ready i s
  | none => false

/-- The hypotheses of a store of parts that leaves the own tile. -/
def enterOk (i : Instr) (s : State) (parts : List (Loc × Acc1)) : Bool :=
  let e := (sbEnter s (issuer s i) parts).2
  !parts.isEmpty && parts.all (fun x => !x.1.isOwn s.issue.core) && !inHandler s
    && canTake s (.storeBuffer (partUnits parts)) && (storeFault s s.issue.core s.issue.slot parts).isNone
    && (sbResolve e s.issue.core s.issue.slot (sbGroup (getCore e s.issue.core) s.net.next)).2.isNone && ready i s

/-- Nothing is outstanding at a scope. -/
def quiet (s : State) (sc : Scope) : Bool :=
  (failureNow s sc).isNone && drained s s.issue.core s.issue.slot sc

/-- IntegerResults, ImmediateResults, FloatResults, VectorResults, PredicateResults, CaptureOrder: each A word stands
and passes (test_passes), with its predicate true. FalsePredicate: with its predicate false. -/
theorem test_witness_predicates :
    ((integer1Words ++ integer2Words ++ integer3Words ++ floatWords ++ vectorWords).all fun x =>
      match predOf x.2 with
      | some p => rdP (onFibre (fun f => { f with preds := 127 }) x.2) p
          && ready x.2 (onFibre (fun f => { f with preds := 127 }) x.2) && !rdP (latch x.2) p
      | none => false) = true := by decide +kernel

/-- CommitState, ResultFrame: a standing fibre and a word that is no prefix. Prefix: a prefix that pends and none, with
no pair; RoundingMode: no pair. -/
theorem test_witness_prefix :
    let s := latch (.pfx 5)
    let t := onFibre (fun f => { f with ctl := { f.ctl with pp := true, pfxv := 5 } }) .nop
    (ready (.pfx 5) s && s.issue.snap.isNone && (me t).ctl.pp && (me t).ctl.pfxv == 5 && ready .nop (latch .nop)
      && (latch (.rndset (.g 1) (.g 2) true true true 4)).issue.snap.isNone) = true := by decide +kernel

/-- An A half whose C word took the fibre off its strand: it has parked, or its slot is free. -/
def aHalf (g : Core → Core) (i : Instr) : State :=
  let s := modCore (latch i) (latch i).issue.core g
  { s with issue := { s.issue with snap := some (me (latch i)) } }

/-- IntegerResults, ImmediateResults, FloatResults, CommitState, ResultFrame, CaptureOrder: the A half that captures
nothing; CommitState: the A half of a freed slot. -/
theorem test_witness_half :
    let i := Instr.add 0 (.g 1) (.g 2) (.g 3) .n
    let slot := (latch i).issue.slot
    let parked := aHalf (fun k => { k with fibres := nmod k.fibres slot fun f =>
      { f with sch := { f.sch with run := .parked .reply } } }) i
    let freed := aHalf (fun k => { k with fibres := ndel k.fibres slot }) i
    let off (s : State) : Bool := s.issue.snap.isSome && match (me s).sch.run with
      | .running _ => false
      | _ => true
    ([off parked && rdP parked 0 && parked.issue.live && (checkWord i parked).isNone
        && (getFib parked parked.issue.core parked.issue.slot).isSome,
      (getFib freed freed.issue.core freed.issue.slot).isNone] : List Bool).all id = true := by decide +kernel

/-- EndYieldAndBreak (brk), TrapEntry (entry, a busy trap state, both causes of PRIVILEGE), TrapReturn (both cases). -/
theorem test_witness_traps :
    let t := onCore (fun k => { k with trap := { k.trap with tvec := 0x101 } }) (.trap 7)
    let u := modMe t fun f => { f with ctl := { f.ctl with priv := true } }
    let e := onCore (fun k => { k with trap := { k.trap with ecause := 0x20000 } }) .eret
    let b := onCore (fun k => { k with trap := { k.trap with tvec := 0x101, ecause := 0x20000 } }) (.trap 7)
    (ready (.trap 7) b && !(me b).ctl.priv && (myCore b).trap.ecause.getLsbD 17 && !inHandler b && ready (.brk 7) (latch (.brk 7)) && (latch (.brk 7)).issue.slot != handlerSlot && ready (.trap 7) t
      && t.issue.snap.isNone && !(me t).ctl.priv && (myCore t).trap.tvec.getLsbD 0
      && !(myCore t).trap.ecause.getLsbD 17 && ready (.trap 7) u && (me u).ctl.priv && ready (.trap 7) (latch (.trap 7))
      && !(myCore (latch (.trap 7))).trap.tvec.getLsbD 0 && ready .eret e && e.issue.snap.isNone
      && (myCore e).trap.ecause.getLsbD 17
      && (myCore e).trap.ecause.toNat / 2 ^ 18 % 2 ^ 8 == fidOf e.issue.core e.issue.slot % 256
      && ready .eret (latch .eret) && !(myCore (latch .eret)).trap.ecause.getLsbD 17) = true := by decide +kernel

/-- SystemReads, SystemWrites: a register of the user, one of the system with and without privilege. CoreReads: erd 3 on
a command core and on another; rq.stat of an entry that holds a command and of a free one. -/
theorem test_witness_system :
    let user := latch (.sysrd (.g 1) .tvec)
    let sys := modMe user fun f => { f with ctl := { f.ctl with priv := true } }
    let cmd := moved 4112 (latch (.erd (.g 1) 3))
    let x : Cmd := ⟨Vector.replicate 4 0, none, issuer (latch .nop) .nop, 0, 0, .done, false, 0, 0, 0, 0, [], 0, [], none,
      [], [], false, false⟩
    let held := onCore (fun k => { k with fifo := [(0, x)] }) (.rqStat (.g 1) (.g 2) 5)
    (ready (.sysrd (.g 1) .status) (latch (.sysrd (.g 1) .status)) && !sysPriv .status && sysPriv .tvec
      && ready (.sysrd (.g 1) .tvec) user && !(me user).ctl.priv && ready (.sysrd (.g 1) .tvec) sys
      && ready (.syswr (.g 1) .tvec) user && ready (.syswr (.g 1) .tvec) sys
      && ready (.syswr (.g 1) .status) (latch (.syswr (.g 1) .status)) && ready (.erd (.g 1) 3) cmd
      && kindOf cmd.issue.core == .command && kindOf (latch (.erd (.g 1) 3)).issue.core != .command
      && ready (.rqStat (.g 1) (.g 2) 5) held && (nget (myCore held).fifo ((rd held (.g 2)).toNat % 8)).isSome
      && (nget (myCore (latch (.rqStat (.g 1) (.g 2) 5))).fifo 0).isNone
      && (latch (.sysrd (.g 1) .status)).issue.snap.isNone) = true := by decide +kernel

/-- OwnTileLoads, OwnTileStores, OwnTileAtomics: forms that end at the window's last byte. -/
theorem test_witness_ownTile :
    let ld := Instr.ld (.g 1) 0 .zr .d false 1
    let la := Instr.ldAcq (.g 1) 0 .zr .w true .core 3
    let ls := Instr.ldAcq (.g 1) 0 .zr .w true .sys 3
    let lp := Instr.ldp (.g 2) 0 .zr 0
    let st := Instr.st (.g 1) 0 .zr .b 15
    let sp := Instr.stp (.g 2) 0 .zr 0
    let sr := Instr.stRel (.g 1) 0 .zr .d .dom 1
    let s4 := Instr.st4 (.g 1) 0 .zr true 15
    let re := Instr.red 0 .zr (.g 1) .add .d
    let am := Instr.amo (.g 1) 0 .zr (.g 2) .add .w
    let ca := Instr.cas (.g 1) 0 .zr (.g 2) (.g 3)
    let on := onTile 16
    (ownOk ld (on ld) (offOf (on ld) .zr 7 1 8) 8 8 8 [rightR]
      && ownOk la (on la) (offOf (on la) .zr 4 3 4) 12 4 4 [rightR]
      && ownOk ls (on ls) (offOf (on ls) .zr 4 3 4) 12 4 4 [rightR] && !inHandler (on ls)
      && ownOk lp (on lp) (offOf (on lp) .zr 7 0 8) 0 16 16 [rightR]
      && ownOk st (on st) (offOf (on st) .zr 7 15 1) 15 1 1 [rightW]
      && ownOk sp (on sp) (offOf (on sp) .zr 7 0 8) 0 16 16 [rightW]
      && ownOk sr (on sr) (offOf (on sr) .zr 4 1 8) 8 8 8 [rightW] && quiet (on sr) .dom
      && ownOk s4 (on s4) (offOf (on s4) .zr 7 15 1) 15 1 1 [rightW]
      && ownOk re (on re) 0 0 8 8 [rightW, rightA] && ownOk am (on am) 0 0 4 4 [rightR, rightW, rightA]
      && ownOk ca (on ca) 0 0 8 8 [rightR, rightW, rightA]) = true := by decide +kernel

/-- OwnTileBlocks: two tables on the own tile; a dense core whose segments are the scratchpad's or empty. -/
theorem test_witness_ownBlocks :
    let dt := Instr.dtld 0 .zr 0
    let tb := Instr.tbld (.g 1) 0 .zr 0
    let on := onTile 16384
    let row := modCore (on tb) (on tb).issue.core fun k => { k with tile := { k.tile with mem := [⟨2, 8⟩, ⟨16, 1⟩] } }
    let pad := onPad (.vld 3 0 .zr 0)
    (ownOk dt (on dt) 0 0 512 64 [rightR] && ownOk tb row 0 0 32 32 [rightR]
      && (loadSlot (myCore row) 0 (Mem.rdN (myCore row).tile.mem 0 32) (.tile row.issue.core 0)).isSome
      && kindOf pad.issue.core == .dense && (upto 8).all fun j =>
        let w := (myCore pad).segs.toList.getD j 0
        decide (2 ≤ segKind w) || segLimit w == 0) = true := by decide +kernel

/-- LevelSteps: the operands of each clause at a bound of its range. -/
theorem test_witness_levelSteps :
    (match levelStep (2 + 7 * 2 ^ 8 + 16 * 2 ^ 128) (2 ^ 64 - 1), levelStep (5 + 12 * 2 ^ 128) 0,
        levelStep (3 + 7 * 2 ^ 8 + 4 * 2 ^ 64 + 64 * 2 ^ 128 + 8 * 2 ^ 192) 2,
        levelStep (3 + 4 * 2 ^ 64 + 8 * 2 ^ 128 + 8 * 2 ^ 192) 2 with
      | .reads sg 2 0 0 [a, b], .bad .align, .reads sh 3 8 12 _, .bad .align => sg == 7 && sh == 7 && a == 8 && b == 16
      | _, _, _, _ => false) = true := by decide +kernel

/-- A crew of a task on a core, of a kind; its fields do not matter. -/
def crewOf (tid : Nat) : Crew := ⟨tid, 1, 0, 0, 0, 65536, 0, featOf .lookup, 0, 0, 0, false, false, 0⟩

/-- sg0 as a window of DRAM pages of a crew with a row cache; page 0 is translated by a leaf. -/
def onPage (leaf : W64) (g : Core → Core) (i : Instr) : State :=
  onCore (fun k => g { withSegs (segWord 0 0 4096 11 2) k with
    crew := some { crewOf 5 with cache := 1024 }, caches := { k.caches with xlate := [⟨1, 0, 16, leaf, 0⟩] } }) i

/-- What a load of n bytes meets there: a stored value, whether it looks the row cache up, a value of it, and where the
plan of its accesses ends. -/
def meets (i : Instr) (s : State) (n : Nat) : Option (Option Nat × Bool × Option Nat × Option (Option Err)) :=
  let c := s.issue.core
  match farLoc s (segAcc c (myCore s) 0 0 n n [rightR]), ready i s && !inHandler s with
  | some l, true => some ((forward s c s.issue.slot l n).map (·.2), rowLooks s c l, rowHit s c s.issue.slot l n,
      (plan (bumpEv s c 0x10C) c s.issue.slot (loadPieces l n)).2.2.map (·.2))
  | _, _ => none

/-- FarLoads: a value the store buffer holds, for a form that may go on and one that parks; a row that is held and one
that is not; a leaf without its A bit, and one of a class that is misused. -/
theorem test_witness_loads :
    let ld := Instr.ld (.g 1) 0 .zr .d false 0
    let la := Instr.ldAcq (.g 1) 0 .zr .d false .sys 0
    let stored (k : Core) : Core := { k with q := { k.q with
      sb := [(0, ⟨issuer (latch .nop) .nop, .va 0 none, storeAcc 8 9, some (.dram 0, false, 0), false, false, 0⟩)] } }
    let row (k : Core) : Core := { k with caches := { k.caches with row := [⟨0, 7, 0, 3, 16, 0, []⟩] } }
    (meets ld (onPage 0x67 stored ld) 8 == some (some 9, true, none, none)
      && meets la (onPage 0x67 stored la) 8 == some (some 9, true, none, none)
      && meets ld (onPage 0x67 row ld) 8 == some (none, true, some 7, none)
      && meets ld (onPage 0x67 id ld) 8 == some (none, true, none, none)
      && meets ld (onPage 0x47 id ld) 8 == some (none, true, none, some none)
      && meets ld (onPage 0x267 id ld) 8 == some (none, true, none, some (some (.classMisuse, .virtual, 0)))) = true := by
  decide +kernel

/-- FarLoads: the forms that are sent to the scratchpad. -/
theorem test_witness_farLoads :
    let ld := Instr.ld (.g 1) 0 .zr .d false 0
    let la := Instr.ldAcq (.g 1) 0 .zr .d false .sys 0
    let lp := Instr.ldp (.g 2) 0 .zr 0
    let vl := Instr.vld 3 0 .zr 0
    let ml := Instr.mldb .t8 0 .zr 0
    let dt := Instr.dtld 0 .zr 0
    let tb := Instr.tbld (.g 1) 0 .zr 0
    let xp := Instr.xpld 0 .zr 0
    let gk := Instr.gkbind (.g 1) (.g 2) 5 6
    (farOk ld (onPad ld) 0 8 8 && farOk la (onPad la) 0 8 8 && farOk lp (onPad lp) 0 16 16 && farOk vl (onPad vl) 0 64 64
      && farOk ml (onPad ml) 0 (tileSize .t8) 64 && farOk dt (onPad dt) 0 512 64 && farOk tb (onPad tb) 0 32 32
      && farOk xp (onPad xp) 0 1024 64 && farOk gk (onPad gk) 0 512 64
      && !(rd (onPad gk) (.g 1)).getLsbD 63) = true := by decide +kernel

/-- FarStores, FarAtomicsAndGathers. -/
theorem test_witness_farStores :
    let st := Instr.st (.g 1) 0 .zr .d 0
    let sp := Instr.stp (.g 2) 0 .zr 0
    let re := Instr.red 0 .zr (.g 1) .fadd .w
    let vs := Instr.vst 3 0 .zr 0
    let ve := Instr.vsts 3 0 .zr 4 .w
    let am := Instr.amo (.g 1) 0 .zr (.g 2) .swap .d
    let ca := Instr.cas (.g 1) 0 .zr (.g 2) (.g 3)
    let vg := Instr.vldg 3 0 .zr 4 .d
    let pad : Loc := .scratch 0
    let parts := (elemParts (onPad ve).issue.core (myCore (onPad ve)) 0 4 ((upto 16).map fun e =>
      (elemOff (onPad ve) .zr 4 4 e, laneAt (src (onPad ve)).v[3] 4 e)))
    let leaves (i : Instr) (s : State) (n : Nat) (acc : Acc1) : Bool :=
      farLoc s (segAcc s.issue.core (myCore s) 0 0 n n [rightR, rightW, rightA]) == some pad
        && (plan (dropRow s s.issue.core pad n) s.issue.core s.issue.slot [⟨0, pad, acc, none⟩]).2.2.isNone
        && !inHandler s && ready i s
    let s := onPad vg
    let r := readPieces s s.issue.core s.issue.slot (myCore s) 0 8 ((upto 8).map fun e => (8 * e, elemOff s .zr 4 8 e))
    (enterOk st (onPad st) [(pad, storeAcc 8 0)] && enterOk sp (onPad sp) [(pad, storeAcc 16 0)]
      && enterOk re (onPad re) [(pad, ⟨.red .fadd, 4, 0, 0⟩)] && enterOk vs (onPad vs) (vecParts pad 0)
      && parts.2.isNone && enterOk ve (onPad ve) parts.1 && leaves am (onPad am) 8 ⟨.amo .swap, 8, 0, 0⟩
      && leaves ca (onPad ca) 8 ⟨.cas, 8, 0, 0⟩ && (plan r.1 s.issue.core s.issue.slot r.2).2.2.isNone
      && !inHandler r.1 && r.1.issue == s.issue && ready vg s) = true := by decide +kernel

/-- FullEmptyOwn, FullEmptyStores: a full word for ldf, ldfe and fest, an empty one for stf and stfw. -/
theorem test_witness_fullEmpty :
    let on (empty : List Nat) (i : Instr) : State :=
      let s := onTile 16 i
      modCore s s.issue.core fun k => { k with tile := { k.tile with empty := empty } }
    let lf := Instr.ldf (.g 1) 0 .zr .sys 1
    let le := Instr.ldfe (.g 1) 0 .zr .core 1
    let sf := Instr.stf (.g 1) 0 .zr .dev 1
    let sw := Instr.stfw (.g 1) 0 .zr .vly 1
    let ft := Instr.fest true 0 .zr .core 1
    let own (i : Instr) (s : State) (rights : List Nat) : Bool :=
      ownAt s 8 (feLoc s.issue.core (myCore s) 0 (offOf s .zr 7 1 8) rights)
        && !rangeBusy s.issue.core (myCore s) 8 8 && !expired s && ready i s
    let runs (s : State) (op : AccOp) : Bool := (feLocal s s.issue.core s.issue.slot 1 ⟨op, 8, 0, 0⟩).isSome
    (own lf (on [] lf) [rightR] && runs (on [] lf) .ldf && own le (on [] le) [rightR] && runs (on [] le) .ldfe
      && own sw (on [1] sw) [rightR, rightW] && runs (on [1] sw) .stfw && quiet (on [1] sw) .vly
      && own sf (on [1] sf) [rightW] && quiet (on [1] sf) .dev && own ft (on [1] ft) [rightW]
      && quiet (on [1] ft) .core) = true := by decide +kernel

/-- FullEmptyStores: the forms that leave the own tile, through a segment of KIND 1 at another core's tile. -/
theorem test_witness_farFullEmpty :
    let far (i : Instr) : State := onCore (fun k => withSegs (segWord 0 0 (2 ^ 28) 11 1) k) i
    let at1 (i : Instr) : State := modMe (far i) fun f => { f with g := f.g.set 5 0x10000 }
    let lf := Instr.ldf (.g 1) 0 (.g 5) .sys 0
    let le := Instr.ldfe (.g 1) 0 (.g 5) .core 0
    let sf := Instr.stf (.g 1) 0 (.g 5) .dev 0
    let sw := Instr.stfw (.g 1) 0 (.g 5) .vly 0
    let ft := Instr.fest true 0 (.g 5) .core 0
    let sr := Instr.stRel (.g 1) 0 (.g 5) .d .dom 0
    let s4 := Instr.st4 (.g 1) 0 (.g 5) true 0
    let loc : Loc := .tile 1 0
    let asks (i : Instr) (op : AccOp) (rights : List Nat) : Bool :=
      let s := at1 i
      farLoc s (feLoc s.issue.core (myCore s) 0 (offOf s (.g 5) 7 0 8) rights) == some loc && !inHandler s
        && canTake s .feSlot && ready i s
        && (plan (startTimer (modQ s s.issue.core fun q => { q with feSlot := some s.issue.slot })) s.issue.core
            s.issue.slot [⟨0, loc, ⟨op, 8, 0, 0⟩, none⟩]).2.2.isNone
    (asks lf .ldf [rightR] && asks le .ldfe [rightR] && asks sw .stfw [rightR, rightW] && quiet (at1 sw) .vly
      && enterOk sf (at1 sf) [(loc, ⟨.stf, 8, 0, 0⟩)] && quiet (at1 sf) .dev
      && enterOk ft (at1 ft) [(loc, ⟨.fest true, 8, 0, 0⟩)] && quiet (at1 ft) .core
      && enterOk sr (at1 sr) [(loc, storeAcc 8 0)] && quiet (at1 sr) .dom
      && enterOk s4 (at1 s4) [(loc, ⟨.nibble true, 1, 0, 0⟩)]) = true := by decide +kernel

/-- EndYieldAndBreak (done, yield); FenceAndPrefetch: with nothing outstanding, with a store of the fibre in the buffer, and
with the failure of one held. -/
theorem test_witness_fences :
    let e : SbEntry := ⟨issuer (latch .nop) .nop, .scratch 0, storeAcc 8 1, some (.scratch 0, false, 0), true, false, 0⟩
    let s := onCore (fun k => { k with q := { k.q with sb := [(0, e)] } }) (.fence .sys)
    let t := latch (.fence .dom)
    let lost := modMe (latch (.fence .sys)) fun f => { f with sch := { f.sch with failed := [(.busError, 5, .write)] } }
    ([ready .doneF (latch .doneF), ready .yieldF (latch .yieldF), ready (.fence .dom) t && quiet t .dom,
      ready (.fence .sys) s && !drained s s.issue.core s.issue.slot .sys && !inHandler s,
      ready (.fence .sys) lost && failureNow lost .sys == some (.busError, 5, .write)
        && drained lost lost.issue.core lost.issue.slot .sys,
      ready (.pf 0 .zr .d 0) (latch (.pf 0 .zr .d 0))] : List Bool).all id = true := by decide +kernel

/-- A core whose own tile holds some bytes. -/
def recorded (cells : Mem) (k : Core) : Core :=
  { withSegs (segWord 0 0 65536 11 0) k with tile := { k.tile with mem := cells } }

/-- IndexWords: with the bytes on the own tile, and on the scratchpad; a record of kind 4, and one of kind 2 whose arrays
lie on the own tile, or on the scratchpad. -/
theorem test_witness_index :
    let ma := Instr.madv (.g 1) (.g 3) (.g 4) 1 2 .d
    let br := Instr.brank (.g 1) (.g 2) (.g 3) 1
    let fw := Instr.fwalk (.g 4) (.g 1) (.g 2)
    let read (s : State) (l : Loc) (n o : Nat) := readPiece s s.issue.core s.issue.slot l n o
    let own (s : State) := Loc.tile s.issue.core 0
    let free (s : State) (qs : List Piece) := (piecesBusy s s.issue.core qs).isNone
    let both (s : State) (l : Loc) :=
      let x := read s l 8 0
      let y := read x.1 l 8 8
      (y.1, [x.2, y.2])
    let one (s : State) (l : Loc) (n : Nat) := let x := read s l n 0
                                               (x.1, [x.2])
    let leaves (s : State) (y : State × List Piece) := free s y.2 && y.1.issue == s.issue && !allVal y.2 && !inHandler s
      && (plan y.1 s.issue.core s.issue.slot y.2).2.2.isNone
    let a := onTile 64 ma
    let b := onPad ma
    let c := onTile 64 br
    let d := onPad br
    let e := onCore (recorded [⟨0, 4⟩]) fw
    let f := onCore (recorded [⟨0, 2⟩, ⟨16, 64⟩]) fw
    let w := Mem.rdN (myCore f).tile.mem 0 32
    let z := levelPieces f f.issue.core f.issue.slot 0 [64, 72]
    let g := onPad fw
    let h := onCore (fun k => let k := recorded [⟨0, 2⟩, ⟨1, 1⟩, ⟨16, 64⟩] k
                              { k with segs := k.segs.set 1 (segWord 0 0 65536 11 3) }) fw
    let y := levelPieces h h.issue.core h.issue.slot 1 [64, 72]
    ([ready ma a, (segAcc a.issue.core (myCore a) 0 (rd a (.g 3)).toNat 8 8 [rightR]).toOption == some (own a),
      (segAcc a.issue.core (myCore a) 0 (rd a (.g 4)).toNat 8 8 [rightR]).toOption == some (own a),
      allVal (both a (own a)).2 && free a (both a (own a)).2 && (both a (own a)).1.issue == a.issue,
      ready ma b, (segAcc b.issue.core (myCore b) 0 (rd b (.g 3)).toNat 8 8 [rightR]).toOption == some (.scratch 0),
      leaves b (both b (.scratch 0)),
      ready br c, (segAcc c.issue.core (myCore c) 0 0 64 64 [rightR]).toOption == some (own c),
      allVal (one c (own c) 64).2 && free c (one c (own c) 64).2 && (one c (own c) 64).1.issue == c.issue,
      ready br d, (segAcc d.issue.core (myCore d) 0 0 64 64 [rightR]).toOption == some (.scratch 0),
      leaves d (one d (.scratch 0) 64),
      ready fw e, (segAcc e.issue.core (myCore e) 0 0 32 32 [rightR]).toOption == some (own e),
      (one e (own e) 32).2.map (·.tgt) == [some (.val (BitVec.ofNat 512 (Mem.rdN (myCore e).tile.mem 0 32)))],
      (match levelStep (Mem.rdN (myCore e).tile.mem 0 32) 0 with
        | .range 0 1 => true
        | _ => false),
      ready fw f, (one f (own f) 32).2.map (·.tgt) == [some (.val (BitVec.ofNat 512 w))], free f (one f (own f) 32).2,
      (match levelStep w 0 with
        | .reads 0 _ _ _ [64, 72] => true
        | _ => false),
      (headError z.2).isNone && free f z.2 && allVal z.2 && z.1.issue == f.issue,
      ready fw g, (segAcc g.issue.core (myCore g) 0 (rd g (.g 1)).toNat 32 32 [rightR]).toOption == some (.scratch 0),
      leaves g (one g (.scratch 0) 32),
      ready fw h, (one h (own h) 32).2.map (·.tgt) ==
        [some (.val (BitVec.ofNat 512 (Mem.rdN (myCore h).tile.mem 0 32)))] && free h (one h (own h) 32).2,
      (match levelStep (Mem.rdN (myCore h).tile.mem 0 32) 0 with
        | .reads 1 _ _ _ [64, 72] => true
        | _ => false),
      (headError y.2).isNone && leaves h y] : List Bool).all id = true := by
  decide +kernel

/-- Entries of a fibre's data queue, with values. -/
def queued (vs : List W64) (i : Instr) : State :=
  modMe (onCore (fun k => { k with q := { k.q with
    pool := vs.zipIdx.map fun v => (v.2, ⟨.ready v.1, false, 8, none, true⟩) } }) i) fun f =>
      { f with sch := { f.sch with dq := upto vs.length } }

/-- AccessQueues. -/
theorem test_witness_queues :
    let pu := Instr.aqPush 0 .zr .d false 1
    let li := Instr.aqList (.g 1) 0 .zr .d false 0
    let p1 := Instr.dqPop (.g 2) false
    let p2 := Instr.dqPop (.g 2) true
    let a := onTile 16 pu
    let b := modMe (onTile 64 li) fun f => { f with g := f.g.set 1 0x10000 }
    let checks (s : State) (locs : List Loc) : Bool :=
      match (dqChecks s s.issue.core s.issue.slot 8 (locs.map .ok)).2 with
      | .ok [] => true
      | _ => false
    let own (s : State) (o : Nat) : Loc := .tile s.issue.core o
    let d := moved 4096 (modMe (onPad li) fun f => { f with g := f.g.set 1 0x10000 })
    let lists (s : State) (l : Loc) : Bool :=
      let x := listDwords s s.issue.core s.issue.slot l 2
      (listWaits s s.issue.core s.issue.slot l 2).isEmpty && x.1.issue == s.issue && x.2 == [0, 0]
        && checks x.1 [if l.isOwn s.issue.core then own s 0 else .scratch 0, if l.isOwn s.issue.core then own s 0 else .scratch 0]
    let isReady (s : State) (e : Nat) : Bool :=
      match nget (myCore s).q.pool e with
      | some ⟨.ready _, _, _, _, _⟩ => true
      | _ => false
    ([ready pu a, dqRoom a 1, offOf a .zr 7 1 8 % 8 == 0, !rangeBusy a.issue.core (myCore a) 8 8,
      (segAcc a.issue.core (myCore a) 0 8 8 8 [rightR]).toOption == some (own a 8), checks a [own a 8],
      ready li b, dqRoom b 2, (rd b (.g 1)).toNat / 2 ^ 16 % 16 + 1 == 2,
      (segAcc b.issue.core (myCore b) 0 0 16 8 [rightR]).toOption == some (own b 0),
      !rangeBusy b.issue.core (myCore b) 0 16, lists b (own b 0), offOf b .zr 7 0 8 == 0,
      ready li d, kindOf d.issue.core == .dense, dqRoom d 2, lists d (.scratch 0), offOf d .zr 7 0 8 == 0,
      (segAcc d.issue.core (myCore d) 0 0 16 8 [rightR]).toOption == some (.scratch 0),
      (segAcc d.issue.core (myCore d) 0 0 8 8 [rightR]).toOption == some (.scratch 0),
      (segAcc b.issue.core (myCore b) 0 0 8 8 [rightR]).toOption == some (own b 0),
      ready p1 (queued [7] p1), (me (queued [7] p1)).sch.dq == [0], isReady (queued [7] p1) 0,
      ready p2 (queued [7, 8] p2), (me (queued [7, 8] p2)).sch.dq == [0, 1], isReady (queued [7, 8] p2) 0,
      isReady (queued [7, 8] p2) 1, ready p1 (latch p1), (me (latch p1)).sch.dq == []] : List Bool).all id = true := by
  decide +kernel

/-- Spawn: on a dense core, with a slot free, and with every slot in use; Messages. -/
theorem test_witness_messages :
    let sp := Instr.spawn (.g 1) (.g 2) 3
    let full := onCore (fun k => { k with q := { k.q with slotResv := upto 256 } }) sp
    let sd := Instr.send (.g 1) (.g 2) (.g 3) 2
    let sq := Instr.sendQ (.g 1) (.g 2) (.g 3) 2
    let sr := Instr.sendR (.g 1) (.g 2)
    let wk := Instr.wake (.g 1) (.g 2) true
    let mg := Instr.migr (.g 1) (.g 2)
    let own (i : Instr) := onCore (fun k => { k with crew := some (crewOf 5) }) i
    let at1 (s : State) := modMe (modCore s 1 fun k => { k with crew := some (crewOf 5) }) fun f => { f with g := f.g.set 2 1 }
    let h : Handler := ⟨fidWord 1 0, some 3, false, 0⟩
    let inH (i : Instr) : State :=
      let s := onCore (fun k => { k with
        handler := some h, fibres := nput k.fibres handlerSlot (handlerFibre (crewOf 5) ⟨[0], 1, some 3, none, 0⟩)
        seq := { k.seq with strands := k.seq.strands.set 15 { Strand.blank with occ := some handlerSlot } } }) i
      let t := modFib s s.issue.core handlerSlot fun f => { f with sch := { f.sch with run := .running 15 } }
      { t with issue := { t.issue with slot := handlerSlot, strand := 15 } }
    let away := modMe (latch mg) fun f => { f with g := f.g.set 2 1 }
    let a := at1 (own sd)
    let b := at1 (own sq)
    let m := at1 (own mg)
    ([ready sp (latch sp), kindOf (latch sp).issue.core != .dense,
      (freeSlot (myCore (latch sp)) (nSlots (kindOf (latch sp).issue.core))).isSome,
      ready sp full, (freeSlot (myCore full) (nSlots (kindOf full.issue.core))).isNone,
      ready sp (moved 4096 (latch sp)), kindOf (moved 4096 (latch sp)).issue.core == .dense,
      (latch sp).issue.snap.isNone && full.issue.snap.isNone,
      ready sd a, hasCrew a 1 (tidOf (myCore a)), canTake a .sendSlot, !inHandler a,
      ready sq b, hasCrew b 1 (tidOf (myCore b)), canTake b .sendSlot, dqRoom b 1, !inHandler b,
      ready sr (inH sr), (myCore (inH sr)).handler == some h, (fidCore h.sender).isSome, inHandler (inH sr),
      ready .hret (inH .hret), inHandler (inH .hret), ready .hret (latch .nop), !inHandler (latch .nop),
      ready wk (latch wk), !inHandler (latch wk),
      ready mg m, kindOf m.issue.core == .lookup, hasCrew m ((rd m (.g 2)).toNat % 2 ^ 12) (tidOf (myCore m)), !(me m).ctl.priv,
      m.issue.core == 0, mayLeave m (me m), !inHandler m, (migrAsk m (issuer m mg) (.g 1) 1).2.isSome,
      ready mg (own mg), hasCrew (own mg) 0 (tidOf (myCore (own mg))), (rd (own mg) (.g 2)).toNat % 2 ^ 12 == 0,
      ready mg away, !hasCrew away 1 (tidOf (myCore away)),
      (lowestFree (myCore b).q.pool (nPool (kindOf b.issue.core))).isSome] : List Bool).all id = true := by
  decide +kernel

/-- A command of a code for n elements, with its other words. -/
def cmdWords (code n : Nat) (w1 w2 w3 : W64) : Vector W64 4 :=
  #v[BitVec.ofNat 64 (code + n * 2 ^ 40), w1, w2, w3]

/-- A FIFO entry that holds a command. -/
def entryOf (w : Vector W64 4) (st : CmdState) : Cmd :=
  ⟨w, none, issuer (latch .nop) .nop, 0, 0, st, st != .queued, 0, 0, 0, 0, [], 0, [], none, [], [], false, false⟩

/-- A word whose registers g0-g3 hold a command. -/
def regWords (w : Vector W64 4) (i : Instr) : State :=
  modMe (onPad i) fun f => { f with g := (((f.g.set 0 w[0]).set 1 w[1]).set 2 w[2]).set 3 w[3] }

/-- EngineWords: a FILL; a full FIFO; RES of a stopped command; a command code that does not exist. -/
theorem test_witness_engineWords :
    let pu := Instr.rqPush 0
    let tr := Instr.rqTry (.g 5) 0
    let w := cmdWords 8 1 0 0 0
    let ctl : Vector W64 4 := #v[0x1000000, 0, 0, 0]
    let full (s : State) := modCore s s.issue.core fun k => { k with
      fifo := (upto 8).map fun e => (e, entryOf w .queued) }
    let held (s : State) := modCore s s.issue.core fun k => { k with fifo := [(0, entryOf w .stopped)] }
    let a := regWords w pu
    let b := regWords w tr
    let c := full (regWords w tr)
    let d := held (regWords ctl pu)
    let e := held (regWords ctl tr)
    let f := regWords (cmdWords 15 1 0 0 0) pu
    ([ready pu a, !isControl (cmdRegs a 0), (cmdCheck a.issue.core (myCore a) (cmdRegs a 0)).isNone, canTake a .fifo,
      (freeEntryOf (myCore a)).isSome,
      ready tr b, !isControl (cmdRegs b 0), (cmdCheck b.issue.core (myCore b) (cmdRegs b 0)).isNone, canTake b .fifo,
      (freeEntryOf (myCore b)).isSome,
      ready tr c, (cmdCheck c.issue.core (myCore c) (cmdRegs c 0)).isNone, !canTake c .fifo,
      ready pu d, isControl (cmdRegs d 0), (control d d.issue.core (cmdRegs d 0)).isSome,
      ready tr e, isControl (cmdRegs e 0), (control e e.issue.core (cmdRegs e 0)).isSome,
      ready pu f, !isControl (cmdRegs f 0), (cmdCheck f.issue.core (myCore f) (cmdRegs f 0)).isSome] : List Bool).all id = true := by
  decide +kernel

/-- A task of the table. -/
def taskEntry (tid : Nat) (st : TaskState) : Task :=
  ⟨tid, st, 0, 0, 0, [], 0, (.scratch 0, false), 0, 0, [], 0, 0, 0, 0, 0, none, 0, 0, 0, 0, [], [], [], [], [], [], [], 0⟩

/-- The issuing core with a TIMEOUT of 0. -/
def hasty (s : State) : State :=
  modCore s s.issue.core fun k => { k with trap := { k.trap with timeout := 0 } }

/-- TaskWords. -/
theorem test_witness_taskWords :
    let tl := Instr.tlaunch (.g 1) (.g 2) 0
    let tw := Instr.twait (.g 1) (.g 2)
    let a := onPad tl
    let known (st : TaskState) := modMe { latch tw with tasks := { (latch tw).tasks with table := [(3, taskEntry 9 st)] } }
      fun f => { f with g := f.g.set 2 9 }
    ([ready tl a, !inHandler a, (segAcc a.issue.core (myCore a) 0 (rd a (.g 2)).toNat 64 64 [rightR]).toOption ==
        some (.scratch 0), (plan a a.issue.core a.issue.slot (rangePieces a a.issue.core (.scratch 0) 0 64)).2.2.isNone,
      ready .trigger (latch .trigger), drained (latch .trigger) (latch .trigger).issue.core (latch .trigger).issue.slot .dev,
      ready tw (latch tw), (taskOf (latch tw) ((rd (latch tw) (.g 2)).toNat % 2 ^ 16)).isNone,
      ready tw (known .complete), taskOf (known .complete) ((rd (known .complete) (.g 2)).toNat % 2 ^ 16) == some (3, taskEntry 9 .complete),
      !expired (known .complete),
      ready tw (known .queued), taskOf (known .queued) ((rd (known .queued) (.g 2)).toNat % 2 ^ 16) == some (3, taskEntry 9 .queued),
      !noLimit (known .queued), !inHandler (known .queued), ready tw (hasty (known .queued)), noLimit (hasty (known .queued)),
      taskOf (hasty (known .queued)) ((rd (hasty (known .queued)) (.g 2)).toNat % 2 ^ 16) == some (3, taskEntry 9 .queued)] : List Bool).all id = true := by decide +kernel

/-- SegmentWords. -/
theorem test_witness_segments :
    let sl := Instr.segld (.g 2) 3
    let gk := Instr.gkbind (.g 1) (.g 2) 5 6
    let v := segWord 0 0 4096 11 3
    let holds (lo hi : W64) (i : Instr) := modMe (onCore (fun k => { k with resSegs := k.resSegs.set 3 (segWord 0 0 8192 11 3) }) i)
      fun f => { f with g := (f.g.set 2 lo).set 3 hi }
    let lo : W64 := v.setWidth 64
    let hi : W64 := (v >>> 64).setWidth 64
    let a := holds lo hi sl
    let b := holds lo (hi ||| 0x8000000000000000) sl
    let c := holds 0x10000 (((segWord 0 0 65536 11 3) >>> 64).setWidth 64) sl
    let val (s : State) : W128 := rd s (succReg (.g 2)) ++ rd s (.g 2)
    let u := modMe (latch gk) fun f => { f with g := f.g.set 1 0x8000000000000000 }
    let pp := Instr.ptinvPage (.g 1) (.g 2) .dev
    let pa := Instr.ptinvAsid (.g 2) .core
    let pl := Instr.ptinvAll .dev
    let walks (i : Instr) : State := { latch i with net := { (latch i).net with
      walks := [(7, ⟨issuer (latch i) i, 0, false, 0, .fetch, [], storeAcc 8 0, none, true, true, none, false⟩)] } }
    let disc (s : State) (sc : Scope) (kind : Nat) : List Nat := (ptDiscard s s.issue.core sc kind 0 0).2
    ([ready sl a, !segFormBad (val a), segWithin (val a) (myCore a).resSegs[3], ready sl b, segFormBad (val b),
      ready sl c, !segFormBad (val c), !(me c).ctl.priv, !segWithin (val c) (myCore c).resSegs[3],
      ready gk u, (rd u (.g 1)).getLsbD 63, !inHandler u, ownOk gk (onTile 512 gk) 0 0 512 64 [rightR],
      !(rd (onTile 512 gk) (.g 1)).getLsbD 63, (rd (onTile 512 gk) (.g 2)).toNat / 2 ^ 54 % 8 == 0, !inHandler (onTile 512 gk),
      ready pp (latch pp), quiet (latch pp) .dev, disc (latch pp) .dev ptPage == [], ready pp (walks pp),
      disc (walks pp) .dev ptPage == [7], !inHandler (walks pp),
      ready pa (latch pa), quiet (latch pa) .core, disc (latch pa) .core ptAsid == [], disc (walks pa) .core ptAsid == [7],
      ready pl (latch pl), quiet (latch pl) .dev, disc (latch pl) .dev ptAll == [], disc (walks pl) .dev ptAll == [7]] : List Bool).all id = true := by decide +kernel

/-- CounterWords. -/
theorem test_witness_counters :
    let dw := Instr.dwait 3 5
    let aw := Instr.await 3 5
    let count (i : Instr) := onCore (fun k => { k with ctr := { k.ctr with d := k.ctr.d.set 3 5, ac := k.ctr.ac.set 3 5 } }) i
    let br := Instr.bar .task (.g 1) 2
    let pair := onCore (fun k => { k with
      fibres := k.fibres ++ [(9, Fibre.blank)], trap := { k.trap with timeout := 0 } }) br
    ([ready dw (count dw), reached (myCore (count dw)).ctr.d[3] (threshold (count dw) 5), !expired (count dw),
      ready aw (count aw), reached (myCore (count aw)).ctr.ac[3] (threshold (count aw) 5), !expired (count aw),
      ready dw (latch dw), !reached (myCore (latch dw)).ctr.d[3] (threshold (latch dw) 5), !noLimit (latch dw),
      !inHandler (latch dw), ready aw (latch aw), !reached (myCore (latch aw)).ctr.ac[3] (threshold (latch aw) 5),
      ready dw (hasty (latch dw)), !reached (myCore (hasty (latch dw))).ctr.d[3] (threshold (hasty (latch dw)) 5),
      noLimit (hasty (latch dw)), ready aw (hasty (latch aw)), noLimit (hasty (latch aw)),
      !reached (myCore (hasty (latch aw))).ctr.ac[3] (threshold (hasty (latch aw)) 5),
      ready (.dset 3 (.g 1)) (latch (.dset 3 (.g 1))), ready (.dadd 3 (.g 1)) (latch (.dadd 3 (.g 1))),
      ready (.acbind 3 (.g 1)) (latch (.acbind 3 (.g 1))), ready br (latch br), quiet (latch br) (barScope .task),
      !inHandler (latch br), !noLimit (latch br),
      ready br pair, quiet pair (barScope .task), noLimit pair, !inHandler pair,
      !barDone (barArrive pair pair.issue.core .task) pair.issue.core .task] : List Bool).all id = true := by decide +kernel

/-- MatrixWords: alone, as the leader of a lock-step group of two cores, and as its follower. -/
theorem test_witness_matrix :
    let mz := Instr.mzero 1
    let md := Instr.mdrain 1 3 .fp32 5
    let mm := Instr.mma 1 3 .fp16 .fp16 7
    let mr := Instr.mrot 1
    let mx := Instr.mxch 1 9
    let locked (i : Instr) : State := (groupCores (latch i).issue.core 2).foldl (fun s m => modCore s m fun k =>
      modStrand k s.issue.strand fun t => { t with fuse := 2, lock := true }) (latch i)
    let led (i : Instr) : State := let s := locked i
                                   { s with issue := { s.issue with follower := true } }
    let size (s : State) := (lockGroup s s.issue.core s.issue.strand).length
    let joins := onCore (fun k => modStrand k (latch .rejoin).issue.strand fun t => { t with fuse := 2 }) .rejoin
    let lined : State := (groupCores joins.issue.core 2).foldl (fun s m => modCore s m fun k =>
      { modStrand k s.issue.strand fun t => { t with fuse := 2, line := m != s.issue.core } with
        crew := (myCore s).crew }) joins
    let raised (s : State) := modCore s s.issue.core fun k => modStrand k s.issue.strand fun t => { t with line := true }
    let st (s : State) := strandAt (myCore s) s.issue.strand
    ([ready mz (latch mz), !(myCore (latch mz)).mx.busy.contains 1, ready md (latch md), !(myCore (latch md)).mx.busy.contains 1,
      ready mm (latch mm), !inHandler (latch mm), ready mr (latch mr), 1 % size (latch mr) == 0,
      ready mr (locked mr), 1 % size (locked mr) != 0, !(locked mr).issue.follower, ready mr (led mr), (led mr).issue.follower,
      ready mx (led mx), (led mx).issue.follower, !inHandler (led mx), ready mx (latch mx), !(latch mx).issue.follower,
      ready (.fuse .two) (latch (.fuse .two)), ready .unfuse (latch .unfuse), ready .rejoin (latch .rejoin),
      (st (latch .rejoin)).fuse == 0, ready .rejoin joins, !(st joins).lock && (st joins).fuse != 0, !noLimit joins,
      !inHandler joins, ready .rejoin (hasty joins), !(st (hasty joins)).lock && (st (hasty joins)).fuse == 2,
      noLimit (hasty joins), !lineHigh (raised (hasty joins)) joins.issue.core joins.issue.strand 2,
      ready .rejoin (hasty lined), !(st (hasty lined)).lock && (st (hasty lined)).fuse == 2, noLimit (hasty lined),
      !expired (hasty lined), lineHigh (raised (hasty lined)) lined.issue.core lined.issue.strand 2,
      !inHandler (hasty lined)] : List Bool).all id = true := by decide +kernel

/-- A reset device whose core 0 holds a command that is running in entry 0; sg0 is its own tile, sg1 the scratchpad. -/
def engine (w : Vector W64 4) (g : Cmd → Cmd) (h : Core → Core) : State :=
  modCore State.reset 0 fun k =>
    h { k with segs := (k.segs.set 0 (segWord 0 0 65536 11 0)).set 1 (segWord 0 0 65536 11 3),
               fifo := [(0, g (entryOf w .running))] }

/-- A command without a table, whose SGA is a given segment. -/
def rowWords (code sga : Nat) (w3 : Nat) : Vector W64 4 :=
  cmdWords code 1 (BitVec.ofNat 64 (8 * 2 ^ 32 + 64 * 2 ^ 16)) 0 (BitVec.ofNat 64 w3) |>.set 0
    (BitVec.ofNat 64 (code + sga * 2 ^ 32 + 2 ^ 40))

def isHere (r : RowAt) (o : Nat) : Bool := r == .here o

/-- EngineElements: an element that lies here, on the scratchpad; one that goes to device 1; one beyond its table;
COPY three ways, FILL, and WALK with a record of kind 4 and one of kind 2. -/
theorem test_witness_engineElements :
    let nxt (s : State) (code : Nat) : Bool := (nextElem s 0 0 code).map (·.2) == some 0
    let cmd (w : Vector W64 4) : Cmd := entryOf w .running
    let on (s : State) : State := takeSend s 0 0
    let gets (s : State) (ps : List Part) : Bool := (resolveParts (on s) 0 0 ps).2.2.isNone
    let seg (s : State) (sg : Fin 8) (off n : Nat) (rights : List Nat) :=
      (segCheck 0 (getCore (on s) 0) sg off n rights).toOption
    let here (code w3 : Nat) (rights : List Nat) (acc : Acc1) : Bool :=
      let w := rowWords code 1 w3
      let s := engine w id id
      nxt s code && isHere (elemRow (on s) 0 (cmd w) (tileDword (on s) 0 0)) 0 && seg s 1 0 8 rights == some (.scratch 0)
        && gets s [⟨.scratch 0, acc, none⟩]
    let slots : NMap (BitVec 256) :=
      [(0, BitVec.ofNat 256 (8 * 2 ^ 16 + 1 * 2 ^ 34 + 1 * 2 ^ 40 + 2 * 2 ^ 128 + 65536 * 2 ^ 192))]
    let table (id : Nat) (k : Core) : Core :=
      { k with tabs := { k.tabs with slots := slots }, tile := { k.tile with mem := [⟨0, BitVec.ofNat 8 id⟩] } }
    let rows (code id : Nat) : RowAt :=
      let s := engine (rowWords code 1 0) (fun x => x) (table id)
      elemRow (on s) 0 (cmd (rowWords code 1 0)) (tileDword (on s) 0 0)
    let w6 (a b : Nat) : Vector W64 4 := #v[BitVec.ofNat 64 (6 + a * 2 ^ 32 + b * 2 ^ 35 + 2 ^ 40), 0, 0, 64]
    let w8 := rowWords 8 1 7
    let w7 : Vector W64 4 := cmdWords 7 1 (BitVec.ofNat 64 (64 * 2 ^ 16 + 128 * 2 ^ 32 + 4096 * 2 ^ 48)) 0 0
    let walk (cells : Mem) := engine w7 id fun k => { k with tile := { k.tile with mem := cells } }
    let a := walk [⟨0, 4⟩]
    let b := walk [⟨0, 2⟩, ⟨16, 192⟩]
    ([here 1 0xFFFF [rightR] ⟨.load, 8, 0, 0⟩, here 2 0xFFFF [rightW] ⟨.store, 8, 0, 0⟩,
      here 3 0x8FFFF [rightW, rightA] ⟨.red .add, 8, 0, 8⟩,
      [1, 2, 3].all fun code => nxt (engine (rowWords code 1 0) id (table 1)) code && rows code 1 == .away 1 0 0
        && rows code 2 == .beyond,
      [6].all fun code => nxt (engine (w6 0 1) id id) code && seg (engine (w6 0 1) id id) 0 0 8 [rightR] == some (.tile 0 0)
        && seg (engine (w6 0 1) id id) 1 64 8 [rightW] == some (.scratch 64)
        && gets (engine (w6 0 1) id id) [⟨.scratch 64, ⟨.store, 8, 0, 0⟩, none⟩],
      nxt (engine (w6 1 0) id id) 6, gets (engine (w6 1 0) id id) [⟨.scratch 0, ⟨.load, 8, 0, 0⟩, some 64⟩],
      nxt (engine (w6 1 1) id id) 6, gets (engine (w6 1 1) id id)
        [⟨.scratch 0, ⟨.load, 8, 0, 0⟩, none⟩, ⟨.scratch 64, ⟨.store, 8, 0, 0⟩, none⟩],
      nxt (engine w8 id id) 8, seg (engine w8 id id) 1 0 8 [rightW] == some (.scratch 0),
      gets (engine w8 id id) [⟨.scratch 0, ⟨.store, 8, 7, 0⟩, none⟩],
      nxt a 7, (match levelStep (tileLoad (on a) 0 0 32) (tileDword (on a) 0 64) with
        | .range 0 1 => true
        | _ => false),
      nxt b 7, (match levelStep (tileLoad (on b) 0 0 32) (tileDword (on b) 0 64) with
        | .reads 0 _ _ _ [192, 200] => (walkLocs 0 (getCore (on b) 0) 0 [192, 200]).toOption == some [.tile 0 192, .tile 0 200]
            && gets b [⟨.tile 0 192, ⟨.load, 8, 0, 0⟩, some 0⟩, ⟨.tile 0 200, ⟨.load, 8, 0, 0⟩, some 8⟩]
        | _ => false)] : List Bool).all id = true := by decide +kernel

/-- EngineCommands. -/
theorem test_witness_engineCommands :
    let w4 := cmdWords 4 1 (BitVec.ofNat 64 (64 * 2 ^ 16)) 0 0
    let w5 (rows : Nat) : Vector W64 4 :=
      #v[BitVec.ofNat 64 (5 + 0 * 2 ^ 28 + 2 ^ 40), BitVec.ofNat 64 (64 * 2 ^ 16 + 8 * 2 ^ 32 + 32 * 2 ^ 48), BitVec.ofNat 64 rows, 0]
    let w9 := cmdWords 9 1 0 0 64
    let s4 := engine w4 id id
    let s5 := engine (w5 1) id id
    let z5 := engine (w5 0) id id
    let s9 (g : Cmd → Cmd) := engine w9 g id
    let stopped := engine w4 (fun x => { x with st := .stopped, started := false }) id
    let waiting := engine w4 (fun x => { x with st := .queued, started := false }) id
    let resumed := engine w4 (fun x => { x with started := false }) fun k => { k with frozen := some .task }
    let failing := engine w4 (fun x => { x with fault := some (0, (.align, .none, 0), 0) }) id
    let done (w : Vector W64 4) := engine w (fun x => { x with sent := true, range := some (32, 40) }) id
    let member := entryOf w9 .running
    let two : Mem := [⟨collDesc + 4, 2⟩, ⟨collDesc + 65, 1⟩]
    let mine : Cmd := { member with sent := true, buf := two }
    let sent := { engine w9 (fun _ => mine) id with fab := { State.reset.fab with colls := [(0, 0, 0)] } }
    let other : CollShare := { ownShare mine with rank := 1 }
    ([(wholeCmd s4 0 0 cDedup).isSome, (wholeCmd s5 0 0 cReduce).map (reduceBad s5 0) == some none,
      (wholeCmd z5 0 0 cReduce).map (reduceBad z5 0) == some (some 0),
      (nextElem (s9 fun x => { x with back := true, sent := true }) 0 0 cColl).map (·.2) == some 0,
      (nextElem (s9 id) 0 0 cColl).map (·.2) == some 0, !collWaits (s9 id) 0 member && (collDue (s9 id) 0 0).isNone,
      cmdN w9 != 0 && cmdCode w9 == cColl && !collWaits (s9 fun x => { x with prog := 41 }) 0 { member with prog := 41 },
      (nget (getCore stopped 0).fifo 0).map resumable == some true,
      (nget (getCore stopped 0).fifo 0).map (·.st) == some .stopped,
      (startNext (getCore waiting 0)).map (·.1) == some 0, startedCount (getCore waiting 0) < 4,
      (getCore waiting 0).frozen.isNone, !(getCore waiting 0).stopped, kindOf 0 != .dense,
      (startNext (getCore resumed 0)).map (·.2.st) == some .running && startedCount (getCore resumed 0) < 4,
      decide (0 + fabricLimit ≤ ({ sent with time := 50000 } : State).time.toNat), sent.time.toNat < 0 + fabricLimit,
      (nget (getCore (done w4) 0).fifo 0).map cmdFinished == some true,
      (nget (getCore (done (w5 1)) 0).fifo 0).map cmdFinished == some true,
      (nget (getCore failing 0).fifo 0).map (fun x => x.fault.isSome && x.flight.isEmpty && x.st == .running) == some true,
      !entryWalks failing 0 0, nget (getCore sent 0).fifo 0 == some mine,
      sent.fab.colls.find? (fun y => y.1 == 0 && y.2.1 == 0) == some (0, 0, 0), (ownShare mine).members.length == 2,
      !anyClash [ownShare mine, other], (ownShare mine).rank < 2 && other.rank < 2] : List Bool).all id = true := by
  decide +kernel

/-- A reset device with a fibre in slot 0 of a core, on strand 0. -/
def withFib (c : Nat) (g : Fibre → Fibre) (h : Core → Core) : State :=
  modCore State.reset c fun k => h { k with
    crew := some (crewOf 5), fibres := [(0, g Fibre.blank)],
    seq := { k.seq with strands := k.seq.strands.set 0 { Strand.blank with occ := some 0 } } }

/-- A parked fibre. -/
def waits (why : Park) (w : Wait) (f : Fibre) : Fibre :=
  { f with sch := { f.sch with run := .parked why, wait := w, t0 := some (0, 10) } }

/-- SequencerEvents. -/
theorem test_witness_sequencer :
    let at10 (s : State) : State := { s with time := 10 }
    let gate := modCore (modDom State.reset 0 fun x => { x with gated := true }) 0 fun k =>
      { k with ctr := { k.ctr with ev := [(0x100, 1)] } }
    let long := withFib 0 (fun f => { f with sch := { f.sch with run := .running 0, issued := 4096 } }) id
    let limit (w : Wait) := at10 (withFib 0 (waits .sync w) id)
    let late (w : Wait) : Bool :=
      let s := limit w
      match getFib s 0 0 with
      | some f => f.sch.wait == w && (f.sch.run == .parked .sync) && f.sch.t0 == some (0, 10)
          && (getCore s 0).frozen.isNone && !(getCore s 0).stopped && limitPassed s 0 0 f
      | none => false
    let passed := withFib 0 (fun f => let f := waits .sync (.done 3 7) f
                                      { f with sch := { f.sch with late := true, pass := 4 } }) id
    let asked : State :=
      let s := limit (.txn 5)
      { s with net := { s.net with
          reqs := [(7, ⟨issuer (latch .nop) .nop, .txn 5 0, .tile 1 8, ⟨.ldf, 8, 0, 0⟩, 0, none, false, 0, true, none, 0, 0, 0⟩)]
          txns := [(5, ⟨issuer (latch .nop) .nop, .fe none, 8, [], [], 1, false, false, 0, none⟩)] } }
    let m : InMsg := ⟨[0], 1, none, none, 0⟩
    let mail := withFib 0 id fun k => { k with q := { k.q with inbox := [m] } }
    let mma (cnt : Nat) := withFib 4096 (waits .matrix (.mma 1 2 .fp16 .fp16 0 cnt false 0)) id
    let mma8 (half : Bool) := withFib 4096 (waits .matrix (.mma 1 2 .t8 .t8 0 2 half 0)) id
    let ring (exch : Option (Nat × W32)) : State := { State.reset with net := { State.reset.net with
      rings := [(3, ⟨[4096, 4097], 0, 1, exch, true⟩)] } }
    let line (k : Core) : Core := { k with
      fibres := [(0, waits .sync (.rejoin 1) Fibre.blank)],
      seq := { k.seq with strands := k.seq.strands.set 0 { Strand.blank with occ := some 0, fuse := 2, line := true } } }
    let joins := modCore (modCore State.reset 4096 line) 4097 line
    let meets := withFib 0 (waits .sync (.bar .task (.g 1) 2 (issuer (latch .nop) .nop)))
      fun k => { k with ctr := { k.ctr with bar := k.ctr.bar.set 3 1 } }
    let apart := limit (.bar .task (.g 1) 2 (issuer (latch .nop) .nop))
    ([gatedNow { gate with issue := Issue.blank } 0, !gatedNow { State.reset with issue := Issue.blank } 0,
      (onStrand (getCore long 0) 0).map (fun x => (x.1, x.2.sch.run, x.2.sch.issued)) == some (0, .running 0, 4096),
      (getCore long 0).frozen.isNone, kindOf 0 != .dense, late (.done 3 7), !reached (getCore (limit (.done 3 7)) 0).ctr.d[3] 7,
      late (.arrival 3 7), !reached (getCore (limit (.arrival 3 7)) 0).ctr.ac[3] 7, late (.fullEmpty 1),
      late (.bar .task (.g 1) 2 (issuer (latch .nop) .nop)), !barrierDue apart 0 .task, late (.task 9 (.g 1)), late (.rejoin 1),
      (getFib asked 0 0).map (fun f => f.sch.run == .parked .sync && f.sch.wait == .txn 5 && limitPassed asked 0 0 f) == some true,
      (getFib passed 0 0).map (fun f => f.sch.late && f.sch.pass != 0 && f.sch.wait == .done 3 7) == some true,
      (getCore mail 0).q.inbox == [m], (getCore mail 0).crew.isSome, (getCore mail 0).handler.isNone, m.engine.isNone && decide (m.cycle ≤ (getCore mail 0).seq.cycle),
      [1, 2].all (fun cnt => (onStrand (getCore (mma cnt) 4096) 0).map (·.2.sch.wait) ==
        some (.mma 1 2 .fp16 .fp16 0 cnt false 0) && !(getCore (mma cnt) 4096).mx.rotating
        && !(getCore (mma cnt) 4096).mx.busy.contains 1
        && turnOf (mma cnt) 4096 0 == .step && !cycleUsed (getCore (mma cnt) 4096)) && stepK .fp16 != 128,
      [false, true].all fun half => turnOf (mma8 half) 4096 0 == .step && !cycleUsed (getCore (mma8 half) 4096)
        && stepK .t8 == 128 && !(getCore (mma8 half) 4096).mx.rotating && !(getCore (mma8 half) 4096).mx.busy.contains 1
        && (onStrand (getCore (mma8 half) 4096) 0).map (·.2.sch.wait) == some (.mma 1 2 .t8 .t8 0 2 half 0),
      (nget (ring none).net.rings 3).map (fun r => r.started && r.exch.isNone) == some true,
      (nget (ring (some (1, 5))).net.rings 3).map (fun r => r.started && r.exch == some (1, 5)) == some true,
      kindOf 4096 == .dense, (strandAt (getCore joins 4096) 0).fuse == 2, lineHigh joins 4096 0 2,
      (groupCores 4096 2).all fun m => (rejoining joins m 0).isSome, barDone meets 0 .task] : List Bool).all id = true := by
  decide +kernel

/-- A request in flight, from slot 0 of core 0. -/
def reqOf (o : Origin) (p : Place) (acc : Acc1) : Req :=
  { who := { issuer (latch .nop) .nop with core := 0, slot := 0 }, origin := o, place := p, acc := acc, va := 0, tag := none,
    rbit := false, stale := 0, deferred := false, answer := none }

def asks (r : Req) (s : State) : State := { s with net := { s.net with next := 9, reqs := [(7, r)] } }

/-- ReplyEvents: what a request's answer, a store and its acknowledgement, and an access of another core meet. -/
theorem test_witness_replies :
    let ld : Acc1 := ⟨.load, 8, 0, 0⟩
    let pad (o : Origin) := reqOf o (.scratch 64) ld
    let got (s : State) : Option Answer := (getReq (performPlain s 7) 7).bind (·.answer)
    let txn (d : Dst) : Txn := ⟨(pad (.txn 5 0)).who, d, 8, [], [], 1, false, false, 0, none⟩
    let served (d : Dst) := asks (pad (.txn 5 0)) { State.reset with net := { State.reset.net with txns := [(5, txn d)] } }
    let late := asks (pad (.txn 5 0)) { State.reset with
      host := { State.reset.host with snoops := [(3, true)] },
      net := { State.reset.net with txns := [(5, { txn (.pair (.g 2)) with acq := true })] } }
    let fwd (k : Core) : Core := { k with q := { k.q with pool := [(2, ⟨.forwarded 1 3, false, 8, none, true⟩)] } }
    let pool := asks (pad (.pool 0 2)) (withFib 0 id fwd)
    let said : State := { withFib 0 id fwd with net := { State.reset.net with msgs := [(7, .reply 3 0 2 none)] } }
    let line := asks { pad (.icache 0 0 64) with acc := ⟨.load, 64, 0, 0⟩, answer := some (.ok 5 0 true) } (withFib 0 id id)
    let x : SbEntry := ⟨(pad (.store 0 4)).who, .scratch 0, storeAcc 8 1, some (.scratch 0, false, 0), false, false, 4⟩
    let buf := withFib 0 id fun k => { k with q := { k.q with sb := [(4, x)] } }
    let ack (a : Answer) := asks { pad (.store 0 4) with acc := storeAcc 8 1, answer := some a } buf
    let tile := asks (reqOf (.txn 5 0) (.tile 1 8) ld) State.reset
    let w : Req := { reqOf (.txn 5 0) (.tile 1 8) ⟨.ldf, 8, 0, 0⟩ with deferred := true }
    let drop : State := { asks w State.reset with net := { (asks w State.reset).net with msgs := [(8, .withdraw 7)] } }
    let ok (v : W512) : Answer := .ok v 0 true
    let shut := withFib 0 id fun k => { k with frozen := some .task, stopped := true }
    let far : Req := { reqOf (.txn 5 0) (.peer 1 64) ld with answer := some (ok 3) }
    let ended := asks far shut
    let lost : Req := { reqOf (.store 0 4) (.peer 1 64) (storeAcc 8 1) with answer := some (.err .fabricTimeout) }
    let dead := asks lost shut
    let missed := modCore line 0 fun k => { k with caches := { k.caches with missed := [7] } }
    ([(getReq (asks (pad (.pool 0 2)) State.reset) 7).isSome && (got (asks (pad (.pool 0 2)) State.reset)).isSome,
      [Dst.reg (.g 1) 8 true, .pair (.g 2), .vec 3, .gk (.g 1) 5 6 0 64].all (fun d => got (served d) == some (ok 0)
        && (getTxn (takeReq (performPlain (served d) 7) 7) 5).map (fun y => (y.left, y.err.isNone, y.acq, y.dst)) == some (1, true, false, d)
        && (pad (.txn 5 0)).who.core != nodeAgent && !replyBehind (performPlain (served d) 7) 7 (pad (.txn 5 0))
        && !replyDropped (performPlain (served d) 7) (pad (.txn 5 0))),
      (got ended).isSome && replyDropped (performPlain ended 7) far && !replyBehind (performPlain ended 7) 7 far
        && getReq ended 7 == some far,
      (got dead) == some (.err .fabricTimeout) && dead.net.reqs == [(7, lost)],
      (getTxn (takeReq (performPlain late 7) 7) 5).map (fun y => (y.left, y.err.isNone, y.acq)) == some (1, true, true)
        && got late == some (ok 0) && (takeReq (performPlain late 7) 7).host.snoops == [(3, true)],
      forwardTo pool 0 2 == some (1, 3) && (got pool).isSome && !replyBehind (performPlain pool 7) 7 (pad (.pool 0 2)),
      (getReq said 7).isNone && nget said.net.msgs 7 == some (.reply 3 0 2 none) && inOrder said 7 (.reply 3 0 2 none) && forwardTo said 0 2 == some (1, 3),
      got line == some (ok 5) && !(getCore (performPlain line 7) 0).caches.missed.contains 7,
      got missed == some (ok 5) && (getCore (performPlain missed 7) 0).caches.missed.contains 7,
      nget (getCore buf 0).q.sb 4 == some x && x.place.isSome && !x.sent && (getCore buf 0).frozen.isNone,
      !(sbGroup (getCore buf 0) 4).any (·.2.place.isNone),
      !(getCore buf 0).q.sb.any (fun y => y.1 < 4 && !y.2.sent && (y.2.loc.meets y.2.acc.size x.loc x.acc.size
        || match y.2.place with
          | some (q, _) => q.meets y.2.acc.size (.scratch 0) x.acc.size
          | none => false)),
      got (ack (ok 0)) == some (ok 0), (got (asks { pad (.store 4120 0) with answer := some (ok 0) } State.reset)).isSome, got (ack (.err .busError)) == some (.err .busError),
      (reqFree tile 7).map (·.place) == some (.tile 1 8),
      nget drop.net.msgs 8 == some (.withdraw 7) && getReq drop 7 == some w && w.answer.isNone && w.deferred] : List Bool).all id = true := by decide +kernel

/-- ReplyEvents: translations that miss and hit the TLB, that walk to a leaf with and without its A bit, and to none. -/
theorem test_witness_walks :
    let who : Issuer := { issuer (latch .nop) .nop with core := 0, slot := 0 }
    let x (leaf : W64) : Xlate := ⟨1, 0, 42, leaf, 0⟩
    let w (walking : Bool) : WalkReq :=
      ⟨who, 64, false, 1, .txn 5 0, [], ⟨.load, 8, 0, 0⟩, none, walking, walking, none, false⟩
    let held : WalkReq := { w true with hit := some (x 0x47) }
    let dev (walking : Bool) (root : NMap Nat) (leaf : Byte) (tlb : List Xlate) : State :=
      { State.reset with
        net := { State.reset.net with walks := [(7, w walking)] }, units := [(0, ⟨tlb, 0, 0, 0⟩)],
        tasks := { State.reset.tasks with roots := root }, mem := { State.reset.mem with dram := [⟨0, leaf⟩] } }
    let hit := dev false [] 0 [x 0x67]
    let hitT := tcPut (modUnit hit 0 fun t => { t with hits := t.hits + 1 }) 0 (x 0x67)
    let found (leaf : Byte) := dev true [(1, 0)] leaf []
    let after (leaf : Byte) := shareLeaf (takeWalk (found leaf) 7) 0 (x (leaf.setWidth 64))
    ([(xfind (getUnit (dev false [] 0 []) 0).tlb 1 64).isNone, xfind (getUnit hit 0).tlb 1 64 == some (x 0x67),
      (walkCheck hitT (w false) (x 0x67)).isNone, usable (x 0x67) false,
      (walkTables (found 0x67) 1 64).2.toOption == some (x 0x67), (walkTables (found 0x47) 1 64).2.toOption == some (x 0x47),
      (walkCheck (after 0x67) (w true) (x 0x67)).isNone, (walkCheck (after 0x47) (w true) (x 0x47)).isNone,
      !(speculative (w true) || usable (x 0x47) false), (orLeaf (after 0x47) (x 0x47) false 64).2.toOption.isSome,
      !behindLookup hit 7 (w false), !(w false).missed, held.walking && held.hit == some (x 0x47),
      (orLeaf (found 0x46) (x 0x47) false 64).2.toOption.isNone, (walkTables (dev true [] 0 []) 1 64).2.toOption.isNone] : List Bool).all id = true := by decide +kernel

/-- MessageEvents. -/
theorem test_witness_messageEvents :
    let who : Issuer := { issuer (latch .nop) .nop with core := 0, slot := 0 }
    let post (m : Msg) (s : State) : State := { s with net := { s.net with next := 9, msgs := [(7, m)] } }
    let send (granted asked : Bool) : Msg := .send who 1 [0] none granted asked (.g 1)
    let from0 := withFib 0 id id
    let ask := post (send false false) from0
    let full := modQ ask 1 fun q => { q with inResv := 64 }
    let cold := modCore ask 1 fun k => { k with frozen := some .task }
    let given := post (send true false) from0
    let shut := modCore given 1 fun k => { k with frozen := some .task }
    let moveTo := post (.reserve who 1 (.g 1)) from0
    let laden := modFib moveTo 0 0 fun f => { f with sch := { f.sch with dq := List.replicate 5000 0 } }
    let crowd := modQ moveTo 1 fun q => { q with slotResv := upto 256 }
    let iced := modCore moveTo 0 fun k => { k with frozen := some .task }
    let host := modCore moveTo 1 fun k => { k with frozen := some .task }
    let tied := modCore (modFib moveTo 0 0 fun f => { f with sch := { f.sch with dq := [2] } }) 0 fun k => { k with
      q := { k.q with pool := [(2, ⟨.pending, false, 8, none, true⟩)], fwd := List.replicate 16 [0] } }
    ([!(getCore ask 0).stopped && (getCore ask 1).frozen.isNone && inboxFree (getCore ask 1).q && (getCore ask 1).q.pending == [],
      !(inboxFree (getCore full 1).q && (getCore full 1).q.pending.isEmpty) && (getCore full 1).frozen.isNone,
      (getCore cold 1).frozen.isSome && !(getCore cold 0).stopped,
      (getCore (modQ given 1 fun q => { q with inResv := q.inResv - 1 }) 1).frozen.isNone,
      (getCore (modQ shut 1 fun q => { q with inResv := q.inResv - 1 }) 1).frozen.isSome,
      (forwardTo (post (.reply 0 1 3 (some 5)) from0) 1 3).isNone && inOrder (post (.reply 0 1 3 (some 5)) from0) 7 (.reply 0 1 3 (some 5)),
      (getFib moveTo 0 0).map (·.sch.dq) == some [] && freeSlot (getCore moveTo 1) (nSlots (kindOf 1)) == some 0,
      !(getCore moveTo 0).stopped && decide ((getCore moveTo 1).q.pool.length
        + resHeld (getCore moveTo 1) 0 goneSlot + poolDue (getCore moveTo 1) + 0 ≤ nPool (kindOf 1)),
      inOrder iced 7 (.reserve who 1 (.g 1)) && (getCore iced 0).frozen.isSome && (getFib iced 0 0).isSome
        && freeSlot (getCore iced 1) (nSlots (kindOf 1)) == some 0,
      inOrder moveTo 7 (.reserve who 1 (.g 1)) && inOrder crowd 7 (.reserve who 1 (.g 1)),
      inOrder host 7 (.reserve who 1 (.g 1)) && (getCore host 1).frozen.isSome && (getCore host 0).frozen.isNone
        && (getFib host 0 0).map (·.sch.dq) == some [] && freeSlot (getCore host 1) (nSlots (kindOf 1)) == some 0,
      inOrder tied 7 (.reserve who 1 (.g 1)) && (getFib tied 0 0).map (·.sch.dq) == some [2]
        && (nget (getCore tied 0).q.pool 2).map (fun x => isWaiting x.st) == some true
        && decide (16 ≤ ((getCore tied 0).q.fwd.filter (· != [])).length) && !poolShort 1 (getCore tied 1) 1
        && freeSlot (getCore tied 1) (nSlots (kindOf 1)) == some 0,
      inOrder laden 7 (.reserve who 1 (.g 1)) && !(getCore laden 0).stopped
        && freeSlot (getCore laden 1) (nSlots (kindOf 1)) == some 0
        && decide (nPool (kindOf 1) < (getCore laden 1).q.pool.length + resHeld (getCore laden 1) 0 goneSlot
          + poolDue (getCore laden 1) + 5000),
      (getFib laden 0 0).map (·.sch.dq.length) == some 5000,
      inOrder (post (.migrate who 1 0 Fibre.blank) from0) 7 (.migrate who 1 0 Fibre.blank)
        && inOrder (post (.wake who 0x100 false (.g 1)) from0) 7 (.wake who 0x100 false (.g 1)),
      (freeSlot (getCore crowd 1) (nSlots (kindOf 1))).isNone && (getFib crowd 0 0).isSome,
      (wakeCode (takeMsg (post (.wake who 0x100 false (.g 1)) from0) 7) 0x100 false).2 == 2] : List Bool).all id = true := by
  decide +kernel

/-- MemoryEvents. -/
theorem test_witness_memoryEvents :
    let dram (tag : Option Nat) (op : AccOp) := { reqOf (.txn 5 0) (.dram 64) ⟨op, 8, 0, 8⟩ with tag := tag }
    let free (r : Req) (s : State) : Bool := reqFree (asks r s) 7 == some r
    let cb : State := modGk State.reset (ctrlOf 64) fun g => { g with cb := [(2, ⟨0, some 0, 0⟩)] }
    let bad : State := { State.reset with mem := { State.reset.mem with bad := [2] } }
    let g := ctrlOf 64
    let told : State := modDie { bad with mem := { bad.mem with dram := [⟨0, BitVec.ofNat 8 (codeNum .scrubError)⟩] } }
      (g / 1024) fun q => { q with srcs := [srcCtrl g] }
    let weak : State := { State.reset with mem := { State.reset.mem with weak := [2] } }
    let line := { reqOf (.txn 5 0) (.host 64 true) ⟨.load, 8, 0, 0⟩ with deferred := true }
    let regs := reqOf (.txn 5 0) (.regs 0x100) (storeAcc 8 1)
    let acq : Txn := { who := regs.who, dst := .pair (.g 2), size := 16, plan := [], got := [], left := 0, full := true,
                       acq := true, snoops := 1, err := none }
    let held : State := { State.reset with net := { State.reset.net with txns := [(5, acq)] } }
    let said := { reqOf (.txn 5 0) (.scratch 64) ⟨.load, 8, 0, 0⟩ with answer := some (.ok 0 0 true) }
    let told5 := asks said { held with host := { held.host with snoops := [(3, true)] } }
    ([free (dram none .load) State.reset, free (dram none (.red .add)) State.reset, free (dram (some 3) .load) State.reset,
      (cbEntry cb 2).map (·.oldest) == some (some 0), bad.mem.bad.contains 2, (scrubRecord bad (ctrlOf 64)).isNone,
      (scrubRecord told (ctrlOf 64)).isSome, told.mem.bad.contains 2, !weak.mem.bad.contains 2 && weak.mem.weak.contains 2,
      !State.reset.mem.bad.contains 2 && !State.reset.mem.weak.contains 2, State.reset.host.up, State.reset.host.snoops.length < 32,
      getReq (asks line State.reset) 7 == some line && line.deferred && line.answer.isNone,
      nget (asks line State.reset).net.reqs 7 == some line,
      nget told5.net.reqs 7 == some said && said.answer.isSome && acquiring told5 said && told5.host.snoops == [(3, true)],
      writeUnderWay (asks { line with acc := storeAcc 8 1 } State.reset) 1 && !writeUnderWay State.reset 1,
      State.reset.net.txns == [], held.net.txns == [(5, acq)] && acq.snoops == 1 && acq.snoops != 0,
      (match regBlock 0x100 with
        | .window _ _ => false
        | _ => (regAccess State.reset 0x100 8 none false).2.toOption.isSome && (regAccess State.reset 0x100 8 (some 1) false).2.toOption.isSome),
      free regs State.reset] : List Bool).all id = true := by decide +kernel

/-- PowerEvents: what holds TIME back, and nothing; a window that is due, one in which a loop has still to evaluate, and one
that goes on; a domain that spends too much, too little, and in between; one without energy; a device that joins. -/
theorem test_witness_power :
    let dom (g : Domain → Domain) : State :=
      modDom { State.reset with time := 5000, gov := { State.reset.gov with win := 1 } } 0 fun x => g { x with bud := 1000, res := 1000 }
    let vf (s : State) (n : Nat) : Nat :=
      let x := getDom s 0
      let e := windowAge s
      let m := max x.spend (min n (spendMax s 0))
      if !evalDue s 0 then 0
      else if x.bud - m = 0 ∧ x.gated = false then 4
      else if x.bud - m = 0 then 0
      else if x.bud * e < m * 50 ∧ x.vfp ≠ 0 then 1
      else if 5 * (m * 50) < 4 * (x.bud * e) ∧ x.vfp < capOf x ∧ x.gated = false then 2
      else if m * 50 ≤ x.bud * e ∧ 4 * (x.bud * e) ≤ 5 * (m * 50) then 3 else 0
    let due := withFib 0 (waits .sync (.done 3 7)) id
    let aged (t : W64) (e : Nat) : State := (upto 18).foldl (fun s d => modDom s d fun x => { x with evalAt := e })
      { State.reset with time := t, gov := { State.reset.gov with win := 1 } }
    ([vf (dom id) 101 == 1, vf (dom fun x => { x with vfp := 3 }) 79 == 2, vf (dom id) 80 == 3, vf (dom id) 100 == 3,
      vf (dom id) 5000 == 4, tickWaits { due with time := 10 }, !tickWaits State.reset && State.reset.fab.colls == [],
      State.reset.gov.win == 0, windowDue (aged 50000 50) && !(upto 18).any (evalDue (aged 50000 50)),
      (aged 50000 49).gov.win != 0 && (upto 18).any (evalDue (aged 50000 49)) && !evalDue State.reset 0,
      (dom id).gov.win != 0 && decide ((dom id).time.toNat < (dom id).gov.start + windowNs),
      spentBy (dom id) (upto 18) ≤ govLimit (dom id).gov.st,
      (getDom (dom fun x => { x with res := 0 }) 0).res == 0 && !(getDom (dom fun x => { x with res := 0 }) 0).gated,
      State.reset.regs.timeRef == 0, 1 != State.reset.regs.timeRef,
      ({ State.reset with regs := { State.reset.regs with timeRef := 1 } } : State).regs.domid.toNat != 1,
      ({ State.reset with boot := { State.reset.boot with stage := .joining } } : State).boot.stage == .joining,
      State.reset.tasks.dispatched == 0] : List Bool).all id = true := by decide +kernel

/-- PowerEvents: a reference that is lost, whatever the members of the domain are. -/
theorem test_witness_reference :
    ∃ d, nextReference { State.reset with regs := { State.reset.regs with timeRef := 256 } } = some d := by
  let s : State := { State.reset with regs := { State.reset.regs with timeRef := 256 } }
  have h : s.regs.domid.toNat ≠ s.regs.timeRef := by decide
  unfold nextReference
  simp only [List.filter_cons, bne_iff_ne, ne_eq]
  rw [if_pos h]
  split <;> rename_i ha
  · exact ⟨_, List.min?_cons⟩
  · cases hb : List.filter (fun d => decide (s.regs.timeRef < d)) (s.regs.domid.toNat ::
        List.filter (fun x => x != s.regs.timeRef) (List.map (fun x => x.toNat) Config.members)) with
    | nil => exact absurd (by rw [hb]; rfl) ha
    | cons x xs => exact ⟨_, List.min?_cons⟩

/-- TaskEvents: a task without a core; one that makes room for it; one that has been stopped and drained. -/
theorem test_witness_tasks :
    let dev (ts : NMap Task) (s : State) : State := { s with tasks := { s.tasks with table := ts } }
    let plan : Plan := ⟨9, [], [], []⟩
    let t := taskEntry 9 .eligible
    let a := dev [(3, t)] State.reset
    let high : Task := { taskEntry 10 .eligible with pri := 5, ceil := 15, estimate := 1 }
    let low : Task := { taskEntry 9 .resident with estimate := 100000, cores := [0] }
    let b := dev [(3, low), (4, high)] State.reset
    let c := modCore b 0 fun k => { k with stopped := true }
    let d := dev [(3, taskEntry 9 .resident)] State.reset
    ([firstTask a == some (3, t) && t.tid == plan.tid && !a.tasks.stopped, !(a.tasks.table.any fun e => halting a e.2),
      !(digestHeld a && replicated t), admitted a [] t, mapTask a [] t == some ([], []), regionsOk a t [] plan.regions,
      taskOf b 9 == some (3, low) && !anyCore b low (·.frozen.isSome) && !halting b low && (victims b).contains 9,
      taskOf c 9 == some (3, low) && !anyCore c low (·.frozen.isSome) && halting c low && drainedTask c low.cores,
      taskOf d 9 == some (3, taskEntry 9 .resident) && taskDone d (taskEntry 9 .resident)] : List Bool).all id = true := by
  decide +kernel

/-- ControlNodeEvents. -/
theorem test_witness_controlNode :
    let dev (ts : NMap Task) (s : State) : State := { s with tasks := { s.tasks with table := ts } }
    let cold := modCore State.reset 0 fun k => { k with frozen := some (.fibre 0 false) }
    let t := taskEntry 9 .resident
    let one := dev [(3, t)] State.reset
    let stuck := { State.reset with boot := { State.reset.boot with stage := .recovery } }
    let img : List Byte := List.replicate 256 0
    let busy : State := { State.reset with net := { State.reset.net with
      txns := [(5, ⟨⟨nodeAgent, goneSlot, 0, 0, false, false, 0⟩, .node true, 8, [], [], 1, false, false, 0, none⟩)] } }
    let sent := asks (reqOf (.txn 5 0) (.scratch 0) ⟨.load, 8, 0, 0⟩)
      (dev [(3, { t with cores := [0] })] State.reset)
    let full := modCore State.reset 0 fun k => { k with fifo := [(0, entryOf (cmdWords cColl 1 8 0 0) .running)] }
    let iced := modCore (dev [(3, { t with cores := [0] })] State.reset) 0 fun k => { k with frozen := some .task }
    let part := { stuck with boot := { stuck.boot with pieces := List.replicate 250 0 } }
    let asked : State := { dev [(3, { t with seg := segWord 0 0 65536 11 2 })] State.reset with
      regs := { State.reset.regs with attTid := 9 } }
    let streaming : State := { State.reset with chaez := { State.reset.chaez with stream := some [0] } }
    ([!nodeBusy State.reset, nodeBusy busy && busy.chaez.acts == [], ((targetCores cold (.core 0)).filter fun c => (getCore cold c).frozen.isSome) == [0],
      ((targetCores State.reset (.core 0)).filter fun c => (getCore State.reset c).frozen.isSome) == [],
      targetTask one (.task 9) == some (3, t) && t.st != .complete && t.st != .recording,
      !(t.st == .resident && endBusy (t.cores.foldl stopCore one) t),
      (targetTask sent (.task 9)).map (fun x => x.2.st == .resident && endBusy (x.2.cores.foldl stopCore sent) x.2) == some true,
      !(digestWaits State.reset || afterCheckpoint State.reset (.digestReset 0)),
      (physDword State.reset 8).2.isSome && (physDword (physDword State.reset 8).1 16).2.isSome,
      digestWaits full || afterCheckpoint full (.digestReset 0),
      (iced.tasks.table.filter fun e => e.2.st == .resident).any fun e => anyCore iced e.2 (·.frozen.isSome),
      (State.reset.tasks.table.filter fun e => e.2.st == .resident) == [] && !afterReset State.reset (.checkpoint 0 0)
        && !afterCheckpoint State.reset (.checkpoint 0 0) && State.reset.chaez.stream.isNone,
      !afterReset streaming (.checkpoint 0 0) && !afterCheckpoint streaming (.checkpoint 0 0)
        && (streaming.tasks.table.filter fun e => e.2.st == .resident) == []
        && (streaming.chaez.stream.map fun ds => decide (ds.length < chunkCount)) == some true,
      afterReset { State.reset with chaez := { State.reset.chaez with acts := [.digestReset 0] } } (.checkpoint 0 0),
      (one.tasks.table.filter fun e => e.2.st == .resident) != []
        && !(one.tasks.table.any fun e => e.2.st == .resident && anyCore one e.2 (·.frozen.isSome)),
      !(State.reset.tasks.table.any fun e => e.2.st == .resident), stuck.boot.stage == .recovery,
      (stuck.boot.pieces ++ [(0 : Byte)]).length < 0x100, 0x100 ≤ (part.boot.pieces ++ img.take 6).length
        && decide (0x100 + bodyLen (part.boot.pieces ++ img.take 6) ≤ (part.boot.pieces ++ img.take 6).length),
      State.reset.boot.stage == .rom, (report asked).2.toOption.isNone] : List Bool).all id = true := by decide +kernel

/-- ControlNodeEvents: a CHECKPOINT whose chunks have all been sent. -/
theorem test_witness_streamed : chunkCount ≤ (List.replicate chunkCount (0 : W512)).length :=
  Nat.le_of_eq List.length_replicate.symm

/-- FabricEvents: what the switch, a merged read and a late request need. -/
theorem test_witness_fabric :
    let good : RowPkt := ⟨1, 5, 0, 8, 0, 3, 0, .read, false, 0, false, [], 0⟩
    let peer (k : PeerKind) : PeerPkt := ⟨3, k, 0, 8, 0, 0, false, 0, 0, 0⟩
    let row (m : Bool) := reqOf (.engine 0 0 0 none) (.row 3 1 5 0 m) ⟨.load, 8, 0, 0⟩
    let s (m : Bool) := asks (row m) State.reset
    let two : State := { s true with
      net := { (s true).net with reqs := [(6, row true), (7, row true)] }
      fab := { State.reset.fab with merge := [(6, (0, []))] } }
    let lost : State := { s false with fab := { State.reset.fab with maps := [(1, (2, 1, 0, 1, 0))] } }
    let shut : State := { State.reset with fab := { State.reset.fab with fenced := [0] } }
    ([!portShut State.reset 0, portShut shut 0, !rowMalformed State.reset good, rowMalformed State.reset { good with len := 4 },
      reqFree (s true) 7 == some (row true) && !wrongOwner (s true) 3 1 5 && (nget (s true).fab.merge 7).isNone,
      (row true).answer.isNone && !fabricLate (s true) (row true) && !fabricLate two (row true) && !fabricLate lost (row false),
      (mergeHost (s true) 7 (row true)).isNone && decide ((s true).fab.merge.length < mergeCap),
      mergeHost two 7 (row true) == some 6 && reqFree two 7 == some (row true) && (nget two.fab.merge 7).isNone,
      reqFree lost 7 == some (row false) && wrongOwner lost 3 1 5, !peerMalformed (peer .load),
      peerMalformed { peer .load with size := 0 }, !(peerAcc (peer .load) (peerRights State.reset 3)).2,
      placeAt 0 true == some (.dram 0), placeAt (2 ^ 39) true == none,
      fabricLate { s false with time := 50000 } (row false)] : List Bool).all id = true := by decide +kernel

/-- FabricEvents: the source whose port a packet came through is not foreign, another is; a device that lets the source at a
port read its pages. -/
theorem test_witness_source (port : BitVec 4) :
    let src := (Config.portId port).toNat
    let dev : State := { State.reset with regs := { State.reset.regs with peeracc := [(src, 1)] } }
    foreign port src = false ∧ foreign port (src + 1) = true ∧
      (peerAcc ⟨src, .load, 0, 8, 0, 0, false, 0, 0, port⟩ (peerRights dev src)).2 = true := by
  simp [foreign, peerRights, peerAcc, ngetD, nget, bitAt]

/-- A device in which core 0 is about to issue what its instruction-cache line holds. -/
def holding (line : Nat) (adone : Bool) : State :=
  let s := State.reset.withFetchWord 32 0
  modFib (modCore s 0 fun k => { k with caches := { k.caches with icache := [⟨0, BitVec.ofNat 512 line, 16⟩] } }) 0 0
    fun f => { f with ctl := { f.ctl with adone := adone } }

/-- The same with the fibre on strand 15, in a handler. -/
def handling (line : Nat) : State :=
  modCore (holding line false) 0 fun k =>
    let f := (nget k.fibres 0).getD Fibre.blank
    let on15 : Strand := { Strand.blank with occ := some handlerSlot }
    { k with
      fibres := [(handlerSlot, { f with sch := { f.sch with run := .running 15 } })]
      handler := some ⟨1, none, false, 0⟩
      seq := { k.seq with strands := (k.seq.strands.set 0 Strand.blank).set 15 on15 } }

/-- StepRunsWords: the premises for a lone word, for a pair with ADONE clear and set, for a word without meaning, and for a
word that strand 15 may not issue. -/
theorem test_witness_turns :
    let head (s : State) : State := cycleHead { (nextStep s).2 with issue := Issue.blank } 0
    let turnsOn (st slot : Nat) (s : State) : Bool :=
      (nextStep s).1 == .sequencerCycle 0 && !gatedNow { (nextStep s).2 with issue := Issue.blank } 0
        && (getCore (nextStep s).2 0).frozen.isNone && !cycleUsed (getCore (head s) 0) && nextTurn (head s) 0 == some st
        && (match turnOf (head s) 0 st with
          | .issue => true
          | _ => false)
        && (onStrand (getCore (head s) 0) st).map (·.1) == some slot && !(strandAt (getCore (head s) 0) st).lock
    let turns := turnsOn 0 0
    let wordOf (slot : Nat) (s : State) (a : W64) : Option Nat :=
      match fetchAt (getCore (head s) 0) slot a with
      | .word w => some w
      | _ => none
    let word := wordOf 0
    let lone := holding 0x80000000 false
    let nop := (encode false .nop).getD 0
    let add := (encode false (.add 0 (.g 1) (.g 2) (.g 3) .n)).getD 0
    let pair (d : Bool) := holding (nop + add * 2 ^ 32) d
    let bad := holding 0xFF800000 false
    let barred := handling ((encode true .doneF).getD 0)
    ([turns lone && !undisciplined (head lone) 0 0 0x80000000, word lone 0 == some 0x80000000 && decodeWord 0x80000000 == some .nop,
      [false, true].all (fun d => turns (pair d) && !undisciplined (head (pair d)) 0 0 nop && word (pair d) 0 == some nop && word (pair d) 4 == some add
        && (pairCheck (nameIssuer (head (pair d)) 0 0 0 0) nop add).isNone),
      fld nop 30 2 == 0 && fld add 30 2 == 1 && decodeWord nop == some .nop
        && decodeWord add == some (.add 0 (.g 1) (.g 2) (.g 3) .n),
      turnsOn 15 handlerSlot barred && (wordOf handlerSlot barred 0).map (undisciplined (head barred) 0 handlerSlot) == some true,
      turns bad && !undisciplined (head bad) 0 0 0xFF800000, word bad 0 == some 0xFF800000 && (decodeWord 0xFF800000).isNone && !(head bad).issue.live] : List Bool).all id = true := by decide +kernel

/-- EncodeDecode: a half of a pair (the lone words are those of reads). EveryStepRuns: reset. MemoryKept: reset, and a step from it. -/
theorem test_witness_machine :
    ([Instr.wf (.add 0 (.g 1) (.g 2) (.g 3) .n), (encode false (.add 0 (.g 1) (.g 2) (.g 3) .n)).isSome,
      Mem.wf State.reset.mem.dram && Mem.wf State.reset.mem.scratch && State.reset.cores == [] && !State.reset.issue.live,
      (match step (State.reset.withFetchWord 32 0) with
        | .next t => Mem.wf t.mem.dram
        | _ => false)] : List Bool).all id = true := by decide +kernel

/-- FaultsTaken. -/
theorem test_witness_faults :
    let s := latch (.add 0 (.g 1) (.g 2) (.g 3) .n)
    let c := s.issue.core
    let told := modDie s (dieOf c) fun q => { q with srcs := [srcFibre c s.issue.slot] }
    let masked (i : Instr) := onCore (fun k => { k with crew := some { placeCrew with tfeat := 0 } }) i
    let i := Instr.ptinvAll .dev
    let p := modMe (latch i) fun f => { f with ctl := { f.ctl with priv := false } }
    ([(getFib s c s.issue.slot).isSome && s.issue.slot != handlerSlot, codeCls .pageAbsent == 0 && codeCls .segRights != 0,
      !(getDie s (dieOf c)).srcs.contains (srcFibre c s.issue.slot), (getDie told (dieOf c)).srcs.contains (srcFibre c s.issue.slot),
      (getCore s c).frozen.isNone, dieOf c < 2, s.chaez.notices == [],
      (takeFault s c s.issue.slot .segRights 0 .none 0 0).chaez.notices.map (·.1) == [dieOf c],
      (checkWord (.fadd 0 (.g 1) (.g 2) (.g 3)) (masked (.fadd 0 (.g 1) (.g 2) (.g 3)))).isSome
        && (masked (.fadd 0 (.g 1) (.g 2) (.g 3))).issue.live && (Instr.fadd 0 (.g 1) (.g 2) (.g 3)).opcode.isSome,
      i.wf && !inHandler p && group i == 12 && !(me p).ctl.priv && kindOf p.issue.core == .lookup
        && regsOf i == [] && kindOk (kindOf p.issue.core) i && bitAt (emask (myCore p) p.issue.core false) 12,
      checkWord i p == some .privilege] : List Bool).all id = true := by decide +kernel

/-! ## Steps whose results the spec gives or that are computed by hand -/

/-- The fibre after a word, from registers g1-g3. -/
def after (i : Instr) (g1 g2 g3 : W64) (h : Core → Core) : Option Fibre :=
  let s := onCore h i
  let s := modMe s fun f => { f with g := ((f.g.set 1 g1).set 2 g2).set 3 g3 }
  match exec i s with
  | .next t => getFib t s.issue.core s.issue.slot
  | .fault _ | .refused _ => none

def g1After (i : Instr) (a b : W64) : Option W64 := (after i 0 a b id).map (·.g[1])

/-- 05 R100's example: add.w and the saturating forms. -/
theorem test_add_results :
    ([g1After (.add 0 (.g 1) (.g 2) (.g 3) .w) 0x7FFFFFFF 1 == some 0xFFFFFFFF80000000,
      g1After (.add 0 (.g 1) (.g 2) (.g 3) .ss) 0x7FFFFFFF 1 == some 0x80000000,
      g1After (.add 0 (.g 1) (.g 2) (.g 3) .us) 0xFFFFFFFFFFFFFFFF 1 == some 0xFFFFFFFFFFFFFFFF] : List Bool).all id = true := by
  decide +kernel


/-- 05 R101: division by 0; R102: a count of 2^32 + 1 in shl.w. -/
theorem test_corner_results :
    ([g1After (.div 0 (.g 1) (.g 2) (.g 3) .n) 7 0 == some 0xFFFFFFFFFFFFFFFF,
      g1After (.rem 0 (.g 1) (.g 2) (.g 3) .n) 7 0 == some 7,
      g1After (.div 0 (.g 1) (.g 2) (.g 3) .n) 0x8000000000000000 0xFFFFFFFFFFFFFFFF == some 0x8000000000000000,
      g1After (.shl 0 (.g 1) (.g 2) (.g 3) true) 1 0x100000001 == some 0] : List Bool).all id = true := by decide +kernel

/-- 03 R57's example: 1 + 2^-9 to BF16 under SR with SEED 0x1234 gives 0x3F81, and SEED becomes 0x091A. R56: 65,520 to
FP16 under RNE overflows to infinity. -/
theorem test_fcvt_results :
    (let i := Instr.fcvt 0 (.g 1) (.g 2) .fp32 .bf16
     let j := Instr.fcvt 0 (.g 1) (.g 2) .fp32 .fp16
     let s := modMe (latch i) fun f => { f with g := f.g.set 2 0x3F804000, ctl := { f.ctl with rm := 5, seed := 0x1234 } }
     (match exec i s with
      | .next t => (getFib t s.issue.core s.issue.slot).map (fun f => (f.g[1], f.ctl.seed)) == some (0x3F81, 0x091A)
      | _ => false)
     && (after j 0 0x477FF000 0 id).map (fun f => (f.g[1].toNat % 2 ^ 16)) == some 0x7C00) = true := by decide +kernel

/-- 08 R202's word st4.hi g5, [sg0, g1, 3] writes the high half of its byte; a dword is stored low byte first. -/
theorem test_store_results :
    (let mem (i : Instr) (v : W64) : Option Mem :=
       let s := modMe (onTile 64 i) fun f => { f with g := (f.g.set 5 v).set 1 0 }
       match exec i s with
       | .next t => some (getCore t s.issue.core).tile.mem
       | _ => none
     mem (.st4 (.g 5) 0 (.g 1) true 3) 0xFA == some [⟨3, 0xA0⟩]
       && mem (.st (.g 5) 0 (.g 1) .d 1) 0x0201 == some [⟨8, 1⟩, ⟨9, 2⟩]) = true := by decide +kernel

/-- 08 R210, R212: amo.min.w of -1 and 1; red.fadd.w of 1.0 and 2.0. -/
theorem test_atomic_results :
    ([newBytes ⟨.amo .min, 4, 1, 0⟩ 0xFFFFFFFF == some 0xFFFFFFFF, newBytes ⟨.amo .add, 4, 1, 0⟩ 0xFFFFFFFF == some 0,
      newBytes ⟨.red .fadd, 4, 0x40000000, 0⟩ 0x3F800000 == some 0x40400000] : List Bool).all id = true := by decide +kernel

/-- 13 R334's table: fwalk over the compressed record and over the bitmap; its arrays lie in the own tile here. -/
theorem test_fwalk_results :
    (let tile : Mem := [⟨0x200, 2⟩, ⟨0x211, 0x10⟩, ⟨0x220, 3⟩, ⟨0x228, 16⟩, ⟨0x231, 0x20⟩, ⟨0x239, 0x30⟩,
       ⟨0x1008, 2⟩, ⟨0x1010, 2⟩, ⟨0x1018, 5⟩, ⟨0x1020, 6⟩, ⟨0x2000, 0x31⟩, ⟨0x2002, 0x0F⟩, ⟨0x2003, 0xF0⟩]
     let walk (a b : W64) : Option (W64 × W64) :=
       (after (.fwalk (.g 4) (.g 1) (.g 2)) a b 0 (recorded tile)).map fun f => (f.g[4], f.g[5])
     walk 0x200 2 == some (2, 5) && walk 0x200 1 == some (2, 2) && walk 0x220 1 == some (3, 11)) = true := by
  decide +kernel

/-- 13 R332's example of the partition function, and 00's home channel of lookup core 5. -/
theorem test_place_results :
    rowAt 0 (BitVec.ofNat 256 (64 * 2 ^ 16 + 2 ^ 34 + 2 ^ 40 + 511 * 2 ^ 48 + 1024 * 2 ^ 64 + 2 ^ 20 * 2 ^ 128
      + 0x8000000 * 2 ^ 192)) 5000 = .here 0xE20000100 ∧ chanOf 0x28000040 = 5 := by decide +kernel

/-- The words that the spec assembles in 05, 06, 08 and 13. -/
theorem test_spec_words :
    ([(0xD9818443, .vfma 0 3 1 2 3), (0xD8008860, .vadd 0 1 2 3 false .fp32), (0xAC118802, .vld 4 3 (.g 2) 2),
      (0x92940483, .st4 (.g 5) 0 (.g 1) true 3), (0x90889101, .ldfe (.g 2) 1 (.g 4) .vly 1),
      (0x910C2908, .stf (.g 3) 0 .zr .vly 8), (0x87102200, .fwalk (.g 4) (.g 1) (.g 2)), (0xB0000000, .mzero 0),
      (0xB1002201, .mma 0 0 .bf16 .bf16 1), (0xB2080000, .mdrain 0 8 .fp32 0)] : List (Nat × Instr)).all reads = true := by
  decide +kernel

/-- 07 R171: after a trap the PC is the handler's, at system privilege. -/
theorem test_trap_entry :
    (let i := Instr.trap 7
     let s := onCore (fun k => { k with trap := { k.trap with tvec := 0x101 } }) i
     match exec i s with
     | .next t => (getFib t s.issue.core s.issue.slot).map (fun f => (f.pc, f.ctl.priv)) == some (0x100, true)
     | _ => false) = true := by decide +kernel

end Sys2Proof.Tests
end

section
/-! PROOFS. Signed and unsigned division in any width (05 R101): the rules of `divS`, `remS`, `divU`, `remU`, and O3. -/

namespace Sys2Proof.Machine

variable {n : Nat}

/-! ## Signed division -/

theorem divS_zero (x : BitVec n) : divS x 0 = -1 :=
  (if_pos rfl).trans BitVec.neg_one_eq_allOnes.symm

theorem remS_zero (x : BitVec n) : remS x 0 = x := if_pos rfl

theorem divS_of_ne (x : BitVec n) {y : BitVec n} (hy : y ≠ 0) : divS x y = x.sdiv y := if_neg hy

/-- A divisor of 0 needs no case of its own: `srem` too leaves the dividend. -/
theorem remS_eq_srem (x y : BitVec n) : remS x y = x.srem y := by
  by_cases hy : y = 0
  · rw [hy, remS_zero]
    exact BitVec.srem_zero.symm
  · exact if_neg hy

theorem divS_intMin_neg_one : divS (BitVec.intMin n) (-1) = BitVec.intMin n := by
  by_cases hn : (-1 : BitVec n) = 0
  · obtain rfl : n = 0 := by simpa using hn
    exact Subsingleton.elim _ _
  · rw [divS_of_ne _ hn]
    exact BitVec.intMin_sdiv_neg_one

/-- Every number is a multiple of −1, the least one too, whose quotient does not fit. -/
theorem remS_neg_one (x : BitVec n) : remS x (-1) = 0 := by
  rw [remS_eq_srem]
  obtain rfl | hn := Nat.eq_zero_or_pos n
  · exact Subsingleton.elim _ _
  · have hone : (-1 : BitVec n).toInt = -1 := by
      simp [BitVec.neg_one_eq_allOnes, BitVec.toInt_allOnes, hn]
    exact BitVec.srem_zero_of_dvd (hone ▸ Int.neg_dvd.mpr (Int.one_dvd _))

/-- The quotient truncates toward zero wherever it fits in the width. -/
theorem toInt_divS {x y : BitVec n} (hy : y ≠ 0) (hfit : ¬ (x = BitVec.intMin n ∧ y = -1)) :
    (divS x y).toInt = x.toInt.tdiv y.toInt := by
  rw [divS_of_ne x hy]
  exact BitVec.toInt_sdiv_of_ne_or_ne x y (Decidable.not_and_iff_not_or_not.mp hfit)

/-- The remainder takes the sign of the dividend. -/
theorem toInt_remS (x y : BitVec n) : (remS x y).toInt = x.toInt.tmod y.toInt := by
  rw [remS_eq_srem, BitVec.toInt_srem]

/-- What 05 R101 asks of a signed quotient `q` and remainder `r`: its table's two fixed cases, and A = q × B + rem. -/
def SignedDivision (x y q r : BitVec n) : Prop :=
  (y = 0 → q = -1 ∧ r = x) ∧
    (x = BitVec.intMin n ∧ y = -1 → q = BitVec.intMin n ∧ r = 0) ∧
    (y ≠ 0 → ¬ (x = BitVec.intMin n ∧ y = -1) →
      q.toInt = x.toInt.tdiv y.toInt ∧ r.toInt = x.toInt.tmod y.toInt ∧ x.toInt = q.toInt * y.toInt + r.toInt)

theorem signedDivision_divS_remS (x y : BitVec n) : SignedDivision x y (divS x y) (remS x y) := by
  refine ⟨?byZero, ?overflow, ?fits⟩
  case byZero =>
    rintro rfl
    exact ⟨divS_zero x, remS_zero x⟩
  case overflow =>
    rintro ⟨rfl, rfl⟩
    exact ⟨divS_intMin_neg_one, remS_neg_one _⟩
  case fits =>
    intro hy hfit
    refine ⟨toInt_divS hy hfit, toInt_remS x y, ?_⟩
    rw [toInt_divS hy hfit, toInt_remS, Int.tdiv_mul_add_tmod]

/-! ## Unsigned division -/

theorem divU_zero (x : BitVec n) : divU x 0 = BitVec.allOnes n := if_pos rfl

theorem remU_zero (x : BitVec n) : remU x 0 = x := if_pos rfl

theorem toNat_divU (x : BitVec n) {y : BitVec n} (hy : y ≠ 0) : (divU x y).toNat = x.toNat / y.toNat := by
  rw [divU, if_neg hy, BitVec.toNat_udiv]

theorem toNat_remU (x : BitVec n) {y : BitVec n} (hy : y ≠ 0) : (remU x y).toNat = x.toNat % y.toNat := by
  rw [remU, if_neg hy, BitVec.toNat_umod]

/-- What 05 R101 asks of an unsigned quotient `q` and remainder `r`. -/
def UnsignedDivision (x y q r : BitVec n) : Prop :=
  (y = 0 → q = BitVec.allOnes n ∧ r = x) ∧
    (y ≠ 0 → q.toNat = x.toNat / y.toNat ∧ x.toNat = q.toNat * y.toNat + r.toNat ∧ r.toNat < y.toNat)

theorem unsignedDivision_divU_remU (x y : BitVec n) : UnsignedDivision x y (divU x y) (remU x y) := by
  refine ⟨?byZero, ?byNonzero⟩
  case byZero =>
    rintro rfl
    exact ⟨divU_zero x, remU_zero x⟩
  case byNonzero =>
    intro hy
    have hpos : 0 < y.toNat := Nat.pos_of_ne_zero fun h => hy (BitVec.eq_of_toNat_eq h)
    rw [toNat_divU x hy, toNat_remU x hy]
    exact ⟨rfl, (Nat.div_add_mod' _ _).symm, Nat.mod_lt _ hpos⟩

/-! ## O3 -/

/-- Settles O3: the .w forms are the same two operations on the low 32 bits, so the rules of any width serve all four. -/
theorem divisionValues : Obligations.DivisionValues := by
  intro a b signed plain
  have hsigned (n : Nat) (x y : BitVec n) : signed n x y (divS x y) (remS x y) := signedDivision_divS_remS x y
  have hplain (n : Nat) (x y : BitVec n) : plain n x y (divU x y) (remU x y) := unsignedDivision_divU_remU x y
  exact ⟨hsigned 64 a b, hplain 64 a b, ⟨_, _, rfl, rfl, hsigned 32 (lo32 a) (lo32 b)⟩,
    ⟨_, _, rfl, rfl, hplain 32 (lo32 a) (lo32 b)⟩⟩

end Sys2Proof.Machine
end

section
/-! PROOFS. hash64 (05 R106) as a chain of invertible steps, and O4. -/

namespace Sys2Proof.Machine

/-- The mixing step x xor (x >> k). -/
def xorShift (k : Nat) (x : W64) : W64 := x ^^^ x >>> k

theorem hash64_eq_xorShift (a b : W64) :
    hash64 a b = xorShift 32 (xorShift 29 (xorShift 31 (a ^^^ b * 0x8C3E51A7D2F90B65) * 0xE5B36C294A1DF873)
      * 0x3D94B7E160C52A9B) := rfl

/-! ## Undoing a mixing step -/

theorem xor_xor_self (x y : W64) : x ^^^ y ^^^ y = x := by
  rw [BitVec.xor_assoc, BitVec.xor_self]
  exact BitVec.xor_zero

theorem xor_xor_xor_cancel (x y z : W64) : x ^^^ y ^^^ (y ^^^ z) = x ^^^ z := by
  rw [← BitVec.xor_assoc, xor_xor_self]

theorem xorShift_xor (k : Nat) (x y : W64) : xorShift k (x ^^^ y) = xorShift k x ^^^ xorShift k y := by
  unfold xorShift
  rw [BitVec.ushiftRight_xor_distrib]
  ac_rfl

theorem xorShift_ushiftRight (k m : Nat) (x : W64) : xorShift k (x >>> m) = x >>> m ^^^ x >>> (m + k) := by
  rw [xorShift, BitVec.shiftRight_add]

theorem ushiftRight_xorShift (k m : Nat) (x : W64) : xorShift k x >>> m = xorShift k (x >>> m) := by
  rw [xorShift_ushiftRight, xorShift, BitVec.ushiftRight_xor_distrib, ← BitVec.shiftRight_add, Nat.add_comm k m]

/-- Taken twice, the step by `k` is the step by 2 `k`. -/
theorem xorShift_xorShift (k : Nat) (x : W64) : xorShift k (xorShift k x) = x ^^^ x >>> (k + k) :=
  calc xorShift k (x ^^^ x >>> k)
    _ = x ^^^ x >>> k ^^^ (x >>> k ^^^ x >>> (k + k)) := by rw [xorShift_xor, xorShift_ushiftRight, xorShift]
    _ = x ^^^ x >>> (k + k) := xor_xor_xor_cancel _ _ _

/-- The step that undoes `xorShift k` on 64 bits wherever three shifts by `k` leave nothing. -/
def unxorShift (k : Nat) (x : W64) : W64 := xorShift k x ^^^ x >>> (k + k)

theorem xorShift_unxorShift {k : Nat} (hk : 64 ≤ k + k + k) (x : W64) : xorShift k (unxorShift k x) = x := by
  have hout : x >>> (k + k + k) = 0 := BitVec.ushiftRight_eq_zero hk
  rw [unxorShift, xorShift_xor, xorShift_xorShift, xorShift_ushiftRight, xor_xor_xor_cancel, hout]
  exact BitVec.xor_zero

/-- Both steps xor shifts of their word, so their order does not matter. -/
theorem unxorShift_xorShift {k : Nat} (hk : 64 ≤ k + k + k) (x : W64) : unxorShift k (xorShift k x) = x :=
  calc unxorShift k (xorShift k x)
    _ = xorShift k (unxorShift k x) := by rw [unxorShift, unxorShift, ushiftRight_xorShift, xorShift_xor]
    _ = x := xorShift_unxorShift hk x

/-! ## Undoing hash64, and O4 -/

theorem mul_mul_of_inverse {c d : W64} (h : c * d = 1) (x : W64) : x * c * d = x := by
  rw [BitVec.mul_assoc, h]
  exact BitVec.mul_one x

/-- The steps of `hash64` undone, last step first; the two factors are the inverses modulo 2^64 of its own. -/
def unhash64 (r b : W64) : W64 :=
  unxorShift 31 (unxorShift 29 (unxorShift 32 r * 0x0F0FE6BA01A9AB93) * 0x1102370507C96CBB)
    ^^^ b * 0x8C3E51A7D2F90B65

theorem unhash64_hash64 (a b : W64) : unhash64 (hash64 a b) b = a := by
  rw [hash64_eq_xorShift, unhash64, unxorShift_xorShift (by decide), mul_mul_of_inverse (by decide),
    unxorShift_xorShift (by decide), mul_mul_of_inverse (by decide), unxorShift_xorShift (by decide), xor_xor_self]

theorem hash64_unhash64 (r b : W64) : hash64 (unhash64 r b) b = r := by
  rw [hash64_eq_xorShift, unhash64, xor_xor_self, xorShift_unxorShift (by decide), mul_mul_of_inverse (by decide),
    xorShift_unxorShift (by decide), mul_mul_of_inverse (by decide), xorShift_unxorShift (by decide)]

/-- `unhash64` recovers `a` from the result and `b`. -/
theorem hash64_left_cancel {a b c : W64} (h : hash64 a b = hash64 c b) : a = c := by
  rw [← unhash64_hash64 a b, h, unhash64_hash64]

/-- Settles O4: `unhash64` inverts `hash64` for every fixed `b`, from both sides. -/
theorem hashBijective : Obligations.HashBijective :=
  ⟨fun _ _ => rfl, rfl, fun _ _ _ h => hash64_left_cancel h, fun b r => ⟨unhash64 r b, hash64_unhash64 r b⟩⟩

end Sys2Proof.Machine
end

section
/-! PROOFS. Counter waits and barriers (14 R351-R356; 07 R160), each outcome by the flow of its effect, and O42. -/

namespace Sys2Proof.Machine

/-! ## Counter waits (14 R351) -/

theorem counterWait_reached {s : State} {i : Instr} {ok : Bool} {w : Wait} (hok : ok = true)
    (hlate : expired s = false) : counterWait s i ok w = (wrP s 7 true, .next) := by
  simp [counterWait, hok, hlate]

theorem counterWait_parks {s : State} {i : Instr} {ok : Bool} {w : Wait} (hok : ok = false)
    (hlim : noLimit s = false) (hh : inHandler s = false) :
    counterWait s i ok w = (parkFib (startTimer s) s.issue.core s.issue.slot .counter w, .stop) := by
  have hpark : parkHere (startTimer s) i .counter w
      = (parkFib (startTimer s) s.issue.core s.issue.slot .counter w, .stop) := parkHere_stop hh
  simp [counterWait, hok, hlim, hpark]

/-- A counter that has been reached does not save a wait whose limit has already passed. -/
theorem counterWait_timesOut {s : State} {i : Instr} {ok : Bool} {w : Wait} (hfail : ok = false ∨ expired s = true)
    (hlim : noLimit s = true) : counterWait s i ok w = (wrP s 7 false, .next) := by
  have hmet : (ok && !expired s) = false := by
    rcases hfail with hok | hlate
    · simp [hok]
    · simp [hlate]
  simp [counterWait, hmet, hlim]

/-! ## Barriers (14 R354-R356) -/

theorem bindBarriers_issue (s : State) (c : Nat) : (bindBarriers s c).issue = s.issue := by
  refine foldl_issue _ ?_ _ _
  intro s kind
  split <;> rfl

theorem barArrive_issue (s : State) (c : Nat) (kind : BarKind) : (barArrive s c kind).issue = s.issue :=
  bindBarriers_issue _ _

/-- With nothing to release, bar arrives and parks where it may wait or its arrival completes the barrier. -/
theorem execBar_parks {s : State} {kind : BarKind} {d : Reg} {pd : PReg}
    (hfail : failureNow s (barScope kind) = none)
    (hdrain : drained s s.issue.core s.issue.slot (barScope kind) = true) (hh : inHandler s = false)
    (hwait : noLimit s = false ∨ barDone (barArrive s s.issue.core kind) s.issue.core kind = true)
    (h : Passes (.bar kind d pd) s) :
    execBar kind d pd s = .next (goesOn (.bar kind d pd)
      (parkFib (startTimer (barArrive s s.issue.core kind)) s.issue.core s.issue.slot .sync
        (.bar kind d pd (issuer s (.bar kind d pd))))) := by
  have hissue : (startTimer (barArrive s s.issue.core kind)).issue = s.issue := barArrive_issue _ _ _
  have hmay : (inHandler s || !noLimit s || barDone (barArrive s s.issue.core kind) s.issue.core kind) = true := by
    rcases hwait with hlim | hdone
    · simp [hlim]
    · simp [hdone]
  refine run_goesOn h ((releaseIssue_quiet hfail hdrain).trans ?_)
  simp only [hmay, if_true, parkOn_next ((inHandler_of hissue).trans hh), hissue]

/-- With nothing to release and a limit of 0, an arrival that does not complete the barrier is withdrawn at once. -/
theorem execBar_withdraws {s : State} {kind : BarKind} {d : Reg} {pd : PReg}
    (hfail : failureNow s (barScope kind) = none)
    (hdrain : drained s s.issue.core s.issue.slot (barScope kind) = true) (hh : inHandler s = false)
    (hlim : noLimit s = true) (hopen : barDone (barArrive s s.issue.core kind) s.issue.core kind = false)
    (h : Passes (.bar kind d pd) s) :
    let u := modBar (barArrive s s.issue.core kind) s.issue.core kind (· - 1)
    execBar kind d pd s = .next (goesOn (.bar kind d pd)
      (wrP (wr u d (missingWord u s.issue.core s.issue.slot kind)) pd false)) := by
  refine run_goesOn h ((releaseIssue_quiet hfail hdrain).trans ?_)
  simp [hh, hlim, hopen]

/-! ## Bindings (14 R353), and O42 -/

theorem execAcbind_next {s : State} {k : Fin 8} {a : Reg} (h : Passes (.acbind k a) s) :
    execAcbind k a s = .next (goesOn (.acbind k a) (modCtr s s.issue.core fun x =>
      { x with
        bind := x.bind.set k (if (rd s a).getLsbD 63 = true then none else some ((rd s a).toNat % 2 ^ 12))
        ac := x.ac.set k 0 })) := by
  have hfield : bf (rd s a) 0 12 = (rd s a).toNat % 2 ^ 12 := by simp [bf, fld]
  refine run_goesOn h ?_
  simp only [hfield, bitAt]

/-- Settles O42: a wait by its three ways to end, a counter's write by its one effect, and bar by whether it may wait. -/
theorem counterWords : Obligations.CounterWords := by
  intro s k imm a d kind pd
  simp only [Arm.dwait, Arm.await, Arm.dset, Arm.dadd, Arm.acbind, Arm.bar]
  refine ⟨?dwaitReached, ?dwaitParks, ?dwaitTimesOut, ?awaitReached, ?awaitParks, ?awaitTimesOut, ?dset, ?dadd,
    ?acbind, ?barParks, ?barWithdraws⟩
  case dwaitReached | awaitReached => exact fun hok hlate h => run_goesOn h (counterWait_reached hok hlate)
  case dwaitParks | awaitParks => exact fun hok hlim hh h => run_stops h (counterWait_parks hok hlim hh)
  case dwaitTimesOut | awaitTimesOut => exact fun hfail hlim h => run_goesOn h (counterWait_timesOut hfail hlim)
  case dset | dadd => exact fun h => run_goesOn h rfl
  case acbind => exact execAcbind_next
  case barParks => exact execBar_parks
  case barWithdraws => exact execBar_withdraws

end Sys2Proof.Machine
end

section
/-! PROOFS. Words and their bytes (04 R69-R84): an encoded word fits 32 bits with L on top, its bytes give it back, and
O55. -/

namespace Sys2Proof.Laws

/-! ## The parts of a word fit their places -/

theorem toNat_eq_mod {n : Nat} (x : BitVec n) : x.toNat = x.toNat % 2 ^ n := (Nat.mod_eq_of_lt x.isLt).symm

/-! Each operand ends below the place of the next one, the highest below bit 23. -/

theorem operands_lt_of_A {i : Instr} {op : Nat} (h : i.opcode = some (1, op)) : i.operands < 2 ^ 23 := by
  cases i <;> cases h <;> dsimp only [Instr.operands] <;>
    grind [= toNat_eq_mod, Fin.isLt, reg_code_lt, toNat_lt_two, sumVar_code_lt, divVar_code_lt, sgnVar_code_lt,
      iCond_code_lt, fCond_code_lt, fmt_code_lt]

theorem operands_lt_of_C {i : Instr} {op : Nat} (h : i.opcode = some (0, op)) : i.operands < 2 ^ 23 := by
  cases i <;> cases h <;> dsimp only [Instr.operands] <;>
    grind [= toNat_eq_mod, Fin.isLt, reg_code_lt, toNat_lt_two, amoOp_code_lt, redOp_code_lt, barKind_code_lt,
      fmt_code_lt, size_code_lt, esz_code_lt, scope_code_lt, fuseSize_code_lt, sysReg_code_lt]

theorem opcode_lt {i : Instr} {k op : Nat} (h : i.opcode = some (k, op)) : k < 2 ∧ op < 2 ^ 7 := by
  cases i <;> cases h <;> decide

/-- The word of an instruction is L above its 31 other bits. -/
theorem encode_eq {lone : Bool} {i : Instr} {w : Nat} (h : encode lone i = some w) :
    ∃ body < 2 ^ 31, w = lone.toNat * 2 ^ 31 + body := by
  obtain ⟨⟨k, op⟩, hio, rfl⟩ := Option.map_eq_some_iff.mp h
  obtain ⟨hk, hop⟩ := opcode_lt hio
  have hargs : i.operands < 2 ^ 23 := by
    obtain rfl | rfl : k = 0 ∨ k = 1 := by omega
    · exact operands_lt_of_C hio
    · exact operands_lt_of_A hio
  exact ⟨k * 1073741824 + op * 8388608 + i.operands, by omega, by dsimp only; omega⟩

/-! ## Bytes -/

theorem bytesWord_wordBytes {w : Nat} (h : w < 2 ^ 32) (rest : List Byte) :
    bytesWord (wordBytes w ++ rest) = some w := by
  simp only [wordBytes, bytesWord, List.cons_append, BitVec.toNat_ofNat, Option.some.injEq]
  omega

theorem decodeBytes_wordBytes {w : Nat} {i : Instr} (h : w < 2 ^ 32) (hd : decodeWord w = some i) (rest : List Byte) :
    decodeBytes (wordBytes w ++ rest) = some (i, rest) := by
  simp only [decodeBytes, bytesWord_wordBytes h, Option.bind_eq_bind, Option.bind_some, hd]
  rfl

/-! ## O55 -/

/-- Every instruction decodes from each of its words: the round trips of its constructors. -/
theorem decode_encode : (i : Instr) → RoundTrip.Statement i
  | .add .. => RoundTrip.add _ _ _ _ _ | .sub .. => RoundTrip.sub _ _ _ _ _
  | .mul .. => RoundTrip.mul _ _ _ _ _ | .mulh .. => RoundTrip.mulh _ _ _ _ _
  | .div .. => RoundTrip.div _ _ _ _ _ | .rem .. => RoundTrip.rem _ _ _ _ _ | .and .. => RoundTrip.and _ _ _ _
  | .or .. => RoundTrip.or _ _ _ _ | .xor .. => RoundTrip.xor _ _ _ _ | .andn .. => RoundTrip.andn _ _ _ _
  | .shl .. => RoundTrip.shl _ _ _ _ _ | .shr .. => RoundTrip.shr _ _ _ _ _
  | .sra .. => RoundTrip.sra _ _ _ _ _ | .rotl .. => RoundTrip.rotl _ _ _ _ _
  | .min .. => RoundTrip.min _ _ _ _ _ | .max .. => RoundTrip.max _ _ _ _ _ | .clz .. => RoundTrip.clz _ _ _ _
  | .ctz .. => RoundTrip.ctz _ _ _ _ | .popc .. => RoundTrip.popc _ _ _ _
  | .bext .. => RoundTrip.bext _ _ _ _ _ | .bins .. => RoundTrip.bins _ _ _ _
  | .sel .. => RoundTrip.sel _ _ _ _ _ | .cmp .. => RoundTrip.cmp _ _ _ _ _
  | .hash64 .. => RoundTrip.hash64 _ _ _ _ | .movi .. => RoundTrip.movi _ _ _
  | .movh .. => RoundTrip.movh _ _ _ | .pset .. => RoundTrip.pset _ _ _ _ _
  | .pand .. => RoundTrip.pand _ _ _ _ _ _ | .por .. => RoundTrip.por _ _ _ _ _ _
  | .pnot .. => RoundTrip.pnot _ _ _ _ | .addImm .. => RoundTrip.addImm _ _ _ _
  | .subImm .. => RoundTrip.subImm _ _ _ _ | .mulImm .. => RoundTrip.mulImm _ _ _ _
  | .mulhImm .. => RoundTrip.mulhImm _ _ _ _ | .divImm .. => RoundTrip.divImm _ _ _ _
  | .remImm .. => RoundTrip.remImm _ _ _ _ | .andImm .. => RoundTrip.andImm _ _ _ _
  | .orImm .. => RoundTrip.orImm _ _ _ _ | .xorImm .. => RoundTrip.xorImm _ _ _ _
  | .andnImm .. => RoundTrip.andnImm _ _ _ _ | .shlImm .. => RoundTrip.shlImm _ _ _ _
  | .shrImm .. => RoundTrip.shrImm _ _ _ _ | .sraImm .. => RoundTrip.sraImm _ _ _ _
  | .rotlImm .. => RoundTrip.rotlImm _ _ _ _ | .minImm .. => RoundTrip.minImm _ _ _ _
  | .maxImm .. => RoundTrip.maxImm _ _ _ _ | .cmpImm .. => RoundTrip.cmpImm _ _ _ _
  | .fadd .. => RoundTrip.fadd _ _ _ _ | .fsub .. => RoundTrip.fsub _ _ _ _
  | .fmul .. => RoundTrip.fmul _ _ _ _ | .fma .. => RoundTrip.fma _ _ _ _ _
  | .fdiv .. => RoundTrip.fdiv _ _ _ _ | .frcp .. => RoundTrip.frcp _ _ _ | .frsq .. => RoundTrip.frsq _ _ _
  | .fmin .. => RoundTrip.fmin _ _ _ _ _ | .fmax .. => RoundTrip.fmax _ _ _ _ _
  | .fcmp .. => RoundTrip.fcmp _ _ _ _ _ | .fclass .. => RoundTrip.fclass _ _ _ _
  | .fcvt .. => RoundTrip.fcvt _ _ _ _ _ | .fsgn .. => RoundTrip.fsgn _ _ _ _ _
  | .vadd .. => RoundTrip.vadd _ _ _ _ _ _ | .vsub .. => RoundTrip.vsub _ _ _ _ _ _
  | .vmul .. => RoundTrip.vmul _ _ _ _ _ _ | .vmin .. => RoundTrip.vmin _ _ _ _ _ _
  | .vmax .. => RoundTrip.vmax _ _ _ _ _ _ | .vsgn .. => RoundTrip.vsgn _ _ _ _ _ _
  | .vcmp .. => RoundTrip.vcmp _ _ _ _ _ _ | .vfma .. => RoundTrip.vfma _ _ _ _ _
  | .vsel .. => RoundTrip.vsel _ _ _ _ _ | .vcvt .. => RoundTrip.vcvt _ _ _ _ _
  | .vscl .. => RoundTrip.vscl _ _ _ _ | .vred .. => RoundTrip.vred _ _ _ _ _
  | .vbc .. => RoundTrip.vbc _ _ _ _ | .vperm .. => RoundTrip.vperm _ _ _ _ _
  | .vmov .. => RoundTrip.vmov _ _ _ | .vmovSr .. => RoundTrip.vmovSr _ _ _ _ | .nop .. => RoundTrip.nop
  | .ret .. => RoundTrip.ret | .doneF .. => RoundTrip.doneF | .yieldF .. => RoundTrip.yieldF
  | .hret .. => RoundTrip.hret | .trigger .. => RoundTrip.trigger | .eret .. => RoundTrip.eret
  | .unfuse .. => RoundTrip.unfuse | .rejoin .. => RoundTrip.rejoin | .br .. => RoundTrip.br _ _ _
  | .jmp .. => RoundTrip.jmp _ | .call .. => RoundTrip.call _ | .jmpr .. => RoundTrip.jmpr _ _
  | .loop .. => RoundTrip.loop _ _ | .brk .. => RoundTrip.brk _ | .trap .. => RoundTrip.trap _
  | .pfx .. => RoundTrip.pfx _ | .lea .. => RoundTrip.lea _ _ _ _ _ | .madv .. => RoundTrip.madv _ _ _ _ _ _
  | .fwalk .. => RoundTrip.fwalk _ _ _ | .brank .. => RoundTrip.brank _ _ _ _
  | .ld .. => RoundTrip.ld _ _ _ _ _ _ | .ldAcq .. => RoundTrip.ldAcq _ _ _ _ _ _ _
  | .st .. => RoundTrip.st _ _ _ _ _ | .stRel .. => RoundTrip.stRel _ _ _ _ _ _
  | .ldp .. => RoundTrip.ldp _ _ _ _ | .stp .. => RoundTrip.stp _ _ _ _ | .pf .. => RoundTrip.pf _ _ _ _
  | .fence .. => RoundTrip.fence _ | .amo .. => RoundTrip.amo _ _ _ _ _ _ | .cas .. => RoundTrip.cas _ _ _ _ _
  | .red .. => RoundTrip.red _ _ _ _ _ | .ldf .. => RoundTrip.ldf _ _ _ _ _
  | .ldfe .. => RoundTrip.ldfe _ _ _ _ _ | .stf .. => RoundTrip.stf _ _ _ _ _
  | .stfw .. => RoundTrip.stfw _ _ _ _ _ | .fest .. => RoundTrip.fest _ _ _ _ _
  | .st4 .. => RoundTrip.st4 _ _ _ _ _ | .aqPush .. => RoundTrip.aqPush _ _ _ _ _
  | .aqList .. => RoundTrip.aqList _ _ _ _ _ _ | .dqPop .. => RoundTrip.dqPop _ _
  | .dqCnt .. => RoundTrip.dqCnt _ | .spawn .. => RoundTrip.spawn _ _ _ | .migr .. => RoundTrip.migr _ _
  | .send .. => RoundTrip.send _ _ _ _ | .sendQ .. => RoundTrip.sendQ _ _ _ _
  | .sendR .. => RoundTrip.sendR _ _ | .rqPush .. => RoundTrip.rqPush _ | .rqTry .. => RoundTrip.rqTry _ _
  | .rqStat .. => RoundTrip.rqStat _ _ _ | .tlaunch .. => RoundTrip.tlaunch _ _ _
  | .twait .. => RoundTrip.twait _ _ | .segld .. => RoundTrip.segld _ _ | .segrd .. => RoundTrip.segrd _ _ _
  | .dtld .. => RoundTrip.dtld _ _ _ | .tbld .. => RoundTrip.tbld _ _ _ _ | .xpld .. => RoundTrip.xpld _ _ _
  | .gkbind .. => RoundTrip.gkbind _ _ _ _ | .ptinvPage .. => RoundTrip.ptinvPage _ _ _
  | .ptinvAsid .. => RoundTrip.ptinvAsid _ _ | .ptinvAll .. => RoundTrip.ptinvAll _
  | .dwait .. => RoundTrip.dwait _ _ | .await .. => RoundTrip.await _ _ | .dset .. => RoundTrip.dset _ _
  | .dadd .. => RoundTrip.dadd _ _ | .acbind .. => RoundTrip.acbind _ _ | .bar .. => RoundTrip.bar _ _ _
  | .tread .. => RoundTrip.tread _ | .erd .. => RoundTrip.erd _ _ | .pcrd .. => RoundTrip.pcrd _ _
  | .sysrd .. => RoundTrip.sysrd _ _ | .syswr .. => RoundTrip.syswr _ _
  | .rndset .. => RoundTrip.rndset _ _ _ _ _ _ | .wake .. => RoundTrip.wake _ _ _
  | .vld .. => RoundTrip.vld _ _ _ _ | .vst .. => RoundTrip.vst _ _ _ _ | .vldg .. => RoundTrip.vldg _ _ _ _ _
  | .vsts .. => RoundTrip.vsts _ _ _ _ _ | .mzero .. => RoundTrip.mzero _ | .mldb .. => RoundTrip.mldb _ _ _ _
  | .mma .. => RoundTrip.mma _ _ _ _ _ | .mrot .. => RoundTrip.mrot _ | .mdrain .. => RoundTrip.mdrain _ _ _ _
  | .mxch .. => RoundTrip.mxch _ _ | .fuse .. => RoundTrip.fuse _ | .gather .. => RoundTrip.gather _ _
  | .scatter .. => RoundTrip.scatter _ _ | .accum .. => RoundTrip.accum _ _ | .dedup .. => RoundTrip.dedup _ _
  | .reduce .. => RoundTrip.reduce _ _ | .copy .. => RoundTrip.copy _ _ | .walk .. => RoundTrip.walk _ _
  | .fill .. => RoundTrip.fill _ _ | .coll .. => RoundTrip.coll _ _ | .res .. => RoundTrip.res _ _
  | .abt .. => RoundTrip.abt _ _ | .commandStart .. => RoundTrip.commandStart _
  | .commandRetire .. => RoundTrip.commandRetire _ _ | .commandStop .. => RoundTrip.commandStop _ _
  | .sequencerCycle .. => RoundTrip.sequencerCycle _ | .quantumEnd .. => RoundTrip.quantumEnd _ _
  | .waitTimeout .. => RoundTrip.waitTimeout _ _ | .accessReply .. => RoundTrip.accessReply _
  | .replyForward .. => RoundTrip.replyForward _ | .icacheFill .. => RoundTrip.icacheFill _
  | .tlbLookup .. => RoundTrip.tlbLookup _ | .walkEnd .. => RoundTrip.walkEnd _
  | .handlerStart .. => RoundTrip.handlerStart _ | .inboxReservation .. => RoundTrip.inboxReservation _
  | .messageWrite .. => RoundTrip.messageWrite _ | .migrationReserve .. => RoundTrip.migrationReserve _
  | .migrationArrival .. => RoundTrip.migrationArrival _ | .wakeDelivery .. => RoundTrip.wakeDelivery _
  | .remoteTileAccess .. => RoundTrip.remoteTileAccess _ | .feWithdrawal .. => RoundTrip.feWithdrawal _
  | .storeBufferSend .. => RoundTrip.storeBufferSend _ _ | .storeAck .. => RoundTrip.storeAck _
  | .controllerIssue .. => RoundTrip.controllerIssue _ | .accumulateAccept .. => RoundTrip.accumulateAccept _
  | .combiningDrain .. => RoundTrip.combiningDrain _ _ | .geckoToken .. => RoundTrip.geckoToken _
  | .rowCacheExpiry .. => RoundTrip.rowCacheExpiry _ _ | .promotionEpoch .. => RoundTrip.promotionEpoch _
  | .scrub .. => RoundTrip.scrub _ | .refresh .. => RoundTrip.refresh _ _ _
  | .stackTemperatureReport .. => RoundTrip.stackTemperatureReport _ _
  | .hostSnoop .. => RoundTrip.hostSnoop _ _ | .snoopApply .. => RoundTrip.snoopApply
  | .hostResponse .. => RoundTrip.hostResponse _ _ _ | .cxlLinkDown .. => RoundTrip.cxlLinkDown
  | .cxlLinkRetrain .. => RoundTrip.cxlLinkRetrain
  | .hostRegisterAccess .. => RoundTrip.hostRegisterAccess _ _ _ | .mmaStep .. => RoundTrip.mmaStep _ _
  | .mrotComplete .. => RoundTrip.mrotComplete _ | .mxchComplete .. => RoundTrip.mxchComplete _
  | .rejoinLineHigh .. => RoundTrip.rejoinLineHigh _ _ | .barrierComplete .. => RoundTrip.barrierComplete _ _
  | .timeTick .. => RoundTrip.timeTick | .governorWindow .. => RoundTrip.governorWindow _
  | .vfEvaluate .. => RoundTrip.vfEvaluate _ _ | .energyExhausted .. => RoundTrip.energyExhausted _
  | .equalisation .. => RoundTrip.equalisation _ | .dispatch .. => RoundTrip.dispatch _
  | .preempt .. => RoundTrip.preempt _ | .taskComplete .. => RoundTrip.taskComplete _ _
  | .fqgetWrite .. => RoundTrip.fqgetWrite _ _ | .registerWrite .. => RoundTrip.registerWrite _
  | .broadcastWrite .. => RoundTrip.broadcastWrite _ _
  | .inspectionAccess .. => RoundTrip.inspectionAccess _ _ _ | .chaezWrite .. => RoundTrip.chaezWrite _ _
  | .chaezRead .. => RoundTrip.chaezRead _ _ | .release .. => RoundTrip.release _
  | .releaseSkip .. => RoundTrip.releaseSkip _ | .endTask .. => RoundTrip.endTask _
  | .digestReset .. => RoundTrip.digestReset _ | .unfence .. => RoundTrip.unfence _
  | .timeref .. => RoundTrip.timeref _ | .checkpoint .. => RoundTrip.checkpoint _ _
  | .checkpointRestore .. => RoundTrip.checkpointRestore _ | .reset .. => RoundTrip.reset
  | .recovery .. => RoundTrip.recovery _ | .statusReport .. => RoundTrip.statusReport _ _
  | .powerOn .. => RoundTrip.powerOn | .thermalTrip .. => RoundTrip.thermalTrip _
  | .attestNonceWrite .. => RoundTrip.attestNonceWrite _ | .attestTidWrite .. => RoundTrip.attestTidWrite _
  | .attestReportRead .. => RoundTrip.attestReportRead | .rowPacket .. => RoundTrip.rowPacket _
  | .switchRowPacket .. => RoundTrip.switchRowPacket _ | .peerAccessPacket .. => RoundTrip.peerAccessPacket _
  | .fabricTimeout .. => RoundTrip.fabricTimeout _ | .collOutcome .. => RoundTrip.collOutcome _ _ _
  | .timeBeacon .. => RoundTrip.timeBeacon _ _ | .domainJoin .. => RoundTrip.domainJoin _ _
  | .referenceLoss .. => RoundTrip.referenceLoss _
  | .computeDieTemperature .. => RoundTrip.computeDieTemperature _ _

/-- Settles O55: the round trip of each constructor, on a word that its four bytes give back. -/
theorem encodeDecode : Obligations.EncodeDecode := by
  intro i lone w rest hwf henc
  obtain ⟨body, hbody, hw⟩ := encode_eq henc
  have hlone := toNat_lt_two lone
  have h32 : w < 2 ^ 32 := by omega
  exact ⟨h32, by omega, decodeBytes_wordBytes h32 (decode_encode i lone w hwf henc) rest⟩

end Sys2Proof.Laws
end

section
/-! PROOFS. A whole step, by the words of its issue and the members of its group: that it goes on and empties the latch
(O57), and that it keeps the form of the memories (O58). -/

namespace Sys2Proof.Machine

/-! ## A step goes on, and the latch is empty after it (04 R75) -/

theorem runWords_next {s : State} (h : s.issue.live = true) : ∃ t, runWords s = .next t := by
  unfold runWords
  split
  case h_1 => exact ⟨s, rfl⟩
  case h_2 i _ => exact exec_next h
  case h_3 i j _ _ =>
    obtain ⟨t, ht⟩ := exec_next (i := i) h
    rw [ht]
    by_cases hend : t.issue.ended = true
    · exact ⟨t, if_pos hend⟩
    · obtain ⟨u, hu⟩ := exec_next (i := j) (s := armA s t) rfl
      exact ⟨u, (if_neg hend).trans hu⟩

theorem nextMember_live {s t : State} (h : nextMember s = some t) : t.issue.live = true := by
  unfold nextMember at h
  dsimp only at h
  split at h
  · split at h <;> cases h <;> rfl
  · cases h

theorem runIssue_next (n : Nat) {s : State} (h : s.issue.live = true) :
    ∃ t, runIssue n s = .next t ∧ t.issue.live = false := by
  induction n generalizing s with
  | zero => exact ⟨_, rfl, rfl⟩
  | succ n ih =>
    obtain ⟨t, ht⟩ := runWords_next h
    simp only [runIssue, ht]
    split
    case h_1 u hu => exact ih (nextMember_live hu)
    case h_2 => exact ⟨_, rfl, rfl⟩

/-- What comes next is never a word: words run within the cycle that issues them. -/
theorem nextStep_opcode (s : State) : (nextStep s).1.opcode = none := by
  unfold nextStep
  dsimp only
  split
  case isTrue h => exact Option.isNone_iff_eq_none.mp h
  case isFalse => rfl

/-- Settles O57: what comes next answers in every state, and an issue that it opens is run to its end. -/
theorem everyStepRuns : Obligations.EveryStepRuns := by
  intro s _
  obtain ⟨t, ht⟩ := event_next (nextStep s).1 (nextStep s).2 (nextStep_opcode s)
  simp only [step, ht]
  by_cases hl : t.issue.live = true
  · rw [if_pos hl]
    exact runIssue_next _ hl
  · rw [if_neg hl]
    exact ⟨t, rfl, Bool.eq_false_iff.mpr hl⟩

/-! ## A step keeps the form of the memories (08 R175) -/

/-- Every meaning keeps the form of the memories: the lemma of the function that its arm calls. -/
theorem exec_keeps : (i : Instr) → (s : State) → MemOk s → OutOk (exec i s)
  | .add .., _, hs => execAdd_keeps _ _ _ _ _ _ hs | .sub .., _, hs => execSub_keeps _ _ _ _ _ _ hs
  | .mul .., _, hs => execMul_keeps _ _ _ _ _ _ hs | .mulh .., _, hs => execMulh_keeps _ _ _ _ _ _ hs
  | .div .., _, hs => execDiv_keeps _ _ _ _ _ _ hs | .rem .., _, hs => execRem_keeps _ _ _ _ _ _ hs
  | .and .., _, hs => execAnd_keeps _ _ _ _ _ hs | .or .., _, hs => execOr_keeps _ _ _ _ _ hs
  | .xor .., _, hs => execXor_keeps _ _ _ _ _ hs | .andn .., _, hs => execAndn_keeps _ _ _ _ _ hs
  | .shl .., _, hs => execShl_keeps _ _ _ _ _ _ hs | .shr .., _, hs => execShr_keeps _ _ _ _ _ _ hs
  | .sra .., _, hs => execSra_keeps _ _ _ _ _ _ hs | .rotl .., _, hs => execRotl_keeps _ _ _ _ _ _ hs
  | .min .., _, hs => execMin_keeps _ _ _ _ _ _ hs | .max .., _, hs => execMax_keeps _ _ _ _ _ _ hs
  | .clz .., _, hs => execClz_keeps _ _ _ _ _ hs | .ctz .., _, hs => execCtz_keeps _ _ _ _ _ hs
  | .popc .., _, hs => execPopc_keeps _ _ _ _ _ hs | .bext .., _, hs => execBext_keeps _ _ _ _ _ _ hs
  | .bins .., _, hs => execBins_keeps _ _ _ _ _ hs | .sel .., _, hs => execSel_keeps _ _ _ _ _ _ hs
  | .cmp .., _, hs => execCmp_keeps _ _ _ _ _ _ hs | .hash64 .., _, hs => execHash64_keeps _ _ _ _ _ hs
  | .movi .., _, hs => execMovi_keeps _ _ _ _ hs | .movh .., _, hs => execMovh_keeps _ _ _ _ hs
  | .pset .., _, hs => execPset_keeps _ _ _ _ _ _ hs | .pand .., _, hs => execPand_keeps _ _ _ _ _ _ _ hs
  | .por .., _, hs => execPor_keeps _ _ _ _ _ _ _ hs | .pnot .., _, hs => execPnot_keeps _ _ _ _ _ hs
  | .addImm .., _, hs => execAddImm_keeps _ _ _ _ _ hs | .subImm .., _, hs => execSubImm_keeps _ _ _ _ _ hs
  | .mulImm .., _, hs => execMulImm_keeps _ _ _ _ _ hs | .mulhImm .., _, hs => execMulhImm_keeps _ _ _ _ _ hs
  | .divImm .., _, hs => execDivImm_keeps _ _ _ _ _ hs | .remImm .., _, hs => execRemImm_keeps _ _ _ _ _ hs
  | .andImm .., _, hs => execAndImm_keeps _ _ _ _ _ hs | .orImm .., _, hs => execOrImm_keeps _ _ _ _ _ hs
  | .xorImm .., _, hs => execXorImm_keeps _ _ _ _ _ hs | .andnImm .., _, hs => execAndnImm_keeps _ _ _ _ _ hs
  | .shlImm .., _, hs => execShlImm_keeps _ _ _ _ _ hs | .shrImm .., _, hs => execShrImm_keeps _ _ _ _ _ hs
  | .sraImm .., _, hs => execSraImm_keeps _ _ _ _ _ hs | .rotlImm .., _, hs => execRotlImm_keeps _ _ _ _ _ hs
  | .minImm .., _, hs => execMinImm_keeps _ _ _ _ _ hs | .maxImm .., _, hs => execMaxImm_keeps _ _ _ _ _ hs
  | .cmpImm .., _, hs => execCmpImm_keeps _ _ _ _ _ hs | .fadd .., _, hs => execFadd_keeps _ _ _ _ _ hs
  | .fsub .., _, hs => execFsub_keeps _ _ _ _ _ hs | .fmul .., _, hs => execFmul_keeps _ _ _ _ _ hs
  | .fma .., _, hs => execFma_keeps _ _ _ _ _ _ hs | .fdiv .., _, hs => execFdiv_keeps _ _ _ _ _ hs
  | .frcp .., _, hs => execFrcp_keeps _ _ _ _ hs | .frsq .., _, hs => execFrsq_keeps _ _ _ _ hs
  | .fmin .., _, hs => execFmin_keeps _ _ _ _ _ _ hs | .fmax .., _, hs => execFmax_keeps _ _ _ _ _ _ hs
  | .fcmp .., _, hs => execFcmp_keeps _ _ _ _ _ _ hs | .fclass .., _, hs => execFclass_keeps _ _ _ _ _ hs
  | .fcvt .., _, hs => execFcvt_keeps _ _ _ _ _ _ hs | .fsgn .., _, hs => execFsgn_keeps _ _ _ _ _ _ hs
  | .vadd .., _, hs => execVadd_keeps _ _ _ _ _ _ _ hs | .vsub .., _, hs => execVsub_keeps _ _ _ _ _ _ _ hs
  | .vmul .., _, hs => execVmul_keeps _ _ _ _ _ _ _ hs | .vmin .., _, hs => execVmin_keeps _ _ _ _ _ _ _ hs
  | .vmax .., _, hs => execVmax_keeps _ _ _ _ _ _ _ hs | .vsgn .., _, hs => execVsgn_keeps _ _ _ _ _ _ _ hs
  | .vcmp .., _, hs => execVcmp_keeps _ _ _ _ _ _ _ hs | .vfma .., _, hs => execVfma_keeps _ _ _ _ _ _ hs
  | .vsel .., _, hs => execVsel_keeps _ _ _ _ _ _ hs | .vcvt .., _, hs => execVcvt_keeps _ _ _ _ _ _ hs
  | .vscl .., _, hs => execVscl_keeps _ _ _ _ _ hs | .vred .., _, hs => execVred_keeps _ _ _ _ _ _ hs
  | .vbc .., _, hs => execVbc_keeps _ _ _ _ _ hs | .vperm .., _, hs => execVperm_keeps _ _ _ _ _ _ hs
  | .vmov .., _, hs => execVmov_keeps _ _ _ _ hs | .vmovSr .., _, hs => execVmovSr_keeps _ _ _ _ _ hs
  | .nop .., _, hs => execNop_keeps _ hs | .ret .., _, hs => execRet_keeps _ hs
  | .doneF .., _, hs => execDoneF_keeps _ hs | .yieldF .., _, hs => execYieldF_keeps _ hs
  | .hret .., _, hs => execHret_keeps _ hs | .trigger .., _, hs => execTrigger_keeps _ hs
  | .eret .., _, hs => execEret_keeps _ hs | .unfuse .., _, hs => execUnfuse_keeps _ hs
  | .rejoin .., _, hs => execRejoin_keeps _ hs | .br .., _, hs => execBr_keeps _ _ _ _ hs
  | .jmp .., _, hs => execJmp_keeps _ _ hs | .call .., _, hs => execCall_keeps _ _ hs
  | .jmpr .., _, hs => execJmpr_keeps _ _ _ hs | .loop .., _, hs => execLoop_keeps _ _ _ hs
  | .brk .., _, hs => execBrk_keeps _ _ hs | .trap .., _, hs => execTrap_keeps _ _ hs
  | .pfx .., _, hs => execPfx_keeps _ _ hs | .lea .., _, hs => execLea_keeps _ _ _ _ _ _ hs
  | .madv .., _, hs => execMadv_keeps _ _ _ _ _ _ _ hs | .fwalk .., _, hs => execFwalk_keeps _ _ _ _ hs
  | .brank .., _, hs => execBrank_keeps _ _ _ _ _ hs | .ld .., _, hs => execLd_keeps _ _ _ _ _ _ _ hs
  | .ldAcq .., _, hs => execLdAcq_keeps _ _ _ _ _ _ _ _ hs | .st .., _, hs => execSt_keeps _ _ _ _ _ _ hs
  | .stRel .., _, hs => execStRel_keeps _ _ _ _ _ _ _ hs | .ldp .., _, hs => execLdp_keeps _ _ _ _ _ hs
  | .stp .., _, hs => execStp_keeps _ _ _ _ _ hs | .pf .., _, hs => execPf_keeps _ _ _ _ _ hs
  | .fence .., _, hs => execFence_keeps _ _ hs | .amo .., _, hs => execAmo_keeps _ _ _ _ _ _ _ hs
  | .cas .., _, hs => execCas_keeps _ _ _ _ _ _ hs | .red .., _, hs => execRed_keeps _ _ _ _ _ _ hs
  | .ldf .., _, hs => execLdf_keeps _ _ _ _ _ _ hs | .ldfe .., _, hs => execLdfe_keeps _ _ _ _ _ _ hs
  | .stf .., _, hs => execStf_keeps _ _ _ _ _ _ hs | .stfw .., _, hs => execStfw_keeps _ _ _ _ _ _ hs
  | .fest .., _, hs => execFest_keeps _ _ _ _ _ _ hs | .st4 .., _, hs => execSt4_keeps _ _ _ _ _ _ hs
  | .aqPush .., _, hs => execAqPush_keeps _ _ _ _ _ _ hs
  | .aqList .., _, hs => execAqList_keeps _ _ _ _ _ _ _ hs | .dqPop .., _, hs => execDqPop_keeps _ _ _ hs
  | .dqCnt .., _, hs => execDqCnt_keeps _ _ hs | .spawn .., _, hs => execSpawn_keeps _ _ _ _ hs
  | .migr .., _, hs => execMigr_keeps _ _ _ hs | .send .., _, hs => execSend_keeps _ _ _ _ _ hs
  | .sendQ .., _, hs => execSendQ_keeps _ _ _ _ _ hs | .sendR .., _, hs => execSendR_keeps _ _ _ hs
  | .rqPush .., _, hs => execRqPush_keeps _ _ hs | .rqTry .., _, hs => execRqTry_keeps _ _ _ hs
  | .rqStat .., _, hs => execRqStat_keeps _ _ _ _ hs | .tlaunch .., _, hs => execTlaunch_keeps _ _ _ _ hs
  | .twait .., _, hs => execTwait_keeps _ _ _ hs | .segld .., _, hs => execSegld_keeps _ _ _ hs
  | .segrd .., _, hs => execSegrd_keeps _ _ _ _ hs | .dtld .., _, hs => execDtld_keeps _ _ _ _ hs
  | .tbld .., _, hs => execTbld_keeps _ _ _ _ _ hs | .xpld .., _, hs => execXpld_keeps _ _ _ _ hs
  | .gkbind .., _, hs => execGkbind_keeps _ _ _ _ _ hs
  | .ptinvPage .., _, hs => execPtinvPage_keeps _ _ _ _ hs
  | .ptinvAsid .., _, hs => execPtinvAsid_keeps _ _ _ hs | .ptinvAll .., _, hs => execPtinvAll_keeps _ _ hs
  | .dwait .., _, hs => execDwait_keeps _ _ _ hs | .await .., _, hs => execAwait_keeps _ _ _ hs
  | .dset .., _, hs => execDset_keeps _ _ _ hs | .dadd .., _, hs => execDadd_keeps _ _ _ hs
  | .acbind .., _, hs => execAcbind_keeps _ _ _ hs | .bar .., _, hs => execBar_keeps _ _ _ _ hs
  | .tread .., _, hs => execTread_keeps _ _ hs | .erd .., _, hs => execErd_keeps _ _ _ hs
  | .pcrd .., _, hs => execPcrd_keeps _ _ _ hs | .sysrd .., _, hs => execSysrd_keeps _ _ _ hs
  | .syswr .., _, hs => execSyswr_keeps _ _ _ hs | .rndset .., _, hs => execRndset_keeps _ _ _ _ _ _ _ hs
  | .wake .., _, hs => execWake_keeps _ _ _ _ hs | .vld .., _, hs => execVld_keeps _ _ _ _ _ hs
  | .vst .., _, hs => execVst_keeps _ _ _ _ _ hs | .vldg .., _, hs => execVldg_keeps _ _ _ _ _ _ hs
  | .vsts .., _, hs => execVsts_keeps _ _ _ _ _ _ hs | .mzero .., _, hs => execMzero_keeps _ _ hs
  | .mldb .., _, hs => execMldb_keeps _ _ _ _ _ hs | .mma .., _, hs => execMma_keeps _ _ _ _ _ _ hs
  | .mrot .., _, hs => execMrot_keeps _ _ hs | .mdrain .., _, hs => execMdrain_keeps _ _ _ _ _ hs
  | .mxch .., _, hs => execMxch_keeps _ _ _ hs | .fuse .., _, hs => execFuse_keeps _ _ hs
  | .gather .., _, hs => execGather_keeps _ _ _ hs | .scatter .., _, hs => execScatter_keeps _ _ _ hs
  | .accum .., _, hs => execAccum_keeps _ _ _ hs | .dedup .., _, hs => execDedup_keeps _ _ _ hs
  | .reduce .., _, hs => execReduce_keeps _ _ _ hs | .copy .., _, hs => execCopy_keeps _ _ _ hs
  | .walk .., _, hs => execWalk_keeps _ _ _ hs | .fill .., _, hs => execFill_keeps _ _ _ hs
  | .coll .., _, hs => execColl_keeps _ _ _ hs | .res .., _, hs => execRes_keeps _ _ _ hs
  | .abt .., _, hs => execAbt_keeps _ _ _ hs | .commandStart .., _, hs => execCommandStart_keeps _ _ hs
  | .commandRetire .., _, hs => execCommandRetire_keeps _ _ _ hs
  | .commandStop .., _, hs => execCommandStop_keeps _ _ _ hs
  | .sequencerCycle .., _, hs => execSequencerCycle_keeps _ _ hs
  | .quantumEnd .., _, hs => execQuantumEnd_keeps _ _ _ hs
  | .waitTimeout .., _, hs => execWaitTimeout_keeps _ _ _ hs
  | .accessReply .., _, hs => execAccessReply_keeps _ _ hs
  | .replyForward .., _, hs => execReplyForward_keeps _ _ hs
  | .icacheFill .., _, hs => execIcacheFill_keeps _ _ hs | .tlbLookup .., _, hs => execTlbLookup_keeps _ _ hs
  | .walkEnd .., _, hs => execWalkEnd_keeps _ _ hs | .handlerStart .., _, hs => execHandlerStart_keeps _ _ hs
  | .inboxReservation .., _, hs => execInboxReservation_keeps _ _ hs
  | .messageWrite .., _, hs => execMessageWrite_keeps _ _ hs
  | .migrationReserve .., _, hs => execMigrationReserve_keeps _ _ hs
  | .migrationArrival .., _, hs => execMigrationArrival_keeps _ _ hs
  | .wakeDelivery .., _, hs => execWakeDelivery_keeps _ _ hs
  | .remoteTileAccess .., _, hs => execRemoteTileAccess_keeps _ _ hs
  | .feWithdrawal .., _, hs => execFeWithdrawal_keeps _ _ hs
  | .storeBufferSend .., _, hs => execStoreBufferSend_keeps _ _ _ hs
  | .storeAck .., _, hs => execStoreAck_keeps _ _ hs
  | .controllerIssue .., _, hs => execControllerIssue_keeps _ _ hs
  | .accumulateAccept .., _, hs => execAccumulateAccept_keeps _ _ hs
  | .combiningDrain .., _, hs => execCombiningDrain_keeps _ _ _ hs
  | .geckoToken .., _, hs => execGeckoToken_keeps _ _ hs
  | .rowCacheExpiry .., _, hs => execRowCacheExpiry_keeps _ _ _ hs
  | .promotionEpoch .., _, hs => execPromotionEpoch_keeps _ _ hs | .scrub .., _, hs => execScrub_keeps _ _ hs
  | .refresh c b r, s, hs => execRefresh_keeps c b r s hs
  | .stackTemperatureReport .., _, hs => execStackTemperatureReport_keeps _ _ _ hs
  | .hostSnoop .., _, hs => execHostSnoop_keeps _ _ _ hs | .snoopApply .., _, hs => execSnoopApply_keeps _ hs
  | .hostResponse .., _, hs => execHostResponse_keeps _ _ _ _ hs
  | .cxlLinkDown .., _, hs => execCxlLinkDown_keeps _ hs
  | .cxlLinkRetrain .., _, hs => execCxlLinkRetrain_keeps _ hs
  | .hostRegisterAccess .., _, hs => execHostRegisterAccess_keeps _ _ _ _ hs
  | .mmaStep .., _, hs => execMmaStep_keeps _ _ _ hs
  | .mrotComplete .., _, hs => execMrotComplete_keeps _ _ hs
  | .mxchComplete .., _, hs => execMxchComplete_keeps _ _ hs
  | .rejoinLineHigh .., _, hs => execRejoinLineHigh_keeps _ _ _ hs
  | .barrierComplete .., _, hs => execBarrierComplete_keeps _ _ _ hs
  | .timeTick .., _, hs => execTimeTick_keeps _ hs
  | .governorWindow .., _, hs => execGovernorWindow_keeps _ _ hs
  | .vfEvaluate .., _, hs => execVfEvaluate_keeps _ _ _ hs
  | .energyExhausted .., _, hs => execEnergyExhausted_keeps _ _ hs
  | .equalisation .., _, hs => execEqualisation_keeps _ _ hs
  | .dispatch .., _, hs => execDispatch_keeps _ _ hs | .preempt .., _, hs => execPreempt_keeps _ _ hs
  | .taskComplete .., _, hs => execTaskComplete_keeps _ _ _ hs
  | .fqgetWrite .., _, hs => execFqgetWrite_keeps _ _ _ hs
  | .registerWrite .., _, hs => execRegisterWrite_keeps _ _ hs
  | .broadcastWrite .., _, hs => execBroadcastWrite_keeps _ _ _ hs
  | .inspectionAccess .., _, hs => execInspectionAccess_keeps _ _ _ _ hs
  | .chaezWrite .., _, hs => execChaezWrite_keeps _ _ _ hs
  | .chaezRead .., _, hs => execChaezRead_keeps _ _ _ hs | .release .., _, hs => execRelease_keeps _ _ hs
  | .releaseSkip .., _, hs => execReleaseSkip_keeps _ _ hs | .endTask .., _, hs => execEndTask_keeps _ _ hs
  | .digestReset .., _, hs => execDigestReset_keeps _ _ hs | .unfence .., _, hs => execUnfence_keeps _ _ hs
  | .timeref .., _, hs => execTimeref_keeps _ _ hs | .checkpoint .., _, hs => execCheckpoint_keeps _ _ _ hs
  | .checkpointRestore .., _, hs => execCheckpointRestore_keeps _ _ hs
  | .reset .., _, hs => execReset_keeps _ hs | .recovery .., _, hs => execRecovery_keeps _ _ hs
  | .statusReport .., _, hs => execStatusReport_keeps _ _ _ hs | .powerOn .., _, hs => execPowerOn_keeps _ hs
  | .thermalTrip .., _, hs => execThermalTrip_keeps _ _ hs
  | .attestNonceWrite .., _, hs => execAttestNonceWrite_keeps _ _ hs
  | .attestTidWrite .., _, hs => execAttestTidWrite_keeps _ _ hs
  | .attestReportRead .., _, hs => execAttestReportRead_keeps _ hs
  | .rowPacket .., _, hs => execRowPacket_keeps _ _ hs
  | .switchRowPacket .., _, hs => execSwitchRowPacket_keeps _ _ hs
  | .peerAccessPacket .., _, hs => execPeerAccessPacket_keeps _ _ hs
  | .fabricTimeout .., _, hs => execFabricTimeout_keeps _ _ hs
  | .collOutcome .., _, hs => execCollOutcome_keeps _ _ _ _ hs
  | .timeBeacon .., _, hs => execTimeBeacon_keeps _ _ _ hs
  | .domainJoin .., _, hs => execDomainJoin_keeps _ _ _ hs
  | .referenceLoss .., _, hs => execReferenceLoss_keeps _ _ hs
  | .computeDieTemperature .., _, hs => execComputeDieTemperature_keeps _ _ _ hs

theorem runWords_keeps (s : State) (hs : MemOk s) : OutOk (runWords s) := by
  unfold runWords
  split
  case h_1 => exact hs
  case h_2 i _ => exact exec_keeps i s hs
  case h_3 i j _ _ =>
    have hi := exec_keeps i s hs
    split
    case h_1 t ht =>
      have hok : MemOk t := out_of ht hi
      split
      · exact hok
      · exact exec_keeps j _ (armA_keeps s t hs hok)
    case h_2 => exact hi

theorem runIssue_keeps (n : Nat) (s : State) (hs : MemOk s) : OutOk (runIssue n s) := by
  induction n generalizing s with
  | zero => exact closeIssue_keeps s hs
  | succ n ih =>
    have hw := runWords_keeps s hs
    unfold runIssue
    split
    case h_1 t ht =>
      have hm := endMember_keeps _ (sameLatch_keeps s t hs (out_of ht hw))
      dsimp only
      split
      case h_1 u hu => exact ih u (opt_of hu (nextMember_keeps _ hm))
      case h_2 => exact closeIssue_keeps _ hm
    case h_2 => exact hw

theorem step_keeps (s : State) (hs : MemOk s) : OutOk (step s) := by
  have hn := exec_keeps (nextStep s).1 (nextStep s).2 (nextStep_keeps s hs)
  unfold step
  split
  case h_1 t ht =>
    have hok : MemOk t := out_of ht hn
    split
    · exact runIssue_keeps _ t hok
    · exact hok
  case h_2 => exact hn

/-- Settles O58: the meaning of what comes next keeps the form, and so does every word that it issues. -/
theorem memoryKept : Obligations.MemoryKept := fun s _ hs h => out_of h (step_keeps s hs)

end Sys2Proof.Machine
end

section
/-! PROOFS. The issue latch under a fault, the turn of a strand, and what a step runs in it: O56. -/

namespace Sys2Proof.Machine

/-! ## A fault leaves the latch as it is -/

theorem drainTo_issue (s : State) (atom : Nat) (e : CbEntry) : (drainTo s atom e).issue = s.issue := by
  unfold drainTo touch
  dsimp only [putAtom]
  repeat' split
  all_goals rfl

theorem writeAtom_issue (s : State) (atom v : Nat) : (writeAtom s atom v).issue = s.issue := by
  unfold writeAtom touch
  have hfree : (drainFree s atom).issue = s.issue := by
    unfold drainFree
    split
    case h_1 e _ => exact drainTo_issue s atom e
    case h_2 => rfl
  dsimp only [putAtom]
  repeat' split
  all_goals exact hfree

theorem bumpService_issue (s : State) (d : Nat) : (bumpService s d).issue = s.issue := by
  refine foldl_issue _ ?_ _ s
  intro s n
  rfl

theorem appendRec_issue (s : State) (d key : Nat) (r : FaultRec) : (appendRec s d key r).issue = s.issue := by
  unfold appendRec
  split
  · rfl
  · unfold appendNow
    dsimp only
    split
    · rw [bumpService_issue, modDie_issue, writeAtom_issue]
    · rw [postNotice_issue, bumpService_issue, modDie_issue, writeAtom_issue]

theorem unlockOthers_issue (s : State) (c : Nat) : (unlockOthers s c).issue = s.issue := by
  unfold unlockOthers
  split
  · refine foldl_issue _ (fun s st => ?_) _ s
    dsimp only
    split
    · refine foldl_issue _ (fun s m => ?_) _ s
      split <;> rfl
    · rfl
  · rfl

theorem freezeOne_issue (s : State) (c : Nat) (fr : Frozen) : (freezeOne s c fr).issue = s.issue := by
  unfold freezeOne
  split
  · rfl
  · rw [unlockOthers_issue]
    unfold answerCredit
    repeat' split
    all_goals rfl

theorem freezeCore_issue (s : State) (c : Nat) (fr : Frozen) : (freezeCore s c fr).issue = s.issue := by
  unfold freezeCore
  dsimp only
  split
  · refine (foldl_issue _ (fun s m => ?_) _ _).trans (freezeOne_issue s c fr)
    exact freezeOne_issue s m .task
  · exact freezeOne_issue s c fr

theorem takeFault_issue (s : State) (c slot : Nat) (code : FCode) (pc : W64) (ak : AKind) (addr info : Nat) :
    (takeFault s c slot code pc ak addr info).issue = s.issue := by
  have hviolate (code : FCode) : (violate s c slot code pc ak addr info false).issue = s.issue :=
    (appendRec_issue _ _ _ _).trans (freezeCore_issue _ _ _)
  unfold takeFault
  split
  · split
    · exact hviolate _
    · exact (appendRec_issue _ _ _ _).trans (parkFib_issue s c slot .fault .fault)
  · exact hviolate _

/-! ## The turn of a strand (02 R28, 11 R267) -/

theorem mem_upto {n k : Nat} : k ∈ upto n ↔ k < n := by
  induction n with
  | zero => simp [upto]
  | succ n ih => simp only [upto, List.mem_append, ih, List.mem_singleton]; omega

theorem mem_groupCores_self (c size : Nat) : c ∈ groupCores c size := by
  unfold groupCores
  split
  · exact List.mem_singleton_self c
  · have hlt : (c - 4096) % size < size := Nat.mod_lt _ (by omega)
    have hle : (c - 4096) % size ≤ c - 4096 := Nat.mod_le _ _
    exact List.mem_map.mpr ⟨(c - 4096) % size, mem_upto.mpr hlt, by omega⟩

/-- A strand whose own lock-step bit is clear is in no lock-step group. -/
theorem inLock_of_unlocked {s : State} {c st : Nat} (h : (strandAt (getCore s c) st).lock = false) :
    inLock s c st = false :=
  List.all_eq_false.mpr ⟨c, mem_groupCores_self c _, by simp [h]⟩

section
variable {s t : State} {c st slot : Nat} {f : Fibre}

/-- In a turn, the cycle that comes next latches what the strand issues. -/
theorem exec_nextStep_of_turn (h : Turns s t c st slot f) :
    exec (nextStep s).1 (nextStep s).2 = .next (latchIssue t c st slot f) := by
  obtain ⟨u, hnext, hgated, hfrozen, rfl, hused, hturn, hissue, hon, hlock⟩ := h
  have hf : (getCore { u with issue := Issue.blank } c).frozen = none := hfrozen
  rw [hnext]
  simp only [Arm.sequencerCycle, execSequencerCycle, hgated, openCycle, hf, hused, hturn, hissue, hon,
    Option.isSome_none, Bool.or_self, Bool.false_eq_true, if_false]

theorem inLock_of_turn (h : Turns s t c st slot f) : inLock t c st = false := by
  obtain ⟨u, -, -, -, -, -, -, -, -, hlock⟩ := h
  exact inLock_of_unlocked hlock

/-- The last, and here the only, member of an issue closes it. -/
theorem runIssue_alone {o v : State} (hg : o.issue.group = []) (hw : runWords o = .next v) :
    runIssue (o.issue.group.length + 1) o = .next (issueOver o v) := by
  have hgroup : (endMember (sameLatch o v)).issue.group = [] := by
    refine Eq.trans ?_ hg
    unfold endMember
    dsimp only
    split <;> rfl
  have hlast : nextMember (endMember (sameLatch o v)) = none := by
    simp only [nextMember, hgroup, nextOn]
  rw [hg]
  simp only [runIssue, hw, hlast]
  rfl

/-- A turn that opens an issue runs its words and closes it. -/
theorem step_of_opened {n : Nat} {todo : List Instr} (h : Turns s t c st slot f)
    (hl : latchIssue t c st slot f = openIssue t c st slot f.pc n todo [] false none) {v : State}
    (hw : runWords (openIssue t c st slot f.pc n todo [] false none) = .next v) :
    step s = .next (issueOver (openIssue t c st slot f.pc n todo [] false none) v) := by
  simp only [step, exec_nextStep_of_turn h, hl]
  exact runIssue_alone rfl hw

/-- A turn that latches nothing is the whole step. -/
theorem step_of_unopened {v : State} (h : Turns s t c st slot f) (hl : latchIssue t c st slot f = v)
    (hv : v.issue.live = false) : step s = .next v := by
  simp only [step, exec_nextStep_of_turn h, hl, hv, Bool.false_eq_true, if_false]

/-! ## What a strand latches (04 R70, R75; 15 R385) -/

variable {w w0 w1 : Nat} {i i0 i1 : Instr}

theorem latchIssue_lone (hlock : inLock t c st = false) (hf : fetchAt (getCore t c) slot f.pc = .word w)
    (hL : fld w 31 1 = 1) (hu : undisciplined t c slot w = false) (hd : decodeWord w = some i) :
    latchIssue t c st slot f = openIssue t c st slot f.pc 1 [i] [] false none := by
  simp [latchIssue, hf, hL, hu, hd, hlock]

theorem latchIssue_pair (hlock : inLock t c st = false) (hf0 : fetchAt (getCore t c) slot f.pc = .word w0)
    (hf1 : fetchAt (getCore t c) slot (f.pc + 4) = .word w1) (hpc : bitAt f.pc 2 = false)
    (h0 : fld w0 31 1 = 0 ∧ fld w0 30 1 = 0) (h1 : fld w1 31 1 = 0 ∧ fld w1 30 1 = 1)
    (hu : undisciplined t c slot w0 = false) (hc : pairCheck (nameIssuer t c st slot f.pc) w0 w1 = none)
    (hd0 : decodeWord w0 = some i0) (hd1 : decodeWord w1 = some i1) :
    latchIssue t c st slot f =
      openIssue t c st slot f.pc 2 (if f.ctl.adone then [i0] else [i0, i1]) [] false none := by
  simp only [latchIssue, hf0, hf1, hc, hd0, hd1]
  simp [hpc, h0, h1, hu, hlock]

theorem latchIssue_undisciplined (hf : fetchAt (getCore t c) slot f.pc = .word w) (hL : fld w 31 1 = 1)
    (hu : undisciplined t c slot w = true) : latchIssue t c st slot f =
      takeFault (takeTurn (dropOnce t c slot) c st) c slot .handlerDiscipline f.pc .none 0 w := by
  simp [latchIssue, hf, hL, hu]

theorem latchIssue_illegal (hf : fetchAt (getCore t c) slot f.pc = .word w) (hL : fld w 31 1 = 1)
    (hu : undisciplined t c slot w = false) (hd : decodeWord w = none) : latchIssue t c st slot f =
      takeFault (takeTurn (dropOnce t c slot) c st) c slot .illegalEncoding f.pc .none 0 w := by
  simp [latchIssue, hf, hL, hu, hd]

/-- The words of a pair: the A half runs unless the C half has ended the issue. -/
theorem runWords_pair {o v : State} (ht : o.issue.todo = [i0, i1]) (hv : exec i0 o = .next v) :
    runWords o = if v.issue.ended then .next v else exec i1 (armA o v) := by
  simp only [runWords, ht, hv]

end

/-- Settles O56: a turn latches the words at the PC, and an issue without a group runs them and closes. -/
theorem stepRunsWords : Obligations.StepRunsWords := by
  intro s t c st slot f hturn
  have hlock := inLock_of_turn hturn
  refine ⟨fun w i hf hL hu hd => ?lone, fun w0 w1 i0 i1 hf0 hf1 hpc hL0 hK0 hL1 hK1 hu hc hd0 hd1 => ?pair,
    fun w hlive hf hL => ⟨fun hu => ?undisciplined, fun hu hd => ?illegal⟩⟩
  case lone =>
    obtain ⟨v, hv⟩ := exec_next (i := i) (s := openIssue t c st slot f.pc 1 [i] [] false none) rfl
    exact ⟨v, hv, step_of_opened hturn (latchIssue_lone hlock hf hL hu hd) hv⟩
  case pair =>
    have hl := latchIssue_pair hlock hf0 hf1 hpc ⟨hL0, hK0⟩ ⟨hL1, hK1⟩ hu hc hd0 hd1
    refine ⟨fun hdone => ?_, fun hdone => ?_⟩
    · rw [if_pos hdone] at hl
      obtain ⟨v, hv⟩ := exec_next (i := i0) (s := openIssue t c st slot f.pc 2 [i0] [] false none) rfl
      exact ⟨v, hv, step_of_opened hturn hl hv⟩
    · rw [if_neg (by simp [hdone])] at hl
      obtain ⟨v, hv⟩ := exec_next (i := i0) (s := openIssue t c st slot f.pc 2 [i0, i1] [] false none) rfl
      have hw := runWords_pair (i1 := i1) rfl hv
      refine ⟨v, hv, fun hend => ?_, fun hend => ?_⟩
      · exact step_of_opened hturn hl (hw.trans (if_pos hend))
      · rw [if_neg (by simp [hend])] at hw
        obtain ⟨x, hx⟩ := exec_next (i := i1) (s := armA (openIssue t c st slot f.pc 2 [i0, i1] [] false none) v) rfl
        exact ⟨x, hx, step_of_opened hturn hl (hw.trans hx)⟩
  case undisciplined =>
    refine step_of_unopened hturn (latchIssue_undisciplined hf hL hu) ?_
    rw [takeFault_issue]
    exact hlive
  case illegal =>
    refine step_of_unopened hturn (latchIssue_illegal hf hL hu hd) ?_
    rw [takeFault_issue]
    exact hlive

end Sys2Proof.Machine
end

section
/-! PROOFS. The words of the A slot (05 R95-R116; 06 R127-R133), by the shared shape that each has: a false predicate
(O8), immediates (O2), predicates (O5), scalar floats (O6) and vectors (O7). -/

namespace Sys2Proof.Machine

/-! ## A false predicate (05 R97) -/

/-- Settles O8: each shape of an A-slot word tests its predicate before anything else. -/
theorem falsePredicate : Obligations.FalsePredicate := by
  intro i s p hpred h hp
  cases i with
  | add | sub | mul | mulh | div | rem | and | or | xor | andn | shl | shr | sra | rotl | min | max | clz | ctz | popc
  | bext | bins | sel | cmp | hash64 | movi | movh | addImm | subImm | mulImm | mulhImm | divImm | remImm | andImm
  | orImm | xorImm | andnImm | shlImm | shrImm | sraImm | rotlImm | minImm | maxImm | cmpImm =>
    cases hpred
    simp only [Arm.add, Arm.sub, Arm.mul, Arm.mulh, Arm.div, Arm.rem, Arm.and, Arm.or, Arm.xor, Arm.andn, Arm.shl,
      Arm.shr, Arm.sra, Arm.rotl, Arm.min, Arm.max, Arm.clz, Arm.ctz, Arm.popc, Arm.bext, Arm.bins, Arm.sel, Arm.cmp,
      Arm.hash64, Arm.movi, Arm.movh, Arm.addImm, Arm.subImm, Arm.mulImm, Arm.mulhImm, Arm.divImm, Arm.remImm,
      Arm.andImm, Arm.orImm, Arm.xorImm, Arm.andnImm, Arm.shlImm, Arm.shrImm, Arm.sraImm, Arm.rotlImm, Arm.minImm,
      Arm.maxImm, Arm.cmpImm]
    exact aluOp_false hp h
  | pset | pand | por | pnot =>
    cases hpred
    simp only [Arm.pset, Arm.pand, Arm.por, Arm.pnot]
    exact predOp_false hp h
  | fadd | fsub | fmul | fma | fdiv | frcp | frsq | fmin | fmax | fclass | fcvt | fsgn =>
    cases hpred
    simp only [Arm.fadd, Arm.fsub, Arm.fmul, Arm.fma, Arm.fdiv, Arm.frcp, Arm.frsq, Arm.fmin, Arm.fmax, Arm.fclass,
      Arm.fcvt, Arm.fsgn]
    exact floatOp_false hp h
  | vadd | vsub | vmul | vmin | vmax | vcmp =>
    cases hpred
    simp only [Arm.vadd, Arm.vsub, Arm.vmul, Arm.vmin, Arm.vmax, Arm.vcmp, execVcmp]
    exact vec2_false hp h
  | vsgn | vfma | vsel | vscl | vbc | vperm =>
    cases hpred
    simp only [Arm.vsgn, Arm.vfma, Arm.vsel, Arm.vscl, Arm.vbc, Arm.vperm]
    exact vecOp_false hp h
  | fcmp | vcvt | vred | vmov | vmovSr =>
    cases hpred
    simp only [Arm.fcmp, Arm.vcvt, Arm.vred, Arm.vmov, Arm.vmovSr]
    exact run_goesOn h (by simp only [hp, Bool.false_eq_true, if_false])
  | _ => cases hpred

/-! ## Immediates (05 R99, R100) -/

/-- Settles O2: the immediate stands for the second operand; a count of 6 bits is below the width. -/
theorem immediateResults : Obligations.ImmediateResults := by
  intro s p d a hs hp
  simp only [Arm.addImm, Arm.subImm, Arm.mulImm, Arm.mulhImm, Arm.divImm, Arm.remImm, Arm.andImm, Arm.orImm,
    Arm.xorImm, Arm.andnImm, Arm.shlImm, Arm.shrImm, Arm.sraImm, Arm.rotlImm, Arm.minImm, Arm.maxImm, Arm.cmpImm]
  refine ⟨fun imm => aluOp_true hs hp, fun imm => aluOp_true hs hp, fun imm => aluOp_true hs hp,
    fun imm => aluOp_true hs hp, fun imm => aluOp_true hs hp, fun imm => aluOp_true hs hp,
    fun imm => aluOp_true hs hp, fun imm => aluOp_true hs hp, fun imm => aluOp_true hs hp,
    fun imm => aluOp_true hs hp, fun imm h => ?shl, fun imm h => ?shr, fun imm h => ?sra, fun imm h => ?rotl,
    fun imm => aluOp_true hs hp, fun imm => aluOp_true hs hp, fun imm => aluOp_true hs hp⟩
  case shl => exact shlRes_count (rd s a) imm ▸ aluOp_true hs hp h
  case shr => exact shrRes_count (rd s a) imm ▸ aluOp_true hs hp h
  case sra => exact sraRes_count (rd s a) imm ▸ aluOp_true hs hp h
  case rotl => exact rotlRes_count (rd s a) imm ▸ aluOp_true hs hp h

/-! ## Predicates (05 R107-R109, R114) -/

theorem execFcmp_true {s : State} {p pd : PReg} {a b : Reg} {c : FCond} (hp : rdP s p = true)
    (h : Passes (.fcmp p pd a b c) s) :
    let y := fcmpBits c (src s).ctl.fz (rd32 s a) (rd32 s b)
    execFcmp p pd a b c s = .next (goesOn (.fcmp p pd a b c) (wrP (noteRound s y.2 0) pd y.1)) :=
  run_goesOn h (if_pos hp)

/-- Settles O5: the words that only write a predicate, and fcmp with its flags. -/
theorem predicateResults : Obligations.PredicateResults := by
  intro s p pd pa pb a b na nb hp
  simp only [Arm.pset, Arm.pand, Arm.por, Arm.pnot, Arm.fcmp]
  refine ⟨fun c => predOp_true hp, predOp_true hp, predOp_true hp, fun h => ?pnot, fun c => execFcmp_true hp⟩
  case pnot =>
    have hnot : (!(rdP s pa ^^ na)) = (rdP s pa == na) := by cases rdP s pa <;> cases na <;> rfl
    exact hnot ▸ predOp_true hp h

/-! ## Scalar floats (05 R110-R116) -/

/-- The low bits of a word. -/
theorem bf_low {n : Nat} (x : BitVec n) (len : Nat) : bf x 0 len = x.toNat % 2 ^ len := by
  rw [bf, fld, Nat.pow_zero, Nat.div_one]

/-- Settles O6: each word is `floatOp` around its operation. -/
theorem floatResults : Obligations.FloatResults := by
  intro s p d a b c hs hp r
  simp only [Arm.fadd, Arm.fsub, Arm.fmul, Arm.fma, Arm.fdiv, Arm.frcp, Arm.frsq, Arm.fmin, Arm.fmax, Arm.fsgn,
    Arm.fclass, Arm.fcvt]
  refine ⟨floatOp_true hs hp, floatOp_true hs hp, floatOp_true hs hp, floatOp_true hs hp, floatOp_true hs hp,
    floatOp_true hs hp, floatOp_true hs hp, fun v => floatOp_true hs hp, fun v => floatOp_true hs hp,
    fun v => floatOp_true hs hp, fun fm g hg h => ?fclass, fun sf df h => ?fcvt⟩
  case fclass =>
    have hy : fclassBits ((binOf fm).getD fp32) (bf (rd s a) 0 (fmtBits fm))
        = fclassBits g ((rd s a).toNat % 2 ^ fmtBits fm) := by rw [hg, bf_low]; rfl
    exact hy ▸ floatOp_true hs hp h
  case fcvt => exact bf_low (rd s a) (fmtBits sf) ▸ floatOp_true hs hp h

/-! ## Vectors (06 R127-R133) -/

theorem execVcvt_true {s : State} {p : PReg} {vd va : VReg} {f df : Fmt} (hp : rdP s p = true)
    (h : Passes (.vcvt p vd va f df) s) :
    let y := mapEl (modeOf (src s)) (cvSteps f df) 16 fun r e =>
      convert (dtabNow s) r (scaleOf s f df f) (scaleOf s f df df) f df (elem (fmtBits f) (rdV s va) e)
    let res := BitVec.ofNat 512 (packEl (fmtBits df) y.1)
    execVcvt p vd va f df s = .next (goesOn (.vcvt p vd va f df)
      (wrV (noteRound s y.2 (16 * cvSteps f df)) vd
        (if fmtBits df = 32 then res else (rdV s vd <<< (16 * fmtBits df)) ||| res))) :=
  run_goesOn h (if_pos hp)

/-- The 15 roundings of a sum are those of a float word. -/
theorem execVred_true {s : State} {p : PReg} {d : Reg} {va : VReg} {o : Bool} {f : Fmt} (hs : Issuing s)
    (hp : rdP s p = true) (h : Passes (.vred p d va o f) s) :
    let xs := (upto (512 / fmtBits f)).map fun e => elem (fmtBits f) (rdV s va) e
    let y := vredFold o f (modeOf (src s)) (xs.drop 1) 0 (xs.headD 0) 0
    execVred p d va o f s = .next (floatResult (.vred p d va o f) s d
      (if f = .fp32 ∧ o = false then 15 else 0) ⟨y.1, y.2⟩ (widen f y.1)) := by
  refine run_goesOn h ?_
  simp only [hp, if_true, capture_eq (issuing_wr (issuing_noteRound hs)), lanes, Bool.and_eq_true, beq_iff_eq,
    Bool.not_eq_true']

/-- Settles O7: each word is `vec2` or `vecOp` around its operation on elements. -/
theorem vectorResults : Obligations.VectorResults := by
  intro s p vd va vb vc o f hp w k
  simp only [Arm.vadd, Arm.vsub, Arm.vmul, Arm.vmin, Arm.vmax, Arm.vsgn, Arm.vcmp, execVcmp, Arm.vfma, Arm.vsel, Arm.vscl,
    Arm.vbc, Arm.vperm, Arm.vmov, Arm.vmovSr, Arm.vcvt, Arm.vred]
  have two {i : Instr} {rounds : Bool} {fp : RMode → Nat → Nat → FRes} {int : Nat → Nat → Nat} (h : Passes i s) :
      vec2 i p vd va vb f rounds s fp int = .next (vectorResult i s vd w (512 / w)
        (if rounds = true then k else 0) (pairwise s f va vb fp int)) := by
    rw [vec2_true hp h]
    by_cases hf : f = .fp32 <;> cases rounds <;> simp [hf, w, k]
  refine ⟨two, two, two, two, two, vecOp_true hp, two, vecOp_true hp, vecOp_true hp, vecOp_true hp, fun a h => ?vbc,
    vecOp_true hp, fun h => ?vmov, fun h => ?vmovSr, fun df => execVcvt_true hp, fun d hs => execVred_true hs hp⟩
  case vbc => exact bf_low (rd s a) w ▸ vecOp_true hp h
  case vmov => exact run_goesOn h (by simp only [hp, if_true])
  case vmovSr => exact run_goesOn h (by simp only [hp, if_true, w])

end Sys2Proof.Machine
end

section
/-! PROOFS. The values of the integer words (05 R100-R105): clamped sums, products, shifts, counts and fields of any
width, and O1. -/

namespace Sys2Proof.Machine

/-! ## Clamped sums and products (05 R100) -/

theorem toInt_ofInt_of_fits {v : Int} (hl : -2 ^ 63 ≤ v) (hu : v < 2 ^ 63) : (BitVec.ofInt 64 v).toInt = v := by
  rw [BitVec.toInt_ofInt]
  exact Int.bmod_eq_of_le (by omega) (by omega)

theorem toInt_clampS (v : Int) : (clampS v).toInt = max (-2 ^ 63) (min (2 ^ 63 - 1) v) := by
  unfold clampS
  split
  case isTrue h =>
    have hmin : (BitVec.ofNat 64 (2 ^ 63)).toInt = -2 ^ 63 := by decide
    omega
  case isFalse hl =>
    split
    case isTrue h =>
      have hmax : (BitVec.ofNat 64 (2 ^ 63 - 1)).toInt = 2 ^ 63 - 1 := by decide
      omega
    case isFalse hu => rw [toInt_ofInt_of_fits (by omega) (by omega)]; omega

theorem toNat_clampU (v : Int) : ((clampU v).toNat : Int) = max 0 (min (2 ^ 64 - 1) v) := by
  unfold clampU
  split
  case isTrue h => simp; omega
  case isFalse hl =>
    split
    case isTrue h =>
      have hmax : (BitVec.allOnes 64).toNat = 2 ^ 64 - 1 := by decide
      omega
    case isFalse hu => rw [BitVec.toNat_ofInt]; omega

theorem toNat_clampU_add (x y : W64) :
    (clampU ((x.toNat : Int) + y.toNat)).toNat = min (2 ^ 64 - 1) (x.toNat + y.toNat) := by
  have := toNat_clampU ((x.toNat : Int) + y.toNat)
  omega

theorem toNat_clampU_sub (x y : W64) : (clampU ((x.toNat : Int) - y.toNat)).toNat = x.toNat - y.toNat := by
  have := toNat_clampU ((x.toNat : Int) - y.toNat)
  have := x.isLt
  omega

/-- The high half of a signed product fits: no product exceeds 2^126. -/
theorem toInt_mulhRes (x y : W64) : (mulhRes false x y).toInt = x.toInt * y.toInt / 2 ^ 64 := by
  have habs (z : W64) : z.toInt.natAbs ≤ 2 ^ 63 := by
    have hlo := BitVec.le_toInt z
    have hhi := BitVec.toInt_lt (x := z)
    omega
  have hxy : (x.toInt * y.toInt).natAbs ≤ 2 ^ 63 * 2 ^ 63 := by
    rw [Int.natAbs_mul]
    exact Nat.mul_le_mul (habs x) (habs y)
  exact toInt_ofInt_of_fits (by omega) (by omega)

theorem toNat_mulhRes (x y : W64) : (mulhRes true x y).toNat = x.toNat * y.toNat / 2 ^ 64 := by
  have hxy : x.toNat * y.toNat < 2 ^ 64 * 2 ^ 64 := Nat.mul_lt_mul'' x.isLt y.isLt
  simp only [mulhRes, if_true, BitVec.toNat_ofNat]
  omega

/-! ## Shifts in any width (05 R102) -/

section
variable {n : Nat} (v : BitVec n) (k i : Nat)

theorem getLsbD_shlN (hi : i < n) : (shlN v k).getLsbD i = (decide (k ≤ i) && v.getLsbD (i - k)) := by
  unfold shlN
  split
  · rw [BitVec.getLsbD_shiftLeft]
    by_cases hki : k ≤ i
    · simp [hi, hki, Nat.not_lt.mpr hki]
    · simp [hki, Nat.lt_of_not_le hki]
  · simp [show ¬ k ≤ i by omega]

theorem getLsbD_shrN : (shrN v k).getLsbD i = v.getLsbD (i + k) := by
  unfold shrN
  split
  · simp [Nat.add_comm]
  · rw [BitVec.getLsbD_of_ge v (i + k) (by omega)]
    simp

theorem getLsbD_sraN (hi : i < n) : (sraN v k).getLsbD i = v.getLsbD (min (i + k) (n - 1)) := by
  have hin : ¬ n ≤ i := by omega
  unfold sraN
  rw [BitVec.getLsbD_sshiftRight, BitVec.msb_eq_getLsbD_last]
  by_cases hk : i + k < n
  · have hkn : k < n := by omega
    simp [hin, hkn, Nat.add_comm k, hk, Nat.min_eq_left (Nat.le_sub_one_of_lt hk)]
  · rw [Nat.min_eq_right (by omega)]
    split <;> simp [hin, show ¬ k + i < n by omega]

theorem getLsbD_rotateLeft_mod (hi : i < n) : (v.rotateLeft (k % n)).getLsbD ((i + k) % n) = v.getLsbD i := by
  have hlt : k % n < n := Nat.mod_lt _ (by omega)
  rw [BitVec.getLsbD_rotateLeft, Nat.mod_mod, Nat.add_mod, Nat.mod_eq_of_lt hi]
  by_cases hw : i + k % n < n
  · have hnot : ¬ i + k % n < k % n := by omega
    simp [Nat.mod_eq_of_lt hw, hnot, hw]
  · have hwrap : (i + k % n) % n = i + k % n - n := by rw [Nat.mod_eq_sub_mod (by omega), Nat.mod_eq_of_lt (by omega)]
    have hbelow : i + k % n - n < k % n := by omega
    rw [hwrap]
    simp only [hbelow, decide_true, cond_true]
    congr 1
    omega

end

/-! ## Smaller and larger, comparison (05 R100, R105) -/

theorem below_signed {x y : W64} : below false x y = true ↔ x.toInt < y.toInt := by simp [below, BitVec.slt]

theorem below_unsigned {x y : W64} : below true x y = true ↔ x.toNat < y.toNat := by simp [below, BitVec.ult]

theorem toInt_minRes (x y : W64) : (minRes false x y).toInt = min x.toInt y.toInt := by
  simp only [minRes, below_signed]
  split <;> omega

theorem toNat_minRes (x y : W64) : (minRes true x y).toNat = min x.toNat y.toNat := by
  simp only [minRes, below_unsigned]
  split <;> omega

theorem toInt_maxRes (x y : W64) : (maxRes false x y).toInt = max x.toInt y.toInt := by
  simp only [maxRes, below_signed]
  split <;> omega

theorem toNat_maxRes (x y : W64) : (maxRes true x y).toNat = max x.toNat y.toNat := by
  simp only [maxRes, below_unsigned]
  split <;> omega

theorem cmpRes_signed (x y : W64) : cmpRes false x y = if x.toInt < y.toInt then -1 else if x = y then 0 else 1 := by
  simp only [cmpRes, below_signed]
  rfl

theorem cmpRes_unsigned (x y : W64) : cmpRes true x y = if x.toNat < y.toNat then -1 else if x = y then 0 else 1 := by
  simp only [cmpRes, below_unsigned]
  rfl

/-! ## Counts in any width (05 R100) -/

/-- What a count of leading zeros of an n-bit value says of its bits. -/
theorem clzN_spec {n v : Nat} (hv : v < 2 ^ n) :
    clzN n v ≤ n ∧ (∀ i < clzN n v, v.testBit (n - 1 - i) = false) ∧
      (clzN n v < n → v.testBit (n - 1 - clzN n v) = true) := by
  unfold clzN
  split
  case isTrue h => exact ⟨Nat.le_refl n, by simp [h], by simp⟩
  case isFalse h =>
    have hlog : Nat.log2 v < n := (Nat.log2_lt h).mpr hv
    refine ⟨by omega, fun i hi => Nat.testBit_lt_two_pow ?_, fun _ => ?_⟩
    · exact (Nat.log2_lt h).mp (by omega)
    · rw [show n - 1 - (n - 1 - Nat.log2 v) = Nat.log2 v by omega]
      exact Nat.testBit_log2 h

theorem testBit_zero_of_odd {v : Nat} (h : v % 2 = 1) : v.testBit 0 = true := by simp [h]

/-- What a count of trailing zeros says of the bits. -/
theorem ctzN_spec (n v : Nat) :
    ctzN n v ≤ n ∧ (∀ i < ctzN n v, v.testBit i = false) ∧ (ctzN n v < n → v.testBit (ctzN n v) = true) := by
  induction n generalizing v with
  | zero => simp [ctzN]
  | succ n ih =>
    obtain ⟨hle, hzero, hone⟩ := ih (v / 2)
    unfold ctzN
    split
    case isTrue h => simp [h]
    case isFalse h =>
      refine ⟨by omega, fun i hi => ?_, fun hlt => ?_⟩
      · cases i with
        | zero => simpa using h
        | succ i => rw [Nat.testBit_succ]; exact hzero i (by omega)
      · rw [Nat.add_comm, Nat.testBit_succ]
        exact hone (by omega)

/-- A count of set bits counts the places that hold one. -/
theorem popN_eq_length (n v : Nat) : popN n v = ((List.range n).filter fun i => v.testBit i).length := by
  induction n generalizing v with
  | zero => rfl
  | succ n ih =>
    have hrest : ((List.range n).filter fun i => v.testBit (i + 1)).length = popN n (v / 2) := by
      simp only [ih, Nat.testBit_succ]
    rw [popN, List.range_succ_eq_map, List.filter_cons, List.filter_map, ← hrest]
    rcases Nat.mod_two_eq_zero_or_one v with h | h
    · simp [h, Function.comp_def]
    · simp [h, Function.comp_def, Nat.add_comm]

theorem popN_le (n v : Nat) : popN n v ≤ n := by
  rw [popN_eq_length]
  exact Nat.le_trans (List.length_filter_le _ _) (Nat.le_of_eq List.length_range)

/-- The three counts of an n-bit value, in the words of the statement. -/
theorem counts_spec {n : Nat} (hn : n < 2 ^ 64) (v : BitVec n) :
    let lead := (BitVec.ofNat 64 (clzN n v.toNat)).toNat
    let trail := (BitVec.ofNat 64 (ctzN n v.toNat)).toNat
    let ones := (BitVec.ofNat 64 (popN n v.toNat)).toNat
    lead ≤ n ∧ (∀ i < lead, v.getLsbD (n - 1 - i) = false) ∧ (lead < n → v.getLsbD (n - 1 - lead) = true) ∧
      trail ≤ n ∧ (∀ i < trail, v.getLsbD i = false) ∧ (trail < n → v.getLsbD trail = true) ∧
      ones = ((List.range n).filter fun i => v.getLsbD i).length := by
  obtain ⟨hlead, hleadZero, hleadOne⟩ := clzN_spec v.isLt
  obtain ⟨htrail, htrailZero, htrailOne⟩ := ctzN_spec n v.toNat
  have hones := popN_le n v.toNat
  have hsmall {k : Nat} (hk : k ≤ n) : (BitVec.ofNat 64 k).toNat = k := by
    rw [BitVec.toNat_ofNat]
    exact Nat.mod_eq_of_lt (by omega)
  simp only [hsmall hlead, hsmall htrail, hsmall hones]
  exact ⟨hlead, hleadZero, hleadOne, htrail, htrailZero, htrailOne, popN_eq_length n v.toNat⟩

/-! ## Fields (05 R103) -/

theorem testBit_fld (x lo len i : Nat) : (fld x lo len).testBit i = (decide (i < len) && x.testBit (lo + i)) := by
  rw [fld, Nat.testBit_mod_two_pow, Nat.testBit_div_two_pow, Nat.add_comm]

theorem getLsbD_bextRes_unsigned (x y : W64) {i : Nat} (hi : i < 64) :
    (bextRes false x y).getLsbD i = (decide (i < fieldLen y) && x.getLsbD (bf y 0 6 + i)) := by
  simp only [bextRes, Bool.false_eq_true, if_false, BitVec.getLsbD_ofNat, hi, decide_true, Bool.true_and]
  exact testBit_fld _ _ _ _

/-- A sign-extended field goes on with its own top bit; a field of no bits reads 0. -/
theorem getLsbD_bextRes_signed (x y : W64) {i : Nat} (hi : i < 64) :
    (bextRes true x y).getLsbD i =
      (decide (0 < fieldLen y) && x.getLsbD (bf y 0 6 + min i (fieldLen y - 1))) := by
  have hlen : fieldLen y ≤ 64 := Nat.le_trans (Nat.min_le_right _ _) (Nat.sub_le _ _)
  simp only [bextRes, if_true]
  rcases Nat.eq_zero_or_pos (fieldLen y) with h0 | hpos
  · simp [h0, sext, Nat.mod_one]
  · have hbit (j : Nat) (hj : j < fieldLen y) :
        (BitVec.ofNat (fieldLen y) (bf x (bf y 0 6) (fieldLen y))).getLsbD j = x.getLsbD (bf y 0 6 + j) := by
      rw [BitVec.getLsbD_ofNat, bf, testBit_fld]
      simp [hj]
      rfl
    rw [sext_eq _ _ hpos hlen, BitVec.getLsbD_signExtend, BitVec.msb_eq_getLsbD_last,
      hbit (fieldLen y - 1) (by omega)]
    by_cases hi' : i < fieldLen y
    · rw [if_pos hi', hbit i hi']
      simp [hi, hpos, Nat.min_eq_left (Nat.le_sub_one_of_lt hi')]
    · rw [if_neg hi']
      simp [hi, hpos, Nat.min_eq_right (show fieldLen y - 1 ≤ i by omega)]

/-- A word is what lies above a field, the field, and what lies below it. -/
theorem eq_fields (x lo len : Nat) :
    x = 2 ^ lo * (2 ^ len * (x / 2 ^ lo / 2 ^ len) + fld x lo len) + x % 2 ^ lo := by
  rw [fld, Nat.div_add_mod, Nat.div_add_mod]

theorem testBit_setField (x lo len v i : Nat) :
    (x - fld x lo len * 2 ^ lo + v % 2 ^ len * 2 ^ lo).testBit i =
      if lo ≤ i ∧ i < lo + len then v.testBit (i - lo) else x.testBit i := by
  have hset : x - fld x lo len * 2 ^ lo + v % 2 ^ len * 2 ^ lo
      = 2 ^ lo * (2 ^ len * (x / 2 ^ lo / 2 ^ len) + v % 2 ^ len) + x % 2 ^ lo := by
    have hx := eq_fields x lo len
    rw [Nat.mul_add] at hx
    rw [Nat.mul_add, Nat.mul_comm (fld x lo len), Nat.mul_comm (v % 2 ^ len)]
    omega
  have hlow : x % 2 ^ lo < 2 ^ lo := Nat.mod_lt _ (Nat.two_pow_pos lo)
  have hmid : v % 2 ^ len < 2 ^ len := Nat.mod_lt _ (Nat.two_pow_pos len)
  rw [hset, Nat.testBit_two_pow_mul_add _ hlow]
  by_cases h1 : i < lo
  · simp [h1, Nat.not_le.mpr h1]
  · rw [if_neg h1, Nat.testBit_two_pow_mul_add _ hmid]
    by_cases h2 : i - lo < len
    · simp [h2, show lo ≤ i ∧ i < lo + len by omega]
    · rw [if_neg h2, if_neg (by omega), Nat.testBit_div_two_pow, Nat.testBit_div_two_pow]
      congr 1
      omega

theorem getLsbD_binsRes (z x y : W64) {i : Nat} (hi : i < 64) :
    (binsRes z x y).getLsbD i =
      if bf y 0 6 ≤ i ∧ i < bf y 0 6 + fieldLen y then x.getLsbD (i - bf y 0 6) else z.getLsbD i := by
  simp only [binsRes, setBf, BitVec.getLsbD_ofNat, hi, decide_true, Bool.true_and]
  exact testBit_setField _ _ _ _ _

/-- The field that bext and bins take from their second operand, in the words of the statement. -/
theorem fieldLen_eq (y : W64) : fieldLen y = min (y.toNat / 2 ^ 8 % 2 ^ 7) (64 - y.toNat % 64) := by
  rw [fieldLen, bf_low]
  rfl

/-! ## O1 -/

/-- Settles O1: each word writes what its operation gives, and each operation has the value of its row. -/
theorem integerResults : Obligations.IntegerResults := by
  refine ⟨fun s p d a b hs hp => ?words, fun x y z => ?values⟩
  case words =>
    simp only [Arm.add, Arm.sub, Arm.mul, Arm.mulh, Arm.div, Arm.rem, Arm.and, Arm.or, Arm.xor, Arm.andn, Arm.shl,
      Arm.shr, Arm.sra, Arm.rotl, Arm.min, Arm.max, Arm.clz, Arm.ctz, Arm.popc, Arm.bext, Arm.bins, Arm.sel, Arm.cmp,
      Arm.hash64, Arm.movi, Arm.movh]
    refine ⟨fun v => aluOp_true hs hp, fun v => aluOp_true hs hp, fun v => aluOp_true hs hp, fun v => aluOp_true hs hp,
      fun v => aluOp_true hs hp, fun v => aluOp_true hs hp, aluOp_true hs hp, aluOp_true hs hp, aluOp_true hs hp,
      aluOp_true hs hp, fun v => aluOp_true hs hp, fun v => aluOp_true hs hp, fun v => aluOp_true hs hp,
      fun v => aluOp_true hs hp, fun v => aluOp_true hs hp, fun v => aluOp_true hs hp, fun v => aluOp_true hs hp,
      fun v => aluOp_true hs hp, fun v => aluOp_true hs hp, fun v => aluOp_true hs hp, aluOp_true hs hp,
      fun q => aluOp_true hs hp, fun v => aluOp_true hs hp, aluOp_true hs hp, fun imm => aluOp_true hs hp,
      fun imm h => ?movh⟩
    case movh => exact bf_low (rd s d) 32 ▸ aluOp_true hs hp h
  case values =>
    intro low clamp shifts counts pos len
    have hshifts (n : Nat) (v : BitVec n) :
        shifts n v (shlN v y.toNat) (shrN v y.toNat) (sraN v y.toNat) (v.rotateLeft (y.toNat % n)) := fun i hi =>
      ⟨getLsbD_shlN v _ i hi, getLsbD_shrN v _ i, getLsbD_sraN v _ i hi, getLsbD_rotateLeft_mod v _ i hi⟩
    have hpos : bf y 0 6 = pos := bf_low y 6
    have hlen : fieldLen y = len := fieldLen_eq y
    refine ⟨rfl, rfl, toInt_clampS _, toNat_clampU_add x y, rfl, rfl, toInt_clampS _, toNat_clampU_sub x y, rfl, rfl,
      toInt_mulhRes x y, toNat_mulhRes x y, hshifts 64 x, ⟨_, _, _, _, rfl, rfl, rfl, rfl, hshifts 32 (lo32 x)⟩,
      toInt_minRes x y, toNat_minRes x y, toInt_maxRes x y, toNat_maxRes x y, counts_spec (by decide) x,
      counts_spec (by decide) (lo32 x), fun i hi => ⟨?_, ?_, ?_⟩, cmpRes_signed x y, cmpRes_unsigned x y⟩
    · exact hpos ▸ hlen ▸ getLsbD_bextRes_unsigned x y hi
    · exact hpos ▸ hlen ▸ getLsbD_bextRes_signed x y hi
    · exact hpos ▸ hlen ▸ getLsbD_binsRes z x y hi

end Sys2Proof.Machine
end

section
/-! PROOFS. What a commit leaves (04 R70, R75; 05 R95, R96: O9, O10, O11), control flow (05 R121-R124: O12, O16) and
pfx (04 R83-R85: O13). -/

namespace Sys2Proof.Machine

/-! ## The commit of a word -/

theorem getFib_withFibre (s : State) (f : Fibre) :
    getFib (withFibre s f) s.issue.core s.issue.slot = some f := getFib_putFib_self _ _ _ _

theorem withFibre_withFibre (s : State) (f g : Fibre) : withFibre (withFibre s f) g = withFibre s g :=
  putFib_putFib _ _ _ _ _

theorem afterWord_withFibre (s : State) (f : Fibre) : afterWord (withFibre s f) = afterWord s := rfl

theorem captured_issue (s : State) (v : W64) : (captured s v).issue = s.issue := rfl

theorem taken_issue (s : State) (v : W64) : (taken s v).issue = s.issue := by
  unfold taken; split <;> rfl

/-- A fibre with the schedule of the issuing one is issuing in its place. -/
theorem issuing_withFibre {s : State} {f g : Fibre} (h : getFib s s.issue.core s.issue.slot = some f) (hs : Issuing s)
    (hg : g.sch = f.sch) : Issuing (withFibre s g) := by
  have hme : me (withFibre s g) = g := me_of (getFib_withFibre s g)
  simp only [Issuing, me_of h] at hs
  rw [Issuing, hme, hg]
  exact hs

/-- The commit of a word after its fibre has been put back changed, with its schedule kept. -/
theorem retire_withFibre {s : State} {f g : Fibre} {i : Instr} {o : Option W64}
    (h : getFib s s.issue.core s.issue.slot = some f) (hs : Issuing s) (hg : g.sch = f.sch) (hi : ∀ x, i ≠ .pfx x) :
    dropResv (retire (withFibre s g) i o) = withFibre s (afterWord s (o.getD (afterPc s)) g) :=
  (retire_of (getFib_withFibre s g) (issuing_withFibre h hs hg) hi).trans (withFibre_withFibre _ _ _)

theorem getFib_taken (s : State) (v : W64) (c sl : Nat) : getFib (taken s v) c sl = getFib s c sl := by
  unfold taken
  split
  · exact getFib_modCore fun _ => rfl
  · rfl

theorem issuing_taken {s : State} {v : W64} (h : Issuing s) : Issuing (taken s v) := by
  have hme : me (taken s v) = me s := by simp only [me, taken_issue, getFib_taken]
  simpa only [Issuing, hme, taken_issue] using h

/-- The commit of a word with a result (05 R95): d is written, the result captured. -/
theorem result_eq {s : State} {f : Fibre} {i : Instr} (d : Reg) (v : W64)
    (h : getFib s s.issue.core s.issue.slot = some f) (hs : Issuing s) (hi : ∀ x, i ≠ .pfx x) :
    result i s d v = withFibre (taken s v) (afterWord s (afterPc s) (putReg f d v)) := by
  have hk : (taken s v).issue = s.issue := taken_issue s v
  have hf : getFib (taken s v) (taken s v).issue.core (taken s v).issue.slot = some f := by rw [hk, getFib_taken, h]
  rw [result_of i d v h, goesOn, retire_withFibre hf (issuing_taken hs) (putReg_sch f d v) hi]
  simp only [Option.getD_none, afterWord, afterPc, hk]

/-- A word with a result whose fibre has left its slot changes no core. -/
theorem result_none {s : State} {i : Instr} {d : Reg} {v : W64} (h : getFib s s.issue.core s.issue.slot = none)
    (c : Nat) : getCore (result i s d v) c = getCore s c := by
  have hn : nget (getCore s s.issue.core).fibres s.issue.slot = none := h
  have hwr (c : Nat) : getCore (wr s d v) c = getCore s c := by
    by_cases hc : c = s.issue.core
    · subst hc; simp [wr, modMe, modFib, nmod_of_none, hn]
    · simp [wr, modMe, modFib, getCore_modCore_other _ _ _ _ hc]
  have hslot : getFib (wr s d v) s.issue.core s.issue.slot = none := by rw [getFib, hwr]; exact hn
  have hidle : (me (wr s d v)).sch.run ≠ .running s.issue.strand := by
    have hme : me (wr s d v) = Fibre.blank := by rw [me, wr_issue, hslot]; rfl
    rw [hme]
    nofun
  have htaken : taken (wr s d v) v = wr s d v := if_neg hidle
  rw [result, htaken, goesOn, retire_none hslot, hwr]

/-- Settles O9: a write of d and a capture commute with the commit, and without a fibre none of them finds a place. -/
theorem commitState : Obligations.CommitState := by
  intro i s d v hi
  refine ⟨fun f h hs => ⟨retire_of h hs hi, fun a => retire_of h hs hi, result_eq d v h hs hi, ?_,
    fun x => retire_pfx h hs⟩, fun h c => ⟨retire_none h c, result_none h c⟩⟩
  have hwr : wr s d v = withFibre s (putReg f d v) := modMe_of _ h
  rw [hwr]
  exact retire_withFibre h hs (putReg_sch f d v) hi

/-! ## The frame of a word with a result -/

theorem fibReg_putReg (f : Fibre) (d r : Reg) (v : W64) :
    fibReg (putReg f d v) r = if r = d ∧ (d.destOk ∧ d ≠ .zr) then v else fibReg f r := by
  cases d with
  | g n =>
    cases r with
    | g m =>
      by_cases hmn : m = n
      · subst hmn; simp [fibReg, putReg, Reg.destOk]
      · have hne : n.val ≠ m.val := fun he => hmn (Fin.ext he.symm)
        simp [fibReg, putReg, hmn, Vector.getElem_set_ne, hne]
    | s | h0 | h1 | zr | fid | cid => simp [fibReg, putReg]
  | s n =>
    cases r with
    | s m =>
      by_cases hmn : m = n
      · subst hmn; simp [fibReg, putReg, Reg.destOk]
      · have hne : n.val ≠ m.val := fun he => hmn (Fin.ext he.symm)
        simp [fibReg, putReg, hmn, Vector.getElem_set_ne, hne]
    | g | h0 | h1 | zr | fid | cid => simp [fibReg, putReg]
  | h0 | h1 | fid | cid | zr => simp [fibReg, putReg, Reg.destOk]

/-- A write of a register keeps what a fibre holds besides its registers. -/
theorem putReg_rest (f : Fibre) (d : Reg) (v : W64) :
    (putReg f d v).v = f.v ∧ (putReg f d v).preds = f.preds ∧ (putReg f d v).ctl = f.ctl ∧
      (putReg f d v).sch = f.sch := by
  cases d <;> exact ⟨rfl, rfl, rfl, rfl⟩

theorem strandAt_modStrand_self (k : Core) (st : Nat) (f : Strand → Strand) :
    strandAt (modStrand k st f) st = f (strandAt k st) := by
  simp [strandAt, modStrand]

theorem strands_modStrand_other (k : Core) {st : Nat} {x : Fin 16} (f : Strand → Strand) (h : x ≠ Fin.ofNat 16 st) :
    (modStrand k st f).seq.strands[x] = k.seq.strands[x] := by
  have hne : (Fin.ofNat 16 st).val ≠ x.val := fun he => h (Fin.ext he.symm)
  exact Vector.getElem_set_ne (xs := k.seq.strands) (Fin.ofNat 16 st).isLt x.isLt hne

/-- The two strand registers that a capture writes. -/
def capturing (v : W64) (t : Strand) : Strand := { t with h0 := v, h1 := t.h0 }

/-- The issuing core after a word with a result: its fibre is put, and a fibre that stands on its strand captures. -/
theorem getCore_result {s : State} {f : Fibre} {i : Instr} (d : Reg) (v : W64)
    (h : getFib s s.issue.core s.issue.slot = some f) (hs : Issuing s) (hi : ∀ x, i ≠ .pfx x) :
    let k := getCore s s.issue.core
    getCore (result i s d v) s.issue.core =
      { (if f.sch.run = .running s.issue.strand then modStrand k s.issue.strand (capturing v) else k) with
        fibres := nput k.fibres s.issue.slot (afterWord s (afterPc s) (putReg f d v)) } := by
  intro k
  rw [result_eq d v h hs hi, withFibre, taken_issue, putFib, getCore_modCore_self, taken, me_of h]
  split
  · simp only [captured, getCore_modCore_self, modStrand_fibres]; rfl
  · rfl

/-- Settles O10. -/
theorem resultFrame : Obligations.ResultFrame := by
  intro i s f d v h hs hi t k l
  have ht : t = withFibre (taken s v) (afterWord s (afterPc s) (putReg f d v)) := result_eq d v h hs hi
  have hl : l = { (if f.sch.run = .running s.issue.strand then modStrand k s.issue.strand (capturing v) else k) with
      fibres := nput k.fibres s.issue.slot (afterWord s (afterPc s) (putReg f d v)) } := getCore_result d v h hs hi
  have hother (c : Nat) (hc : c ≠ s.issue.core) : getCore t c = getCore s c := by
    rw [ht, withFibre, taken_issue, putFib, getCore_modCore_other _ _ _ _ hc, taken]
    split
    · exact getCore_modCore_other _ _ _ _ hc
    · rfl
  have hframe : t = { s with cores := t.cores } := by
    rw [ht, taken]
    split <;> rfl
  obtain ⟨hv, hpreds, hctl, hsch⟩ := putReg_rest f d v
  refine ⟨⟨afterWord s (afterPc s) (putReg f d v), ?fibre, fun r => fibReg_putReg f d r v, hv, hpreds, ?_, ?_, ?_, ?_, ?_,
    ?_⟩,
    fun a => ?_, fun c => ?tiles, fun c sl hne => ?slots, hother, ?rest, fun st hst => ?strands, ?strand, hframe⟩
  case fibre =>
    show nget l.fibres _ = _
    rw [hl]
    exact nget_nput_self _ _ _
  case tiles =>
    by_cases hc : c = s.issue.core
    · subst hc
      show l.tile = k.tile
      rw [hl]
      split <;> rfl
    · rw [hother c hc]
  case slots =>
    rw [ht, withFibre, taken_issue, getFib_putFib_other _ _ _ _ _ _ hne, getFib_taken]
  case rest =>
    rw [hl]
    split <;> rfl
  case strands =>
    rw [hl]
    split
    · exact strands_modStrand_other k _ hst
    · rfl
  case strand =>
    rw [hl]
    split
    · exact strandAt_modStrand_self k _ _
    · rfl
  · exact (congrArg Ctl.flags hctl :)
  · exact (congrArg Ctl.priv hctl :)
  · exact (congrArg Ctl.rm hctl :)
  · exact (congrArg Ctl.fz hctl :)
  · exact (congrArg Ctl.seed hctl :)
  · simp only [afterWord, hsch]
  · rw [hframe]; exact ⟨rfl, rfl⟩

/-- Settles O11: a commit leaves the strands, and only a capture on the strand changes them. -/
theorem captureOrder : Obligations.CaptureOrder := by
  intro i s d v old new
  have hsch : (me (wr s d v)).sch = (me s).sch := me_modMe_sch fun f => putReg_sch f d v
  have hwr : strandAt (getCore (wr s d v) s.issue.core) s.issue.strand = old := by
    show strandAt (getCore (modFib s _ _ _) _) _ = _
    simp only [modFib, getCore_modCore_self]
    rfl
  have hnew : new = strandAt (getCore (taken (wr s d v) v) s.issue.core) s.issue.strand := by
    show strandAt (getCore (goesOn i _) _) _ = _
    rw [strandAt, goesOn, retire_seq]
    rfl
  refine ⟨fun hrun => ?on, fun hoff => ?off⟩
  case on =>
    have hcap : taken (wr s d v) v = captured (wr s d v) v := if_pos (by rw [hsch]; exact hrun)
    have hval : new = capturing v old := by
      rw [hnew, hcap, captured, wr_issue, getCore_modCore_self, strandAt_modStrand_self, hwr]
      rfl
    rw [hval]
    exact ⟨rfl, rfl⟩
  case off =>
    have hcap : taken (wr s d v) v = wr s d v := if_neg (by rw [hsch]; exact hoff _)
    rw [hnew, hcap, hwr]

/-! ## Control flow (05 R121-R124) -/

/-- Settles O12. -/
theorem controlFlow : Obligations.ControlFlow := by
  intro s p n d a
  simp only [Arm.nop, Arm.br, Arm.jmp, Arm.call, Arm.ret, Arm.jmpr, Arm.loop]
  refine ⟨fun h => run_goesOn h rfl, fun imm h => ?br, fun imm h => run_goesTo h rfl, fun imm h => run_goesTo h rfl,
    fun h => run_goesTo h rfl, fun h => run_goesTo h rfl, fun imm h => ?loop⟩
  case br =>
    have hxor : (rdP s p ^^ n) = (rdP s p != n) := by cases rdP s p <;> cases n <;> rfl
    by_cases ht : (rdP s p != n) = true
    · rw [if_pos ht]
      exact run_goesTo h (by simp only [hxor, ht, if_true]; rfl)
    · rw [if_neg ht]
      exact run_goesOn h (by simp only [hxor, ht]; rfl)
  case loop =>
    by_cases hz : rd s a - 1 = 0
    · rw [if_pos hz]
      exact run_goesOn h (by simp only [hz, bne_self_eq_false]; rfl)
    · rw [if_neg hz]
      exact run_goesTo h (by simp only [bne_iff_ne.mpr hz, if_true]; rfl)

/-- Settles O16. -/
theorem endYieldAndBreak : Obligations.EndYieldAndBreak := by
  intro s f hf
  simp only [Arm.doneF, Arm.yieldF, Arm.brk]
  refine ⟨fun h => run_goesOn h rfl, fun h => ?yield, fun code h hslot => ?brk⟩
  case yield =>
    by_cases hy : kindOf s.issue.core ≠ .dense ∧ otherReady (myCore s) s.issue.slot = true
    · rw [if_pos hy]
      exact run_goesOn h (by simp only [bne_iff_ne.mpr hy.1, hy.2, Bool.and_self, if_true])
    · rw [if_neg hy]
      refine run_goesOn h (if_neg fun hb => hy ?_)
      simpa only [Bool.and_eq_true, bne_iff_ne] using hb
  case brk =>
    have hcls : codeCls .breakpoint = 0 := rfl
    refine run_stops h ?_
    simp only [faultHere, takeFault, hcls, if_true, if_neg hslot]
    rfl

/-! ## pfx (04 R83-R85) -/

theorem immS_prefixed {s : State} {f : Fibre} {x : BitVec 23} (h : getFib s s.issue.core s.issue.slot = some f)
    (hpp : f.ctl.pp = true) (hx : f.ctl.pfxv = x) {n v : Nat} (hn : 0 < n) (hle : n ≤ 41) (hv : v < 2 ^ n) :
    immS s n v = (x ++ BitVec.ofNat n v).signExtend 64 := by
  have happend : x ++ BitVec.ofNat n v = BitVec.ofNat (23 + n) (x.toNat * 2 ^ n + v) := by
    apply BitVec.eq_of_toNat_eq
    have hx' : x.toNat * 2 ^ n + v < 2 ^ (23 + n) := by
      calc x.toNat * 2 ^ n + v < (x.toNat + 1) * 2 ^ n := by rw [Nat.add_mul]; omega
        _ ≤ 2 ^ 23 * 2 ^ n := Nat.mul_le_mul_right _ x.isLt
        _ = 2 ^ (23 + n) := (Nat.pow_add _ _ _).symm
    rw [BitVec.toNat_append, BitVec.toNat_ofNat, BitVec.toNat_ofNat, Nat.mod_eq_of_lt hv, Nat.mod_eq_of_lt hx',
      ← Nat.shiftLeft_add_eq_or_of_lt hv, Nat.shiftLeft_eq]
  have hext : ext s = some x := by simp only [ext, me_of h, hpp, hx, if_true]
  simp only [immS, hext]
  rw [sext_eq _ _ (by omega) (by omega), happend]

theorem immS_plain {s : State} {f : Fibre} (h : getFib s s.issue.core s.issue.slot = some f) (hpp : f.ctl.pp = false)
    {n v : Nat} (hn : 0 < n) (hle : n ≤ 64) : immS s n v = (BitVec.ofNat n v).signExtend 64 := by
  have hext : ext s = none := by simp only [ext, me_of h, hpp, Bool.false_eq_true, if_false]
  simp only [immS, hext]
  exact sext_eq _ _ hn hle

/-- Settles O13. -/
theorem prefixHolds : Obligations.Prefix := by
  intro s f x ⟨hf, hrun⟩ hsnap
  refine ⟨fun h => ?pends, fun n v hn hle hpp hx hv => immS_prefixed hf hpp hx hn hle hv,
    fun n v hn hle hpp _ => immS_plain hf hpp hn hle⟩
  have hexec : exec (.pfx x) s = .next (goesOn (.pfx x) s) := by
    simp only [Arm.pfx]
    exact run_goesOn h rfl
  rw [retire_pfx hf (issuing_of_run hf hrun)] at hexec
  refine ⟨_, _, hexec, getFib_withFibre _ _, rfl, rfl, ?_, rfl, rfl⟩
  simp only [afterWord, hsnap, Option.isSome_none, Bool.false_eq_true, if_false]

end Sys2Proof.Machine
end

section
/-! PROOFS. Traps (07 R171, R172: O14, O15), the system registers (07 R153-R170: O17, O18, O19) and the words that only
read a register of the core or the device (O20). -/

namespace Sys2Proof.Machine

/-! ## Traps -/

theorem getFib_setTrap (s : State) (c d sl : Nat) (g : Core → Trap) :
    getFib (modCore s c fun k => { k with trap := g k }) d sl = getFib s d sl := getFib_modCore fun _ => rfl

/-- A change of the trap state of the issuing core, then of its fibre: the commit, and the trap state that it leaves. -/
theorem goesTo_trapped {s : State} {f f' : Fibre} {i : Instr} {a : W64} (g : Core → Trap)
    (h : getFib s s.issue.core s.issue.slot = some f) (hs : Issuing s) (hf : f'.sch = f.sch) (hi : ∀ x, i ≠ .pfx x) :
    let u := modCore s s.issue.core fun k => { k with trap := g k }
    let t := goesTo i a (withFibre u f')
    getFib t s.issue.core s.issue.slot = some (afterWord s a f') ∧
      (getCore t s.issue.core).trap = g (getCore s s.issue.core) ∧ t.mem = s.mem := by
  intro u t
  have hu : getFib u u.issue.core u.issue.slot = some f := (getFib_setTrap s _ _ _ g).trans h
  have hus : Issuing u := by
    have hme : me u = me s := by rw [me_of hu, me_of h]
    rw [Issuing, hme]
    exact hs
  have ht : t = withFibre u (afterWord s a f') := retire_withFibre hu hus hf hi
  rw [ht]
  refine ⟨getFib_withFibre u _, ?_, rfl⟩
  show (getCore (putFib u s.issue.core s.issue.slot _) s.issue.core).trap = _
  rw [putFib_part u _ _ _ Core.trap (fun _ _ => rfl), getCore_modCore_self]

theorem modMe_setTrap {s : State} {f : Fibre} (g : Core → Trap) (m : Fibre → Fibre)
    (h : getFib s s.issue.core s.issue.slot = some f) :
    modMe (modCore s s.issue.core fun k => { k with trap := g k }) m =
      withFibre (modCore s s.issue.core fun k => { k with trap := g k }) (m f) :=
  modMe_of m ((getFib_setTrap s _ _ _ g).trans h)

/-- Settles O14: the three answers of the trap entry. -/
theorem trapEntryHolds : Obligations.TrapEntry := by
  intro s f code ⟨hf, hrun⟩ h user
  have hs := issuing_of_run hf hrun
  simp only [Arm.trap, execTrap]
  have hme := me_of hf
  refine ⟨fun hsnap hu hfree => ?enter, fun hu hheld hin => ?waits, fun hu => ?privilege⟩
  case enter =>
    obtain ⟨hpriv, htvec⟩ := hu
    have hsrc : src s = f := by rw [src, hsnap, hme]; rfl
    obtain ⟨hfib, htrap, hmem⟩ := goesTo_trapped (i := .trap code)
      (a := BitVec.ofNat 64 (bf (myCore s).trap.tvec 2 62 * 4)) (f' := { f with ctl := { f.ctl with priv := true } })
      (fun _ => { (myCore s).trap with
        epc := s.issue.pc + BitVec.ofNat 64 (4 * s.issue.words)
        ecause := BitVec.ofNat 64 (code.toNat + 2 ^ 17 + fidOf s.issue.core s.issue.slot % 256 * 2 ^ 18)
        eaddr := f.g[0]
        einfo := BitVec.ofNat 64 (wordOf s (.trap code)) }) hf hs rfl nofun
    refine ⟨_, _, run_goesTo h ?_, hfib, htrap, rfl, fun a => ?_⟩
    · simp only [trapEntry, hme, hpriv, bitAt, htvec, hfree, Bool.not_true, Bool.or_self, Bool.false_eq_true, if_false,
        modMe_setTrap _ _ hf, hsrc]
    · rw [hmem]
      exact ⟨rfl, rfl⟩
  case waits =>
    obtain ⟨hpriv, htvec⟩ := hu
    refine run_stops h ?_
    simp only [trapEntry, hme, hpriv, bitAt, htvec, hheld, Bool.not_true, Bool.or_self, Bool.false_eq_true, if_false,
      if_true, parkHere, hin]
  case privilege =>
    refine run_stops h (if_pos ?_)
    rw [hme, Bool.or_eq_true, Bool.not_eq_true']
    by_cases hpriv : f.ctl.priv = true
    · exact .inl hpriv
    · exact .inr (Bool.eq_false_iff.mpr fun htvec => hu ⟨Bool.eq_false_iff.mpr hpriv, htvec⟩)

/-- Settles O15: the return, and PRIVILEGE of a fibre that does not hold the trap state. -/
theorem trapReturnHolds : Obligations.TrapReturn := by
  intro s f ⟨hf, hrun⟩ h hsnap e
  have hs := issuing_of_run hf hrun
  simp only [Arm.eret, execEret]
  refine ⟨fun hheld hown => ?returns, fun hnot => ?privilege⟩
  case returns =>
    obtain ⟨hfib, htrap, -⟩ := goesTo_trapped (i := .eret) (a := BitVec.ofNat 64 (bf e.epc 2 62 * 4))
      (f' := { f with ctl := { f.ctl with priv := bitAt e.ecause 16 } })
      (fun _ => { e with ecause := setBf e.ecause 17 1 0 }) hf hs rfl nofun
    refine ⟨_, _, run_goesTo h ?_, hfib, htrap, rfl⟩
    have hguard : (!bitAt e.ecause 17 || bf e.ecause 18 8 != fidOf s.issue.core s.issue.slot % 256) = false := by
      rw [Bool.or_eq_false_iff]
      exact ⟨by rw [bitAt, hheld]; rfl, bne_eq_false_iff_eq.mpr hown⟩
    show (if _ then _ else _) = _
    rw [if_neg (Bool.eq_false_iff.mp hguard), modMe_setTrap _ _ hf]
  case privilege =>
    refine run_stops h (if_pos ?_)
    rw [Bool.or_eq_true, Bool.not_eq_true', bne_iff_ne]
    exact hnot

/-! ## System registers -/

/-- While an operand of pfx pends, a word that passes its checks consumes it. -/
theorem consumes_of_passes {i : Instr} {s : State} (h : Passes i s) (hpp : (me s).ctl.pp = true) :
    consumes (me s).ctl.pfxv i = true := by
  obtain ⟨-, hcheck⟩ := h
  cases hc : consumes (me s).ctl.pfxv i with
  | true => rfl
  | false =>
    simp only [checkWord, hpp, hc, Bool.not_false, Bool.and_self, if_true] at hcheck
    repeat' split at hcheck
    all_goals exact nomatch hcheck

/-- PRIVILEGE of a word that reaches a register of the system. -/
theorem sysPriv_guard {f : Fibre} {x : SysReg} (h : sysPriv x = false ∨ f.ctl.priv = true) :
    (sysPriv x && !f.ctl.priv) = false := by
  rcases h with h | h <;> simp [h]

theorem coreWord_command {s : State} {c : Nat} (h : kindOf c = .command) :
    coreWord s c = BitVec.ofNat 64 (cidOf c + 2 * 2 ^ 12) := by
  simp only [coreWord, h, beq_self_eq_true, if_true, kindCode]
  rfl

theorem coreWord_domain {s : State} {c : Nat} (h : kindOf c ≠ .command) :
    let dom := ngetD s.doms (unitOf c) Domain.blank
    coreWord s c = BitVec.ofNat 64
      (cidOf c + kindCode (kindOf c) * 2 ^ 12 + dom.vfp * 2 ^ 14 + dom.gated.toNat * 2 ^ 18) := by
  simp only [coreWord, beq_iff_eq, if_neg h]

/-- The core id of each kind (07 R158). -/
theorem cidOf_kind (c : Nat) :
    cidOf c = match kindOf c with | .lookup => c | .dense => c - 4096 | .command => c - 4112 := by
  unfold cidOf kindOf
  split
  · rfl
  · split <;> rfl

/-- Settles O17. -/
theorem systemReads : Obligations.SystemReads := by
  intro s f r x ⟨hf, hrun⟩ h c k dom ctl energy feat value
  have hme := me_of hf
  refine ⟨fun hsnap => ?pending, fun hpriv => ?reads, fun hsys hpriv => ?privilege⟩
  case pending =>
    have hsrc : src s = me s := by rw [src, hsnap]; rfl
    show (src s).ctl.pp = false
    rw [hsrc]
    exact Bool.eq_false_iff.mpr fun hpp => nomatch consumes_of_passes h hpp
  case reads =>
    have hvalue : sysValue s x = value := by
      cases x with
      | status | rmode | task | timeout | time | tvec | epc | ecause | eaddr | einfo => rfl
      | feat =>
        show featOf (kindOf c) = feat
        cases hk : kindOf c <;> simp only [feat, hk] <;> rfl
      | tfeat =>
        have hfeat : featOf (kindOf c) = feat := by cases hk : kindOf c <;> simp only [feat, hk] <;> rfl
        show tfeatWord k c = value
        cases hcrew : k.crew with
        | none => simp only [tfeatWord, hcrew, hfeat, value]
        | some w => simp only [tfeatWord, hcrew, value]
      | core =>
        show coreWord s c = value
        have hcid := cidOf_kind c
        cases hk : kindOf c with
        | command => rw [coreWord_command hk, hcid]; simp only [value, hk]
        | lookup =>
          rw [coreWord_domain (by rw [hk]; nofun), hcid]
          simp only [value, hk, kindCode, Nat.zero_mul, Nat.add_zero]
          rfl
        | dense => rw [coreWord_domain (by rw [hk]; nofun), hcid]; simp only [value, hk, kindCode]; rfl
      | ebud | eres =>
        show energyWord s c _ = value
        by_cases hk : kindOf c = .command <;> simp [energyWord, value, energy, hk, dom]
    simp only [Arm.sysrd]
    refine run_goesOn h ?_
    simp only [hme, sysPriv_guard hpriv, Bool.false_eq_true, if_false, hvalue]
  case privilege =>
    simp only [Arm.sysrd]
    refine run_stops h ?_
    simp only [hme, hsys, hpriv, Bool.not_false, Bool.and_self, if_true]
    rfl

theorem setWidth_of_bf (v : W64) : BitVec.ofNat 16 (bf v 0 16) = v.setWidth 16 := by
  rw [bf_low]
  apply BitVec.eq_of_toNat_eq
  simp only [BitVec.toNat_ofNat, BitVec.toNat_setWidth, Nat.mod_mod]

theorem setWidth_shift_of_bf (v : W64) : BitVec.ofNat 16 (bf v 16 16) = (v >>> 16).setWidth 16 := by
  apply BitVec.eq_of_toNat_eq
  simp only [bf, fld, BitVec.toNat_ofNat, BitVec.toNat_setWidth, BitVec.toNat_ushiftRight, Nat.shiftRight_eq_div_pow,
    Nat.mod_mod]

/-- Settles O18. -/
theorem systemWrites : Obligations.SystemWrites := by
  intro s f r x ⟨hf, hrun⟩ h v trap
  have hme := me_of hf
  simp only [Arm.syswr]
  refine ⟨fun hpriv => run_goesOn h ?_, fun hsys hpriv => run_stops h ?_⟩
  · simp only [hme, sysPriv_guard hpriv, Bool.false_eq_true, if_false]
    congr 1
    cases x with
    | status => exact modMe_of _ hf
    | rmode =>
      simp only [sysWrite, modMe_of _ hf, setWidth_shift_of_bf]
      rfl
    | timeout => simp only [sysWrite, bf_low]; rfl
    | ecause => simp only [sysWrite, bf_low]; rfl
    | einfo => simp only [sysWrite, bf_low]; rfl
    | tvec | epc | eaddr | feat | tfeat | core | task | time | ebud | eres => rfl
  · simp only [hme, hsys, hpriv, Bool.not_false, Bool.and_self, if_true]
    rfl

/-- A register and the control state are written in either order. -/
theorem putReg_ctl (f : Fibre) (d : Reg) (v : W64) (c : Ctl) :
    putReg { f with ctl := c } d v = { putReg f d v with ctl := c } := by cases d <;> rfl

/-- A register written after a change of the issuing fibre and of SEED's mark. -/
theorem wr_afterSeed (s : State) (f : Fibre) (d : Reg) (v : W64) (b : Bool) :
    wr { withFibre s f with issue := { s.issue with seedW := b } } d v =
      { withFibre s (putReg f d v) with issue := { s.issue with seedW := b } } := by
  have hwr : wr (withFibre s f) d v = withFibre s (putReg f d v) := by
    rw [wr, modMe_of _ (getFib_withFibre s f)]
    exact withFibre_withFibre s f _
  exact congrArg (fun t : State => { t with issue := { s.issue with seedW := b } }) hwr

/-- Settles O19. -/
theorem roundingMode : Obligations.RoundingMode := by
  intro s f d a sd m fz rm ⟨hf, hrun⟩ h
  simp only [Arm.rndset]
  refine run_goesOn h ?_
  simp only [modMe_of _ hf, setWidth_of_bf]
  exact congrArg (·, Flow.next) ((wr_afterSeed s _ d _ _).trans (by rw [putReg_ctl]; rfl))

/-! ## Words that only read -/

/-- Settles O20. -/
theorem coreReads : Obligations.CoreReads := by
  intro s d a
  simp only [Arm.tread, Arm.erd, Arm.pcrd, Arm.dqCnt, Arm.rqStat, Arm.lea, Arm.segrd]
  refine ⟨regOp_next, regOp_next, regOp_next, regOp_next, fun h hk => ?command, fun h hk => ?domain, fun h => ?pcrd,
    regOp_next, fun k x hx h => ?stat, fun k hx h => ?free, fun sg base sz imm => regOp_next,
    fun b k h => run_goesOn h rfl⟩
  case command =>
    refine (regOp_next h).trans ?_
    simp only [hk, beq_self_eq_true, if_true]
    rfl
  case domain =>
    refine (regOp_next h).trans ?_
    simp only [beq_iff_eq, if_neg hk]
    rfl
  case pcrd => exact bf_low (rd s a) 16 ▸ regOp_next h
  case stat =>
    refine (regOp_next h).trans ?_
    have hx' : nget (myCore s).fifo (bf (rd s a) 0 3) = some x := by rw [bf_low]; exact hx
    simp only [hx']
    congr 3
    obtain ⟨⟨n, hn⟩⟩ := k
    match n, hn with
    | 0, _ | 1, _ | 2, _ | 3, _ | 4, _ | 5, _ | 6, _ | 7, _ => rfl
  case free =>
    refine (regOp_next h).trans ?_
    have hx' : nget (myCore s).fifo (bf (rd s a) 0 3) = none := by rw [bf_low]; exact hx
    simp only [hx']

end Sys2Proof.Machine
end

section
/-! PROOFS. Tile stores, atomics and full/empty operations as values (08 R200-R212: O24, O26, O30), level steps
(13 R333: O35), spawn (11 R277: O37), and a record at a FQBASE inside an atom (15 R375: O60). -/

namespace Sys2Proof.Machine

/-! ## A store to a tile (O24) -/

/-- A store to a tile changes of its core only the tile memory and the arrival counters. -/
theorem tileStore_part {α : Type} (p : Core → α) (hctr : ∀ k x, p { k with ctr := x } = p k)
    (htile : ∀ k x, p { k with tile := x } = p k) (s : State) (c o n v pr : Nat) :
    p (getCore (tileStore s c o n v pr) c) = p (getCore s c) := by
  rw [tileStore, countArrivals_part p hctr, modTile, getCore_modCore_self, htile]

/-- Settles O24. -/
theorem tileStoreFrame : Obligations.TileStoreFrame := by
  intro s c o n v producer t
  have htile := tileStore_tile s c o n v producer
  refine ⟨fun a ha => ?_, fun j hj => ?_, fun d hd => tileStore_other s c o n v producer d hd, fun a => ?_,
    tileStore_part Core.fibres (fun _ _ => rfl) (fun _ _ => rfl) s c o n v producer, ?_,
    tileStore_part Core.trap (fun _ _ => rfl) (fun _ _ => rfl) s c o n v producer,
    tileStore_part Core.seq (fun _ _ => rfl) (fun _ _ => rfl) s c o n v producer⟩
  · rw [htile]; exact Mem.rd_wrN_other _ _ _ _ _ ha
  · rw [htile]; exact Mem.rd_wrN _ _ _ _ _ hj
  · rw [tileStore_mem]; exact ⟨rfl, rfl⟩
  · rw [htile]

/-! ## Atomics (O26) -/

/-- The signed value of n bytes is that of the bit vector that they make. -/
theorem toInt_ofNat_eq_sgn {n v : Nat} (hn : 0 < n) (hv : v < 2 ^ (8 * n)) :
    (BitVec.ofNat (8 * n) v).toInt = sgn n v := by
  have hhalf : 2 * 2 ^ (8 * n - 1) = 2 ^ (8 * n) := by
    rw [← Nat.pow_succ']
    congr 1
    omega
  have hmod : v % 2 ^ (8 * n) = v := Nat.mod_eq_of_lt hv
  simp only [sgn, trunc, BitVec.toInt_eq_toNat_cond, BitVec.toNat_ofNat, hmod]
  by_cases h : 2 ^ (8 * n - 1) ≤ v
  · rw [if_neg (by omega), if_pos h]
    push_cast
    rfl
  · rw [if_pos (by omega), if_neg h]

theorem slt_ofNat_iff {n x y : Nat} (hn : 0 < n) (hx : x < 2 ^ (8 * n)) (hy : y < 2 ^ (8 * n)) :
    (BitVec.ofNat (8 * n) x).slt (BitVec.ofNat (8 * n) y) = true ↔ sgn n x < sgn n y := by
  rw [BitVec.slt_iff_toInt_lt, toInt_ofNat_eq_sgn hn hx, toInt_ofNat_eq_sgn hn hy]

theorem sgn_injective {n x y : Nat} (hn : 0 < n) (hx : x < 2 ^ (8 * n)) (hy : y < 2 ^ (8 * n))
    (h : sgn n x = sgn n y) : x = y := by
  rw [← toInt_ofNat_eq_sgn hn hx, ← toInt_ofNat_eq_sgn hn hy] at h
  have heq := congrArg BitVec.toNat (BitVec.eq_of_toInt_eq h)
  simpa only [BitVec.toNat_ofNat, Nat.mod_eq_of_lt hx, Nat.mod_eq_of_lt hy] using heq

/-- The lesser of two signed numbers of n bytes. -/
theorem minmaxN_min {n old v : Nat} (hn : 0 < n) (ho : old < 2 ^ (8 * n)) (hv : v < 2 ^ (8 * n)) :
    minmaxN false n old v =
      if (BitVec.ofNat (8 * n) v).slt (BitVec.ofNat (8 * n) old) = true then v else old := by
  simp only [minmaxN, trunc, Nat.mod_eq_of_lt ho, Nat.mod_eq_of_lt hv, slt_ofNat_iff hn hv ho, bne_iff_ne, ne_eq,
    decide_eq_false_iff_not, Classical.not_not]
  have heq := sgn_injective hn ho hv
  split <;> split <;> omega

/-- The greater of two signed numbers of n bytes. -/
theorem minmaxN_max {n old v : Nat} (hn : 0 < n) (ho : old < 2 ^ (8 * n)) (hv : v < 2 ^ (8 * n)) :
    minmaxN true n old v =
      if (BitVec.ofNat (8 * n) old).slt (BitVec.ofNat (8 * n) v) = true then v else old := by
  have hslt := slt_ofNat_iff hn ho hv
  simp only [minmaxN, trunc, Nat.mod_eq_of_lt ho, Nat.mod_eq_of_lt hv, hslt]
  by_cases h : sgn n old < sgn n v <;> simp [h]

theorem trunc_trunc (n v : Nat) : trunc n (trunc n v) = trunc n v := Nat.mod_mod _ _

theorem minmaxN_trunc (mx : Bool) (n a b : Nat) : minmaxN mx n a (trunc n b) = minmaxN mx n a b := by
  have hsgn : sgn n (trunc n b) = sgn n b := by simp only [sgn, trunc_trunc]
  simp only [minmaxN, hsgn, trunc_trunc]

/-- A red of one accumulate as wide as its access (08 R212). -/
theorem newBytes_red {op : RedOp} {n old : Nat} {b : W512} (hn : 0 < n) (ho : old < 2 ^ (8 * n)) :
    newBytes ⟨.red op, n, b, 0⟩ old = some (redNew op n old (trunc n b.toNat)) := by
  have hold : trunc n old = old := Nat.mod_eq_of_lt ho
  simp only [newBytes, redWidth, if_true, Nat.div_self hn, redAll, hold, Nat.zero_mul, Nat.add_zero]

/-- Settles O26. -/
theorem atomicValues : Obligations.AtomicValues := by
  constructor
  case left =>
    intro n old b c hn ho v smaller larger
    have hpos : 0 < n := by omega
    have hv : v < 2 ^ (8 * n) := Nat.mod_lt _ (Nat.two_pow_pos _)
    have hb : trunc n b.toNat = v := rfl
    have hvv : trunc n v = v := Nat.mod_eq_of_lt hv
    have hmin : minmaxN false n old v = smaller := minmaxN_min hpos ho hv
    have hmax : minmaxN true n old v = larger := minmaxN_max hpos ho hv
    have hadd : trunc n (old + b.toNat) = (old + v) % 2 ^ (8 * n) := (Nat.add_mod_mod old b.toNat _).symm
    refine ⟨congrArg some hadd, rfl, rfl, rfl, rfl, ?_, ?_, ?_, ?_, ?_, ?_, ?_, ?_, fun h4 => ?_⟩
    · exact congrArg some (by rw [← hmin, ← hb]; exact (minmaxN_trunc false n old _).symm)
    · exact congrArg some (by rw [← hmax, ← hb]; exact (minmaxN_trunc true n old _).symm)
    · exact newBytes_red hpos ho
    · rw [newBytes_red hpos ho, hb, redNew, hvv]
    · rw [newBytes_red hpos ho, hb, redNew, hvv]
    · rw [newBytes_red hpos ho, hb, redNew, hvv]; rfl
    · rw [newBytes_red hpos ho, hb, redNew, hmin]
    · rw [newBytes_red hpos ho, hb, redNew, hmax]
    · subst h4
      rw [newBytes_red hpos ho, hb, redNew, hvv]
  case right =>
    intro s c o producer v acc old h
    simp only [tileDo, tileLoad]
    rw [show newBytes acc (Mem.rdN (getCore s c).tile.mem o acc.size) = some v from h]

/-! ## Full/empty operations (O30) -/

theorem setFull_mem (t : Tile) (w : Nat) (b : Bool) : (setFull t w b).mem = t.mem := rfl

/-- Settles O30. -/
theorem fullEmptyEffects : Obligations.FullEmptyEffects := by
  intro s c w producer d t old read after
  have hldfe : after .ldfe = setFull t w false := modTile_tile s c _
  have hst : after .stf = setFull { t with mem := Mem.wrN t.mem (8 * w) d.toNat 8 } w true := by
    rw [← tileStore_tile s c (8 * w) 8 d.toNat producer]
    exact modTile_tile _ c _
  have hfest (full : Bool) : after (.fest full) = setFull t w full := by
    rw [← modTile_tile s c fun t => setFull t w full]
    show (getCore (fePerform s c w ⟨.fest full, 8, d, 0⟩ producer).1 c).tile = _
    simp only [fePerform]
    split
    · rfl
    · exact countArrivals_part Core.tile (fun _ _ => rfl) _ _ _ _ _
  refine ⟨rfl, rfl, rfl, ?_, ?_, ?_, ?_, ?_, ?_, fun full => ?_, fun full => ?_⟩
  · rw [hldfe, isFull_setFull]
  · rw [hldfe, setFull_mem]
  · rw [hst, isFull_setFull]
  · exact hst ▸ isFull_setFull _ w true
  · rw [hst, setFull_mem, Mem.rdN_wrN]
  · exact hst ▸ Mem.rdN_wrN t.mem (8 * w) d.toNat 8
  · rw [hfest, isFull_setFull]
  · rw [hfest, setFull_mem]

/-! ## Level steps (O35) -/

/-- A level record as a number (13 R333). -/
def levelRec (kind sg n arr cnt : Nat) : Nat := kind + sg * 2 ^ 8 + n * 2 ^ 64 + arr * 2 ^ 128 + cnt * 2 ^ 192

/-- The fields of a level record. -/
theorem levelRec_fields {kind sg n arr cnt : Nat} (hk : kind < 256) (hs : sg < 8) (hn : n < 2 ^ 64)
    (harr : arr < 2 ^ 64) (hcnt : cnt < 2 ^ 64) :
    let x := levelRec kind sg n arr cnt
    fld x 0 8 = kind ∧ fld x 8 3 = sg ∧ fld x 11 5 = 0 ∧ fld x 16 48 = 0 ∧ fld x 64 64 = n ∧ fld x 128 64 = arr ∧
      fld x 192 64 = cnt := by
  simp only [levelRec, fld]
  refine ⟨?_, ?_, ?_, ?_, ?_, ?_, ?_⟩ <;> omega

/-- The step from a level record, by its kind and the fields that the kind does not use. -/
theorem levelStep_levelRec {kind sg n arr cnt : Nat} (b : Nat) (hk : kind < 256) (hs : sg < 8) (hn : n < 2 ^ 64)
    (harr : arr < 2 ^ 64) (hcnt : cnt < 2 ^ 64) :
    levelStep (levelRec kind sg n arr cnt) b =
      match kind with
      | 1 => if sg != 0 || arr != 0 || cnt != 0 then .bad .formatRecord
             else .range (b * n % 2 ^ 64) ((b * n + n) % 2 ^ 64)
      | 4 => if sg != 0 || n != 0 || arr != 0 || cnt != 0 then .bad .formatRecord else .range b ((b + 1) % 2 ^ 64)
      | 3 => if arr % 64 != 0 || cnt % 8 != 0 then .bad .align
             else .reads (Fin.ofNat 8 sg) 3 (b * n % 2 ^ 64) ((b * n + n) % 2 ^ 64)
               (rankOffs arr cnt (b * n % 2 ^ 64) ++ rankOffs arr cnt ((b * n + n) % 2 ^ 64))
      | 2 | 5 => if n != 0 || cnt != 0 then .bad .formatRecord
             else if arr % 8 != 0 then .bad .align
             else .reads (Fin.ofNat 8 sg) kind 0 0 [(arr + 8 * b) % 2 ^ 64, (arr + 8 * b + 8) % 2 ^ 64]
      | _ => .bad .formatRecord := by
  obtain ⟨hkind, hsg, h11, h16, hn', harr', hcnt'⟩ := levelRec_fields hk hs hn harr hcnt
  simp only [levelStep, hkind, hsg, h11, h16, hn', harr', hcnt', bne_self_eq_false, Bool.false_or]
  split <;> simp_all

/-- Settles O35. -/
theorem levelSteps : Obligations.LevelSteps := by
  intro n b arr cnt sg hn hb harr hcnt
  have hsg : Fin.ofNat 8 sg.val = sg := Fin.ofNat_val_eq_self sg
  refine ⟨?one, ?four, ?pair, ?rank, ?other⟩
  case one =>
    rw [show 1 + n * 2 ^ 64 = levelRec 1 0 n 0 0 by simp only [levelRec]; omega]
    exact levelStep_levelRec b (by decide) (by decide) hn (by decide) (by decide)
  case four =>
    have hstep := levelStep_levelRec (kind := 4) (sg := 0) (n := 0) (arr := 0) (cnt := 0) b (by decide) (by decide)
      (by decide) (by decide) (by decide)
    exact hstep
  case pair =>
    intro k hk rec_
    have hrec : rec_ = levelRec k sg.val 0 arr 0 := by simp only [rec_, levelRec]; omega
    have hstep := levelStep_levelRec b (show k < 256 by omega) sg.isLt (show 0 < 2 ^ 64 by decide) harr
      (show 0 < 2 ^ 64 by decide)
    rw [← hrec, hsg] at hstep
    refine ⟨fun h => ?_, fun h => ?_, fun m => ?_⟩ <;> rcases hk with rfl | rfl
    · simpa [h] using hstep
    · simpa [h] using hstep
    · simpa [h] using hstep
    · simpa [h] using hstep
    · rfl
    · rfl
  case rank =>
    intro rec_ p0 p1
    have hstep : levelStep rec_ b = if arr % 64 != 0 || cnt % 8 != 0 then .bad .align
        else .reads (Fin.ofNat 8 sg) 3 p0 p1 (rankOffs arr cnt p0 ++ rankOffs arr cnt p1) :=
      levelStep_levelRec b (show 3 < 256 by decide) sg.isLt hn harr hcnt
    rw [hsg] at hstep
    refine ⟨fun h => ?_, fun h1 h2 => ?_⟩
    · rw [hstep, if_pos (by simpa using h)]
    · rw [hstep, if_neg (by simp [h1, h2])]
  case other =>
    intro k hk hlt
    have hstep := levelStep_levelRec b hlt (show 0 < 8 by decide) hn (show 0 < 2 ^ 64 by decide)
      (show 0 < 2 ^ 64 by decide)
    rw [show k + n * 2 ^ 64 = levelRec k 0 n 0 0 by simp only [levelRec]; omega, hstep]
    split
    case h_6 => rfl
    all_goals omega

/-! ## spawn (O37) -/

theorem freeSlot_free {k : Core} {n slot : Nat} (h : freeSlot k n = some slot) : nget k.fibres slot = none := by
  have hp := List.find?_some h
  rw [Bool.and_eq_true, Option.isNone_iff_eq_none] at hp
  exact hp.1

/-- The fibre that spawn makes. -/
def spawned (s : State) (f : Fibre) (a : Reg) (imm : BitVec 13) : Fibre :=
  { Fibre.blank with
    pc := s.issue.pc + sext 13 imm.toNat * 4, g := Fibre.blank.g.set 0 (rd s a)
    ctl := { Ctl.blank with priv := f.ctl.priv, rm := f.ctl.rm, fz := f.ctl.fz, seed := f.ctl.seed }
    sch := { Sched.blank with since := 2 * (myCore s).seq.cycle + 1 } }

/-- The fibre that issues a spawn, its SEED advanced and the new fid in d. -/
def spawner (f : Fibre) (d : Reg) (v : W64) : Fibre :=
  putReg { f with ctl := { f.ctl with seed := seedAfter 1 f.ctl.seed } } d v

/-- The state that spawn leaves before its commit. -/
def afterSpawn (s : State) (f : Fibre) (d a : Reg) (imm : BitVec 13) (slot : Nat) : State :=
  let u := putFib s s.issue.core slot (spawned s f a imm)
  { withFibre u (spawner f d (BitVec.ofNat 64 (cidOf s.issue.core * 256 + slot))) with
    issue := { u.issue with seedW := true } }

theorem execSpawn_free {s : State} {f : Fibre} {d a : Reg} {imm : BitVec 13} {slot : Nat}
    (hf : getFib s s.issue.core s.issue.slot = some f) (hsnap : s.issue.snap = none)
    (hk : kindOf s.issue.core ≠ .dense) (hslot : freeSlot (myCore s) (nSlots (kindOf s.issue.core)) = some slot)
    (hne : s.issue.slot ≠ slot) (h : Passes (.spawn d a imm) s) :
    execSpawn d a imm s = .next (goesOn (.spawn d a imm) (afterSpawn s f d a imm slot)) := by
  have hsrc : src s = f := by rw [src, hsnap, me_of hf]; rfl
  have hkind : (kindOf s.issue.core == .dense) = false := beq_eq_false_iff_ne.mpr hk
  let u := putFib s s.issue.core slot (spawned s f a imm)
  have hu : getFib u u.issue.core u.issue.slot = some f := (getFib_putFib_other s _ _ _ _ _ (.inr hne)).trans hf
  have hseed : modMe u (fun g => { g with ctl := { g.ctl with seed := seedAfter 1 f.ctl.seed } })
      = withFibre u { f with ctl := { f.ctl with seed := seedAfter 1 f.ctl.seed } } := modMe_of _ hu
  refine run_goesOn h ?_
  simp only [hkind, hslot, hsrc, Bool.false_eq_true, if_false]
  exact congrArg (·, Flow.next) ((congrArg (fun x : State => wr { x with issue := { x.issue with seedW := true } } d _)
    hseed).trans (wr_afterSeed u _ d _ true))

/-- Settles O37. -/
theorem spawn : Obligations.Spawn := by
  intro s f d a imm ⟨hf, hrun⟩ hsnap h c
  simp only [Arm.spawn]
  refine ⟨fun hk => run_goesOn h ?_, fun hk hnone => run_goesOn h ?_, fun slot hk hslot => ?free⟩
  · rw [if_pos (beq_iff_eq.mpr hk)]
  · rw [if_neg (by rwa [beq_iff_eq]), hnone]
  case free =>
    have hne : s.issue.slot ≠ slot := fun he => by
      have hnone := freeSlot_free hslot
      rw [← he] at hnone
      exact nomatch hf.symm.trans hnone
    let t := afterSpawn s f d a imm slot
    let g := spawner f d (BitVec.ofNat 64 (cidOf c * 256 + slot))
    have ht : getFib t t.issue.core t.issue.slot = some g := getFib_withFibre _ g
    have hg : g.sch.run = .running s.issue.strand := (congrArg Sched.run (putReg_sch _ d _)).trans hrun
    have hgo : goesOn (.spawn d a imm) t = withFibre t (afterWord t (afterPc t) g) :=
      retire_of ht (issuing_of_run ht hg) nofun
    refine ⟨_, spawned s f a imm, execSpawn_free hf hsnap hk hslot hne h, ?_, rfl, rfl, rfl, rfl, rfl, rfl, rfl, rfl,
      rfl, rfl, fun hd => ⟨afterWord t (afterPc t) g, ?_, ?_⟩⟩
    · rw [hgo]
      exact (getFib_putFib_other t _ _ _ _ _ (.inr hne.symm)).trans
        ((getFib_putFib_other _ _ _ _ _ _ (.inr hne.symm)).trans (getFib_putFib_self _ _ _ _))
    · rw [hgo]
      exact getFib_withFibre t _
    · exact (fibReg_putReg _ d d _).trans (if_pos ⟨rfl, hd⟩)

/-! ## Records (O60) -/

/-- A state after reset but for a FQBASE of die 0 that stands inside an atom. -/
def oddBase : State := { State.reset with dies := State.reset.dies.set 0 ⟨1, 0, 0, 0, [], []⟩ }

/-- Refutes O60: a record is written as a whole atom, so with a FQBASE inside an atom it begins below FQBASE, where the
statement has every byte unchanged. -/
theorem not_faultsTaken : ¬ Obligations.FaultsTaken := by
  intro h
  obtain ⟨-, hrecord, -⟩ := h oddBase 0 0 Fibre.blank .align 0 .none 0 0
  obtain ⟨-, -, -, -, hframe, -⟩ := hrecord (by decide) (by decide +kernel)
  have hbelow := hframe 0 (.inl (by decide +kernel))
  exact absurd hbelow (by decide +kernel)

end Sys2Proof.Machine
end

section
/-! PROOFS. Loads, stores and atomics of a fibre (08 R195-R213): O21, O22, O23, O25, O27, O28. -/

namespace Sys2Proof.Machine

/-! ## Loads -/

/-- Settles O21. -/
theorem ownTileLoads : Obligations.OwnTileLoads := by
  intro s r sg base o
  simp only [Arm.ld, Arm.ldAcq, Arm.ldp]
  refine ⟨fun sz x imm hseg hb h => run_goesOn h ?ld, fun sz x imm hseg hb h => run_goesOn h ?acqCore,
    fun sz x sc imm hsc hseg hb hh h => run_goesOn h ?acqWide, fun imm hseg hb h => run_goesOn h ?ldp⟩
  case ld => simp only [hseg, loadIssue_own hb]
  case acqCore => simp only [hseg]; exact loadIssue_own hb
  case acqWide => simp only [hseg, bne_iff_ne.mpr hsc]; exact loadIssue_park hb hh
  case ldp => simp only [hseg, loadIssue_own hb]

/-- A table that the own tile does not hold is loaded at its reply. -/
theorem tableLoad_far {s : State} {i : Instr} {sg : Fin 8} {off n align : Nat} {dst : Dst} {loc : Loc}
    {fin : State → Loc → Nat → State × Flow} (hseg : segAcc s.issue.core (myCore s) sg off n align [rightR] = .ok loc)
    (hl : loc.isOwn s.issue.core = false) :
    tableLoad s i sg off n align dst fin = loadIssue s i loc n dst false true false fun t _ => (t, .next) := by
  simp only [tableLoad, hseg, hl, Bool.not_false]
  exact loadIssue_park_fin

/-- Settles O22. -/
theorem farLoads : Obligations.FarLoads := by
  intro s r sg base loc
  dsimp only
  intro hl hh
  refine ⟨fun sz x imm hseg h => loadIssue_far (Arm.ld r sg base sz x imm s) ?ld hl hh h,
    fun sz x sc imm hseg h => loadIssue_far (Arm.ldAcq r sg base sz x sc imm s) ?acq hl hh h,
    fun imm hseg h => loadIssue_far (Arm.ldp r sg base imm s) ?ldp hl hh h,
    fun v imm hseg h => loadIssue_far (Arm.vld v sg base imm s) ?vld hl hh h,
    fun f imm hseg h => loadIssue_far (Arm.mldb f sg base imm s) ?mldb hl hh h,
    fun imm hseg h => loadIssue_far (Arm.dtld sg base imm s) (tableLoad_far hseg hl) hl hh h,
    fun imm hseg h => loadIssue_far (Arm.tbld r sg base imm s) ?tbld hl hh h,
    fun imm hseg h => loadIssue_far (Arm.xpld sg base imm s) (tableLoad_far hseg hl) hl hh h,
    fun tag ctx hbind hseg h => loadIssue_far (Arm.gkbind r base tag ctx s) ?gkbind hl hh h⟩
  case ld | acq | ldp | vld | mldb => simp only [hseg]
  case tbld => exact bf_low (rd s r) 4 ▸ tableLoad_far hseg hl
  case gkbind =>
    have hbind' : bitAt (rd s r) 63 = false := hbind
    simp only [hbind', Bool.false_eq_true, if_false]
    have hseg' : segAcc s.issue.core (myCore s) (Fin.ofNat 8 (bf (rd s base) 54 3)) (rd s r).toNat 512 64 [rightR]
        = .ok loc := hseg
    simp only [hseg']
    rfl

/-! ## Stores -/

/-- A store of bytes to the own tile. -/
theorem storeIssue_own_store {s : State} {i : Instr} {o n v : Nat}
    (hb : rangeBusy s.issue.core (myCore s) o n = false) (hn : n ≤ 64) :
    storeIssue s i [(.tile s.issue.core o, storeAcc n v)] =
      (tileStore s s.issue.core o n (v % 2 ^ (8 * n)) s.issue.core, .next) := by
  rw [storeIssue_own (acc := storeAcc n v) hb, tileDo_store s _ _ _ _ _ hn]

theorem toNat_setWidth_512 (x : W64) : (x.setWidth 512).toNat = x.toNat :=
  BitVec.toNat_setWidth_of_le (by decide)

theorem szBytes_le (sz : Size) : szBytes sz ≤ 64 := by cases sz <;> decide

/-- Settles O23. -/
theorem ownTileStores : Obligations.OwnTileStores := by
  intro s r sg base o
  simp only [Arm.st, Arm.stp, Arm.stRel, Arm.st4, Arm.red]
  refine ⟨fun sz imm hseg hb h => run_goesOn h ?st, fun imm hseg hb h => run_goesOn h ?stp,
    fun sz sc imm hseg hb hf hd h => run_goesOn h ?stRel, fun hi imm hseg hb h => run_goesOn h ?st4,
    fun op esz hseg hb h => run_goesOn h ?red⟩
  case st => simp only [hseg, storeIssue_own_store hb (szBytes_le sz)]
  case stp =>
    have hpair : (rd s r).toNat + (rd s (succReg r)).toNat * 2 ^ 64 < 2 ^ (8 * 16) := by
      have hlo := (rd s r).isLt
      have hhi := (rd s (succReg r)).isLt
      omega
    simp only [hseg, storeIssue_own_store hb (show 16 ≤ 64 by decide), Nat.mod_eq_of_lt hpair]
  case stRel =>
    have hown : (!(Loc.tile s.issue.core o).isOwn s.issue.core && inHandler s) = false := by simp [Loc.isOwn]
    simp only [hseg, releaseStore_quiet hown hf hd, storeIssue_own_store hb (szBytes_le sz)]
  case st4 =>
    simp only [hseg]
    refine (storeIssue_own (acc := ⟨.nibble hi, 1, (rd s r).setWidth 512, 0⟩) hb).trans ?_
    simp only [tileDo, newBytes, tileLoad, toNat_setWidth_512]
    rfl
  case red =>
    simp only [hseg]
    exact storeIssue_own (acc := ⟨.red op, eszBytes esz, (rd s r).setWidth 512, 0⟩) hb

/-- Settles O27. -/
theorem farStores : Obligations.FarStores := by
  intro s s' r sg base loc
  dsimp only
  intro hl hh
  have hone (acc : Acc1) : [(loc, acc)].all (fun x => x.1.isOwn s.issue.core) = false := by
    simp only [List.all_cons, hl, Bool.false_and]
  simp only [Arm.st, Arm.stp, Arm.red, Arm.vst, Arm.vsts]
  refine ⟨fun sz imm hseg hin h => run_goesOn h ?st, fun imm hseg hin h => run_goesOn h ?stp,
    fun op esz hseg hin h => run_goesOn h ?red, fun v imm hseg hfar hin h => run_goesOn h ?vst,
    fun v vi esz parts hparts hfar hin h => run_goesOn h ?vsts⟩
  case st | stp | red =>
    obtain ⟨htake, hfault, hres⟩ := hin
    simp only [hseg]
    exact storeIssue_far (hone _) hh htake hfault hres
  case vst =>
    obtain ⟨htake, hfault, hres⟩ := hin
    simp only [hseg]
    exact storeIssue_far hfar hh htake hfault hres
  case vsts =>
    obtain ⟨htake, hfault, hres⟩ := hin
    simp only [hparts]
    exact storeIssue_far hfar hh htake hfault hres

/-! ## Atomics and gathers -/

theorem tileDo_value (s : State) (c o : Nat) (acc : Acc1) (p : Nat) :
    (tileDo s c o acc p).2 = Mem.rdN (getCore s c).tile.mem o acc.size := by
  simp only [tileDo]
  split <;> rfl

/-- Settles O25. -/
theorem ownTileAtomics : Obligations.OwnTileAtomics := by
  intro s d sg base b b2 o
  simp only [Arm.amo, Arm.cas]
  refine ⟨fun op esz hseg hb h => run_goesOn h ?amo, fun hseg hb h old hold => run_goesOn h ?cas⟩
  case amo =>
    simp only [hseg]
    refine (rmwIssue_own (acc := ⟨.amo op, eszBytes esz, (rd s b).setWidth 512, 0⟩) hb).trans ?_
    rw [tileDo_value]
    rfl
  case cas =>
    simp only [hseg]
    refine (rmwIssue_own (acc := ⟨.cas, 8, (rd s b2).setWidth 512, rd s b⟩) hb).trans ?_
    rw [tileDo_value, show Mem.rdN (getCore s s.issue.core).tile.mem o 8 = old from hold]
    have hsmall : trunc 8 (rd s b2).toNat = (rd s b2).toNat := Nat.mod_eq_of_lt (rd s b2).isLt
    simp only [tileDo, tileLoad, show Mem.rdN (getCore s s.issue.core).tile.mem o 8 = old from hold, newBytes,
      toNat_setWidth_512, hsmall]
    by_cases heq : old = (rd s b).toNat <;> simp only [heq, if_true, if_false]

/-- A read-modify-write that leaves the core and whose translation is at hand. -/
theorem rmwIssue_far {s s' : State} {i : Instr} {loc : Loc} {acc : Acc1} {dst : Dst} {ps : List Piece}
    {fin : State → Nat → State × Flow} (hl : loc.isOwn s.issue.core = false) (hh : inHandler s = false)
    (hp : plan (dropRow s s.issue.core loc acc.size) s.issue.core s.issue.slot [⟨0, loc, acc, none⟩] = (s', ps, none)) :
    rmwIssue s i loc acc dst fin = (sentOff i s' dst acc.size false ps, .next) := by
  simp only [rmwIssue, hl, hh, Bool.false_eq_true, if_false]
  exact sendOff_next ((inHandler_of (dropRow_issue _ _ _ _)).trans hh) (by rw [dropRow_issue]; exact hp)

/-- Settles O28. -/
theorem farAtomicsAndGathers : Obligations.FarAtomicsAndGathers := by
  intro s s' d sg base b b2 loc ps
  dsimp only
  intro hl hh
  simp only [Arm.amo, Arm.cas, Arm.vldg]
  refine ⟨fun op esz hseg hp h => run_goesOn h ?amo, fun hseg hp h => run_goesOn h ?cas,
    fun v vi esz hp hh' hi h => run_goesOn h ?vldg⟩
  case amo | cas =>
    simp only [hseg]
    exact rmwIssue_far hl hh hp
  case vldg => exact sendOff_next hh' (by rw [hi]; exact hp)

end Sys2Proof.Machine
end

section
/-! PROOFS. Full/empty words, fences, prefetch, own-tile tables and the index words (08 R201-R215; 05 R118-R120): O29,
O31, O32, O33, O34. -/

namespace Sys2Proof.Machine

/-! ## Full/empty words -/

theorem isOwn_tile (c o : Nat) : (Loc.tile c o).isOwn c = true := by simp [Loc.isOwn]

/-- The scopes whose acquires find the queued snoops applied. -/
theorem wide_iff (sc : Scope) : (sc == .sys || sc == .dom) = true ↔ sc = .sys ∨ sc = .dom := by simp

/-- A full/empty load on the own tile whose condition holds. -/
theorem feLoad_own {s u : State} {i : Instr} {r : Reg} {sg : Fin 8} {off o v : Nat} {sc : Scope} {op : AccOp}
    (hseg : feLoc s.issue.core (myCore s) sg off [rightR] = .ok (.tile s.issue.core o))
    (hb : rangeBusy s.issue.core (myCore s) o 8 = false) (he : expired s = false)
    (hfe : feLocal s s.issue.core s.issue.slot (o / 8) ⟨op, 8, 0, 0⟩ = some (u, v)) :
    feLoad s i r sg off sc op =
      (wrP (wr (if sc = .sys ∨ sc = .dom then snoopAll u else u) r (BitVec.ofNat 64 v)) 7 true, .next) := by
  simp only [feLoad, hseg, isOwn_tile, if_true, Loc.tileOff, hb, he, hfe, Bool.false_eq_true, if_false, wide_iff]

/-- Settles O29. -/
theorem fullEmptyOwn : Obligations.FullEmptyOwn := by
  intro s u r sg base sc imm o v
  dsimp only
  intro hb he
  simp only [Arm.ldf, Arm.ldfe, Arm.stfw]
  refine ⟨fun hseg hfe h => run_goesOn h (feLoad_own hseg hb he hfe),
    fun hseg hfe h => run_goesOn h (feLoad_own hseg hb he hfe), fun hseg hf hd hfe h => run_goesOn h ?stfw⟩
  case stfw =>
    simp only [hseg, isOwn_tile, if_true, releaseIssue_quiet hf hd, Loc.tileOff, hb, he, hfe, Bool.false_eq_true,
      if_false]

/-- A waiting full/empty operation that leaves the core; under a limit of 0 its withdrawal follows. -/
theorem feSend_limited {s s' : State} {i : Instr} {loc : Loc} {acc : Acc1} {r : Option Reg} {acq : Bool}
    {ps : List Piece} (hh : inHandler s = false) (htake : canTake s .feSlot = true)
    (hp : plan (startTimer (modQ s s.issue.core fun q => { q with feSlot := some s.issue.slot })) s.issue.core
      s.issue.slot [⟨0, loc, acc, none⟩] = (s', ps, none)) :
    feSend s i loc acc r acq =
      (let t := sentOff i s' (.fe r) 8 acq ps
       if noLimit s = true then withdrawFe t s.issue.core s.issue.slot s.net.next else t, .next) := by
  let u := startTimer (modQ s s.issue.core fun q => { q with feSlot := some s.issue.slot })
  have hsend : sendOff u i (.fe r) 8 acq [⟨0, loc, acc, none⟩] = (sentOff i s' (.fe r) 8 acq ps, .next) :=
    sendOff_next hh hp
  simp only [feSend, hh, htake, Bool.false_eq_true, if_false, Bool.not_true]
  rw [show sendOff (startTimer (modCore s s.issue.core fun k => { k with q := { k.q with feSlot := some s.issue.slot } })) i
    (.fe r) 8 acq [⟨0, loc, acc, none⟩] = _ from hsend]
  rfl

/-- A full/empty load off the own tile. -/
theorem feLoad_far {s s' : State} {i : Instr} {r : Reg} {sg : Fin 8} {off : Nat} {sc : Scope} {op : AccOp} {loc : Loc}
    {ps : List Piece} (hseg : feLoc s.issue.core (myCore s) sg off [rightR] = .ok loc)
    (hl : loc.isOwn s.issue.core = false) (hh : inHandler s = false) (htake : canTake s .feSlot = true)
    (hp : plan (startTimer (modQ s s.issue.core fun q => { q with feSlot := some s.issue.slot })) s.issue.core
      s.issue.slot [⟨0, loc, ⟨op, 8, 0, 0⟩, none⟩] = (s', ps, none)) :
    feLoad s i r sg off sc op =
      (let t := sentOff i s' (.fe (some r)) 8 (sc == .sys || sc == .dom) ps
       if noLimit s = true then withdrawFe t s.issue.core s.issue.slot s.net.next else t, .next) := by
  simp only [feLoad, hseg, hl, Bool.false_eq_true, if_false]
  exact feSend_limited hh htake hp

/-- A full/empty store on the own tile with nothing outstanding. -/
theorem feStore_own {s u : State} {i : Instr} {sg : Fin 8} {off o v : Nat} {sc : Scope} {acc : Acc1} {ch : Bool}
    (hseg : feLoc s.issue.core (myCore s) sg off [rightW] = .ok (.tile s.issue.core o))
    (hb : rangeBusy s.issue.core (myCore s) o 8 = false) (hf : failureNow s sc = none)
    (hd : drained s s.issue.core s.issue.slot sc = true)
    (hfe : fePerform s s.issue.core (o / 8) acc s.issue.core = (u, v, ch)) :
    feStore s i sg off sc acc = (feAfter u s.issue.core (o / 8) ch, .next) := by
  simp only [feStore, hseg, isOwn_tile, if_true, releaseIssue_quiet hf hd, Loc.tileOff, hb, hfe, Bool.false_eq_true,
    if_false]

/-- A releasing store of one part off the own tile, with nothing outstanding. -/
theorem releaseStore_far {s s' : State} {i : Instr} {sc : Scope} {loc : Loc} {acc : Acc1}
    (hf : failureNow s sc = none) (hd : drained s s.issue.core s.issue.slot sc = true)
    (hl : loc.isOwn s.issue.core = false) (hh : inHandler s = false)
    (htake : canTake s (.storeBuffer (partUnits [(loc, acc)])) = true)
    (hfault : storeFault s s.issue.core s.issue.slot [(loc, acc)] = none)
    (hres : sbResolve (sbEnter s (issuer s i) [(loc, acc)]).2 s.issue.core s.issue.slot
      (sbGroup (getCore (sbEnter s (issuer s i) [(loc, acc)]).2 s.issue.core) s.net.next) = (s', none)) :
    releaseStore s i sc loc acc = (s', .next) := by
  rw [releaseStore_quiet (by rw [hh, Bool.and_false]) hf hd]
  exact storeIssue_far (by simp only [List.all_cons, hl, Bool.false_and]) hh htake hfault hres

/-- Settles O32. -/
theorem fullEmptyStores : Obligations.FullEmptyStores := by
  intro s s' r sg base sc imm loc o ps
  dsimp only
  simp only [Arm.stf, Arm.fest, Arm.ldf, Arm.ldfe, Arm.stfw, Arm.stRel, Arm.st4]
  refine ⟨fun hseg hb hq h u v ch hfe => run_goesOn h (feStore_own hseg hb hq.1 hq.2 hfe),
    fun full hseg hb hq h u v ch hfe => run_goesOn h (feStore_own hseg hb hq.1 hq.2 hfe),
    fun hseg hq hin h => run_goesOn h ?stf, fun full hseg hq hin h => run_goesOn h ?fest,
    fun hseg hask h => run_goesOn h ?ldf, fun hseg hask h => run_goesOn h ?ldfe,
    fun hseg hq hask h => run_goesOn h ?stfw, fun sz i4 hseg hq hin h => run_goesOn h ?stRel,
    fun hi hseg hin h => run_goesOn h ?st4⟩
  case stf | fest =>
    obtain ⟨hl, hh, htake, hfault, hres⟩ := hin
    simp only [feStore, hseg, hl, Bool.false_eq_true, if_false]
    exact releaseStore_far hq.1 hq.2 hl hh htake hfault hres
  case ldf | ldfe =>
    obtain ⟨hl, hh, htake, hp⟩ := hask
    exact feLoad_far hseg hl hh htake hp
  case stfw =>
    obtain ⟨hl, hh, htake, hp⟩ := hask
    simp only [hseg, hl, hh, Bool.false_eq_true, if_false, releaseIssue_quiet hq.1 hq.2]
    exact feSend_limited hh htake hp
  case stRel =>
    obtain ⟨hl, hh, htake, hfault, hres⟩ := hin
    simp only [hseg]
    exact releaseStore_far hq.1 hq.2 hl hh htake hfault hres
  case st4 =>
    obtain ⟨hl, hh, htake, hfault, hres⟩ := hin
    simp only [hseg]
    exact storeIssue_far (by simp only [List.all_cons, hl, Bool.false_and]) hh htake hfault hres

/-! ## Tables of the own tile -/

/-- No access through a segment of KIND 2 or 3, or of LIMIT 0, comes to a tile. -/
theorem segAcc_ne_tile {c : Nat} {k : Core} {sg : Fin 8} (hseg : 2 ≤ segKind k.segs[sg] ∨ segLimit k.segs[sg] = 0)
    {off n align : Nat} {rights : List Nat} (hn : 0 < n) (d p : Nat) :
    segAcc c k sg off n align rights ≠ .ok (.tile d p) := by
  intro h
  unfold segAcc segCheck at h
  split at h
  · cases h
  · dsimp only at h
    split at h
    · cases h
    · split at h
      · cases h
      · case isFalse hlimit =>
        have hkind : 2 ≤ segKind k.segs[sg] := hseg.resolve_right (by omega)
        split at h
        · omega
        · omega
        · cases h
        · cases h

/-- A table of the own tile that no command's range covers is loaded at once. -/
theorem tableLoad_own {s : State} {i : Instr} {sg : Fin 8} {off n align o : Nat} {dst : Dst}
    {fin : State → Loc → Nat → State × Flow}
    (hseg : segAcc s.issue.core (myCore s) sg off n align [rightR] = .ok (.tile s.issue.core o))
    (hb : rangeBusy s.issue.core (myCore s) o n = false) :
    tableLoad s i sg off n align dst fin = fin s (.tile s.issue.core o) (Mem.rdN (myCore s).tile.mem o n) := by
  simp only [tableLoad, hseg, isOwn_tile, Bool.not_true]
  exact loadIssue_own hb

/-- Settles O31. -/
theorem ownTileBlocks : Obligations.OwnTileBlocks := by
  intro s r sg base o
  dsimp only
  refine ⟨fun hsegs off n align rights d p hn => segAcc_ne_tile (hsegs sg) hn d p, ?_⟩
  simp only [Arm.dtld, Arm.tbld]
  refine ⟨fun imm hseg hb h => run_goesOn h (tableLoad_own hseg hb), fun imm k ok hseg hb hload h => run_goesOn h ?_⟩
  have hload' : loadSlot (myCore s) (bf (rd s r) 0 4) (Mem.rdN (myCore s).tile.mem o 32) (.tile s.issue.core o)
      = some (k, ok) := by rw [bf_low]; exact hload
  refine (tableLoad_own hseg hb).trans ?_
  simp only [hload']

/-! ## Fences and prefetches -/

/-- A core with other row-cache fills, prefetch queue or counters holds the same tile and fibres. -/
def SameHold (s t : State) : Prop :=
  t.mem = s.mem ∧ ∀ c, (getCore t c).tile = (getCore s c).tile ∧ (getCore t c).fibres = (getCore s c).fibres

theorem SameHold.refl (s : State) : SameHold s s := ⟨rfl, fun _ => ⟨rfl, rfl⟩⟩

theorem SameHold.trans {s t u : State} (h : SameHold s t) (k : SameHold t u) : SameHold s u :=
  ⟨k.1.trans h.1, fun c => ⟨(k.2 c).1.trans (h.2 c).1, (k.2 c).2.trans (h.2 c).2⟩⟩

theorem SameHold.startWalk {s t : State} (h : SameHold s t) (who : Issuer) (va : Nat) (wants : WalkFor) (acc : Acc1)
    (tagged : Option Nat) (more : List Nat) : SameHold s (startWalk t who va wants acc tagged more) := ⟨h.1, h.2⟩

theorem sameHold_modCore (s : State) (c : Nat) (f : Core → Core) (ht : ∀ k, (f k).tile = k.tile)
    (hf : ∀ k, (f k).fibres = k.fibres) : SameHold s (modCore s c f) := by
  refine ⟨rfl, fun d => ?_⟩
  by_cases hd : d = c
  · subst hd
    rw [getCore_modCore_self]
    exact ⟨ht _, hf _⟩
  · rw [getCore_modCore_other _ _ _ _ hd]
    exact ⟨rfl, rfl⟩

theorem sameHold_dropPf (s : State) (c : Nat) : SameHold s (dropPf s c) := by
  unfold dropPf
  split
  · exact sameHold_modCore s c _ (fun _ => rfl) fun _ => rfl
  · exact .refl s

theorem sameHold_modPf (s : State) (c : Nat) (f : List Nat → List Nat) : SameHold s (modPf s c f) :=
  sameHold_modCore s c _ (fun _ => rfl) fun _ => rfl

/-- The request that a prefetch sends. -/
def pfReq (who : Issuer) (x : Xlate) (va : Nat) : Req :=
  { who := who, origin := .prefetch who.core (va / 32 * 32), place := .dram (leafPa x.leaf x.bits (va / 32 * 32)),
    acc := ⟨.load, 32, 0, 0⟩, va := va / 32 * 32, tag := none, rbit := false, stale := leafStale x.leaf,
    deferred := false, answer := none, bits := x.bits }

/-- The read of a prefetch, which no fibre waits for, enters the net. -/
theorem sameHold_sendPf (s : State) (who : Issuer) (x : Xlate) (va : Nat) : SameHold s (sendPf s who x va) := by
  have hwrite : fibreWrite (pfReq who x va) = false := by simp [fibreWrite, pfReq]
  have hread : fibreRead s (pfReq who x va) = false := by simp [fibreRead, pfReq]
  show SameHold s (addReq s (pfReq who x va))
  simp only [addReq, hwrite, hread, Bool.false_eq_true, if_false]
  split
  · have h := sameHold_modCore s who.core (fun k => { k with caches := { k.caches with
      missed := addTo k.caches.missed (freshId s).1 } }) (fun _ => rfl) fun _ => rfl
    exact ⟨h.1, h.2⟩
  · exact .refl s

theorem sameHold_prefetch (s : State) (i : Instr) (sg : Fin 8) (off : Nat) : SameHold s (prefetch s i sg off) := by
  unfold prefetch
  dsimp only
  split
  · split
    · exact sameHold_dropPf _ _
    · split
      · split
        · refine .trans (.trans ?_ (sameHold_modPf _ _ _)) (sameHold_sendPf _ _ _ _)
          exact sameHold_modCore s _ _ (fun _ => rfl) fun _ => rfl
        · exact sameHold_dropPf _ _
      · case h_2 =>
        exact (sameHold_modPf s s.issue.core _).startWalk _ _ _ _ _ _
  · exact sameHold_dropPf _ _

/-- Settles O33. -/
theorem fenceAndPrefetch : Obligations.FenceAndPrefetch := by
  intro s sc
  dsimp only
  simp only [Arm.fence, Arm.pf]
  refine ⟨fun h hf hd => run_goesOn h (releaseIssue_quiet hf hd), fun h hd hh => run_goesOn h ?parks,
    fun x h hd hx => run_stops h ?raises, fun sg base sz imm h => ?pf⟩
  case parks =>
    simp only [releaseIssue, waitIssue, hd, Bool.false_eq_true, if_false]
    exact parkOn_next hh
  case raises =>
    simp only [releaseIssue, waitIssue_quiet hd, hx]
    rfl
  case pf =>
    obtain ⟨hmem, hcores⟩ := sameHold_prefetch s (.pf sg base sz imm) sg (offOf s base 7 imm.toNat (szBytes sz))
    refine ⟨_, run_goesOn h rfl, fun a => ?_, fun c => (hcores c).1, fun d sl => ?_⟩
    · rw [hmem]
      exact ⟨rfl, rfl⟩
    · rw [getFib, (hcores d).2]
      rfl

/-! ## Index words -/

section
variable {s u v s' : State} {d a b : Reg} {p q : Piece} {ps : List Piece}

/-- madv once its two reads are formed: with the bytes at hand its registers are written, else the fibre parks. -/
theorem execMadv_read {peq plt : PReg} {esz : Esz} {la lb : Loc}
    (ha : segAcc s.issue.core (myCore s) 0 (rd s a).toNat (eszBytes esz) (eszBytes esz) [rightR] = .ok la)
    (hb : segAcc s.issue.core (myCore s) 0 (rd s b).toNat (eszBytes esz) (eszBytes esz) [rightR] = .ok lb)
    (hu : readPiece s s.issue.core s.issue.slot la (eszBytes esz) 0 = (u, p))
    (hv : readPiece u s.issue.core s.issue.slot lb (eszBytes esz) 8 = (v, q))
    (hbusy : piecesBusy s s.issue.core [p, q] = none) (hi : v.issue = s.issue)
    (h : Passes (.madv d a b peq plt esz) s) :
    (allVal [p, q] = true → execMadv d a b peq plt esz s = .next (goesOn (.madv d a b peq plt esz)
      (modMe v fun f => madvApply f d a b peq plt (eszBytes esz) (Mem.rdN (pieceBytes [p, q]) 0 (eszBytes esz))
        (Mem.rdN (pieceBytes [p, q]) 8 (eszBytes esz)) (rd s a) (rd s b)))) ∧
    (allVal [p, q] = false → inHandler s = false → plan v s.issue.core s.issue.slot [p, q] = (s', ps, none) →
      execMadv d a b peq plt esz s = .next (goesOn (.madv d a b peq plt esz)
        (sentOff (.madv d a b peq plt esz) s' (.madv d a b peq plt (eszBytes esz)) 16 false ps))) := by
  refine ⟨fun hall => run_goesOn h ?_, fun hall hh hp => run_goesOn h ?_⟩
  · simp only [ha, hb, hu, hv, hbusy, hall, if_true]
  · simp only [ha, hb, hu, hv, hbusy, hall, Bool.false_eq_true, if_false]
    exact sendOff_next ((inHandler_of hi).trans hh) (by rw [hi]; exact hp)

/-- brank once its block's read is formed. -/
theorem execBrank_read {pd : PReg} {loc : Loc}
    (hseg : segAcc s.issue.core (myCore s) 0 ((rd s a).toNat / 64 * 64) 64 64 [rightR] = .ok loc)
    (hu : readPiece s s.issue.core s.issue.slot loc 64 0 = (u, p)) (hbusy : piecesBusy s s.issue.core [p] = none)
    (hi : u.issue = s.issue) (h : Passes (.brank d a b pd) s) :
    (allVal [p] = true → execBrank d a b pd s = .next (goesOn (.brank d a b pd)
      (modMe u fun f => brankApply f d pd ((rd s b).toNat % 2 ^ 9) (Mem.rdN (pieceBytes [p]) 0 64)))) ∧
    (allVal [p] = false → inHandler s = false → plan u s.issue.core s.issue.slot [p] = (s', ps, none) →
      execBrank d a b pd s = .next (goesOn (.brank d a b pd)
        (sentOff (.brank d a b pd) s' (.brank d pd ((rd s b).toNat % 2 ^ 9)) 64 false ps))) := by
  refine ⟨fun hall => run_goesOn h ?_, fun hall hh hp => run_goesOn h ?_⟩
  · simp only [hseg, hu, hbusy, hall, if_true, bf_low]
  · simp only [hseg, hu, hbusy, hall, Bool.false_eq_true, if_false, bf_low]
    exact sendOff_next ((inHandler_of hi).trans hh) (by rw [hi]; exact hp)

/-- The rest of fwalk on a record that gives the range itself. -/
theorem fwalkFrom_range {i : Instr} {rec roff lo hi : Nat} {x : W64} (hstep : levelStep rec x.toNat = .range lo hi) :
    fwalkFrom u i d rec roff x = (modMe u fun f => fwalkApply f d (lo, hi), .next) := by
  simp only [fwalkFrom, hstep]

/-- The rest of fwalk on a record that names reads. -/
theorem fwalkFrom_reads {i : Instr} {rec roff kind p0 p1 : Nat} {x : W64} {sg : Fin 8} {offs : List Nat}
    {qs : List Piece} (hi : u.issue = s.issue) (hstep : levelStep rec x.toNat = .reads sg kind p0 p1 offs)
    (hqs : levelPieces u s.issue.core s.issue.slot sg offs = (v, qs))
    (herr : (if inHandler u = true then handlerError s.issue.core qs else headError qs) = none)
    (hbusy : piecesBusy u s.issue.core qs = none) (hv : v.issue = s.issue) :
    (allVal qs = true → fwalkFrom u i d rec roff x =
      (modMe v fun f => fwalkApply f d (levelRange (pieceBytes qs) kind p0 p1), .next)) ∧
    (allVal qs = false → inHandler s = false → plan v s.issue.core s.issue.slot qs = (s', ps, none) →
      fwalkFrom u i d rec roff x = (sentOff i s' (.fwalk d kind p0 p1) (8 * offs.length) false ps, .next)) := by
  have hform : fwalkFrom u i d rec roff x =
      if allVal qs = true then (modMe v fun f => fwalkApply f d (levelRange (pieceBytes qs) kind p0 p1), .next)
      else sendOff v i (.fwalk d kind p0 p1) (8 * offs.length) false qs := by
    simp only [fwalkFrom, hstep, hi, hqs, herr, hbusy]
  refine ⟨fun hall => ?_, fun hall hh hp => ?_⟩
  · rw [hform, if_pos hall]
  · rw [hform, if_neg (by rw [hall]; nofun)]
    exact sendOff_next ((inHandler_of hv).trans hh) (by rw [hv]; exact hp)

/-- fwalk once its record's read is formed: with the record at hand it goes on from it. -/
theorem execFwalk_record {loc : Loc} {rec : W512} {t : State}
    (hseg : segAcc s.issue.core (myCore s) 0 (rd s a).toNat 32 32 [rightR] = .ok loc)
    (hu : readPiece s s.issue.core s.issue.slot loc 32 0 = (u, p)) (hbusy : piecesBusy s s.issue.core [p] = none)
    (hval : p.tgt = some (.val rec)) (h : Passes (.fwalk d a b) s)
    (hfrom : fwalkFrom u (.fwalk d a b) d rec.toNat (rd s a).toNat (rd s b) = (t, .next)) :
    execFwalk d a b s = .next (goesOn (.fwalk d a b) t) := by
  refine run_goesOn h ?_
  simp only [hseg, hu, hbusy, hval, hfrom]

/-- fwalk whose record has to be read from elsewhere. -/
theorem execFwalk_sent {loc : Loc} (hseg : segAcc s.issue.core (myCore s) 0 (rd s a).toNat 32 32 [rightR] = .ok loc)
    (hu : readPiece s s.issue.core s.issue.slot loc 32 0 = (u, p)) (hbusy : piecesBusy s s.issue.core [p] = none)
    (hi : u.issue = s.issue) (h : Passes (.fwalk d a b) s) (hval : ∀ v, p.tgt ≠ some (.val v))
    (hh : inHandler s = false) (hp : plan u s.issue.core s.issue.slot [p] = (s', ps, none)) :
    execFwalk d a b s = .next (goesOn (.fwalk d a b)
      (sentOff (.fwalk d a b) s' (.fwalkRec d (rd s a).toNat (rd s b)) 32 false ps)) := by
  refine run_goesOn h ?_
  simp only [hseg, hu, hbusy]
  exact sendOff_next ((inHandler_of hi).trans hh) (by rw [hi]; exact hp)

end

/-- Settles O34. -/
theorem indexWords : Obligations.IndexWords := by
  intro s u v s' d a b p q ps
  dsimp only
  simp only [Arm.madv, Arm.brank, Arm.fwalk]
  refine ⟨fun peq plt esz la lb => execMadv_read, fun pd loc => execBrank_read,
    fun loc rec hseg hu hbusy hi h => ⟨execFwalk_sent hseg hu hbusy hi h, fun hval => ⟨fun lo hi hstep => ?range,
      fun sg kind p0 p1 offs qs hstep hqs herr hbusy' hv => ⟨fun hall => ?all, fun hall hh hp => ?sent⟩⟩⟩⟩
  case range => exact execFwalk_record hseg hu hbusy hval h (fwalkFrom_range hstep)
  case all =>
    exact execFwalk_record hseg hu hbusy hval h
      ((fwalkFrom_reads (s' := s') (ps := ps) hi hstep hqs herr hbusy' hv).1 hall)
  case sent => exact execFwalk_record hseg hu hbusy hval h ((fwalkFrom_reads hi hstep hqs herr hbusy' hv).2 hall hh hp)

end Sys2Proof.Machine
end

section
/-! PROOFS. Access queues (11 R271-R274: O36), messages (11 R279-R282: O38), the command FIFO (12 R303: O39), tasks
(12 R305-R317: O40), segments, graph bindings and translations (13 R339-R343: O41). -/

namespace Sys2Proof.Machine

/-! ## Access queues -/

theorem dqLacks_of_room {s : State} {m : Nat} (h : dqRoom s m = true) : dqLacks s m = none :=
  Option.isNone_iff_eq_none.mp h

/-- The queue reads of places whose bytes or translations are at hand, none of them in a command's range. -/
theorem dqIssue_ready {s s' : State} {i : Instr} {locs : List Loc} {n : Nat} {x : Bool}
    (hc : dqChecks s s.issue.core s.issue.slot n (locs.map .ok) = (s', .ok []))
    (hb : ∀ l ∈ locs, (l.isOwn s.issue.core && rangeBusy s.issue.core (myCore s) l.tileOff n) = false) :
    dqIssue s i (locs.map .ok) n x =
      (dropHeld (locs.foldl (fun t l => dqSend t (issuer s' i) l n x) s') s.issue.core s.issue.slot, .next) := by
  simp only [dqIssue, hc]
  split
  case h_1 off hoff =>
    obtain ⟨l, hl, hbusy⟩ := List.exists_of_findSome?_eq_some hoff
    obtain ⟨loc, hloc, rfl⟩ := List.mem_map.mp hl
    have hfree := hb loc hloc
    simp only [myCore] at hfree
    simp [hfree] at hbusy
  case h_2 => rw [List.foldl_map]

theorem listDwords_tile (s : State) (c sl o m : Nat) : listDwords s c sl (.tile c o) m
    = (s, (upto m).map fun j => Mem.rdN (getCore s c).tile.mem (o + 8 * j) 8) := by
  have hfold (js vs : List Nat) : js.foldl (fun x j =>
      let (t, v) := listDword x.1 c sl ((Loc.tile c o).plus (8 * j))
      (t, x.2 ++ [v])) (s, vs) = (s, vs ++ js.map fun j => Mem.rdN (getCore s c).tile.mem (o + 8 * j) 8) := by
    induction js generalizing vs with
    | nil => simp
    | cons j js ih =>
      rw [List.foldl_cons, List.map_cons, List.append_cons]
      exact ih _
  exact hfold (upto m) []

/-- An entry of the pool that has been answered. -/
def ReadyIn (k : Core) (e : Nat) : Prop := ∃ v x, nget k.q.pool e = some x ∧ x.st = .ready v

/-- dq.pop of n entries whose heads are all READY. -/
theorem execDqPop_ready {s : State} {d : Reg} {two : Bool} (hlen : (if two then 2 else 1) ≤ (me s).sch.dq.length)
    (hready : ∀ e ∈ (me s).sch.dq.take (if two then 2 else 1), ReadyIn (myCore s) e) (h : Passes (.dqPop d two) s) :
    execDqPop d two s = .next (goesOn (.dqPop d two)
      (let t := wr (dqFree s s.issue.core s.issue.slot (if two then 2 else 1)) d
        (dqOut (myCore s) ((me s).sch.dq.getD 0 0))
       if two then wr t (succReg d) (dqOut (myCore s) ((me s).sch.dq.getD 1 0)) else t)) := by
  have hst : ∀ st ∈ dqHead (myCore s) (me s).sch.dq (if two then 2 else 1), ∃ v, st = .ready v := by
    intro st hmem
    obtain ⟨e, he, rfl⟩ := List.mem_map.mp hmem
    obtain ⟨v, x, hx, hv⟩ := hready e he
    exact ⟨v, by simp only [hx, hv]⟩
  have hwait : (dqHead (myCore s) (me s).sch.dq (if two then 2 else 1)).any isWaiting = false := by
    rw [List.any_eq_false]
    intro st hmem
    obtain ⟨v, rfl⟩ := hst st hmem
    nofun
  refine run_goesOn h ?_
  simp only [hwait, Nat.not_lt.mpr hlen, if_false, Bool.false_eq_true]
  split
  case h_1 code ak addr hsome =>
    obtain ⟨st, hmem, herr⟩ := List.exists_of_findSome?_eq_some hsome
    obtain ⟨v, rfl⟩ := hst st hmem
    cases herr
  case h_2 => rfl

/-- Settles O36. -/
theorem accessQueues : Obligations.AccessQueues := by
  intro s s' d sg base sz x imm
  dsimp only
  simp only [Arm.aqPush, Arm.aqList, Arm.dqPop]
  refine ⟨fun loc halign hroom hseg hc hb h => run_goesOn h ?push, fun m o => listDwords_tile s _ _ o m,
    fun list u vs locs hlist hbusy hroom hwait hvs hi hoff hsegs hc hb h => run_goesOn h ?list,
    fun e es hdq hready h => ?one, fun e e' es hdq hready hready' h => ?two,
    fun hdq two h => run_stops h ?empty⟩
  case push =>
    have halign' : (offOf s base 7 imm.toNat (szBytes sz) % szBytes sz != 0) = false := by rw [halign]; rfl
    simp only [halign', Bool.false_eq_true, if_false, dqLacks_of_room hroom, hseg]
    refine dqIssue_ready (locs := [loc]) hc fun l hl => ?_
    rw [List.mem_singleton.mp hl]
    exact hb
  case list =>
    have hreads : ((vs.map fun v => (offOf u base 7 imm.toNat (szBytes sz) + v * szBytes sz) % 2 ^ 64).map fun off =>
        segAcc s.issue.core (myCore u) sg off (szBytes sz) (szBytes sz) [rightR]) = locs.map .ok := by
      rw [List.map_map, hoff]
      exact hsegs
    have hm : bf (rd s d) 16 4 = (rd s d).toNat / 2 ^ 16 % 16 := rfl
    simp only [bf_low, hm, hlist, hbusy, Bool.false_eq_true, if_false, dqLacks_of_room hroom, hwait, List.isEmpty_nil,
      Bool.not_true, hvs, hreads]
    have hready := dqIssue_ready (s := u) (i := .aqList d sg base sz x imm) (x := x) (by rw [hi]; exact hc)
      (by rw [hi]; exact hb)
    rwa [hi] at hready
  case one =>
    have hpop := execDqPop_ready (d := d) (two := false) (by simp [hdq]) (by simpa [hdq, ReadyIn] using hready) h
    rw [hpop, hdq]
    rfl
  case two =>
    have hpop := execDqPop_ready (d := d) (two := true) (by simp [hdq])
      (by simpa [hdq, ReadyIn] using And.intro hready hready') h
    rw [hpop, hdq]
    rfl
  case empty =>
    have hshort : ([] : List Nat).length < (if two then 2 else 1) := by cases two <;> decide
    simp only [hdq, hshort, if_true]
    rfl

/-! ## Messages -/

/-- A sender that may name its target. -/
theorem mayAsk_guard {s : State} {t tid : Nat} (h : hasCrew s t tid = true ∨ (me s).ctl.priv = true) :
    (!hasCrew s t tid && !(me s).ctl.priv) = false := by
  rcases h with h | h <;> simp [h]

theorem migrAsk_issue {s u : State} {who : Issuer} {d : Reg} {dest id : Nat} (h : migrAsk s who d dest = (u, some id)) :
    u.issue = s.issue := by
  simp only [migrAsk] at h
  split at h
  · split at h
    · cases h
    · cases h; rfl
  · cases h

/-- Settles O38. -/
theorem messages : Obligations.Messages := by
  intro s d a b n
  dsimp only
  simp only [Arm.send, Arm.sendQ, Arm.sendR, Arm.hret, Arm.wake, Arm.migr]
  refine ⟨fun h hh hall htake => run_goesOn h ?send, fun h hh hall hroom htake => run_goesOn h ?sendQ,
    fun x e t' hx he ht hh hr h => run_goesOn h ?sendR, fun h hh => run_goesOn h ?hret,
    fun h hh => run_stops h ?notHandler, fun skip h hh => run_goesOn h ?wake, fun h hno => run_goesOn h ?away,
    fun h hk hcrew ht => run_goesOn h ?here, fun u id h hk hcrew ht hpriv hleave hh hask => run_goesOn h ?migr⟩
  case send =>
    simp only [sendIssue, bf_low, mayAsk_guard hall, htake, Bool.not_true, Bool.false_eq_true, if_false]
    exact parkOn_next hh
  case sendQ =>
    simp only [sendIssue, bf_low, mayAsk_guard hall, htake, Bool.not_true, Bool.false_eq_true, if_false, if_true,
      dqLacks_of_room hroom]
    have hpool : (getCore (modQ s s.issue.core fun q => { q with sendSlot := some s.issue.slot }) s.issue.core).q.pool
        = (myCore s).q.pool := by rw [modQ, getCore_modCore_self]; rfl
    rw [hpool]
    exact parkOn_next hh
  case sendR =>
    simp only [hx, he, ht, hh, hr, Bool.not_true, Bool.or_self, Bool.false_eq_true, if_false]
    rfl
  case hret => simp only [hh, Bool.not_true, Bool.false_eq_true, if_false]
  case notHandler =>
    simp only [hh, Bool.not_false, if_true]
    rfl
  case wake =>
    simp only [bf_low]
    exact parkOn_next hh
  case away =>
    have hguard : (kindOf s.issue.core != .lookup || !hasCrew s ((rd s a).toNat % 2 ^ 12) (tidOf (myCore s))) = true := by
      rw [Bool.or_eq_true, bne_iff_ne, Bool.not_eq_true']
      exact hno
    simp only [bf_low, hguard, if_true]
  case here =>
    have hself : ((rd s a).toNat % 2 ^ 12 == s.issue.core) = true := beq_iff_eq.mpr ht
    simp only [bf_low, hk, hcrew, hself, bne_self_eq_false, Bool.not_true, Bool.or_self, Bool.false_eq_true, if_false,
      if_true]
  case migr =>
    have hother : ((rd s a).toNat % 2 ^ 12 == s.issue.core) = false := beq_eq_false_iff_ne.mpr ht
    simp only [bf_low, hk, hcrew, hother, hpriv, hleave, hask, bne_self_eq_false, Bool.not_true, Bool.or_self,
      Bool.false_eq_true, if_false]
    have hi := migrAsk_issue hask
    rw [parkOn_next ((inHandler_of hi).trans hh), hi]

/-! ## The command FIFO -/

/-- Settles O39. -/
theorem engineWords : Obligations.EngineWords := by
  intro s d n3 n2
  dsimp only
  simp only [Arm.rqPush, Arm.rqTry]
  refine ⟨fun e hw hc ht he h => run_goesOn h ?_, fun e hw hc ht he h => run_goesOn h ?_,
    fun hw hc ht h => run_goesOn h ?_, fun t hw hc h => run_goesOn h ?_, fun t hw hc h => run_goesOn h ?_,
    fun code hw hc h => run_stops h ?_⟩
  · simp only [hw, Bool.false_eq_true, if_false, hc, ht, he]
  · simp only [hw, Bool.false_eq_true, if_false, hc, ht, he]
  · simp only [hw, Bool.false_eq_true, if_false, hc, ht]
  · simp only [hw, if_true, hc]
  · simp only [hw, if_true, hc]
  · simp only [hw, Bool.false_eq_true, if_false, hc]
    rfl

/-! ## Tasks -/

/-- Settles O40. -/
theorem taskWords : Obligations.TaskWords := by
  intro s s' d a sg loc ps
  dsimp only
  simp only [Arm.tlaunch, Arm.trigger, Arm.twait]
  refine ⟨fun hseg hh hp h => run_goesOn h ?_, fun hd h => run_goesOn h ?_, fun ht h => run_goesOn h ?_,
    fun e t ht hst hx h => run_goesOn h ?_, fun e t ht hst hl hh h => run_stops h ?_,
    fun e t ht hst hl h => run_goesOn h ?_⟩
  · simp only [hseg]
    exact sendOff_next hh hp
  · exact (waitIssue_quiet hd).trans (by rw [bf_low])
  · simp only [bf_low, ht]
  · simp only [bf_low, ht, hst, hx, beq_self_eq_true, Bool.not_false, Bool.and_self, if_true]
  · simp only [bf_low, ht, beq_eq_false_iff_ne.mpr hst, Bool.false_and, Bool.false_eq_true, if_false, hl]
    exact parkHere_stop hh
  · have hlate : (t.st == .complete && !expired s) = false := by
      rcases hst with hst | hst <;> simp [hst]
    simp only [bf_low, ht, hlate, Bool.false_eq_true, if_false, hl, if_true]

/-! ## Segments and translations -/

theorem ptFills_issue (s : State) (kind va asid c : Nat) : (ptFills s kind va asid c).issue = s.issue := by
  unfold ptFills
  split <;> rfl

theorem ptDiscard_issue (s : State) (c : Nat) (sc : Scope) (kind va asid : Nat) :
    (ptDiscard s c sc kind va asid).1.issue = s.issue := by
  refine foldl_issue _ ?_ s.cores s
  intro u x
  split
  · exact ptFills_issue _ _ _ _ _
  · rfl

/-- A ptinv with nothing outstanding discards at its scope, and waits for the walks that it meets. -/
theorem execPtinv {s : State} {i : Instr} {sc : Scope} {kind va asid : Nat} {eff : State → State × Flow}
    (he : eff s = ptIssue s i sc kind va asid) (hd : drained s s.issue.core s.issue.slot sc = true) (h : Passes i s) :
    (∀ t, ptDiscard s s.issue.core sc kind va asid = (t, []) →
      run i s eff = .next (goesOn i t)) ∧
    (∀ t w ws, ptDiscard s s.issue.core sc kind va asid = (t, w :: ws) → inHandler s = false →
      run i s eff =
        .next (goesOn i (parkFib t s.issue.core s.issue.slot .reply (.walks (w :: ws))))) := by
  refine ⟨fun t ht => run_goesOn h ?_, fun t w ws ht hh => run_goesOn h ?_⟩
  · simp only [he, ptIssue, waitIssue_quiet hd, ht]
  · have hi : t.issue = s.issue := by
      have hdis := ptDiscard_issue s s.issue.core sc kind va asid
      rwa [ht] at hdis
    simp only [he, ptIssue, waitIssue_quiet hd, ht]
    rw [parkOn_next ((inHandler_of hi).trans hh), hi]

/-- Settles O41. -/
theorem segmentWords : Obligations.SegmentWords := by
  intro s a b k sc tag ctx
  dsimp only
  simp only [Arm.segld, Arm.gkbind, Arm.ptinvPage, Arm.ptinvAsid, Arm.ptinvAll]
  refine ⟨fun hf hp h => run_goesOn h ?_, fun hf h => run_stops h ?_, fun hf hpriv hw h => run_stops h ?_,
    fun o hbind hseg hb hh h => run_goesOn h ?_, fun hbind hh h => run_goesOn h ?_, fun hd h => ?_, fun hd h => ?_,
    fun hd h => ?_⟩
  · have hpriv : (!(me s).ctl.priv && !segWithin (pair128 s a) (myCore s).resSegs[k]) = false := by
      rw [pair128_eq]
      rcases hp with hp | hp <;> rw [hp]
      · rfl
      · exact Bool.and_false _
    rw [← pair128_eq] at hf
    simp only [hf, hpriv, Bool.false_eq_true, if_false, ← pair128_eq]
  · rw [← pair128_eq] at hf
    simp only [hf, if_true]
    rfl
  · rw [← pair128_eq] at hf hw
    simp only [hf, hpriv, hw, Bool.not_false, Bool.and_self, Bool.false_eq_true, if_false, if_true]
    rfl
  · have hbind' : bitAt (rd s a) 63 = false := hbind
    have hseg' : segAcc s.issue.core (myCore s) (Fin.ofNat 8 (bf (rd s b) 54 3)) (rd s a).toNat 512 64 [rightR]
        = .ok (.tile s.issue.core o) := hseg
    simp only [hbind', Bool.false_eq_true, if_false, hseg']
    exact loadIssue_park hb hh
  · have hbind' : bitAt (rd s a) 63 = true := hbind
    simp only [hbind', if_true]
    refine sendOff_next hh (plan_vals s _ _ _ fun p hp => ?_)
    rw [List.mem_singleton.mp hp]
    exact ⟨0, rfl⟩
  · exact execPtinv (by simp only [bf_low]) hd h
  · exact execPtinv (by simp only [bf_low]) hd h
  · exact execPtinv rfl hd h

end Sys2Proof.Machine
end

section
/-! PROOFS. Words of the matrix unit and of fusion (06 R137-R149: O43), decoded words (04 R69-R80: O54) and the state
after reset (O59). -/

namespace Sys2Proof.Machine

/-! ## The ring and the line -/

theorem ringStart_issue (s : State) (id : Nat) (r : RingOp) : (ringStart s id r).issue = s.issue := by
  refine foldl_issue _ ?_ r.cores s
  intro u c
  rfl

/-- The leader of a lock-step group starts its ring operation, or leaves it waiting, and parks with reason 7. -/
theorem ringIssue_leader {s : State} {i : Instr} {hops : Nat} {exch : Option (Nat × BitVec 32)}
    (hl : s.issue.follower = false) (hh : inHandler s = false) :
    let r : RingOp := ⟨lockGroup s s.issue.core s.issue.strand, s.issue.strand, hops, exch, false⟩
    let u := { s with net := { s.net with next := s.net.next + 1, rings := nput s.net.rings s.net.next r } }
    ringIssue s i hops exch = (parkFib (if ringFree u r then ringStart u s.net.next r else u) s.issue.core s.issue.slot
      .matrix (.ring s.net.next), .next) := by
  intro r u
  have hi : (if ringFree u r then ringStart u s.net.next r else u).issue = s.issue := by
    split
    · exact ringStart_issue u _ r
    · rfl
  have hpark := parkOn_next (i := i) (why := .matrix) (w := .ring s.net.next) ((inHandler_of hi).trans hh)
  rw [hi] at hpark
  simp only [ringIssue, hl, Bool.false_eq_true, if_false]
  exact hpark

/-- The other members park on the leader's operation. -/
theorem ringIssue_follower {s : State} {i : Instr} {hops : Nat} {exch : Option (Nat × BitVec 32)}
    (hl : s.issue.follower = true) (hh : inHandler s = false) :
    ringIssue s i hops exch =
      (parkFib s s.issue.core s.issue.slot .matrix (.ring (s.net.next - 1)), .next) := by
  simp only [ringIssue, hl, if_true]
  exact parkOn_next hh

/-- Settles O43. -/
theorem matrixWords : Obligations.MatrixWords := by
  intro s acc
  dsimp only
  simp only [Arm.mzero, Arm.mdrain, Arm.mma, Arm.mrot, Arm.mxch, Arm.fuse, Arm.unfuse, Arm.rejoin]
  refine ⟨fun hb h => run_goesOn h ?mzero, fun v f row hb h => run_goesOn h ?mdrain,
    fun va fa fb cnt hh h => run_goesOn h (parkOn_next hh), fun cnt hz h => run_goesOn h ?still,
    fun cnt hz hl hh h => run_goesOn h ?mrot, fun cnt hz hl hh h => run_goesOn h ?mrotFollower,
    fun e hl hh h => run_goesOn h (ringIssue_follower hl hh), fun e hl hh h => run_goesOn h ?mxch,
    fun size h => run_goesOn h rfl, fun h => run_goesOn h rfl, fun hst h => run_goesOn h ?alone,
    fun hlock hfuse hlim hh h => run_stops h ?raises, fun hlock hfuse hlim hout h => run_goesOn h ?ends,
    fun hlock hfuse hlim hx hline hh h => run_stops h ?wins⟩
  case mzero => simp only [hb, Bool.false_eq_true, if_false]
  case mdrain => simp only [hb, Bool.false_eq_true, if_false]
  case still => simp only [hz, if_true]
  case mrot =>
    simp only [if_neg hz]
    exact ringIssue_leader hl hh
  case mrotFollower =>
    simp only [if_neg hz]
    exact ringIssue_follower hl hh
  case mxch => exact ringIssue_leader hl hh
  case alone =>
    have hguard : ((strandAt (myCore s) s.issue.strand).lock || (strandAt (myCore s) s.issue.strand).fuse == 0) = true := by
      rcases hst with hst | hst <;> simp [hst]
    simp only [hguard, if_true]
  case raises =>
    simp only [hlock, beq_eq_false_iff_ne.mpr hfuse, hlim, Bool.or_self, Bool.false_and, Bool.false_eq_true, if_false]
    exact parkHere_stop hh
  case ends =>
    have hguard : (expired s || !lineHigh (modMyStrand s fun t => { t with line := true }) s.issue.core s.issue.strand
        (strandAt (myCore s) s.issue.strand).fuse) = true := by
      rw [Bool.or_eq_true, Bool.not_eq_true']
      exact hout
    simp only [hlock, beq_eq_false_iff_ne.mpr hfuse, hlim, hguard, Bool.or_self, Bool.and_self, Bool.false_eq_true,
      if_false, if_true]
    rfl
  case wins =>
    have hguard : (expired s || !lineHigh (modMyStrand s fun t => { t with line := true }) s.issue.core s.issue.strand
        (strandAt (myCore s) s.issue.strand).fuse) = false := by
      rw [Bool.or_eq_false_iff, Bool.not_eq_false']
      exact ⟨hx, hline⟩
    simp only [hlock, beq_eq_false_iff_ne.mpr hfuse, hguard, Bool.or_self, Bool.and_false, Bool.false_eq_true, if_false]
    exact parkHere_stop hh

/-! ## Decoded words and reset -/

/-- Settles O54: each word, written out bit by bit, is decoded. -/
theorem decodeWords : Obligations.DecodeWords := by
  unfold Obligations.DecodeWords
  decide

/-- Settles O59. -/
theorem resetState : Obligations.ResetState := by
  refine ⟨⟨rfl, rfl, fun _ hx => absurd hx List.not_mem_nil⟩, fun a => ⟨rfl, rfl⟩, fun c => ?_, rfl, rfl, rfl, rfl,
    rfl, rfl, by decide +kernel⟩
  exact ⟨rfl, rfl, rfl, rfl, rfl, rfl, rfl, rfl, rfl, rfl⟩

end Sys2Proof.Machine
end

section
/-! PROOFS. Tasks (12 R307-R313: O51), packets of the fabric (16 R397-R402: O53), and what the control node asks
(14 R367; 15 R381, R382; 16 R394-R410: O52). -/

namespace Sys2Proof.Machine

/-! ## Tasks -/

/-- Settles O51: each event's guards choose the one branch of its definition. -/
theorem taskEvents : Obligations.TaskEvents := by
  unfold Obligations.TaskEvents
  intro s a t plan energy
  simp only [Arm.dispatch, Arm.preempt, Arm.taskComplete, Arm.fqgetWrite]
  refine ⟨fun vs cs hf ht hs hh hd ha hm hr => ?_, fun hk ht hz => ⟨fun hh hv => ?_, fun hh hd => ?_⟩,
    fun hk hd => ?_, fun die v hd => ?_⟩
  · simp only [execDispatch, hf, ht, hs, hh, hd, ha, hm, hr, bne_self_eq_false, Bool.not_true, Bool.or_self,
      Bool.false_eq_true, if_false, if_true]
  · simp only [execPreempt, hk, ht, hz, hh, hv, bne_self_eq_false, Bool.or_true, Bool.false_eq_true, if_false, if_true]
  · simp only [execPreempt, hk, ht, hz, hh, hd, bne_self_eq_false, Bool.false_eq_true, if_false, if_true]
  · simp only [execTaskComplete, hk, hd, if_true]
  · simp only [execFqgetWrite, hd, if_true]

/-! ## The fabric -/

/-- The marks of an answer leave the outstanding requests. -/
theorem answerMarks_reqs (s : State) (id : Nat) (r : Req) (a : Answer) :
    (answerMarks s id r a).net.reqs = s.net.reqs := by
  unfold answerMarks
  dsimp only
  split <;> split <;> rfl

/-- A request that is answered is outstanding with that answer. -/
theorem getReq_answerReq {s : State} {id : Nat} {r : Req} (a : Answer) (h : getReq s id = some r) :
    getReq (answerReq s id a) id = some { r with answer := some a, deferred := false } := by
  have hm : nget (answerMarks s id r a).net.reqs id = some r := by rw [answerMarks_reqs]; exact h
  unfold answerReq
  rw [h]
  show nget (nmod (answerMarks s id r a).net.reqs id _) id = _
  rw [nmod_of_some _ hm, nget_nput_self]

theorem rowPacket_cases (s : State) (p : RowPkt) :
    (portShut s p.port = true → execRowPacket p s = .next s) ∧
    (portShut s p.port = false →
      ((rowMalformed s p || foreign p.port p.src) = false → execRowPacket p s = .next (serveRow s p)) ∧
      ((rowMalformed s p || foreign p.port p.src) = true → execRowPacket p s = .next (fencePort s p.port))) := by
  refine ⟨fun h => ?_, fun h => ⟨fun g => ?_, fun g => ?_⟩⟩
  · simp only [execRowPacket, h, if_true]
  · simp only [execRowPacket, h, g, Bool.false_eq_true, if_false]
  · simp only [execRowPacket, h, g, Bool.false_eq_true, if_false, if_true]

/-- Settles O53: each packet meets the one branch that its guards choose, and a request that times out is answered. -/
theorem fabricEvents : Obligations.FabricEvents := by
  unfold Obligations.FabricEvents
  intro s id r
  dsimp only
  simp only [Arm.rowPacket, Arm.switchRowPacket, Arm.peerAccessPacket, Arm.fabricTimeout]
  refine ⟨fun p => rowPacket_cases s p, fun dev table row soff hr ha hl hp hw hm => ⟨fun hh hc => ?_, fun h hh => ?_⟩,
    fun dev table row soff merge hr ha hl hp hw => ?_, fun p acc may hacc => ⟨fun h => ?_, fun h => ⟨fun g => ?_,
    fun g => ⟨fun hm => ?_, fun hm hp => ?_, fun pl hm hp => ?_⟩⟩⟩, fun hr hl => ?_⟩
  · simp [execSwitchRowPacket, hr, ha, hl, hp, hw, hm, hh, hc]
  · simp [execSwitchRowPacket, hr, ha, hl, hp, hw, hm, hh]
  · simp [execSwitchRowPacket, hr, ha, hl, hp, hw]
  · simp [execPeerAccessPacket, h]
  · simp [execPeerAccessPacket, h, g]
  · simp [execPeerAccessPacket, h, g, hacc, hm]
  · simp [execPeerAccessPacket, h, g, hacc, hm, hp]
  · simp [execPeerAccessPacket, h, g, hacc, hm, hp]
  · refine ⟨endFabric s id, ?_, getReq_answerReq _ hr⟩
    simp only [execFabricTimeout, hr, hl, if_true]

/-! ## The control node -/

/-- A frame waits behind the dwords of an earlier one. -/
theorem control_held {s : State} (h : nodeBusy s = true) (target : CtlTarget) (n m : Nat) (data : List W64) :
    execChaezWrite n data s = .next (hold s (.chaezWrite n data)) ∧
    execChaezRead n m s = .next (hold s (.chaezRead n m)) ∧ execUnfence n s = .next (hold s (.unfence n)) ∧
    execTimeref n s = .next (hold s (.timeref n)) ∧ execRelease target s = .next (hold s (.release target)) ∧
    execReleaseSkip target s = .next (hold s (.releaseSkip target)) ∧
    (s.chaez.acts = [] → execEndTask target s = .next (hold s (.endTask target)) ∧
      execDigestReset n s = .next (hold s (.digestReset n)) ∧
      execCheckpoint n m s = .next (hold s (.checkpoint n m))) := by
  refine ⟨?_, ?_, ?_, ?_, ?_, ?_, fun ha => ⟨?_, ?_, ?_⟩⟩
  · simp only [execChaezWrite, h, if_true]
  · simp only [execChaezRead, h, if_true]
  · simp only [execUnfence, h, if_true]
  · simp only [execTimeref, h, if_true]
  · simp only [execRelease, h, if_true]
  · simp only [execReleaseSkip, h, if_true]
  · simp [execEndTask, h, ha]
  · simp [execDigestReset, h, ha]
  · simp [execCheckpoint, h, ha]

/-- What is refused is a release that names no frozen core. -/
theorem releaseAll_cases (s : State) (skip : Bool) (target : CtlTarget) :
    let cs := (targetCores s target).filter fun c => (getCore s c).frozen.isSome
    (cs ≠ [] → releaseAll s skip target =
      replyStatus (cs.foldl bindBarriers (cs.foldl (fun s c => releaseCore s skip c) s)) 0) ∧
    (cs = [] → releaseAll s skip target = replyStatus s 1) := by
  intro cs
  have hcs : cs = (targetCores s target).filter fun c => (getCore s c).frozen.isSome := rfl
  refine ⟨fun h => ?_, fun h => ?_⟩
  · simp only [releaseAll, ← hcs, List.isEmpty_iff, h, if_false, releaseCores]
  · simp only [releaseAll, ← hcs, h, List.isEmpty_nil, if_true]

theorem endTaskNow_cases {s : State} {target : CtlTarget} {a : Nat} {t : Task} (ht : targetTask s target = some (a, t))
    (hc : t.st ≠ .complete) (hr : t.st ≠ .recording) :
    let u := if t.st == .resident then t.cores.foldl stopCore s else s
    ((t.st == .resident && endBusy u t) = false →
      endTaskNow s target = complete (finishEnd u a t) (.endTask (.task t.tid)) 0) ∧
    ((t.st == .resident && endBusy u t) = true → endTaskNow s target = pend u (.endTask (.task t.tid))) := by
  intro u
  have hu : u = if t.st == .resident then t.cores.foldl stopCore s else s := rfl
  have hg : (t.st == .complete || t.st == .recording) = false := by
    simp only [Bool.or_eq_false_iff, beq_eq_false_iff_ne]
    exact ⟨hc, hr⟩
  refine ⟨fun h => ?_, fun h => ?_⟩ <;>
    simp only [endTaskNow, ht, hg, ← hu, h, Bool.false_eq_true, if_false, if_true]

/-- The reset of the digests, with the key that stands in the group descriptor. -/
theorem execDigestReset_cases {s : State} (n : Nat) (hb : nodeBusy s = false) :
    ((digestWaits s || afterCheckpoint s (.digestReset n)) = true →
      execDigestReset n s = .next (pend s (.digestReset n))) ∧
    (∀ u v lo hi, (digestWaits s || afterCheckpoint s (.digestReset n)) = false → physDword s (n + 8) = (u, some lo) →
      physDword u (n + 16) = (v, some hi) →
      execDigestReset n s = .next (complete (allGeckos v fun g => { g with
        dsum := Vector.replicate 4 0, dkey := BitVec.ofNat 128 (lo.toNat + hi.toNat * 2 ^ 64) }) (.digestReset n) 0)) := by
  refine ⟨fun h => ?_, fun u v lo hi h hlo hhi => ?_⟩
  · simp only [execDigestReset, hb, Bool.false_and, Bool.false_eq_true, if_false, h, if_true]
  · simp only [execDigestReset, hb, Bool.false_and, Bool.false_eq_true, if_false, h, resetDigest, hlo, hhi]

/-- A checkpoint: refused over a frozen core, waiting for the resident tasks and earlier actions, and in its turn the
stream, chunk by chunk. -/
theorem execCheckpoint_cases {s : State} (n m : Nat) (hb : nodeBusy s = false) :
    let stop := fun (t : State) b => { t with tasks := { t.tasks with stopped := b } }
    let resident := s.tasks.table.filter fun e => e.2.st == .resident
    let i := Instr.checkpoint n m
    let turn := resident = [] ∧ afterReset s i = false ∧ afterCheckpoint s i = false
    (turn → s.chaez.stream = none →
      execCheckpoint n m s = .next (pend (streamAt (drainAll (stop s true)) (some [])) i)) ∧
    (∀ ds, turn → s.chaez.stream = some ds → ds.length < chunkCount →
      execCheckpoint n m s = .next (sendChunk s n m ds)) ∧
    (∀ ds, turn → s.chaez.stream = some ds → chunkCount ≤ ds.length →
      execCheckpoint n m s = .next (complete (stop (sendFinal s n m ds) false) i 0)) ∧
    (¬ turn → (resident.any fun e => anyCore s e.2 (·.frozen.isSome)) = false →
      execCheckpoint n m s = .next (pend (stop s true) i)) ∧
    ((resident.any fun e => anyCore s e.2 (·.frozen.isSome)) = true →
      execCheckpoint n m s = .next (complete (stop s false) i 1)) := by
  intro stop resident i turn
  have hres : resident = s.tasks.table.filter fun e => e.2.st == .resident := rfl
  refine ⟨fun ⟨hn, h1, h2⟩ hs => ?_, fun ds ⟨hn, h1, h2⟩ hs hl => ?_, fun ds ⟨hn, h1, h2⟩ hs hl => ?_,
    fun ht hf => ?_, fun hf => ?_⟩
  · dsimp only [i] at h1 h2
    simp only [execCheckpoint, hb, Bool.false_and, ← hres, hn, h1, h2, hs, List.any_nil, List.isEmpty_nil, Bool.not_true,
      Bool.or_self, Bool.false_eq_true, if_false]
    rfl
  · dsimp only [i] at h1 h2
    simp only [execCheckpoint, hb, Bool.false_and, ← hres, hn, h1, h2, hs, hl, List.any_nil, List.isEmpty_nil,
      Bool.not_true, Bool.or_self, Bool.false_eq_true, if_false, if_true]
  · dsimp only [i] at h1 h2
    simp only [execCheckpoint, hb, Bool.false_and, ← hres, hn, h1, h2, hs, Nat.not_lt.mpr hl, List.any_nil,
      List.isEmpty_nil, Bool.not_true, Bool.or_self, Bool.false_eq_true, if_false]
    rfl
  · have hw : (!resident.isEmpty || afterReset s i || afterCheckpoint s i) = true := by
      rw [← Bool.not_eq_false]
      intro hne
      obtain ⟨⟨h0, h1⟩, h2⟩ : (resident.isEmpty = true ∧ afterReset s i = false) ∧ afterCheckpoint s i = false := by
        simpa only [Bool.or_eq_false_iff, Bool.not_eq_false'] using hne
      exact ht ⟨List.isEmpty_iff.mp h0, h1, h2⟩
    simp only [execCheckpoint, hb, Bool.false_and, ← hres, hf, Bool.false_eq_true, if_false]
    rw [if_pos hw]
    rfl
  · simp only [execCheckpoint, hb, Bool.false_and, ← hres, hf, Bool.false_eq_true, if_false, if_true]
    rfl

/-- A piece of an image: more is awaited, or the whole image is checked and, when it passes, started. -/
theorem execRecovery_cases {s : State} (piece : List Byte) (hs : s.boot.stage = .recovery) :
    let got := s.boot.pieces ++ piece.take 4096
    (got.length < 0x100 ∨ got.length < 0x100 + bodyLen got →
      execRecovery piece s = .next { s with boot := { s.boot with pieces := got } }) ∧
    (0x100 ≤ got.length → 0x100 + bodyLen got ≤ got.length → execRecovery piece s =
      .next (if imageGood got = true then
          bootFirmware { s with boot := { s.boot with flash := some got, pieces := [] } }
        else { s with boot := { s.boot with pieces := [] } })) := by
  intro got
  have hgot : got = s.boot.pieces ++ piece.take 4096 := rfl
  refine ⟨fun h => ?_, fun h1 h2 => ?_⟩
  · simp only [execRecovery, hs, ← hgot, Bool.or_eq_true, decide_eq_true_eq, h, if_true]
  · simp only [execRecovery, hs, ← hgot, Bool.or_eq_true, decide_eq_true_eq, Nat.not_lt.mpr h1, Nat.not_lt.mpr h2,
      or_self, if_false]

/-- RESET restarts the device, once the frames before it are performed while the device runs. -/
theorem execReset_ready {s : State} (h : s.boot.stage ≠ .running ∨ nodeBusy s = false) :
    execReset s = .next (replyStatus (restart s) 0) := by
  have hg : (s.boot.stage == .running && nodeBusy s) = false := by
    rcases h with h | h
    · rw [beq_eq_false_iff_ne.mpr h, Bool.false_and]
    · rw [h, Bool.and_false]
  simp only [execReset, hg, Bool.false_eq_true, if_false]

/-- Settles O52: frames wait behind an earlier one, and else each action is the branch that its guards choose. -/
theorem controlNodeEvents : Obligations.ControlNodeEvents := by
  unfold Obligations.ControlNodeEvents
  intro s target n m
  dsimp only
  simp only [Arm.chaezWrite, Arm.chaezRead, Arm.unfence, Arm.timeref, Arm.release, Arm.releaseSkip, Arm.endTask,
    Arm.digestReset, Arm.checkpoint, Arm.checkpointRestore, Arm.reset, Arm.recovery, Arm.powerOn, Arm.attestNonceWrite,
    Arm.attestTidWrite, Arm.attestReportRead]
  refine ⟨fun data hb => ?_, fun hb => ?_, fun data hb => control_held hb target n m data,
    fun hb => ⟨fun h => ?_, fun h => ?_, fun h => ⟨?_, ?_⟩⟩, fun a t hb ht hc hr => ?_,
    fun hb => execDigestReset_cases n hb, fun hn hb => ?_, fun hn hb => ?_, fun hb => execCheckpoint_cases n m hb,
    fun chunks hb hr => ?_, fun h => execReset_ready h, fun piece h => execRecovery_cases piece h, fun h => ?_,
    fun nonce => rfl, fun v => rfl, fun t v h => ?_, fun t code h => ?_⟩
  · simp only [execChaezWrite, hb, Bool.false_eq_true, if_false]
  · simp only [execChaezRead, hb, Bool.false_eq_true, if_false]
  · simp only [execRelease, hb, Bool.false_eq_true, if_false, (releaseAll_cases s false target).1 h]
  · simp only [execReleaseSkip, hb, Bool.false_eq_true, if_false, (releaseAll_cases s true target).1 h]
  · simp only [execRelease, hb, Bool.false_eq_true, if_false, (releaseAll_cases s false target).2 h]
  · simp only [execReleaseSkip, hb, Bool.false_eq_true, if_false, (releaseAll_cases s true target).2 h]
  · simp only [execEndTask, hb, Bool.false_and, Bool.false_eq_true, if_false]
    exact ⟨fun h => congrArg _ ((endTaskNow_cases ht hc hr).1 h), fun h => congrArg _ ((endTaskNow_cases ht hc hr).2 h)⟩
  · simp only [execUnfence, hb, Bool.false_eq_true, if_false, Nat.not_le.mpr hn]
  · simp only [execTimeref, hb, Bool.false_eq_true, if_false, Nat.not_le.mpr hn]
  · simp only [execCheckpointRestore, hb, hr, Bool.false_eq_true, if_false]
  · simp only [execPowerOn, h]
  · simp only [execAttestReportRead, h]
    rfl
  · simp only [execAttestReportRead, h]

end Sys2Proof.Machine
end

section
/-! PROOFS. Time, energy and temperature (14 R358-R363; 16 R394, R406, R411: O50). -/

namespace Sys2Proof.Machine

/-! ## Domains -/

@[simp] theorem getDom_modDom_self (s : State) (d : Nat) (f : Domain → Domain) :
    getDom (modDom s d f) d = f (getDom s d) := by
  simp only [getDom, modDom, ngetD_nput_self]

theorem getDom_modDom_other (s : State) {d e : Nat} (f : Domain → Domain) (h : e ≠ d) :
    getDom (modDom s d f) e = getDom s e := by
  simp only [getDom, modDom, ngetD_nput_other _ _ _ _ _ h]

/-- A change of a domain is known by what it makes of the domain that stands there. -/
theorem modDom_congr {s : State} {d : Nat} {f g : Domain → Domain} (h : f (getDom s d) = g (getDom s d)) :
    modDom s d f = modDom s d g := by
  unfold modDom
  rw [h]

/-- When each domain below n has been changed once, every one of them is what its change makes of it, and the
others are as they were. -/
theorem getDom_changed (f : Nat → Domain → Domain) (s : State) (n d : Nat) :
    getDom ((upto n).foldl (fun s d => modDom s d (f d)) s) d = if d < n then f d (getDom s d) else getDom s d := by
  induction n with
  | zero => rfl
  | succ n ih =>
    rw [upto, List.foldl_append, List.foldl_cons, List.foldl_nil]
    rcases Nat.lt_trichotomy d n with h | h | h
    · rw [getDom_modDom_other _ _ (by omega), ih, if_pos h, if_pos (by omega)]
    · subst h
      rw [getDom_modDom_self, ih, if_neg (by omega), if_pos (by omega)]
    · rw [getDom_modDom_other _ _ (by omega), ih, if_neg (by omega), if_neg (by omega)]

theorem doms_changed_gov (f : Nat → Domain → Domain) (l : List Nat) (s : State) :
    (l.foldl (fun s d => modDom s d (f d)) s).gov = s.gov := by
  induction l generalizing s with
  | nil => rfl
  | cons d l ih => rw [List.foldl_cons, ih, modDom_gov]

/-! ## The tick -/

/-- With no COLL under way what precedes a tick leaves TIME, the tasks, the domains and DRAM. -/
theorem beforeTick_frame {s : State} (h : s.fab.colls = []) :
    let u := sendBeacon (sendNotice (upset (lateColls (lateWaits s))))
    u.time = s.time ∧ u.tasks = s.tasks ∧ u.doms = s.doms ∧ u.mem.dram = s.mem.dram := by
  have hl : (lateColls (lateWaits s)).time = s.time ∧ (lateColls (lateWaits s)).tasks = s.tasks ∧
      (lateColls (lateWaits s)).doms = s.doms ∧ (lateColls (lateWaits s)).mem = s.mem := by
    simp only [lateColls, lateWaits, h, List.filter_nil, List.foldl_nil, and_self]
  have hb (t : State) : (sendBeacon t).time = t.time ∧ (sendBeacon t).tasks = t.tasks ∧ (sendBeacon t).doms = t.doms ∧
      (sendBeacon t).mem = t.mem := by
    unfold sendBeacon
    split <;> exact ⟨rfl, rfl, rfl, rfl⟩
  have hn (t : State) : (sendNotice t).time = t.time ∧ (sendNotice t).tasks = t.tasks ∧ (sendNotice t).doms = t.doms ∧
      (sendNotice t).mem = t.mem := by
    unfold sendNotice
    split <;> exact ⟨rfl, rfl, rfl, rfl⟩
  have hu (t : State) : (upset t).time = t.time ∧ (upset t).tasks = t.tasks ∧ (upset t).doms = t.doms ∧
      (upset t).mem.dram = t.mem.dram := by
    unfold upset
    dsimp only
    split <;> exact ⟨rfl, rfl, rfl, rfl⟩
  intro u
  obtain ⟨b1, b2, b3, b4⟩ := hb (sendNotice (upset (lateColls (lateWaits s))))
  obtain ⟨n1, n2, n3, n4⟩ := hn (upset (lateColls (lateWaits s)))
  obtain ⟨u1, u2, u3, u4⟩ := hu (lateColls (lateWaits s))
  obtain ⟨l1, l2, l3, l4⟩ := hl
  exact ⟨b1.trans (n1.trans (u1.trans l1)), b2.trans (n2.trans (u2.trans l2)), b3.trans (n3.trans (u3.trans l3)),
    by rw [b4, n4, u4, l4]⟩

/-! ## The window -/

/-- The next window: the governor's state, its count and start, and each domain with its new allowance. -/
theorem execGovernorWindow_next {s : State} (u : Nat)
    (h : s.gov.win = 0 ∨ windowDue s = true ∧ (upto 18).any (evalDue s) = false) :
    ∃ t, execGovernorWindow u s = .next t ∧
      t.gov.st = govNext s.gov.st ((upto 18).foldl (fun n d => n + demandOf d (getDom s d)) 0 +
        (measured s u + (upto 18).foldl (fun n d => n + (getDom s d).floorUse) 0 + s.gov.extra)) s.gov.inState ∧
      t.gov.win = s.gov.win + 1 ∧ t.gov.start = s.time.toNat ∧
      (spentBy s (upto 18) ≤ govLimit s.gov.st → t.gov.mdraw ≤ govLimit s.gov.st) ∧
      ∀ d, d < 18 → (getDom t d).gated = false ∧ (getDom t d).spend = 0 ∧ (getDom t d).prev = (getDom s d).spend ∧
        (getDom t d).res = (getDom t d).bud ∧ (getDom t d).vfp = (getDom s d).vfp := by
  have hg : (s.gov.win != 0 && (!windowDue s || (upto 18).any (evalDue s))) = false := by
    rcases h with h | ⟨h1, h2⟩
    · rw [h]
      rfl
    · rw [h1, h2]
      exact Bool.and_false _
  unfold execGovernorWindow
  rw [hg, if_neg Bool.false_ne_true]
  dsimp only
  refine ⟨_, rfl, ?_, ?_, ?_, fun hs => ?_, fun d hd => ?_⟩
  · rw [doms_changed_gov]
  · rw [doms_changed_gov]
  · rw [doms_changed_gov]
  · rw [doms_changed_gov]
    have hm : measured s u ≤ govLimit s.gov.st - spentBy s (upto 18) := Nat.min_le_right _ _
    show measured s u + spentBy s (upto 18) ≤ govLimit s.gov.st
    omega
  · rw [getDom_changed, if_pos hd]
    exact ⟨rfl, rfl, rfl, rfl, rfl⟩

theorem execGovernorWindow_early {s : State} (u : Nat) (hw : s.gov.win ≠ 0)
    (h : s.time.toNat < s.gov.start + windowNs ∨ (upto 18).any (evalDue s) = true) :
    execGovernorWindow u s = .next s := by
  have hg : (s.gov.win != 0 && (!windowDue s || (upto 18).any (evalDue s))) = true := by
    rcases h with h | h
    · have hd : windowDue s = false := by
        rw [windowDue, decide_eq_false (Nat.not_le.mpr h), Bool.and_false]
      simp [hw, hd]
    · simp [hw, h]
  unfold execGovernorWindow
  rw [if_pos hg]

/-! ## The loop of a domain -/

/-- A domain as its loop finds it: with what it has spent by now. -/
def measuredDom (s : State) (d n : Nat) : Domain :=
  let x := getDom s d
  let m := max x.spend (min n (spendMax s d))
  { x with spend := m, res := x.bud - m, floorUse := m - x.bud, evalAt := windowAge s }

/-- What the loop of a domain does on its measurement (14 R362): gating, a step down, a step up, or nothing. -/
theorem execVfEvaluate_cases {s : State} {d n : Nat} (hd : d < 18) (he : evalDue s d = true) :
    let x := getDom s d
    let e := windowAge s
    let m := max x.spend (min n (spendMax s d))
    let y := measuredDom s d n
    (y.res = 0 → x.gated = false → execVfEvaluate d n s = .next (gateDom (modDom s d fun _ => y) d)) ∧
    (y.res ≠ 0 →
      (x.bud * e < m * 50 → x.vfp ≠ 0 → execVfEvaluate d n s =
        .next (modDom (modDom s d fun _ => y) d fun y => { y with vfp := x.vfp - 1, stepped := true })) ∧
      (5 * (m * 50) < 4 * (x.bud * e) → x.vfp < capOf x → x.gated = false → execVfEvaluate d n s =
        .next (modDom (modDom s d fun _ => y) d fun y => { y with vfp := x.vfp + 1 })) ∧
      (m * 50 ≤ x.bud * e → 4 * (x.bud * e) ≤ 5 * (m * 50) → execVfEvaluate d n s =
        .next (modDom (modDom s d fun _ => y) d fun y => y))) := by
  intro x e m y
  have hy : getDom (modDom s d fun _ => y) d = y := getDom_modDom_self s d _
  have hrun : execVfEvaluate d n s = (
      let t := modDom s d fun _ => y
      if (getDom t d).res = 0 then .next (if (getDom t d).gated then t else gateDom t d)
      else .next (modDom t d fun x =>
        if x.bud * e < m * 50 then (if 0 < x.vfp then { x with vfp := x.vfp - 1, stepped := true } else x)
        else if 5 * (m * 50) < 4 * (x.bud * e) && x.vfp < capOf x && !x.gated then { x with vfp := x.vfp + 1 }
        else x)) := by
    unfold execVfEvaluate
    rw [he, decide_eq_false (Nat.not_le.mpr hd)]
    rfl
  rw [hrun]
  dsimp only
  rw [hy]
  have hg : y.gated = x.gated := rfl
  have hb : y.bud = x.bud := rfl
  have hv : y.vfp = x.vfp := rfl
  have hc : capOf y = capOf x := rfl
  refine ⟨fun h0 hx => ?_, fun h0 => ⟨fun h1 h2 => ?_, fun h1 h2 h3 => ?_, fun h1 h2 => ?_⟩⟩
  · rw [if_pos h0, hg, hx]
    rfl
  · rw [if_neg h0]
    refine congrArg _ (modDom_congr ?_)
    rw [hy, hb, hv, if_pos h1, if_pos (Nat.pos_of_ne_zero h2)]
  · rw [if_neg h0]
    refine congrArg _ (modDom_congr ?_)
    rw [hy, hb, hv, hc, hg, if_neg (by omega), if_pos (by simp [h1, h2, h3])]
  · rw [if_neg h0]
    refine congrArg _ (modDom_congr ?_)
    rw [hy, hb, hv, hc, hg, if_neg (by omega), if_neg (by simp [Nat.not_lt.mpr h2])]

theorem execEnergyExhausted_spent {s : State} {d : Nat} (hd : d < 18) (hr : (getDom s d).res = 0)
    (hg : (getDom s d).gated = false) (hw : s.gov.win ≠ 0) :
    execEnergyExhausted d s = .next (gateDom s d) := by
  simp [execEnergyExhausted, Nat.not_le.mpr hd, hr, hg, hw]

/-! ## Lanes and temperatures -/

theorem iter_succ {α : Type} (n : Nat) (f : Nat → α → α) (x : α) : iter (n + 1) f x = f n (iter n f x) := by
  simp only [iter, upto, List.foldl_append, List.foldl_cons, List.foldl_nil]

/-- An iteration of one step may begin with it. -/
theorem iter_const_succ {α : Type} (f : α → α) (n : Nat) (x : α) :
    iter (n + 1) (fun _ => f) x = iter n (fun _ => f) (f x) := by
  induction n with
  | zero => rfl
  | succ n ih => rw [iter_succ, ih, iter_succ n]

/-- Steps that look at nothing of a list but its length are an iteration. -/
theorem foldl_const_eq_iter {α β : Type} (f : α → α) (l : List β) (x : α) :
    l.foldl (fun y _ => f y) x = iter l.length (fun _ y => f y) x := by
  induction l generalizing x with
  | nil => rfl
  | cons a l ih => rw [List.foldl_cons, ih, List.length_cons, iter_const_succ]

theorem moduleTemp_trips {s : State} {temp : Int} (h : 115 * 16 ≤ temp) :
    moduleTemp s temp = tripDevice (setTemp s 11 temp) := by
  unfold moduleTemp
  dsimp only
  rw [if_neg (Int.not_lt.mpr h)]

/-- A device whose module has reached 115 °C is stopped, with its cores and memory as they were. -/
theorem tripped_state {s u : State} (hc : u.cores = s.cores) (hm : u.mem = s.mem) :
    let t := sendStatus (tripDevice u)
    t.boot.stage = .tripped ∧ t.agenda = [] ∧ t.chaez.acts = [] ∧ t.chaez.stream = none ∧
      t.cores = s.cores ∧ t.mem = s.mem := ⟨rfl, rfl, rfl, rfl, hc, hm⟩

/-- Settles O50: the tick, the window, the loop of a domain, and the temperatures, each by its guards. -/
theorem powerEvents : Obligations.PowerEvents := by
  unfold Obligations.PowerEvents
  intro s d n temp
  dsimp only
  simp only [Arm.timeTick, Arm.governorWindow, Arm.vfEvaluate, Arm.energyExhausted, Arm.equalisation,
    Arm.stackTemperatureReport, Arm.computeDieTemperature, Arm.statusReport, Arm.timeBeacon, Arm.domainJoin,
    Arm.referenceLoss]
  refine ⟨fun h => ?_, fun h => ⟨?_, beforeTick_frame⟩, fun u h => execGovernorWindow_next u h,
    fun u hw h => execGovernorWindow_early u hw h, fun h => ?_, fun hd he => execVfEvaluate_cases hd he,
    fun hd hr hg hw => execEnergyExhausted_spent hd hr hg hw, fun lanes => congrArg _ (foldl_const_eq_iter _ lanes s),
    fun hn => ?_, fun hn => ?_, fun io ht => ?_, fun ht i hi => ?_, fun ref ahead h1 h2 => ?_, fun ref ahead h => ?_,
    fun time hb hd => ?_, fun h => ?_⟩
  · simp only [execTimeTick, h, if_true]
  · simp only [execTimeTick, h, Bool.false_eq_true, if_false]
  · simp only [execVfEvaluate, h, Bool.not_false, Bool.or_true, if_true]
  · simp only [execStackTemperatureReport, Nat.not_le.mpr hn, if_false]
  · simp only [execComputeDieTemperature, Nat.not_le.mpr hn, if_false]
  · simp only [execStatusReport, moduleTemp, ht, if_true]
  · rcases hi with rfl | ⟨io, rfl⟩
    · rw [Arm.thermalTrip, execThermalTrip, if_neg (Int.not_lt.mpr ht), moduleTemp_trips ht]
      exact ⟨_, rfl, tripped_state rfl rfl⟩
    · rw [Arm.statusReport, execStatusReport, moduleTemp_trips ht]
      exact ⟨_, rfl, tripped_state rfl rfl⟩
  · simp [execTimeBeacon, ← h1, h2]
  · simp [execTimeBeacon, h]
  · simp [execDomainJoin, hb, hd]
  · simp [execReferenceLoss, h]

end Sys2Proof.Machine
end

section
/-! PROOFS. Messages, migrations and wakes (07 R173; 11 R279-R283: O48). -/

namespace Sys2Proof.Machine

theorem execInboxReservation_cases {s : State} {id dest : Nat} {who : Issuer} {words : List W64} {credit : Option Nat}
    {asked : Bool} {d : Reg} (hm : nget s.net.msgs id = some (.send who dest words credit false asked d))
    (hs : (getCore s who.core).stopped = false) :
    ((getCore s dest).frozen = none → asked = false → inboxFree (getCore s dest).q = true →
      (getCore s dest).q.pending = [] →
      execInboxReservation id s = .next (grantSlot s id who dest words credit false d)) ∧
    ((getCore s dest).frozen = none → asked = false →
      (inboxFree (getCore s dest).q && (getCore s dest).q.pending.isEmpty) = false →
      execInboxReservation id s = .next (modQ (putMsg s id (.send who dest words credit false true d)) dest fun q =>
        { q with pending := addTo q.pending who.core })) ∧
    ((getCore s dest).frozen.isSome = true → execInboxReservation id s =
      .next (refuseSend (modQ s dest fun q => { q with pending := q.pending.erase who.core }) id who credit d)) := by
  refine ⟨fun hf ha hi hp => ?_, fun hf ha hi => ?_, fun hf => ?_⟩
  · simp only [execInboxReservation, hm, hs, hf, ha, hi, hp, Option.isSome_none, List.isEmpty_nil, Bool.and_self,
      Bool.or_self, Bool.false_eq_true, if_false, if_true]
  · simp only [execInboxReservation, hm, hs, hf, ha, hi, Option.isSome_none, Bool.or_self, Bool.false_eq_true, if_false]
  · simp only [execInboxReservation, hm, hs, hf, Bool.or_self, Bool.false_eq_true, if_false, if_true]

theorem execMessageWrite_granted {s : State} {id dest : Nat} {who : Issuer} {words : List W64} {credit : Option Nat}
    {asked : Bool} {d : Reg} (hm : nget s.net.msgs id = some (.send who dest words credit true asked d)) :
    let t := modQ s dest fun q => { q with inResv := q.inResv - 1 }
    ((getCore t dest).frozen = none → execMessageWrite id s = .next (codeTo (dropSendSlot
      (modQ (takeMsg t id) dest fun q => { q with
        inbox := q.inbox ++ [⟨words, fidWord who.core who.slot, credit, none, (getCore t dest).seq.cycle + 1⟩] })
        who.core) who d 0)) ∧
    ((getCore t dest).frozen.isSome = true →
      execMessageWrite id s = .next (grantNext (refuseSend t id who credit d) dest)) := by
  dsimp only
  refine ⟨fun hf => ?_, fun hf => ?_⟩
  · simp only [execMessageWrite, hm, hf, Option.isSome_none, Bool.false_eq_true, if_false]
  · simp only [execMessageWrite, hm, hf, if_true]

/-- A migration in its order, whose fibre is there and finds a slot: it waits for its core, or is refused, or the
fibre leaves. -/
theorem execMigrationReserve_cases {s u : State} {id dest slot : Nat} {who : Issuer} {d : Reg} {f : Fibre}
    {dq : List Nat} (hm : nget s.net.msgs id = some (.reserve who dest d))
    (ho : inOrder s id (.reserve who dest d) = true) (hf : getFib s who.core who.slot = some f)
    (hslot : freeSlot (getCore s dest) (nSlots (kindOf dest)) = some slot) :
    let k := getCore s dest
    let c := who.core
    let full := f.sch.dq ≠ [] ∧
      nPool (kindOf dest) < k.q.pool.length + resHeld k 0 goneSlot + poolDue k + f.sch.dq.length
    let waits := f.sch.dq.filter fun e => match nget (getCore s c).q.pool e with
      | some x => isWaiting x.st
      | none => false
    let stuck := waits ≠ [] ∧ 16 ≤ ((getCore s c).q.fwd.filter (· != [])).length
    let v := if waits = [] then u else modQ u c fun q => { q with fwd := q.fwd.filter (· != []) ++ [waits] }
    (((getCore s c).stopped = true ∨ (getCore s c).frozen.isSome = true) → execMigrationReserve id s = .next s) ∧
    ((getCore s c).stopped = false → (getCore s c).frozen = none →
      (full → execMigrationReserve id s = .next (codeTo (takeMsg s id) who d 1)) ∧
      (¬ full → stuck → execMigrationReserve id s = .next (codeTo (takeMsg s id) who d 4)) ∧
      (¬ full → ¬ stuck →
        moveEntries (moveReads (flushFailed s c who.slot) c who.slot dest slot) c dest f.sch.dq = (u, dq) →
        execMigrationReserve id s = .next (putMsg (bindBarriers (bumpEv (disown (delFib
          (modQ v dest fun q => { q with slotResv := addTo q.slotResv slot }) c who.slot) c who.slot) c 0x10E) c) id
          (.migrate who dest slot { putReg f d 0 with sch := { Sched.blank with dq := dq, seen := f.sch.seen } })))) := by
  intro k c full waits stuck v
  have hfull : poolShort dest k f.sch.dq.length = decide full := by
    simp only [poolShort, full, Bool.decide_and]
    congr 1
    cases f.sch.dq <;> rfl
  have hstuck : (!waits.isEmpty && fwdFull (getCore s c).q) = decide stuck := by
    simp only [stuck, Bool.decide_and]
    congr 1
    cases waits <;> rfl
  have hrun : execMigrationReserve id s = (
      if (getCore s c).stopped || (getCore s c).frozen.isSome || !inOrder s id (.reserve who dest d) then .next s
      else if poolShort dest k f.sch.dq.length then .next (codeTo (takeMsg s id) who d 1)
      else if !waits.isEmpty && fwdFull (getCore s c).q then .next (codeTo (takeMsg s id) who d 4)
      else
        let p := moveEntries (moveReads (flushFailed s c who.slot) c who.slot dest slot) c dest f.sch.dq
        let v := if waits.isEmpty then p.1 else modQ p.1 c fun q => { q with fwd := q.fwd.filter (· != []) ++ [waits] }
        .next (putMsg (bindBarriers (bumpEv (disown (delFib
          (modQ v dest fun q => { q with slotResv := addTo q.slotResv slot }) c who.slot) c who.slot) c 0x10E) c) id
          (.migrate who dest slot { putReg f d 0 with sch := { Sched.blank with dq := p.2, seen := f.sch.seen } }))) := by
    unfold execMigrationReserve
    rw [hm]
    dsimp only
    rw [hf, hslot] <;> rfl
  rw [hrun, ho, hfull, hstuck]
  refine ⟨fun h => ?_, fun hs hz => ⟨fun h => ?_, fun h h' => ?_, fun h h' hmove => ?_⟩⟩
  · rw [if_pos (by simpa using h)]
  · rw [if_neg (by simp [hs, hz]), if_pos (decide_eq_true h)]
  · rw [if_neg (by simp [hs, hz]), if_neg (by simpa using h), if_pos (decide_eq_true h')]
  · rw [if_neg (by simp [hs, hz]), if_neg (by simpa using h), if_neg (by simpa using h'), hmove]
    simp only [v, List.isEmpty_iff]

/-- Settles O48: slots granted, refused or awaited, messages and replies written, migrations and wakes. -/
theorem messageEvents : Obligations.MessageEvents := by
  unfold Obligations.MessageEvents
  intro s id dest who words credit granted asked d
  dsimp only
  simp only [Arm.inboxReservation, Arm.messageWrite, Arm.migrationReserve, Arm.migrationArrival, Arm.wakeDelivery]
  refine ⟨fun hm hg hs => ?_, fun hm hg => ?_, fun src e v hm ho hf => ?_, fun f slot u dq hm ho hf hslot => ?_,
    fun f hm ho hf hslot => ?_, fun f slot hm ho => ?_, fun target skip t code hm ho hw => ?_⟩
  · subst hg
    exact execInboxReservation_cases hm hs
  · subst hg
    exact execMessageWrite_granted hm
  · simp only [execMessageWrite, hm, ho, hf, Option.isNone_none, Bool.and_self, if_true]
  · obtain ⟨hstop, hgo⟩ := execMigrationReserve_cases (u := u) (dq := dq) hm ho hf hslot
    refine ⟨hstop, fun hs hz => ?_⟩
    obtain ⟨hfull, hstuck, hleave⟩ := hgo hs hz
    exact ⟨hfull, hstuck, fun h h' _ => hleave h h', fun h h' _ => hleave h h'⟩
  · simp only [execMigrationReserve, hm, hf, hslot, ho, if_true]
  · simp only [execMigrationArrival, hm, ho, Bool.not_true, Bool.false_eq_true, if_false]
  · simp only [execWakeDelivery, hm, ho, hw, Bool.not_true, Bool.false_eq_true, if_false]

end Sys2Proof.Machine
end

section
/-! PROOFS. DRAM, the host's lines and the device registers (08 R181-R193; 09 R225; 10 R257-R260; 16 R390-R396:
O49). -/

namespace Sys2Proof.Machine

/-- A change of every value of a map, key by key. -/
theorem nget_mapValues {α : Type} (f : α → α) (m : NMap α) (a : Nat) :
    nget (m.map fun x => (x.1, f x.2)) a = (nget m a).map f := by
  induction m with
  | nil => rfl
  | cons x m ih =>
    obtain ⟨k, v⟩ := x
    simp only [List.map_cons, nget]
    split
    · rfl
    · exact ih

/-! ## DRAM and the geckos -/

theorem execControllerIssue_dram {s : State} {id a : Nat} {r : Req} (hr : reqFree s id = some r)
    (hp : r.place = .dram a) (ht : r.tag = none) (ho : ∀ op, r.acc.op ≠ .red op) :
    execControllerIssue id s = .next (issueDram s id r a) := by
  simp only [execControllerIssue, hr, hp, ht]

/-- A scrub that meets an uncorrectable atom is recorded; while its controller's record is outstanding, counted
there. -/
theorem execScrub_bad {s : State} {atom : Nat} (hb : s.mem.bad.contains atom = true) :
    let g := ctrlOf (32 * atom)
    (scrubRecord s g = none → execScrub atom s = .next (appendRec s (g / 1024) (srcCtrl g)
      { code := .scrubError, cls := 3, src := 3, restored := false, akind := .physical, entry := 0, count := 0,
        fid := g, pc := 0, addr := 32 * atom, info := 0, tid := 0 })) ∧
    (∀ p, scrubRecord s g = some p → execScrub atom s = .next
      (dramAccess s ⟨.store, 1, BitVec.ofNat 512 (min 255 (rdPhys s (p + 3) 1 + 1)), 0⟩ (p + 3) false 0).1) := by
  refine ⟨fun h => ?_, fun p h => ?_⟩ <;> simp only [execScrub, hb, h, if_true]

theorem execScrub_good {s : State} {atom : Nat} (hb : s.mem.bad.contains atom = false) :
    (s.mem.weak.contains atom = true → execScrub atom s = .next (bumpDev
      (demote { s with mem := { s.mem with weak := s.mem.weak.erase atom } } (32 * atom)) 0x300)) ∧
    (s.mem.weak.contains atom = false → execScrub atom s = .next s) := by
  refine ⟨fun h => ?_, fun h => ?_⟩ <;>
    simp only [execScrub, eccRead, hb, h, Bool.false_eq_true, if_false, if_true, Option.getD]

/-! ## The host -/

/-- Where no acquire waits for a snoop, a snoop that is applied lets none go on. -/
theorem acquiresGoOn_none {s : State} (h : ∀ x ∈ s.net.txns, x.2.snoops = 0) : acquiresGoOn s = s := by
  have hm : (s.net.txns.map fun x => (x.1, { x.2 with snoops := x.2.snoops - 1 })) = s.net.txns := by
    refine (List.map_congr_left fun x hx => ?_).trans (List.map_id _)
    rw [h x hx]
    have hx0 := h x hx
    obtain ⟨k, t⟩ := x
    cases t
    cases hx0
    rfl
  have hf : (s.net.txns.filter fun x => x.2.snoops == 1) = [] :=
    List.filter_eq_nil_iff.mpr fun x hx => by rw [h x hx]; decide
  simp only [acquiresGoOn, modTxns, hm, hf, List.map_nil, finishTxns, List.foldl_nil]

/-- The one acquire that waits for the last snoop ends. -/
theorem acquiresGoOn_one {s : State} {id : Nat} {t : Txn} (h : s.net.txns = [(id, t)]) (ht : t.snoops = 1) :
    acquiresGoOn s = finishTxn { s with net := { s.net with txns := [(id, { t with snoops := 0 })] } } id
      { t with snoops := 0 } := by
  simp only [acquiresGoOn, modTxns, h, ht, List.map_cons, List.map_nil, List.filter_cons, List.filter_nil, BEq.rfl, if_true,
    finishTxns, List.foldl_cons, List.foldl_nil, getTxn, nget]

/-- Without acquires that wait for a snoop, none fails. -/
theorem acquiresFail_none {s : State} (h : ∀ x ∈ s.net.txns, x.2.snoops = 0) : acquiresFail s = s := by
  have hf : (s.net.txns.filter fun x => x.2.snoops != 0) = [] :=
    List.filter_eq_nil_iff.mpr fun x hx => by rw [h x hx]; decide
  simp only [acquiresFail, hf, List.map_nil, List.foldl_nil]

theorem acquiresFail_one {s : State} {id : Nat} {t : Txn} (h : s.net.txns = [(id, t)]) (ht : t.snoops ≠ 0) :
    acquiresFail s = failTxn s id t (.busError, (planLoc t).kind, (planLoc t).addr) := by
  have hb : (t.snoops != 0) = true := bne_iff_ne.mpr ht
  simp only [acquiresFail, h, hb, List.filter_cons, List.filter_nil, if_true, List.map_cons, List.map_nil, List.foldl_cons,
    List.foldl_nil, getTxn, nget]

theorem reqs_linkLost (s : State) (id : Nat) :
    nget (linkLost s).net.reqs id = (nget s.net.reqs id).map (lostReq s) :=
  nget_mapValues (lostReq s) s.net.reqs id

/-- An acquire that has its answer and waits on queued snoops is lost with the link. -/
theorem lostReq_acquire {s : State} {r : Req} (ha : r.answer.isSome = true) (hq : acquiring s r = true)
    (hs : s.host.snoops ≠ []) : lostReq s r = { r with answer := some (.err .busError), deferred := false } := by
  obtain ⟨a, ha⟩ := Option.isSome_iff_exists.mp ha
  have hg : (acquiring s r && !s.host.snoops.isEmpty) = true := by simp [hq, hs]
  unfold lostReq
  rw [ha]
  cases r.place <;> simp only [hg, if_true]

/-- A request to host memory without an answer is lost with the link. -/
theorem lostReq_host {s : State} {r : Req} (ha : r.answer = none) (hp : ∃ h b, r.place = .host h b) :
    lostReq s r = { r with answer := some (.err .busError), deferred := false } := by
  obtain ⟨h, b, hp⟩ := hp
  simp only [lostReq, ha, hp]

theorem execHostResponse_waiting {s : State} {id a : Nat} {r : Req} {cached : Bool} (grantE : Bool)
    (line : Option W512) (hr : getReq s id = some r) (hp : r.place = .host a cached) (hd : r.deferred = true)
    (ha : r.answer = none) (hu : s.host.up = true) :
    execHostResponse id grantE line s = .next (hostReply s id r a cached grantE line) := by
  simp only [execHostResponse, hr, hp, hd, ha, hu, Option.isSome_none, Bool.not_true, Bool.or_self, Bool.false_eq_true,
    if_false]

/-! ## Device registers -/

/-- An access of 4 or 8 bytes to a register outside the inspection windows. -/
theorem execHostRegisterAccess_known {s t : State} {off size : Nat} {v : W64} (hz : size = 4 ∨ size = 8)
    (hw : ∀ c o, regBlock off ≠ .window c o) :
    (regAccess s off size none false = (t, .ok v) → execHostRegisterAccess off size none s =
      .next { t with host := toHost t.host 6 off (v.setWidth 512) }) ∧
    (∀ w, regAccess s off size (some w) false = (t, .ok v) →
      execHostRegisterAccess off size (some w) s = .next t) := by
  have hsz : (size == 4 || size == 8) = true := by simpa using hz
  have hrun (wr : Option W64) : execHostRegisterAccess off size wr s =
      match regAccess s off size wr false, wr with
      | (s, .ok v), none => .next (modHost s fun h => toHost h 6 off (v.setWidth 512))
      | (s, .ok _), some _ => .next s
      | (s, .error _), _ => .next (modHost s fun h => toHost h 7 off 0) := by
    unfold execHostRegisterAccess
    rw [hsz]
    cases hb : regBlock off with
    | window c o => exact absurd hb (hw c o)
    | global _ | ctrl _ _ | bcast _ | nothing => rfl
  refine ⟨fun h => ?_, fun w h => ?_⟩
  · rw [hrun, h]
    rfl
  · rw [hrun, h]

theorem execHostRegisterAccess_size {s : State} (off size : Nat) (wr : Option W64) (hz : size ≠ 4 ∧ size ≠ 8) :
    execHostRegisterAccess off size wr s = .next { s with host := toHost s.host 7 off 0 } := by
  have hsz : (size == 4 || size == 8) = false := by simpa using hz
  simp only [execHostRegisterAccess, hsz, Bool.not_false, Bool.true_or, if_true, modHost]

/-- Settles O49: each access, expiry, scrub, snoop and answer is the branch that its guards choose. -/
theorem memoryEvents : Obligations.MemoryEvents := by
  unfold Obligations.MemoryEvents
  intro s id a r
  dsimp only
  simp only [Arm.controllerIssue, Arm.accumulateAccept, Arm.geckoToken, Arm.combiningDrain, Arm.rowCacheExpiry,
    Arm.promotionEpoch, Arm.scrub, Arm.refresh, Arm.hostSnoop, Arm.snoopApply, Arm.hostResponse, Arm.cxlLinkDown,
    Arm.cxlLinkRetrain, Arm.hostRegisterAccess, Arm.registerWrite, Arm.broadcastWrite, Arm.inspectionAccess]
  refine ⟨fun hr hp ht ho => execControllerIssue_dram hr hp ht ho, fun op hr hp ht ho => ?_, fun tag hr hp ht => ?_,
    fun atom x when hx ho => ?_, fun c atom => rfl, fun chan => rfl, fun atom hb => execScrub_bad hb,
    fun atom hb => execScrub_good hb, fun chan bank row => rfl, fun line own hu hl => ?_, rfl, fun h => ?_,
    fun t h ht => ?_, fun cached grantE hr hp hd ha hu => ⟨?_, fun line h v hv => ?_⟩,
    ⟨linkLost s, rfl, rfl, rfl, fun r hr ha hq hs => ?_, fun r hr ha hp => ?_, fun h => acquiresFail_none h,
      fun x hx hs => acquiresFail_one hx hs⟩, rfl, fun off size wr hz => execHostRegisterAccess_size off size wr hz,
    fun off size t v hz hw => execHostRegisterAccess_known hz hw, fun off hr hp ho => ?_, fun off v => rfl,
    fun c off v => rfl, fun c off => rfl⟩
  · simp only [execAccumulateAccept, hr, hp, ht, ho]
  · simp only [execGeckoToken, hr, hp, ht]
  · simp [execCombiningDrain, hx, ho]
  · simp [execHostSnoop, hu, hl, modHost]
  · exact congrArg _ (acquiresGoOn_none (s := { s with host := snoopOne s.host }) h)
  · exact congrArg _ (acquiresGoOn_one (s := { s with host := snoopOne s.host }) h ht)
  · exact execHostResponse_waiting grantE none hr hp hd ha hu
  · rw [execHostResponse_waiting grantE (some line) hr hp hd ha hu]
    simp only [hostReply, hv, Bool.and_eq_true]
  · rw [reqs_linkLost, hr, Option.map_some, lostReq_acquire ha hq hs]
  · rw [reqs_linkLost, hr, Option.map_some, lostReq_host ha hp]
  · simp only [execRegisterWrite, hr, hp, ho]

end Sys2Proof.Machine
end

section
/-! PROOFS. Cycles, quanta, time-outs, handlers, matrix steps, rejoins and barriers (02 R28-R31; 06 R139-R148; 07 R160;
14 R355: O46). -/

namespace Sys2Proof.Machine

/-! ## The end of a wait by TIMEOUT -/

theorem getFib_settleGroup (s : State) (c slot : Nat) : getFib (settleGroup s c slot) c slot = getFib s c slot := by
  unfold settleGroup
  split
  · exact getFib_modCore fun _ => rfl
  · rfl

/-- A fibre that becomes READY keeps its words, registers and predicates. -/
theorem getFib_makeReady {s : State} {c slot : Nat} {f : Fibre} (h : getFib s c slot = some f) :
    ∃ sch, sch.run = .ready ∧ getFib (makeReady s c slot) c slot = some { f with sch := sch } := by
  unfold makeReady
  dsimp only
  rw [modFib_of_some _ h, getFib_putFib_self]
  exact ⟨_, rfl, rfl⟩

/-- A counter wait that ends by TIMEOUT: p7 is false and the PC stands after the issue. -/
theorem expire_counter {s : State} {c slot n : Nat} {thr : W32} {f : Fibre} (hf : getFib s c slot = some f)
    (hp : f.sch.pass ≠ 0) (hw : f.sch.wait = .done n thr ∨ f.sch.wait = .arrival n thr) :
    ∃ g, getFib (expire s c slot) c slot = some g ∧ g.pc = f.pc + BitVec.ofNat 64 f.sch.pass ∧
      g.preds = (putP f 7 false).preds ∧ g.sch.run = .ready ∧ g.g = f.g ∧ g.s = f.s := by
  have hs : getFib (settleGroup s c slot) c slot = some f := by rw [getFib_settleGroup, hf]
  rcases hw with hw | hw <;>
  · unfold expire
    simp only [hf, if_neg hp, hw, modFib_of_some _ hs]
    obtain ⟨sch, hrun, hg⟩ := getFib_makeReady (getFib_putFib_self (settleGroup s c slot) c slot
      { putP f 7 false with
        pc := (putP f 7 false).pc + BitVec.ofNat 64 f.sch.pass
        ctl := { (putP f 7 false).ctl with adone := false, pp := false }
        sch := { (putP f 7 false).sch with t0 := none, late := false } })
    exact ⟨_, hg, rfl, rfl, hrun, rfl, rfl⟩

theorem limitPassed_counter {s : State} {c slot t lim n : Nat} {thr : W32} {f : Fibre} {why : Park}
    (hr : f.sch.run = .parked why) (ht : f.sch.t0 = some (t, lim)) (hl : t + lim ≤ s.time.toNat) :
    (f.sch.wait = .done n thr → reached (getCore s c).ctr.d[Fin.ofNat 8 n] thr = false →
      limitPassed s c slot f = true) ∧
    (f.sch.wait = .arrival n thr → reached (getCore s c).ctr.ac[Fin.ofNat 8 n] thr = false →
      limitPassed s c slot f = true) := by
  refine ⟨fun hw hn => ?_, fun hw hn => ?_⟩ <;>
    simp only [limitPassed, hr, ht, hw, hn, hl, decide_true, Bool.not_false, Bool.and_self]

/-- A wait whose limit has passed ends as its kind does. -/
theorem execWaitTimeout_cases {s : State} {c slot : Nat} {f : Fibre} {why : Park}
    (hf : getFib s c slot = some f) (hr : f.sch.run = .parked why) (hz : (getCore s c).frozen = none)
    (hs : (getCore s c).stopped = false) (hl : f.sch.late = true ∨ limitPassed s c slot f = true) :
    (∀ w, f.sch.wait = .fullEmpty w → execWaitTimeout c slot s = .next (expire (feLeave s c slot w) c slot)) ∧
    (∀ kind d pd who, f.sch.wait = .bar kind d pd who →
      execWaitTimeout c slot s = .next (expireBar s c slot kind d pd)) ∧
    (∀ id, f.sch.wait = .txn id → execWaitTimeout c slot s = .next (withdrawFe s c slot id)) ∧
    ((∃ n thr, f.sch.wait = .done n thr ∨ f.sch.wait = .arrival n thr) ∨ (∃ tid d, f.sch.wait = .task tid d) ∨
        (∃ words, f.sch.wait = .rejoin words) →
      execWaitTimeout c slot s = .next (expire s c slot)) := by
  have hg : ((getCore s c).frozen.isSome || (getCore s c).stopped || !(f.sch.late || limitPassed s c slot f)) = false := by
    have hl' : (f.sch.late || limitPassed s c slot f) = true := Bool.or_eq_true_iff.mpr hl
    rw [hz, hs, hl']
    rfl
  unfold execWaitTimeout
  simp only [hf, hg, hr, Bool.false_eq_true, if_false]
  refine ⟨fun w hw => ?_, fun kind d pd who hw => ?_, fun id hw => ?_, ?_⟩
  · rw [hw]
  · rw [hw]
  · rw [hw]
  · rintro (⟨n, thr, hw | hw⟩ | ⟨tid, d, hw⟩ | ⟨words, hw⟩) <;> rw [hw]

/-! ## Quanta, handlers and matrix steps -/

theorem execQuantumEnd_over {s : State} {c st slot : Nat} {f : Fibre} (ho : onStrand (getCore s c) st = some (slot, f))
    (hr : f.sch.run = .running st) (hi : 4096 ≤ f.sch.issued) (hz : (getCore s c).frozen = none) (hk : kindOf c ≠ .dense)
    (hh : slot ≠ handlerSlot) :
    execQuantumEnd c st s = .next (if otherReady (getCore s c) slot then
        requeue (leaveStrand (bumpEv s c 0x10D) c slot) c slot
      else modFib s c slot fun f => { f with sch := { f.sch with issued := 0 } }) := by
  have hg : (f.sch.run != .running st || decide (f.sch.issued < 4096) || (getCore s c).frozen.isSome
      || kindOf c == .dense || slot == handlerSlot) = false := by
    simp [hr, hz, hk, hh, Nat.not_lt.mpr hi]
  simp only [execQuantumEnd, ho, hg, Bool.false_eq_true, if_false, apply_ite Host.Outcome.next]

theorem execHandlerStart_oldest {s : State} {c : Nat} {m : InMsg} {rest : List InMsg} {w : Crew}
    (hq : (getCore s c).q.inbox = m :: rest) (hw : (getCore s c).crew = some w) (hk : kindOf c = .lookup)
    (hz : (getCore s c).frozen = none) (hs : (getCore s c).stopped = false) (hh : (getCore s c).handler = none)
    (he : m.engine = none) (hc : m.cycle ≤ (getCore s c).seq.cycle) :
    execHandlerStart c s = .next (grantNext
      (modCore (modQ (putFib s c handlerSlot (handlerFibre w m)) c fun q => { q with inbox := rest }) c fun k =>
        { modStrand k 15 (fun t => { t with occ := some handlerSlot, h0 := 0, h1 := 0 }) with
          handler := some ⟨m.sender, m.credit, false, 0⟩ }) c) := by
  have hg : (kindOf c != .lookup || (getCore s c).frozen.isSome || (getCore s c).stopped || (getCore s c).handler.isSome
      || decide ((getCore s c).seq.cycle < m.cycle)) = false := by
    simp [hk, hz, hs, hh, Nat.not_lt.mpr hc]
  simp only [execHandlerStart, hq, hw, hg, he, Option.isNone_none, Bool.false_eq_true, if_false, if_true]

/-- The turn of a strand whose fibre waits for the matrix engine: the first half of a wide row, or a row. -/
theorem execMmaStep_cases {s : State} {c st slot n cnt : Nat} {f : Fibre} {acc va : Nat} {fa fb : Fmt}
    {half : Bool} {flags : BitVec 5} (ho : onStrand (getCore s c) st = some (slot, f))
    (hw : f.sch.wait = .mma acc va fa fb n cnt half flags) (ht : turnOf s c st = .step)
    (hu : cycleUsed (getCore s c) = false) (hr : (getCore s c).mx.rotating = false)
    (hb : (getCore s c).mx.busy.contains acc = false) :
    let y := mmaRow (getCore (takeTurn s c st) c) f (Fin.ofNat 4 acc) va fa fb n
    (stepK fa = 128 → half = false → execMmaStep c st s = .next
      (setWait (takeTurn s c st) c slot .matrix (.mma acc va fa fb n cnt true flags))) ∧
    ((stepK fa = 128 → half = true) →
      (cnt ≤ n + 1 → execMmaStep c st s = .next
        (makeReady (modFib (setCore s c y.1) c slot fun f => orFlags f (flags ||| y.2)) c slot)) ∧
      (n + 1 < cnt → execMmaStep c st s = .next
        (setWait (setCore s c y.1) c slot .matrix (.mma acc va fa fb (n + 1) cnt false (flags ||| y.2))))) := by
  unfold execMmaStep
  simp only [ho, ht, hw, hu, hr, hb, Bool.or_self, Bool.false_eq_true, if_false]
  refine ⟨fun hk hh => ?_, fun hk => ⟨fun hn => ?_, fun hn => ?_⟩⟩
  · rw [if_pos (by simp [hk, hh])]
  · rw [if_neg (by simpa using hk), if_pos hn]
  · rw [if_neg (by simpa using hk), if_neg (Nat.not_le.mpr hn)]

/-! ## The line -/

theorem execRejoinLineHigh_all {s : State} {c st slot words : Nat} {pc : W64} (hk : kindOf c = .dense)
    (hz : (strandAt (getCore s c) st).fuse ≠ 0) (hl : lineHigh s c st (strandAt (getCore s c) st).fuse = true)
    (ha : (groupCores c (strandAt (getCore s c) st).fuse).all (fun m => (rejoining s m st).isSome) = true)
    (hr : rejoining s ((groupCores c (strandAt (getCore s c) st).fuse).headD c) st = some (slot, pc, words)) :
    execRejoinLineHigh c st s = .next ((groupCores c (strandAt (getCore s c) st).fuse).foldl (fun s m =>
      joinMember s st (if words = 1 then pc + 4 else pc) m) s) := by
  have hg : (kindOf c != .dense || (strandAt (getCore s c) st).fuse = 0 ||
      !lineHigh s c st (strandAt (getCore s c) st).fuse ||
      !(groupCores c (strandAt (getCore s c) st).fuse).all fun m => (rejoining s m st).isSome) = false := by
    rw [hl, ha, hk, decide_eq_false hz]
    rfl
  unfold execRejoinLineHigh
  dsimp only
  rw [if_neg (ne_true_of_eq_false hg), hr]

/-- Settles O46: each event of the sequencer is the branch that its guards choose. -/
theorem sequencerEvents : Obligations.SequencerEvents := by
  unfold Obligations.SequencerEvents
  intro s c slot f
  dsimp only
  simp only [Arm.sequencerCycle, Arm.quantumEnd, Arm.waitTimeout, Arm.handlerStart, Arm.mmaStep, Arm.mrotComplete,
    Arm.mxchComplete, Arm.rejoinLineHigh, Arm.barrierComplete]
  refine ⟨fun h => ?_, fun h => ?_, fun st ho hr hi hz hk hh => execQuantumEnd_over ho hr hi hz hk hh,
    fun why hf hr hz hs hl => execWaitTimeout_cases hf hr hz hs hl,
    fun why t lim n thr hr ht hl => limitPassed_counter hr ht hl, fun n thr hf hp hw => expire_counter hf hp hw,
    fun m rest w hq hw hk hz hs hh he hc => execHandlerStart_oldest hq hw hk hz hs hh he hc,
    fun st acc va fa fb n cnt half flags ho hr hw ht hu hrot hb => execMmaStep_cases ho hw ht hu hrot hb,
    fun id r hr hs he => ?_, fun id r a e hr hs he => ?_, fun st pc words hk hz hl ha hr =>
      execRejoinLineHigh_all hk hz hl ha hr, fun kind h => ?_⟩
  · simp only [execSequencerCycle, h, if_true]
  · simp only [execSequencerCycle, h, Bool.false_eq_true, if_false]
  · simp only [execMrotComplete, hr, hs, he]
  · simp only [execMxchComplete, hr, hs, he]
  · simp only [execBarrierComplete, h, if_true]

end Sys2Proof.Machine
end

section
/-! PROOFS. The elements of engine commands (12 R290-R292, R295, R296; 13 R332; 16 R398: O44). -/

namespace Sys2Proof.Machine

/-! ## Whose turn it is -/

/-- The next element of a row command is sent as a row, with the lookahead behind it. -/
theorem sendStep_row {u : State} {c e code elem : Nat} {x : Cmd} (h : nextElem u c e code = some (x, elem))
    (hc : code = cGather ∨ code = cScatter ∨ code = cAccum) :
    sendStep u c e code = lookAhead (rowElem (takeSend u c e) c e x elem) c e x elem (rowPlaces c x) := by
  have hg : (decide (code = cGather) || decide (code = cScatter) || decide (code = cAccum)) = true := by
    simpa [or_assoc] using hc
  simp only [sendStep, h, elemStep, nextElem_code h, hg, if_true, rowStep]

theorem sendStep_copy {u : State} {c e elem : Nat} {x : Cmd} (h : nextElem u c e cCopy = some (x, elem)) :
    sendStep u c e cCopy = lookAhead (copyElem (takeSend u c e) c e x elem) c e x elem (dwordPlaces c x) := by
  simp only [sendStep, h, elemStep, nextElem_code h]
  rfl

theorem sendStep_fill {u : State} {c e elem : Nat} {x : Cmd} (h : nextElem u c e cFill = some (x, elem)) :
    sendStep u c e cFill =
      lookAhead (writeElem (takeSend u c e) c e x elem x.w[3]) c e x elem (dwordPlaces c x) := by
  simp only [sendStep, h, elemStep, nextElem_code h]
  rfl

theorem sendStep_walk {u : State} {c e elem : Nat} {x : Cmd} (h : nextElem u c e cWalk = some (x, elem)) :
    sendStep u c e cWalk = lookAhead (walkElem (takeSend u c e) c e x elem) c e x elem (walkPlaces c x) := by
  simp only [sendStep, h, elemStep, nextElem_code h]
  rfl

theorem sendStep_coll {u : State} {c e elem : Nat} {x : Cmd} (h : nextElem u c e cColl = some (x, elem)) :
    sendStep u c e cColl = lookAhead (collElem (takeSend u c e) c e x elem) c e x elem (dwordPlaces c x) := by
  simp only [sendStep, h, elemStep, nextElem_code h]
  rfl

/-! ## Rows -/

section Rows
variable {s t : State} {c e elem : Nat} {x : Cmd} {qs : List (Part × Option Tgt)}

/-- A row that lies here is moved in the parts that its access is cut into. -/
theorem rowElem_here {off : Nat} {a : Loc}
    (hr : elemRow s c x (tileDword s c (cmdHalf x.w 0 + 8 * elem)) = .here off)
    (hal : cmdCode x.w = cAccum → off % (4 * 2 ^ bf x.w[3] 19 1) = 0)
    (hseg : segCheck c (getCore s c) (cmdSga x.w) off (cmdHalf x.w 2) (rowRights (cmdCode x.w)) = .ok a)
    (hres : resolveParts s c e (partsOf a (cmdHalf x.w 2)
      (if cmdCode x.w = cAccum then 4 * 2 ^ bf x.w[3] 19 1 else a.grain)
      (rowAcc s c x (cmdHalf x.w 1 + cmdHalf x.w 2 * elem))
      (fun lo => if cmdCode x.w = cGather then some (cmdHalf x.w 1 + cmdHalf x.w 2 * elem + lo) else none)) =
        (t, qs, none)) :
    rowElem s c e x elem = sentElem t c e x elem qs := by
  have hg : (decide (cmdCode x.w = cAccum) && off % (4 * 2 ^ bf x.w[3] 19 1) != 0) = false := by
    by_cases hc : cmdCode x.w = cAccum
    · rw [hal hc, bne_self_eq_false, Bool.and_false]
    · rw [decide_eq_false hc, Bool.false_and]
  unfold rowElem
  dsimp only
  rw [hr]
  dsimp only
  rw [hg, hseg]
  exact sendElem_ok hres

theorem rowElem_away {dev table soff : Nat}
    (hr : elemRow s c x (tileDword s c (cmdHalf x.w 0 + 8 * elem)) = .away dev table soff) :
    rowElem s c e x elem = sendRow s c e x elem dev table (tileDword s c (cmdHalf x.w 0 + 8 * elem)) soff
      { rowAcc s c x (cmdHalf x.w 1 + cmdHalf x.w 2 * elem) 0 (min (cmdHalf x.w 2) 64) with
        size := cmdHalf x.w 2, data := 0 }
      (if cmdCode x.w = cGather then some (cmdHalf x.w 1 + cmdHalf x.w 2 * elem) else none)
      (if cmdCode x.w = cGather then []
        else bytesOf (cmdHalf x.w 2) (tileLoad s c (cmdHalf x.w 1 + cmdHalf x.w 2 * elem) (cmdHalf x.w 2))) := by
  unfold rowElem
  dsimp only
  rw [hr]
  rfl

theorem rowElem_beyond (hr : elemRow s c x (tileDword s c (cmdHalf x.w 0 + 8 * elem)) = .beyond) :
    rowElem s c e x elem =
      elemFault s c e elem (.engineIndex, .tile, cmdHalf x.w 0 + 8 * elem) (cmdHalf x.w 0 + 8 * elem) := by
  unfold rowElem
  dsimp only
  rw [hr]

theorem rowAcc_gather (hc : cmdCode x.w = cGather) (tile : Nat) :
    rowAcc s c x tile = fun _ n => ⟨.load, n, 0, 0⟩ := by
  funext lo n
  simp only [rowAcc, hc, if_true]

theorem rowAcc_scatter (hc : cmdCode x.w = cScatter) (tile : Nat) :
    rowAcc s c x tile = fun lo n => ⟨.store, n, BitVec.ofNat 512 (tileLoad s c (tile + lo) n), 0⟩ := by
  funext lo n
  simp only [rowAcc, hc]
  rfl

theorem rowAcc_accum (hc : cmdCode x.w = cAccum) (tile : Nat) :
    rowAcc s c x tile = fun lo n => ⟨.red ((redOpOf (bf x.w[3] 16 3)).getD .add), n,
      BitVec.ofNat 512 (tileLoad s c (tile + lo) n), BitVec.ofNat 64 (4 * 2 ^ bf x.w[3] 19 1)⟩ := by
  funext lo n
  simp only [rowAcc, hc]
  rfl

end Rows

/-! ## COPY, FILL and WALK -/

section Dwords
variable {s t : State} {c e elem : Nat} {x : Cmd} {qs : List (Part × Option Tgt)} {a b : Loc}

theorem copyElem_own (ha : segCheck c (getCore s c) (cmdSga x.w) ((x.w[2].toNat + 8 * elem) % 2 ^ 64) 8 [rightR] = .ok a)
    (hb : segCheck c (getCore s c) (cmdSgb x.w) ((x.w[3].toNat + 8 * elem) % 2 ^ 64) 8 [rightW] = .ok b)
    (ho : a.isOwn c = true)
    (hres : resolveParts s c e [⟨b, ⟨.store, 8, BitVec.ofNat 512 (tileLoad s c a.tileOff 8), 0⟩, none⟩] =
      (t, qs, none)) :
    copyElem s c e x elem = sentElem t c e x elem qs := by
  unfold copyElem
  dsimp only
  rw [ha, hb]
  dsimp only
  rw [if_pos ho]
  exact sendElem_ok hres

theorem copyElem_toOwn
    (ha : segCheck c (getCore s c) (cmdSga x.w) ((x.w[2].toNat + 8 * elem) % 2 ^ 64) 8 [rightR] = .ok a)
    (hb : segCheck c (getCore s c) (cmdSgb x.w) ((x.w[3].toNat + 8 * elem) % 2 ^ 64) 8 [rightW] = .ok b)
    (ho : a.isOwn c = false) (ho' : b.isOwn c = true)
    (hres : resolveParts s c e [⟨a, ⟨.load, 8, 0, 0⟩, some b.tileOff⟩] = (t, qs, none)) :
    copyElem s c e x elem = sentElem t c e x elem qs := by
  unfold copyElem
  dsimp only
  rw [ha, hb]
  dsimp only
  rw [if_neg (ne_true_of_eq_false ho), if_pos ho']
  exact sendElem_ok hres

theorem copyElem_far
    (ha : segCheck c (getCore s c) (cmdSga x.w) ((x.w[2].toNat + 8 * elem) % 2 ^ 64) 8 [rightR] = .ok a)
    (hb : segCheck c (getCore s c) (cmdSgb x.w) ((x.w[3].toNat + 8 * elem) % 2 ^ 64) 8 [rightW] = .ok b)
    (ho : a.isOwn c = false) (ho' : b.isOwn c = false)
    (hres : resolveParts s c e [⟨a, ⟨.load, 8, 0, 0⟩, none⟩, ⟨b, ⟨.store, 8, 0, 0⟩, none⟩] = (t, qs, none)) :
    copyElem s c e x elem = awaitData (sentElem t c e x elem qs) c e elem := by
  unfold copyElem
  dsimp only
  rw [ha, hb]
  dsimp only
  rw [if_neg (ne_true_of_eq_false ho), if_neg (ne_true_of_eq_false ho'), sendElem_ok hres]

theorem writeElem_sent (v : W64)
    (ha : segCheck c (getCore s c) (cmdSga x.w) ((x.w[2].toNat + 8 * elem) % 2 ^ 64) 8 [rightW] = .ok a)
    (hres : resolveParts s c e [⟨a, ⟨.store, 8, v.setWidth 512, 0⟩, none⟩] = (t, qs, none)) :
    writeElem s c e x elem v = sentElem t c e x elem qs := by
  unfold writeElem
  dsimp only
  rw [ha]
  exact sendElem_ok hres

/-- A level step that needs no read gives the element its range at once. -/
theorem walkElem_range {lo hi : Nat}
    (h : levelStep (tileLoad s c (cmdHalf x.w 0) 32) (tileDword s c (cmdHalf x.w 1 + 8 * elem)) = .range lo hi) :
    walkElem s c e x elem = elemDone
      (modCmd (walkWrite s c x elem (tileDword s c (cmdHalf x.w 1 + 8 * elem)) lo hi) c e fun y =>
        { y with next := elem + 1 }) c e elem := by
  unfold walkElem
  dsimp only
  rw [h]

theorem walkElem_reads {sg : Fin 8} {kind p0 p1 : Nat} {offs : List Nat} {locs : List Loc}
    (h : levelStep (tileLoad s c (cmdHalf x.w 0) 32) (tileDword s c (cmdHalf x.w 1 + 8 * elem)) =
      .reads sg kind p0 p1 offs)
    (hl : walkLocs c (getCore s c) sg offs = .ok locs)
    (hres : resolveParts (modCmd s c e fun y =>
        walkKeep y elem kind p0 p1 (tileDword s c (cmdHalf x.w 1 + 8 * elem))) c e
      (((upto locs.length).zip locs).map fun y => ⟨y.2, ⟨.load, 8, 0, 0⟩, some (walkAt elem + 8 * y.1)⟩) =
        (t, qs, none)) :
    walkElem s c e x elem = sentElem t c e x elem qs := by
  unfold walkElem
  dsimp only
  rw [h]
  dsimp only
  rw [hl]
  exact sendElem_ok hres

end Dwords

/-- Settles O44: the next element of each command is sent as its kind says, with the lookahead behind it. -/
theorem engineElements : Obligations.EngineElements := by
  unfold Obligations.EngineElements
  intro u t c e elem x qs a b
  dsimp only
  simp only [Arm.gather, Arm.scatter, Arm.accum, Arm.copy, Arm.fill, Arm.walk, execGather, execScatter, execAccum,
    execCopy, execFill, execWalk]
  refine ⟨fun off hn hr hs hp => ?_, fun off hn hr hs hp => ?_, fun off hn hr hal hs hp => ?_,
    fun i code hi hn => ?_, fun hn ha hb => ⟨fun ho hp => ?_, fun ho ho' hp => ?_, fun ho ho' hp => ?_⟩,
    fun hn ha hp => ?_, fun hn => ⟨fun lo hi h => ?_, fun sg kind p0 p1 offs locs h hl hp => ?_⟩,
    fun w places => lookAhead_frame w c e x elem places⟩
  · have hc := nextElem_code hn.1
    rw [sendStep_row hn.1 (.inl rfl), rowElem_here hr (by rw [hc]; exact nofun) (by rw [hc]; exact hs)
      (by rw [rowAcc_gather hc, hc]; exact hp)]
  · have hc := nextElem_code hn.1
    rw [sendStep_row hn.1 (.inr (.inl rfl)), rowElem_here hr (by rw [hc]; exact nofun) (by rw [hc]; exact hs)
      (by rw [rowAcc_scatter hc, hc]; exact hp)]
  · have hc := nextElem_code hn.1
    rw [sendStep_row hn.1 (.inr (.inr rfl)), rowElem_here hr (fun _ => hal) (by rw [hc]; exact hs)
      (by rw [rowAcc_accum hc, hc]; exact hp)]
  · have hrun : exec i u = .next (sendStep u c e code) := by
      rcases hi with ⟨rfl, rfl⟩ | ⟨rfl, rfl⟩ | ⟨rfl, rfl⟩ <;> rfl
    have hcode : code = cGather ∨ code = cScatter ∨ code = cAccum := by
      rcases hi with ⟨_, h⟩ | ⟨_, h⟩ | ⟨_, h⟩
      · exact .inl h
      · exact .inr (.inl h)
      · exact .inr (.inr h)
    rw [hrun, sendStep_row hn.1 hcode]
    refine ⟨fun dev table soff hr => ?_, fun hr => ?_⟩
    · rw [rowElem_away hr, nextElem_code hn.1]
    · rw [rowElem_beyond hr]
  · rw [sendStep_copy hn.1, copyElem_own ha hb ho hp]
  · rw [sendStep_copy hn.1, copyElem_toOwn ha hb ho ho' hp]
  · rw [sendStep_copy hn.1, copyElem_far ha hb ho ho' hp]
  · rw [sendStep_fill hn.1, writeElem_sent _ ha hp]
  · rw [sendStep_walk hn.1, walkElem_range h]
  · rw [sendStep_walk hn.1, walkElem_reads h hl hp]

end Sys2Proof.Machine
end

section
/-! PROOFS. Whole commands, COLL, control words, and the start, stop and retirement of commands (12 R290-R302;
14 R347, R348, R369: O45). -/

namespace Sys2Proof.Machine

section Commands
variable {s : State} {c e elem : Nat} {x : Cmd}

/-! ## COLL -/

/-- A started COLL that has read its buffer and its descriptor is due to leave the device. -/
theorem collDue_ready (h : nget (getCore s c).fifo e = some x) (hc : cmdCode x.w = cColl) (hn : cmdN x.w ≠ 0)
    (hr : x.st = .running) (hs : x.started = true) (hf : x.fault = none) (hb : x.back = false) (hz : x.sent = false)
    (hp : x.prog = cmdN x.w + 40) (hw : collWaits s c x = false) : collDue s c e = some x := by
  have hg : (cmdCode x.w == cColl && x.st == .running && x.started && x.fault.isNone && !x.back && !x.sent
      && cmdN x.w != 0 && x.prog == cmdN x.w + 40 && !collWaits s c x) = true := by
    rw [hc, hr, hs, hf, hb, hz, hp, hw, bne_iff_ne.mpr hn, beq_self_eq_true,
      beq_self_eq_true (cmdN x.w + 40)]
    rfl
  simp only [collDue, h, hg, if_true]

theorem execColl_elem (h : nextElem s c e cColl = some (x, elem)) (hd : collDue s c e = none) :
    execColl c e s = .next
      (lookAhead (collElem (takeSend s c e) c e x elem) c e x elem (dwordPlaces c x)) := by
  simp only [execColl, hd, sendStep_coll h]

/-- The outcome of a COLL that has been sent: the fabric timeout, or the shares of all members. -/
theorem execCollOutcome_cases {others : List CollShare} {at_ : Nat}
    (hf : s.fab.colls.find? (fun y => y.1 == c && y.2.1 == e) = some (c, e, at_))
    (h : nget (getCore s c).fifo e = some x) (hs : x.sent = true) (hb : x.back = false) (hr : x.st = .running) :
    let done := { s with fab := { s.fab with colls := s.fab.colls.filter fun y => !(y.1 == c && y.2.1 == e) } }
    (at_ + fabricLimit ≤ s.time.toNat → execCollOutcome c e others s = .next (if endedCore s c then done
      else elemFault done c e 0 (.fabricTimeout, .none, 0) x.w[2].toNat)) ∧
    (s.time.toNat < at_ + fabricLimit → anyClash (ownShare x :: others) = false →
      others.length + 1 = (ownShare x).members.length →
      (∀ y ∈ ownShare x :: others, y.rank < (ownShare x).members.length) →
      execCollOutcome c e others s = .next (if endedCore s c then done
        else collServed done c e (ownShare x) (ownShare x :: others))) := by
  intro done
  have hg : (!x.sent || x.back || x.st != .running) = false := by
    rw [hs, hb, hr]
    rfl
  unfold execCollOutcome
  rw [hf, h]
  dsimp only
  rw [hg, if_neg Bool.false_ne_true]
  refine ⟨fun ht => ?_, fun ht hcl hl hrank => ?_⟩
  · rw [decide_eq_true ht]
    cases endedCore s c
    · simp only [Bool.true_or, Bool.and_false, Bool.false_eq_true, if_false, if_pos ht, done]
    · rfl
  · have hall : (ownShare x :: others).all (fun y => y.rank < (ownShare x).members.length) = true :=
      List.all_eq_true.mpr fun y hy => decide_eq_true (hrank y hy)
    have hlen : (ownShare x :: others).length = (ownShare x).members.length := hl
    rw [decide_eq_false (Nat.not_le.mpr ht), if_neg (Nat.not_le.mpr ht), hcl, hall, decide_eq_true hlen]
    cases endedCore s c <;> rfl

/-! ## Start, retirement and stop -/

theorem execCommandStart_next (h : startNext (getCore s c) = some (e, x)) (hl : startedCount (getCore s c) < 4)
    (hm : x.st = .running ∨ ((getCore s c).frozen = none ∧ (getCore s c).stopped = false))
    (hp : kindOf c = .dense → pushWaits (getCore s c) x = false) :
    execCommandStart c s = .next (modCmd s c e fun y => { y with st := .running, started := true }) := by
  have hmay : (x.st == .running || ((getCore s c).frozen.isNone && !(getCore s c).stopped)) = true := by
    rcases hm with h | ⟨h1, h2⟩
    · rw [h]
      rfl
    · rw [h1, h2]
      exact Bool.or_true _
  have hpush : (kindOf c == .dense && pushWaits (getCore s c) x) = false := by
    by_cases hk : kindOf c = .dense
    · rw [hp hk, Bool.and_false]
    · rw [beq_eq_false_iff_ne.mpr hk, Bool.false_and]
  simp only [execCommandStart, h, hl, hmay, hpush, decide_true, Bool.not_false, Bool.and_self, if_true]

/-- A finished command adds its increment and is DONE; a REDUCE has its rows written first. -/
theorem execCommandRetire_cases (h : nget (getCore s c).fifo e = some x) (hf : cmdFinished x = true) :
    let dc : Fin 8 := Fin.ofNat 8 (bf x.w[0] 4 3)
    let inc : W32 := BitVec.ofNat 32 (bf x.w[0] 7 16)
    let raise := fun (t : State) => modCtr t c fun y => { y with d := y.d.set dc (y.d[dc] + inc) }
    let done := fun (t : State) => modCmd t c e fun y => { y with st := .done, started := false, buf := [] }
    (cmdCode x.w ≠ cReduce → execCommandRetire c e s = .next (done (raise s))) ∧
    (∀ lo hi, cmdCode x.w = cReduce → x.range = some (lo, hi) →
      execCommandRetire c e s = .next (done (raise (writeBlock s c lo (hi - lo) x.buf)))) := by
  dsimp only
  refine ⟨fun hc => ?_, fun lo hi hc hr => ?_⟩
  · simp only [execCommandRetire, h, hf, beq_eq_false_iff_ne.mpr hc, Bool.false_eq_true, if_false, if_true]
  · simp only [execCommandRetire, h, hf, hc, beq_self_eq_true, hr, if_true]

/-- A command whose element met a fault stops, once nothing of it is in flight. -/
theorem execCommandStop_faulted {m g3 : Nat} {er : Err} (h : nget (getCore s c).fifo e = some x)
    (hf : x.fault = some (m, er, g3)) (hr : x.st = .running) (hl : x.flight = []) (hw : entryWalks s c e = false) :
    let y : Cmd := { x with
      st := .stopped, started := false, fcode := codeNum er.1, prog := if collReads x then 0 else x.prog,
      performed := if collReads x then [] else x.performed }
    execCommandStop c e s = .next (reportStop (modCmd s c e fun _ => y) c e y er g3) := by
  intro y
  have hg : (x.st == .running && x.flight.isEmpty && !entryWalks s c e) = true := by
    rw [hr, hl, hw]
    rfl
  unfold execCommandStop
  rw [h]
  dsimp only
  rw [hf]
  dsimp only
  rw [if_pos hg]
  simp only [y, hf]

end Commands

/-- Settles O45: each command's work, and its start, stop and end, are the branches that the guards choose. -/
theorem engineCommands : Obligations.EngineCommands := by
  unfold Obligations.EngineCommands
  intro s c e elem x
  dsimp only
  simp only [Arm.dedup, Arm.reduce, Arm.coll, Arm.res, Arm.abt, Arm.commandStart, Arm.commandRetire, Arm.commandStop,
    Arm.collOutcome]
  refine ⟨fun h => ?_, fun h hb => ?_, fun i h hb => ?_, fun h hd => ⟨fun hb => ?_, fun hb => ?_⟩,
    fun h hc hn hr hs hf hb hz hp hw => ?_, fun h hr => ?_, fun h hr => ?_,
    fun h hl hm hp => execCommandStart_next h hl hm hp, fun h hf => execCommandRetire_cases h hf,
    fun m er g3 h hf hr hl hw => execCommandStop_faulted h hf hr hl hw,
    fun others when_ hf h hs hb hr => execCollOutcome_cases hf h hs hb hr⟩
  · simp only [execDedup, h]
  · simp only [execReduce, h, hb]
  · simp only [execReduce, h, hb]
  · rw [execColl_elem h hd]
    simp only [collElem, hb, if_true]
  · rw [execColl_elem h hd]
    simp only [collElem, hb, Bool.false_eq_true, if_false]
  · simp only [execColl, collDue_ready h hc hn hr hs hf hb hz hp hw]
  · simp only [execRes, h, hr, if_true]
  · simp only [execAbt, h, hr, beq_self_eq_true, if_true]

end Sys2Proof.Machine
end

section
/-! PROOFS. Answers, acknowledgements and translations (02 R22, R23; 08 R199-R209; 11 R275, R283; 13 R326, R327;
16 R412: O47). -/

namespace Sys2Proof.Machine

section Replies
variable {s : State} {id : Nat} {r : Req}

/-! ## Answers that reach their core -/

/-- An answer that no earlier one of its port holds back is delivered. -/
theorem execAccessReply_answered {a : Answer} (hr : getReq s id = some r) (hs : ∀ c e, r.origin ≠ .store c e)
    (hi : ∀ c sl va, r.origin ≠ .icache c sl va) (ha : (getReq (performPlain s id) id).bind (·.answer) = some a)
    (hb : replyBehind (performPlain s id) id r = false) :
    execAccessReply id s = .next (deliver (performPlain s id) id r a) := by
  cases ho : r.origin with
  | store c e => exact absurd ho (hs c e)
  | icache c sl va => exact absurd ho (hi c sl va)
  | txn _ _ | pool _ _ | engine _ _ _ _ | prefetch _ _ =>
    simp only [execAccessReply, hr, ho, ha, hb, Bool.false_eq_true, if_false]

/-- A reply of a task that is being ended is discarded. -/
theorem deliver_dropped {t : State} (a : Answer) (hd : replyDropped t r = true) :
    deliver t id r a = dropReply t id r := by
  unfold deliver
  rw [if_pos hd]

theorem deliver_txn {t : State} {n off : Nat} (a : Answer) (hd : replyDropped t r = false)
    (ho : r.origin = .txn n off) :
    deliver t id r a = txnReply (takeReq (readReturns t id r) id) r n off a := by
  unfold deliver
  rw [if_neg (ne_true_of_eq_false hd), ho]

/-- A transaction as its last answer leaves it. -/
def lastAnswered (x : Txn) (r : Req) (off : Nat) (v : W512) (done : Bool) : Txn :=
  { x with
    left := 0, full := x.full && done,
    got := Mem.wrN x.got off v.toNat (if readsBytes r.acc.op then r.acc.size else 0) }

/-- The last answer of a transaction ends it; an acquire waits for the snoops that stand in the queue. -/
theorem txnReply_last {u : State} {n off at_ : Nat} {x : Txn} {v : W512} {done : Bool}
    (hx : getTxn u n = some x) (hl : x.left = 1) (he : x.err = none) (hc : r.who.core ≠ nodeAgent) :
    txnReply u r n off (.ok v at_ done) =
      let y := lastAnswered x r off v done
      let t := modTxns u fun m => nput m n y
      if x.acq && !u.host.snoops.isEmpty then modTxns t fun m => nput m n { y with snoops := u.host.snoops.length }
      else finishTxn t n y := by
  cases x
  cases hl
  cases he
  unfold txnReply
  rw [hx]
  dsimp only
  rw [if_neg hc]
  rfl

/-- The end of a transaction of a fibre: what it writes. -/
theorem finishTxn_cases (t : State) (n : Nat) (y : Txn) :
    let gives := fun (g : Fibre → Fibre) => finishTxn t n y = doneTxn t n y g
    (∀ d z sx, y.dst = .reg d z sx → gives fun f => putReg f d (extend sx z (Mem.rdN y.got 0 y.size))) ∧
    (∀ d, y.dst = .pair d → gives fun f => putPair f d (Mem.rdN y.got 0 y.size)) ∧
    (∀ w, y.dst = .vec w → gives fun f => { f with v := f.v.set w (BitVec.ofNat 512 (Mem.rdN y.got 0 y.size)) }) ∧
    (∀ d tag ctx lo hi, y.dst = .gk d tag ctx lo hi → let im := BitVec.ofNat 4096 (Mem.rdN y.got 0 y.size)
      finishTxn t n y = doneTxn (gkBind t tag ctx lo hi im) n y
        fun f => putReg f d (BitVec.ofNat 64 (gkValidate im))) := by
  dsimp only
  refine ⟨fun d z sx h => ?_, fun d h => ?_, fun w h => ?_, fun d tag ctx lo hi h => ?_⟩ <;> simp only [finishTxn, h]

/-- The last answer of a transaction without an error. -/
theorem execAccessReply_lastOfTxn {t off at_ : Nat} {x : Txn} {v : W512} {done : Bool} (hr : getReq s id = some r)
    (ho : r.origin = .txn t off) (ha : (getReq (performPlain s id) id).bind (·.answer) = some (.ok v at_ done))
    (hc : r.who.core ≠ nodeAgent) (hb : replyBehind (performPlain s id) id r = false)
    (hd : replyDropped (performPlain s id) r = false) :
    let u := takeReq (readReturns (performPlain s id) id r) id
    let y := lastAnswered x r off v done
    getTxn u t = some x → x.left = 1 → x.err = none →
      (x.acq = true → u.host.snoops ≠ [] → execAccessReply id s = .next (modTxns (modTxns u fun m => nput m t y)
        fun m => nput m t { y with snoops := u.host.snoops.length })) ∧
      ((x.acq = false ∨ u.host.snoops = []) →
        execAccessReply id s = .next (finishTxn (modTxns u fun m => nput m t y) t y)) := by
  intro u y hx hl he
  have hrun := execAccessReply_answered hr (by rw [ho]; exact nofun) (by rw [ho]; exact nofun) ha hb
  rw [deliver_txn _ hd ho, txnReply_last hx hl he hc] at hrun
  rw [hrun]
  refine ⟨fun hq hs => ?_, fun h => ?_⟩
  · have hg : (x.acq && !u.host.snoops.isEmpty) = true := by simp [hq, hs]
    exact congrArg _ (if_pos hg)
  · have hg : (x.acq && !u.host.snoops.isEmpty) = false := by
      rcases h with h | h <;> simp [h]
    exact congrArg _ (if_neg (ne_true_of_eq_false hg))

/-! ## Forwarded replies, fills and the store buffer -/

theorem execReplyForward_access {c e d n : Nat} (hr : getReq s id = some r) (ho : r.origin = .pool c e)
    (hf : forwardTo s c e = some (d, n)) (ha : ((getReq (performPlain s id) id).bind (·.answer)).isSome = true)
    (hb : replyBehind (performPlain s id) id r = false) :
    let t := readReturns (performPlain s id) id r
    execReplyForward id s = .next (freeForward (modReqs
      { t with net := { t.net with answered := t.net.answered.erase id } } fun m =>
        nmod m id fun q => { q with origin := .pool d n }) c e) := by
  simp only [execReplyForward, hr, ho, hf, ha, hb, Bool.not_false, Bool.and_self, if_true]

theorem execReplyForward_message {c e src d n : Nat} {v : Option W64} (hr : getReq s id = none)
    (hm : nget s.net.msgs id = some (.reply src c e v)) (ho : inOrder s id (.reply src c e v) = true)
    (hf : forwardTo s c e = some (d, n)) :
    execReplyForward id s = .next (freeForward
      { s with net := { s.net with msgs := nput s.net.msgs id (.reply c d n v) } } c e) := by
  simp only [execReplyForward, hr, hm, ho, hf, Bool.not_true, Bool.false_eq_true, if_false]

/-- A line that has come fills the cache, or, when its translation was discarded, serves its fibre once. -/
theorem execIcacheFill_cases {c slot va at_ : Nat} {v : W512} {b : Bool} (hr : getReq s id = some r)
    (ho : r.origin = .icache c slot va)
    (ha : (getReq (performPlain s id) id).bind (·.answer) = some (.ok v at_ b)) :
    let t := performPlain s id
    let fills := fun g => execIcacheFill id s =
      .next (fetchReady (modCore (forgetFill (takeReq t id) c id) c g) c slot)
    ((getCore t c).caches.missed.contains id = false → fills fun k => linePut k ⟨va / 64, v, r.bits⟩) ∧
    ((getCore t c).caches.missed.contains id = true → fills fun k =>
      { k with caches := { k.caches with once := k.caches.once ++ [(slot, ⟨va / 64, v, r.bits⟩)] } }) := by
  dsimp only
  refine ⟨fun hm => ?_, fun hm => ?_⟩
  · simp only [execIcacheFill, hr, ho, ha, hm, Bool.false_eq_true, if_false]
  · simp only [execIcacheFill, hr, ho, ha, hm, if_true]

/-- An entry that nothing older of its core meets, of an instruction whose places are all known, is sent. -/
theorem execStoreBufferSend_free {c e : Nat} {x : SbEntry} {p : Place} {rb : Bool} {st : Nat}
    (hx : nget (getCore s c).q.sb e = some x) (hp : x.place = some (p, rb, st)) (hs : x.sent = false)
    (hz : (getCore s c).frozen = none)
    (hold : (getCore s c).q.sb.any (fun y => y.1 < e && !y.2.sent &&
      (y.2.loc.meets y.2.acc.size x.loc x.acc.size || match y.2.place with
        | some (q, _) => q.meets y.2.acc.size p x.acc.size
        | none => false)) = false)
    (hg : (sbGroup (getCore s c) x.grp).any (·.2.place.isNone) = false) :
    execStoreBufferSend c e s = .next (addReq (modSb s c fun m => nput m e { x with sent := true })
      { who := x.who, origin := .store c e, place := p, acc := x.acc, va := x.loc.va?.1, tag := x.loc.va?.2,
        rbit := rb, stale := st, deferred := false, answer := none }) := by
  have hstop (b : Bool) (h : b = false) :
      (x.sent || (getCore s c).frozen.isSome || b || (sbGroup (getCore s c) x.grp).any (·.2.place.isNone)) = false := by
    rw [hs, hz, h, hg]
    rfl
  unfold execStoreBufferSend
  dsimp only
  rw [hx]
  dsimp only
  rw [hp]
  exact if_neg (ne_true_of_eq_false (hstop _ hold))

/-- The acknowledgement of a core's store frees its entry; a failure is left to its fibre. -/
theorem execStoreAck_core {c e : Nat} (hr : getReq s id = some r) (ho : r.origin = .store c e) (hc : c < 4120) :
    let t := performPlain s id
    let u := fun t => addUnack (modSb (takeReq t id) c fun m => ndel m e) c (whoNow t r).slot (· - sbUnits r.acc)
    (∀ v st b, (getReq t id).bind (·.answer) = some (.ok v st b) → execStoreAck id s = .next (u t)) ∧
    (∀ code, (getReq t id).bind (·.answer) = some (.err code) → execStoreAck id s = .next
      (if replyDropped (u t) r then u t else storeFailed (u t) r (whoNow t r) code)) := by
  dsimp only
  refine ⟨fun v st b ha => ?_, fun code ha => ?_⟩ <;>
    simp only [execStoreAck, hr, ho, ha, if_neg (Nat.not_le.mpr hc)]

/-- That of a store of an agent beyond the cores: the dispatcher notes its record. -/
theorem execStoreAck_agent {c e : Nat} (hr : getReq s id = some r) (ho : r.origin = .store c e) (hc : 4120 ≤ c)
    (ha : ((getReq (performPlain s id) id).bind (·.answer)).isSome = true) :
    let t := takeReq (performPlain s id) id
    execStoreAck id s = .next (if c = taskAgent then recordDone t r.who.tid else t) := by
  obtain ⟨a, ha⟩ := Option.isSome_iff_exists.mp ha
  simp only [execStoreAck, hr, ho, ha, if_pos hc]

theorem execFeWithdrawal_waiting {c q off : Nat} (hm : nget s.net.msgs id = some (.withdraw q))
    (hr : getReq s q = some r) (ha : r.answer = none) (hd : r.deferred = true) (hp : r.place = .tile c off) :
    execFeWithdrawal id s = .next (serveWord (answerReq
      (modTile { s with net := { s.net with msgs := ndel s.net.msgs id } } c fun t =>
        { t with waiters := t.waiters.erase (off / 8, .remote q) }) q (.ok 0 0 false)) c (off / 8)) := by
  simp only [execFeWithdrawal, hm, hr, ha, hd, hp, Option.isSome_none, Bool.not_true, Bool.false_eq_true, if_false]

/-! ## Translations -/

/-- A lookup that misses takes a walker when one is free; one that hits a leaf that serves goes on. -/
theorem execTlbLookup_cases {w : WalkReq} (h : nget s.net.walks id = some w) (hw : w.walking = false)
    (hm : w.missed = false) (hb : behindLookup s id w = false) :
    let u := unitOf w.who.core
    let on := fun (t : State) => takeWalkers t (dieOf w.who.core) t.net.walks
    (xfind (getUnit s u).tlb w.asid w.va = none → execTlbLookup id s = .next (on
      (modWalk (modUnit s u fun t => { t with misses := t.misses + 1 }) id fun w => { w with missed := true }))) ∧
    (∀ x, xfind (getUnit s u).tlb w.asid w.va = some x →
      let t := tcPut (modUnit s u fun t =>
        { t with hits := t.hits + 1, tlb := (t.tlb.filter fun y => !y.same x) ++ [x] }) w.who.core x
      walkCheck t w x = none → (speculative w || usable x w.write) = true →
      execTlbLookup id s = .next (walkDone (takeWalk t id) w x)) := by
  dsimp only
  refine ⟨fun hx => ?_, fun x hx hc hu => ?_⟩
  · simp only [execTlbLookup, h, hw, hm, hb, hx, Bool.or_self, Bool.false_eq_true, if_false]
  · simp only [execTlbLookup, h, hw, hm, hb, hx, hc, hu, Bool.or_self, Bool.false_eq_true, if_false, if_true]

theorem execWalkEnd_walked {w : WalkReq} (h : nget s.net.walks id = some w) (hw : w.walking = true)
    (hh : w.hit = none) :
    let on := fun (t : State) => takeWalkers t (dieOf w.who.core) t.net.walks
    (∀ v x, walkTables s w.asid w.va = (v, .ok x) → execWalkEnd id s =
      .next (on (walkLeaf (shareLeaf (takeWalk v id) (unitOf w.who.core) x) w x))) ∧
    (∀ v err, walkTables s w.asid w.va = (v, .error err) →
      execWalkEnd id s = .next (on (walkFails v id w err))) := by
  dsimp only
  refine ⟨fun v x ht => ?_, fun v err ht => ?_⟩ <;>
    simp only [execWalkEnd, h, hw, hh, ht, Bool.not_true, Bool.false_eq_true, if_false]

theorem execWalkEnd_hit {w : WalkReq} {x : Xlate} (h : nget s.net.walks id = some w) (hw : w.walking = true)
    (hh : w.hit = some x) :
    let v := walkLeaf (takeWalk s id) w x
    execWalkEnd id s = .next (takeWalkers v (dieOf w.who.core) v.net.walks) := by
  simp only [execWalkEnd, h, hw, hh, Bool.not_true, Bool.false_eq_true, if_false]

/-- A leaf that passes its checks serves at once, or once memory holds its A and D bits. -/
theorem walkLeaf_cases (t : State) (w : WalkReq) (x : Xlate) (hc : walkCheck t w x = none) :
    ((speculative w || usable x w.write) = true → walkLeaf t w x = walkDone (installLeaf t w x) w x) ∧
    (∀ v y, (speculative w || usable x w.write) = false → orLeaf t x w.write w.va = (v, .ok y) →
      walkLeaf t w x = walkDone (installLeaf v w y) w y) ∧
    (∀ v err, (speculative w || usable x w.write) = false → orLeaf t x w.write w.va = (v, .error err) →
      walkLeaf t w x = leafFails v w x err) := by
  refine ⟨fun h => ?_, fun v y h ho => ?_, fun v err h ho => ?_⟩
  · simp only [walkLeaf, hc, h, if_true]
  · simp only [walkLeaf, hc, h, ho, Bool.false_eq_true, if_false]
  · simp only [walkLeaf, hc, h, ho, Bool.false_eq_true, if_false]

end Replies

/-- Settles O47: an answer reaches what it serves, or is discarded; stores leave and are acknowledged; translations hit
or walk. -/
theorem replyEvents : Obligations.ReplyEvents := by
  unfold Obligations.ReplyEvents
  intro s c e id r a
  dsimp only
  simp only [Arm.accessReply, Arm.replyForward, Arm.icacheFill, Arm.storeBufferSend, Arm.storeAck, Arm.remoteTileAccess,
    Arm.feWithdrawal, Arm.tlbLookup, Arm.walkEnd]
  refine ⟨fun hr hs hi ha hb => execAccessReply_answered hr hs hi ha hb,
    fun t off x v st done hr ho ha hc hb hd hx hl he => ?_, fun hr hs hi ha hb hd => ?_,
    fun d n hr ho hf ha hb => execReplyForward_access hr ho hf ha hb,
    fun src d n v hr hm ho hf => execReplyForward_message hr hm ho hf,
    fun slot va v st b hr ho ha => execIcacheFill_cases hr ho ha,
    fun x p rb st hx hp hs hz hold hg => execStoreBufferSend_free hx hp hs hz hold hg,
    fun hr ho hc => execStoreAck_core hr ho hc, fun off hr hp => ?_,
    fun q off hm hr ha hd hp => execFeWithdrawal_waiting hm hr ha hd hp,
    fun hr ho hc ha => execStoreAck_agent hr ho hc ha,
    fun w hw => ⟨fun h1 h2 h3 => execTlbLookup_cases hw h1 h2 h3, fun h1 h2 => execWalkEnd_walked hw h1 h2,
      fun x h1 h2 => execWalkEnd_hit hw h1 h2, fun t x hc => walkLeaf_cases t w x hc⟩⟩
  · obtain ⟨hacq, hend⟩ := execAccessReply_lastOfTxn hr ho ha hc hb hd hx hl he
    refine ⟨hacq, fun h => ?_⟩
    rw [hend h]
    obtain ⟨hreg, hpair, hvec, hgk⟩ := finishTxn_cases
      (modTxns (takeReq (readReturns (performPlain s id) id r) id) fun m => nput m t (lastAnswered x r off v done)) t
      (lastAnswered x r off v done)
    exact ⟨fun d n sx h => congrArg _ (hreg d n sx h), fun d h => congrArg _ (hpair d h),
      fun w h => congrArg _ (hvec w h), fun d tag ctx lo hi h => congrArg _ (hgk d tag ctx lo hi h)⟩
  · obtain ⟨a, ha⟩ := Option.isSome_iff_exists.mp ha
    rw [execAccessReply_answered hr hs hi ha hb, deliver_dropped a hd]
  · simp only [execRemoteTileAccess, hr, hp]

end Sys2Proof.Machine
end
